-- ==== Sys2Proof/Word.lean ====
section
/-! DEFINITION. The word types of the block: bytes, 32-bit and 64-bit words (R4: little-endian, sizes of the register map R418). -/

namespace Sys2Proof

/-- One byte of memory, of a ring entry or of a frame. -/
abbrev Byte := BitVec 8

/-- A 32-bit quantity: a counter, a doorbell count, a sequence number. -/
abbrev W32 := BitVec 32

/-- A 64-bit register (R418). -/
abbrev W64 := BitVec 64

end Sys2Proof
end

