-- ==== Sys2Proof/Syntax.lean ====
section
/-! DEFINITION. The commands of the block: one constructor of `Instr` for each row of spec/opcode_table.json, with the
operands that the outside world gives. The table gives its rows no operands: which operands a row carries is the model's
choice (log entry 3). -/

namespace Sys2Proof

/-- Bytes that the host stored and made visible before the command that carries them (R52). `cached`: they stand in a CPU cache, where
coherent accesses find them and accesses without snooping do not (R14, R299). -/
structure HostStore where
  pa     : Nat
  bytes  : List Byte
  cached : Bool := false
deriving DecidableEq, Repr

/-- A frame as a receiving port sees it (R310), every header field on its own. `ok` says that the trailer verifies
(CRC-32C or GCM tag, R310 and R334). -/
structure Frame where
  typ : Nat
  vl : Nat
  dl : Nat
  enc : Bool
  alive : Nat
  dstChip : Nat
  dstTenant : Nat
  srcChip : Nat
  srcTenant : Nat
  mailbox : Nat
  offset : Nat
  lenM1 : Nat
  keySel : Nat
  pairSeq : Nat
  hops : Nat
  detour : Nat
  word : Nat
  payload : List Byte
  ok : Bool
deriving DecidableEq, Repr

/-- How the reads of a page-table walk came back (R268). -/
inductive WalkResp where
  | data
  | busError
  | uncorrectable
deriving DecidableEq, Repr

/-- What the interconnect answers (R12, R15): the response to the `i`th outstanding write, or how it answers reads of the
64-byte block at `pa` from now on: with an error response, or with data marked uncorrectable (R146, R174). -/
inductive PortAnswer where
  | write (i : Nat) (err : Bool)
  | reads (pa : Nat) (err : Bool)
  | poison (pa : Nat) (on : Bool)
deriving DecidableEq, Repr

/-- The commands: what the SoC, the host, the fabric, the clocks and the block's own engines make happen, one constructor for
each row of the table, in the table's order. -/
inductive Instr where
  -- the boundary: resets, power, clocks
  | coreResetAssert
  | coreResetRelease (failed : List Nat)
  | bringupReady
  | aonResetRelease
  | modidReadDone (rec : List Byte)
  | modidReadTimeout
  | powerInputChange (coreReq tmReq tmRet isoN rstN : Bool)
  | thermTrip
  | xhClkStop
  | xhClkRestart (ns : Nat)
  | timeCounterDecrease (tc : W64)
  | portResponse (a : PortAnswer)
  | messageAccept (v : Nat)
  -- the register window and the doorbell window
  | registerWrite (off width : Nat) (v : W64) (stores : List HostStore)
  | tailDoorbell (page : Fin 9) (off width : Nat) (v : W64) (stores : List HostStore)
  | headDoorbell (page : Fin 9) (off width : Nat) (v : W64)
  | enable (t : Fin 8)
  | enableCheckComplete (c : Fin 9)
  | disable (t : Fin 8)
  | drainEnd (c : Fin 9)
  | mcEnable
  | ownerWrite (ch : Fin 64) (owner : BitVec 4)
  | vsOwnerWrite (i : Fin 16) (owner : BitVec 4)
  | fqBaseWrite (v : W64)
  | fqHeadWrite (v : W32)
  | fqStickyRead (off : Nat := 0x70040) (width : Nat := 8)
  | faultAck (id : W32)
  | vesperPendClear (u : Fin 0x308)
  | restart
  | retrain (p : Fin 6)
  | keyLoad (p : Fin 6) (slot : Fin 4)
  | keyClear (p : Fin 6) (slot : Fin 4)
  | ephInsert
  | ephRemove (idx : BitVec 10)
  | wake
  | peek (word : BitVec 20)
  | sharedDisable
  | sharedClearDone
  | mbEnable (b : Fin 4)
  | mbDisable (b : Fin 4)
  -- rings and ring entries
  | fetchTurn
  | entryAdmit (c : Fin 9) (k : Fin 16)
  | submitGraph (t : Fin 8)
  | runProgram (t : Fin 8)
  | createTensor (t : Fin 8)
  | destroyTensor (t : Fin 8)
  | handleFree (t : Fin 8) (h : Nat)
  | signal (t : Fin 8)
  | wait (t : Fin 8)
  | waitSatisfied (i : Nat)
  | waitTimeout (i : Nat)
  | scanCheck (t : Fin 8)
  | resumeFault (t : Fin 8)
  | invalidateXlat (t : Fin 8)
  | invalidateXlatDone (t : Fin 8)
  | setEpoch (t : Fin 8)
  | setEpochDone (t : Fin 8)
  | registerMailbox (t : Fin 8)
  | nop (t : Fin 9)
  | eclipseUnit
  | eclipseDone (u : Nat)
  | reenterUnit
  | reenterTestDone (u : Nat) (pass : Bool)
  | clearTenant
  | clearTenantDone (t : Fin 8)
  | setPower
  | setPowerQuiesced
  | replicaConfig
  | setSplit
  | lockConfig
  | cqStallLimit (c : Fin 9)
  -- graphs and their nodes; `g` is a graph's identifier, `n` a node's index in it
  | nodeFetch (g : Nat)
  | nodeRegister (g : Nat)
  | nodeGrant (u : Nat)
  | transit (ch : Fin 64)
  | descriptorCopy (ch : Fin 64)
  | contract (e : Fin 2)
  | vector (i : Fin 16)
  | signalNode (g n : Nat)
  | waitNode (g n : Nat)
  | timedNode (g n : Nat)
  | check (u : Fin 4)
  | chain (g n : Nat)
  | sliceEnd (g n : Nat)
  | sliceTimeLimit (g n : Nat)
  | nodeComplete (g n : Nat)
  | graphAbandon (g : Nat)
  -- the slots of a move program, on channel `ch`
  | move (ch : Fin 64) (lines : Nat)
  | movet (ch : Fin 64)
  | loop (ch : Fin 64)
  | waitSlot (ch : Fin 64)
  | signalSlot (ch : Fin 64)
  | releasePerform (ch : Fin 64)
  | fence (ch : Fin 64)
  | stamp (ch : Fin 64)
  | nopSlot (ch : Fin 64)
  | halt (ch : Fin 64)
  | programComplete (ch : Fin 64)
  | runaheadPrefetch (ch : Fin 64)
  -- translation, bandwidth, memories
  | walkComplete (i : Nat) (resp : WalkResp)
  | pfTimeout (t : Fin 8) (id : W32)
  | bpTimeout (ch : Fin 64)
  | creditPeriod
  | wcFillReturn (i way : Nat)
  | scrubStep (upsets : List (Nat × Bool))
  | partitionClearDone
  | spareCopyDone (bank : Nat)
  -- the operations of the vector stages, on the node that holds stage `i`
  | add (i : Fin 16)
  | sub (i : Fin 16)
  | mul (i : Fin 16)
  | fma (i : Fin 16)
  | min (i : Fin 16)
  | max (i : Fin 16)
  | abs (i : Fin 16)
  | rshift (i : Fin 16)
  | cvt (i : Fin 16)
  | cmplt (i : Fin 16)
  | cmpeq (i : Fin 16)
  | select (i : Fin 16)
  | exp (i : Fin 16)
  | log (i : Fin 16)
  | rsqrt (i : Fin 16)
  | recip (i : Fin 16)
  | rsum (i : Fin 16)
  | rmax (i : Fin 16)
  | rmin (i : Fin 16)
  | softmax (i : Fin 16)
  | layernorm (i : Fin 16)
  | groupnorm (i : Fin 16)
  | argmax (i : Fin 16)
  | topk (i : Fin 16)
  | scan (i : Fin 16)
  | scanmax (i : Fin 16)
  | atomadd (i : Fin 16)
  | xchg (i : Fin 16)
  -- the Ranen fabric
  | frameSlotSend (p : Fin 6)
  | frameForward (p : Fin 6) (f : Frame)
  | data
  | batch
  | ack
  | ackDelayTimeout (i : Nat)
  | ackTimeout (i : Nat)
  | nack
  | nackRetryTimeout (i : Nat)
  | notReady
  | retryAfterExpiry (i : Nat)
  | nrLimitTimeout (i : Nat)
  | ready
  | maintenanceFrame (p : Fin 6) (credits alive : List Nat) (slotCtr keySel : Nat) (coreReady : Bool)
  | maintenanceTimeout (p : Fin 6)
  | laneLockLoss (p : Fin 6)
  | uncCodewordLimit (p : Fin 6) (n : Nat)
  | authFailLimit (p : Fin 6) (n : Nat)
  | trainAligned (p : Fin 6)
  | trainTimeout (p : Fin 6)
  | failedRetry (p : Fin 6)
  | linkIdentity (p : Fin 6) (rec : List Byte)
  | linkAuth (p : Fin 6) (partnerKeyId partnerCtr : Nat) (tagsOk : Bool)
  | keyCounterLimit (p : Fin 6)
  | digest
  | auditComplete (ours : List Byte) (evidence : Bool) (others : List (Nat × List Byte × Bool))
  | heartbeat
  | heartbeatPeriod
  | memberLostTimeout (m : Fin 3)
  | verdict
  | memberOut
  | ackReport
  -- Meridian
  | meridianEdge (b : Fin 4) (dt : Nat) (a bLine : Bool)
  | zIndexEdge (b : Fin 4) (dt : Nat)
  | stuckTimeout (b : Fin 4)
  | holdoverEnter (b : Fin 4)
  | holdLimit (b : Fin 4)
  | ephRelease (idx : Nat)
  | ephAdd (idx : Nat)
  | ephStamp (idx : Nat)
  | ephDeadline (idx : Nat)
  -- the fault collector and the rest
  | faultRaise (u cause ctx : Nat) (hold : Bool) (merged : Nat)
  | faultLineTest (broken : List Nat)
  | reactionTimeout (id : W32)
  | faultSpill
  | twilightEnd
  | pwrEstUpdate
  | aonResetAssert
  | faultLineClear (u cause : Nat)
  | ephCmdDone
  | meridianGlitch (b : Fin 4)
deriving DecidableEq, Repr

end Sys2Proof
end

