-- ==== Sys2Proof/Decode.lean ====
section
/-! DEFINITION. Words that spell commands. spec/opcode_table.json gives none of its rows bits, so no word spells a command. -/

namespace Sys2Proof

/-- The command that a word spells by the table's bits: none, as the table gives no row bits. -/
def decodeTableWord (_nbits _w : Nat) : Option Instr := none

end Sys2Proof
end

