-- ==== Sys2Proof/Config.lean ====
section
/-! DEFINITION. What the specification leaves open: free values, opaque constants without a body that nothing can evaluate.
The model applies them to the counter `State.free`, which every use advances, so that each use is a fresh value. -/

namespace Sys2Proof.Config

/-- A free natural number: a choice the specification leaves to the block (which spare serves a bank, R203 and R207; the
order in which swaps of different rows land, R234; a delay drawn at random, R338; the estimate of R410). Log entry 2. -/
opaque freeNat : Nat → Nat

/-- A free byte: a byte of an overlap whose content R130 and R168 leave unspecified. Log entry 2. -/
opaque freeByte : Nat → Byte

/-- A free yes or no: which of two colliding scatter entries remains (R116), whether an access held for more than 1 ms
takes effect (R408). Log entry 2. -/
opaque freeBool : Nat → Bool

/-- The text and the tag of AES-GCM (R334) for a key, a 96-bit IV, authenticated data and a text: the specification names the cipher and does not
define it (log entry 44). -/
opaque gcmText (key : List (BitVec 64)) (iv : Nat) (aad text : List (BitVec 8)) : List (BitVec 8)
opaque gcmTag (key : List (BitVec 64)) (iv : Nat) (aad text : List (BitVec 8)) : Nat

end Sys2Proof.Config
end

