-- ==== Sys2Proof/Machine/Bits.lean ====
section
/-! DEFINITION. Bit fields, little-endian bytes (R4), serial comparison (R282, R345), and the check functions of R365. -/

namespace Sys2Proof.Machine

/-- Bits [lo + w − 1 : lo] of a number. -/
def bits (v lo w : Nat) : Nat := (v >>> lo) % 2 ^ w

/-- One bit of a number. -/
def bit (v i : Nat) : Bool := (v >>> i) % 2 == 1

/-- The value of bytes in ascending address order, little-endian (R4). -/
def le : List Byte → Nat
  | [] => 0
  | b :: l => b.toNat + 256 * le l

/-- `n` bytes of a value, little-endian (R4). -/
def leBytes : Nat → Nat → List Byte
  | 0, _ => []
  | n + 1, v => BitVec.ofNat 8 v :: leBytes n (v / 256)

/-- `n` bytes at offset `off` of a structure; bytes past its end read as zero. -/
def slice (bs : List Byte) (off n : Nat) : List Byte :=
  let l := (bs.drop off).take n
  l ++ List.replicate (n - l.length) 0

/-- The field of `n` bytes at offset `off` (R4). -/
def fieldAt (bs : List Byte) (off n : Nat) : Nat := le (slice bs off n)

/-- All bytes of `off` to `off + n - 1` are zero. -/
def zeroAt (bs : List Byte) (off n : Nat) : Bool := (slice bs off n).all (· == 0)

/-- The lowest offset in `offs` whose byte, under its mask, is not zero: a reserved field that is not zero (R8). -/
def firstBad (bs : List Byte) : List (Nat × Nat) → Option Nat
  | [] => none
  | (o, m) :: l => if (fieldAt bs o 1) &&& m = 0 then firstBad bs l else some o

/-- The value of a `w`-bit two's-complement pattern. -/
def sext (w v : Nat) : Int :=
  let x := v % 2 ^ w
  if x < 2 ^ (w - 1) then (x : Int) else (x : Int) - (2 ^ w : Nat)

/-- The `w`-bit two's-complement pattern of an integer (its low bits). -/
def toPat (w : Nat) (i : Int) : Nat := (i % ((2 ^ w : Nat) : Int)).toNat

/-- Clamp an integer to `lo` … `hi`. -/
def clampInt (lo hi x : Int) : Int := if x < lo then lo else if hi < x then hi else x

/-- Serial order modulo 2^32: `a` has reached `v` (R282). -/
def reached (a v : W32) : Bool := (a - v).toNat < 2 ^ 31

/-- `a` is serially below `b` modulo 2^w. -/
def serialBelow (w a b : Nat) : Bool := a % 2 ^ w != b % 2 ^ w && (b + 2 ^ w - a % 2 ^ w) % 2 ^ w < 2 ^ (w - 1)

/-- Rounded-up division. -/
def cdiv (a b : Nat) : Nat := (a + b - 1) / b

/-- Add one, saturating at all ones of `w` bits. -/
def satInc (w v : Nat) (by_ : Nat := 1) : Nat := Nat.min (2 ^ w - 1) (v + by_)

/-- Reflected CRC, one bit. -/
def crcBit (poly c : Nat) : Nat := if c % 2 = 1 then (c / 2) ^^^ poly else c / 2

/-- Reflected CRC, one byte. -/
def crcByte (poly c : Nat) (b : Byte) : Nat :=
  let x := c ^^^ b.toNat
  crcBit poly (crcBit poly (crcBit poly (crcBit poly (crcBit poly (crcBit poly (crcBit poly (crcBit poly x)))))))

/-- The running value of a CRC after more bytes. -/
def crcRun (poly : Nat) : Nat → List Byte → Nat
  | c, [] => c
  | c, b :: l => crcRun poly (crcByte poly c b) l

/-- The reflected polynomials of R365: 0x1EDC_6F41 and 0x42F0_E1EB_A9EA_3693 with their bits reversed. -/
def crcPoly (poly : Nat) : Nat := if poly = 0 then 0x82F63B78 else 0xC96C5795D7870F42

/-- Initial value and final XOR of R365. -/
def crcOnes (poly : Nat) : Nat := if poly = 0 then 0xFFFFFFFF else 0xFFFFFFFFFFFFFFFF

/-- The check function `poly` of a message (R365). -/
def crc (poly : Nat) (msg : List Byte) : Nat := crcRun (crcPoly poly) (crcOnes poly) msg ^^^ crcOnes poly

/-- CRC-32C (R365). -/
def crc32c (msg : List Byte) : Nat := crc 0 msg

/-- Keep the first `n` members. -/
def firstN {α : Type} (n : Nat) (l : List α) : List α := l.take n

/-- Replace the first member that satisfies `p`. -/
def updFirst {α : Type} (p : α → Bool) (f : α → α) : List α → List α
  | [] => []
  | a :: l => if p a then f a :: l else a :: updFirst p f l

/-- Remove the first member that satisfies `p`. -/
def rmFirst {α : Type} (p : α → Bool) : List α → List α
  | [] => []
  | a :: l => if p a then l else a :: rmFirst p l

end Sys2Proof.Machine
end

