-- ==== Sys2Proof/Machine/Sparse.lean ====
section
/-! DEFINITION. Sparse stores: a list of (key, value) pairs in one canonical form, keys strictly rising and no entry equal to
what an unlisted key reads as. Tile memory, system memory, the register file, the counters and the numbered units of the
block are held this way. -/

namespace Sys2Proof.Machine.Sparse

variable {α : Type}

/-- What the store reads as at key `k`; an unlisted key reads as `d k`. -/
def get (d : Nat → α) : List (Nat × α) → Nat → α
  | [], k => d k
  | (a, v) :: l, k => if a = k then v else get d l k

/-- Place an entry before the first larger key. -/
def ins (k : Nat) (v : α) : List (Nat × α) → List (Nat × α)
  | [] => [(k, v)]
  | (a, w) :: l => if k < a then (k, v) :: (a, w) :: l else (a, w) :: ins k v l

/-- The store without key `k`. -/
def del (l : List (Nat × α)) (k : Nat) : List (Nat × α) := l.filter (fun e => e.1 != k)

/-- The store with `v` at key `k`, in canonical form again. -/
def set [DecidableEq α] (d : Nat → α) (l : List (Nat × α)) (k : Nat) (v : α) : List (Nat × α) :=
  if v = d k then del l k else ins k v (del l k)

/-- Keys strictly rise. -/
def rising : List (Nat × α) → Bool
  | [] => true
  | [_] => true
  | a :: b :: l => decide (a.1 < b.1) && rising (b :: l)

/-- The canonical form. -/
def wf [DecidableEq α] (d : Nat → α) (l : List (Nat × α)) : Bool :=
  rising l && l.all (fun e => decide (e.2 ≠ d e.1))

end Sys2Proof.Machine.Sparse
end

