-- ==== Sys2Proof/Machine/State.lean ====
section
/-! DEFINITION. The state of the block: every register, ring, queue, window, table, counter, memory and pin that the
specification gives Xahorn, as plain data, with the queue of waiting commands and the machine right after reset. -/

namespace Sys2Proof.Machine

/-- Why a run stops although the table's row has a meaning. -/
inductive Fault where
  /-- The SoC or the host broke a duty ("must") of the rule with this number, and no rule says what the block then does.
  Raised by XH_CLK_STOP outside X1 (R23, R408). Safe: the machine stops where hardware may go on. -/
  | hostRuleBroken (rule : Nat)
deriving DecidableEq, Repr

/-- Commands without a meaning. -/
inductive Refusal where
  /-- The row of the table with this mnemonic has no meaning yet. Raised by `exec` only. Safe: nothing is claimed. -/
  | notModelled (mnemonic : String)
deriving DecidableEq, Repr

/-- What the core is doing (R19, R27, R404, R411). -/
inductive Phase where
  | absent | inReset | bringup | x0 | x1 | quietX2 | quietX3 | x2 | x3
deriving DecidableEq, Repr

/-- Boundary signals (R10) that are levels: inputs as last driven, outputs as driven by the block. The dual-rail pairs are
held as "shows 10" (R29). -/
structure Pins where
  aonRstN : Bool := false
  rstN : Bool := false
  coreReq : Bool := false
  coreAck : Bool := false
  tmReq : Bool := false
  tmRet : Bool := false
  tmAck : Bool := false
  isoN : Bool := false
  therm : Bool := false
  clkRun : Bool := true
  quiet : Bool := true
  fltCor : Bool := false
  fltCon : Bool := false
  fltFat : Bool := false
  errN : Bool := true
deriving DecidableEq, Repr

/-- What an access, a wait or a fault belongs to: a channel, a node of a graph, a ring entry. -/
inductive Who where
  | chan (n : Nat)
  | node (g n : Nat)
  | entry (id : Nat)
deriving DecidableEq, Repr

/-- A translation held by the block: tenant, first XVA, length in bytes, frame, rights and attributes (R262). -/
structure Xl where
  t : Nat
  xva : Nat
  len : Nat
  pa : Nat
  r : Bool
  w : Bool
  nc : Bool
  wc : Bool
deriving DecidableEq, Repr

/-- A table pointer in the walk cache: tenant, level (3 to 1), first XVA of the range that it covers, the table that it names, `g64`
(R262, R264). -/
structure Ptr where
  t : Nat
  level : Nat
  xva : Nat
  table : Nat
  g64 : Bool
deriving DecidableEq, Repr

/-- A dimension record of a descriptor (R100). -/
structure Dim where
  size : Nat
  stride : Nat
  mode : Nat
  bcyc : Nat
  cnt : Nat
deriving DecidableEq, Repr

/-- A descriptor (R98). -/
structure Desc where
  dtype : Nat
  layout : Nat
  rank : Nat
  space : Nat
  vol : Bool
  rep : Nat
  shardIndex : Nat
  group : Nat
  fill : Nat
  allocBase : Nat
  allocLen : Nat
  groupDim : Nat
  slotSize : Nat
  origin : Nat
  scale : Nat
  scale2 : Nat
  base : Nat
  spillOff : Nat
  spillBlocks : Nat
  dims : List Dim
deriving DecidableEq, Repr

/-- A handle in use (R96) or retiring (R110), with the entry of the DESTROY_TENSOR that marked it. -/
structure Handle where
  h : Nat
  d : Desc
  retiring : Option Nat := none
deriving DecidableEq, Repr

/-- What takes effect in the XCLK in which a record is written: nothing more, a handle in use (R96), the locks (R413), with byte 8 of
LOCK_CONFIG (R412). -/
inductive After where
  | none
  | handle (x : Handle)
  | lock (flags : Nat)
deriving DecidableEq, Repr

/-- A ring entry that was fetched and has no record yet (R51, R56). `started` says that its opcode's own step has run, `age` when it was
admitted (R83); `due` that it completes when its writes have returned, with this `result` and effect (R62), or with the status and `detail` of
`bad`, the first of them that failed. -/
structure Entry where
  id : Nat
  sq : Nat
  bytes : List Byte
  started : Bool := false
  age : Nat := 0
  corr : Nat := 0
  due : Option (Nat × After) := none
  bad : Option (Nat × Nat) := none
deriving DecidableEq, Repr

/-- A completion or node record before its bytes are written (R60); `chan` is the channel whose program it ends (R142),
`after` what takes effect with it. -/
structure Rec where
  ctx : Nat
  cq : Nat
  sq : Nat
  status : Nat
  tag : Nat
  opcode : Nat
  detail : Nat
  result : Nat
  irq : Bool
  chan : Option Nat := none
  after : After := .none
deriving DecidableEq, Repr

/-- A registered mailbox (R325). -/
structure Mailbox where
  idx : Nat
  srcAny : Bool
  slogEn : Bool
  winBase : Nat
  winLen : Nat
  counter : Nat
  srcGroup : Nat
  srcTenant : Nat
  slogBase : Nat
  slogLog2 : Nat
deriving DecidableEq, Repr

/-- What has reached one counter in the present XCLK (R283): the value that it had before, the sets in rank order with their rank keys, the sum of
the adds. -/
structure CtrNow where
  counter : Nat
  base : W32
  sets : List (List Nat × W32) := []
  adds : W32 := 0
deriving DecidableEq, Repr

/-- Where a context stands between `enable` 0 and 1 (R439, R44). -/
inductive CtxPhase where
  | disabled | checking | enabled | draining
deriving DecidableEq, Repr

/-- A context: its rings' contents inside the block, its sequences, its tables (R40). `waitAt` is when records began to wait for a slot
of their ring, `stallTold` that this wait has been reported (R65); `clearing` is the entry of a CLEAR_TENANT under way, `cancelled` the
entries that it has cancelled (R393), `owed` that none has completed since `enable` was last 1 (R193). -/
structure Ctx where
  phase : CtxPhase := .disabled
  reEnable : Bool := false
  owed : Bool := false
  clearing : Option Nat := none
  cancelled : Nat := 0
  ringXl : List Xl := []
  fetched : List Entry := []
  entries : List Entry := []
  holdQ : List Rec := []
  held : List Rec := []
  waitAt : Option Nat := none
  stallTold : Bool := false
  runEpoch : W32 := 0
  nodeSeq : W32 := 0
  handles : List Handle := []
  mailboxes : List Mailbox := []
  turns : Nat := 0
  nextSq : Nat := 0
deriving DecidableEq, Repr

/-- A byte range of a footprint, `lo` to `hi` − 1 (R73, R76). -/
structure Range where
  sp : Nat
  lo : Nat
  hi : Nat
  rd : Bool
  wr : Bool
deriving DecidableEq, Repr

/-- How far a node has come. `open` is a granted slice; `between` waits for its next slice or, after the last, for its
writes. -/
inductive NodeSt where
  | fetched | registered | opened | between | waiting | failed | done
deriving DecidableEq, Repr

/-- The progress of a VECTOR node: the row it is at, the rows done, entry of the list, row buffers B0 to B3 (R228; empty until the row
writes them). -/
structure VecSt where
  row : Option Nat := none
  done : List Nat := []
  op : Nat := 0
  bufs : List (List W32) := [[], [], [], []]
deriving DecidableEq, Repr

/-- A node in the window (R67 to R94). `ranges` are its scoreboard entries (R76), `fp` its footprint records as read (R73), `slices` the cut
intervals of its slices from the present one on, `pos` and `total` those done in this slice and in all, `tmax` the tiles of a group (R211),
`run` the slices run, `intervals` the comparison intervals ended (R395), `cmp` that the last one has ended. `pos0`, `crc0`, `digSum0` and
`digCnt0` are the values at the replay point of the slice, `atomic` says that the slice issued a bank atomic, `selfRw` that the node writes a
range that it reads (R389), `grave` counts the faults above corrected at the interval's begin (R396), `began` is when the slice began (R82),
`epoch0` the epoch of its first slice (R94). `gates` gives, for each cut interval of a stage that writes a hand-over buffer, the address below
which it writes nothing from then on; `inBuf` is the buffer that a stage reads, and `hw` the address up to which it has been passed (R88).
`reads` and `again` are what a tile group's reads have given so far and those still to be given to its replay, `outq` the output rows still to
be written, `sub` the blocks of an interval that a scan has read (R266). `acq` numbers the tile writes before its last acquire (R286), `seen`
those that its reads of a word have seen since (R289). -/
structure Node where
  idx : Nat
  bytes : List Byte
  seq : W32
  rep : BitVec 8 := 0
  st : NodeSt := .fetched
  ranges : List Range := []
  fp : List Range := []
  handles : List Nat := []
  age : Option Nat := none
  units : List Nat := []
  slices : List Nat := []
  pos : Nat := 0
  total : Nat := 0
  tmax : Nat := 0
  run : Nat := 0
  endSlice : Bool := false
  twin : Bool := false
  prog : List (List Byte) := []
  ops : List (List Byte) := []
  vec : VecSt := {}
  crc : Nat := 0
  corr : Nat := 0
  status : Nat := 1
  detail : Nat := 0
  stall : Bool := false
  digSum : W64 := 0
  digCnt : W32 := 0
  atomic : Bool := false
  intervals : Nat := 0
  cmp : Bool := false
  pos0 : Nat := 0
  crc0 : Nat := 0
  digSum0 : W64 := 0
  digCnt0 : W32 := 0
  selfRw : Bool := false
  grave : Nat := 0
  began : Nat := 0
  epoch0 : Option Nat := none
  gates : List Nat := []
  inBuf : Nat × Nat := (0, 0)
  hw : Nat := 0
  reads : List (List Byte) := []
  again : List (List Byte) := []
  outq : List (List (Nat × Nat × Nat)) := []
  sub : Nat := 0
  acq : Nat := 0
  seen : List (Nat × Nat) := []
deriving DecidableEq, Repr

/-- A graph being run, or an entry that runs as a one-node graph (`entryOnly`, R122, R367). -/
structure Graph where
  id : Nat
  ctx : Nat
  sq : Nat
  tag : Nat
  irq : Bool
  quiet : Bool
  xva : Nat
  count : Nat
  prio : Nat
  entryOnly : Bool := false
  cls : Nat := 0
  nodes : List Node := []
  fetchedN : Nat := 0
  doneIdx : List Nat := []
  slices : Nat := 0
  corr : Nat := 0
  fail : Option (Nat × Nat × Nat) := none
  stopped : Option (Nat × Nat) := none
deriving DecidableEq, Repr

/-- A counter operation or a stamp waiting in a release queue (R137, R139): its program, `op` 0 add, 1 set, 2 stamp; the counter or, for a
stamp, the tile address or physical address. `barrier` is the number of the last batch of writes issued before it; it is performed when no
write of its program with that number or a lower one is outstanding. `iv` is the comparison interval that it belongs to (R395), `pc`, `iters`
and `pos` the program's position behind its slot and the intervals done in the slice by then, `seqs` the numbers of the sending pairs used
(R389). A stamp in space 0 has the attribute `nc` of its page, and `inval` names the INVALIDATE_XLAT entries that wait for it (R277). -/
structure RelOp where
  g : Nat
  n : Nat
  op : Nat
  a : Nat
  v : W32 := 0
  space : Nat := 0
  barrier : Nat
  iv : Nat := 0
  pc : Nat := 0
  iters : List (Nat × Nat) := []
  pos : Nat := 0
  seqs : List (Nat × Nat × Nat) := []
  nc : Bool := false
  inval : List Nat := []
deriving DecidableEq, Repr

/-- Source bytes staged ahead of execution (R169): their space and address, `flip` 1 or 2 for a corrected or an uncorrectable error of the
staging (R174). -/
structure Staged where
  sp : Nat
  xva : Nat
  bytes : List Byte
  flip : Nat := 0
deriving DecidableEq, Repr

/-- A program on a channel: where it came from, its slots, its position (R121 to R143): slot, entry of a block list, line. A
descriptor copy holds the MOVET it runs as (R133). `begun` holds the handles of the MOVET in progress (R111), `kept` the source bytes that the
move in progress has overwritten, as they were (R130, R168), `blocks` the
destination blocks of the list entries done (R116), `pairs` the sending pairs used since the replay point, with their next sequence
number and batch count at that point (R330, R389). `issued` numbers the batches of its writes (R137); `xva` is where its slots are stored,
none for a descriptor copy, and `ibuf` the slots in the instruction buffer (R123). -/
structure Prog where
  g : Nat
  n : Nat
  ctx : Nat
  cls : Nat
  seq : W32
  checked : Bool
  ranges : List Range
  slots : List (List Byte)
  pc : Nat := 0
  iters : List (Nat × Nat) := []
  line : Nat := 0
  item : Nat := 0
  ended : Bool := false
  status : Nat := 1
  detail : Nat := 0
  lastRemote : Option Nat := none
  begun : List Nat := []
  kept : List (Nat × Byte) := []
  blocks : List (List Int) := []
  pairs : List (Nat × Nat × Nat) := []
  issued : Nat := 0
  xva : Option Nat := none
  ibuf : List Nat := []
deriving DecidableEq, Repr

/-- A transit channel (R119 to R146). `owner` is the owner in effect, which differs from the register's while a change waits. `idle` holds the
programs whose next slice waits for this channel (R86); `mark` is the point where a replay of the slice starts (R389). `back` is the program,
with its node, before the line whose writes may still wait for credit (R144). `pre` is the prefetch table (R169), `last` the node whose slice
ended here last, with which the run-ahead state stays (R172). -/
structure Chan where
  owner : Nat := 15
  eclOwn : Bool := false
  prog : Option Prog := none
  idle : List Prog := []
  mark : Option Prog := none
  relq : List RelOp := []
  back : Option (Prog × Node) := none
  stampSeq : BitVec 16 := 0
  staged : List Staged := []
  pre : List Xl := []
  last : Option (Nat × Nat) := none
deriving DecidableEq, Repr

/-- A pending wait (R440). `met` says that its counter has stood at a value that satisfies it (R284). -/
structure Wait where
  t : Nat
  who : Who
  counter : Nat
  cond : Nat
  value : W32
  start : Nat
  timeoutUs : Nat
  met : Bool := false
deriving DecidableEq, Repr

/-- A page-table walk that has begun (R264). `inval` holds the ranges invalidated since (R278). -/
structure Walk where
  t : Nat
  xva : Nat
  write : Bool
  who : Who
  inval : List (Nat × Nat) := []
deriving DecidableEq, Repr

/-- An outstanding resumable fault of a tenant: a page fault with its attached units, or a park (R144, R271). `start` is when its
record was queued or, once it is written, when it was written; `unit`, `xva`, `pte` and `level` are those of its record. -/
structure PFault where
  t : Nat
  id : W32
  cause : Nat
  page : Nat
  write : Bool
  who : List Who
  start : Nat
  unit : Nat
  xva : Nat := 0
  pte : W64 := 0
  level : Nat := 0
deriving DecidableEq, Repr

/-- A write transaction at a system port (R12): the port, the issuing unit, whose write it is, and for a channel the number of its barrier
(R137); `cells` its bytes, which stand in memory when its response returns (R290), its size `z` of 64 or 256, the class and the tenant that it
is charged to (R180), whether it goes without snooping (R14); `sent` says that the port has issued it and its response is outstanding. A
record has its address and bytes, its stage (1: bytes 1 on, 2: byte 0, R62), whether this is the one rewrite of R15, the vector of the event
that follows it (R21), its context and its ring `cq`, whose records are written in order (R63). `inval` names the INVALIDATE_XLAT entries that
wait for it (R277). -/
structure Txn where
  port : Nat
  unit : Nat
  who : Option Who
  no : Nat := 0
  isRec : Bool := false
  pa : Nat := 0
  bytes : List Byte := []
  cells : List (Nat × Byte) := []
  again : Bool := false
  stage : Nat := 0
  ev : List Nat := []
  ctx : Nat := 15
  inval : List Nat := []
  nc : Bool := false
  cq : Nat := 16
  z : Nat := 64
  cls : Nat := 3
  t : Nat := 8
  sent : Bool := false
deriving DecidableEq, Repr

/-- A byte of tile memory as it was before write number `no`: a read that no acquire orders behind that write may still return it
(R291, R294). -/
structure TileOld where
  a : Nat
  old : Byte
  no : Nat
deriving DecidableEq, Repr

/-- A line of the weight cache: its way, its physical address, its bytes as filled (R176), the granules of 8 bytes that hold an error and
whether two bits are wrong (R178). -/
structure WcLine where
  way : Nat
  pa : Nat
  bytes : List Byte
  flips : List (Nat × Bool) := []
deriving DecidableEq, Repr

/-- A fill of the weight cache that is outstanding, with the bytes that its read finds (R176). -/
structure WcFill where
  t : Nat
  pa : Nat
  bytes : List Byte
deriving DecidableEq, Repr

/-- A range that the clear engine is zeroing (R196), and for whom. -/
structure Clear where
  base : Nat
  len : Nat
  tenant : Option Nat
deriving DecidableEq, Repr

/-- A fault record in the internal queue (R267, R386). `told` says that its event on vector 73 has arisen already. -/
structure FRec where
  cls : Nat
  resumable : Bool
  write : Bool
  cause : Nat
  id : W32
  ns : W64
  pos : W32
  holdover : Bool
  base : Nat
  ctx : Nat
  unit : Nat
  nodeSeq : W32
  xva : Nat := 0
  pte : W64 := 0
  level : Nat := 0
  epoch : BitVec 8 := 0
  seq : BitVec 16
  told : Bool := false
deriving DecidableEq, Repr

/-- A fault that is not cleared (R381 to R388). `line` says that the unit's line still shows 10, `since` is when it was recorded and
`timer` that its reaction timer runs. -/
structure FaultSt where
  id : W32
  unit : Nat
  cause : Nat
  cls : Nat
  ctx : Nat
  line : Bool
  acked : Bool := false
  timer : Bool := false
  since : Nat := 0
deriving DecidableEq, Repr

/-- The fault collector. `grave` counts the contained and fatal faults recorded (R396). -/
structure Coll where
  faults : List FaultSt := []
  iq : List FRec := []
  nextId : W32 := 0
  seq : BitVec 16 := 0
  sticky : Option FRec := none
  stickyRead : Bool := true
  ovfTold : Bool := false
  ovfPend : Option FRec := none
  lastNs : Nat := 0
  fatal : Bool := false
  grave : Nat := 0
deriving DecidableEq, Repr

/-- A key slot of a port (R334, R431): words written since the last load, the loaded key with its frame counter, and whether the end of
that counter has been recorded (R336). -/
structure KeySlot where
  words : List (Nat × W64) := []
  saltW : W32 := 0
  loaded : Bool := false
  key : List W64 := []
  salt : W32 := 0
  keyId : Nat := 0
  ctr : Nat := 0
  told : Bool := false
deriving DecidableEq, Repr

/-- A frame that waits to leave: whether this chip injects it, the port, lane and class of the input buffer that it holds, the node that it comes
from (R319, R320). -/
structure Queued where
  f : Frame
  own : Bool := true
  src : Option (Nat × Nat × Nat) := none
  who : Option (Nat × Nat) := none
deriving DecidableEq, Repr

/-- A Ranen port (R309 to R319): failed attempts in a row, when its attempt began or failed for good, when the last maintenance frame
came, the alive counters per lane, the buffers of the neighbour in use (key 2 × lane + class), the frames waiting to leave, its four key
slots, how many streaming frames in a row it has sent while bulk frames waited, and whether R317 took it down.
`slotNo` counts the slots since its last maintenance frame, `wire` is the frame that its last slot carried, with its trailer; `held` are its own
input buffers in use and `freed` those freed since that maintenance frame, by the same keys; `rxCtr` is the last slot counter that came in
(R313). -/
structure Port where
  attempts : Nat := 0
  retrained : Bool := false
  since : Nat := 0
  lastMaint : Nat := 0
  aliveTx : List (Nat × Nat) := []
  aliveRx : List (Nat × Nat) := []
  credits : List (Nat × Nat) := []
  outQ : List Queued := []
  slotNo : Nat := 0
  wire : Option (Frame × Nat) := none
  held : List (Nat × Nat) := []
  freed : List (Nat × Nat) := []
  rxCtr : Nat := 0
  keys : List (Nat × KeySlot) := []
  strTurn : Nat := 0
deriving DecidableEq, Repr

/-- How the module identity record was obtained (R37). -/
inductive ModId where
  | idle | reading (attempt start : Nat) | valid | failed
deriving DecidableEq, Repr

/-- A sending pair (R329): the next sequence, the batch count, since when its acknowledgements stand still, since when its destination is
not ready, until when it waits, the frame that was refused, and whether it waits for NACK 0x04 (R327, R338). -/
structure TxPair where
  srcTenant : Nat
  dstChip : Nat
  dstTenant : Nat
  mailbox : Nat
  nextSeq : Nat := 0
  synced : Bool := false
  batch : Nat := 0
  nrSince : Option Nat := none
  waitUntil : Option Nat := none
  adv : Nat := 0
  back : Nat := 0
  nack4 : Bool := false
deriving DecidableEq, Repr

/-- A frame in the send log (R329): its pair, whether it was transmitted, whether its interval has passed comparison, and the
channel, the node and the number of the batch of writes that wait for its acknowledgement, the tenant, and the comparison interval of
the node that produced it. -/
structure LogFrame where
  pair : Nat
  frame : Frame
  sent : Bool
  passed : Bool
  chan : Nat
  g : Nat
  n : Nat
  no : Nat
  t : Nat
  iv : Nat := 0
deriving DecidableEq, Repr

/-- A receiving pair (R327, R330): `unacked` frames accepted since the last ACK, the first of them at `accAt`; `left` DATA frames of the
batch to come. -/
structure RxPair where
  srcGroup : Nat
  srcTenant : Nat
  dstTenant : Nat
  mailbox : Nat
  synced : Bool := false
  expected : Nat := 0
  runEpoch : W32 := 0
  nodeSeq : W32 := 0
  repEpoch : BitVec 8 := 0
  unacked : Nat := 0
  left : Nat := 0
  srcChip : Nat := 0
  accAt : Nat := 0
  nackedAt : Option Nat := none
deriving DecidableEq, Repr

/-- The relay and the core's side of the fabric. `notices` holds MEMBER_OUT frames with the port that they came in on (R401);
`mgmt` is the read request outstanding on xh_mgmt: bus address, offset, length (R36). -/
structure Relay where
  modid : ModId := .idle
  mgmt : Option (Nat × Nat × Nat) := none
  record : List Byte := []
  role : Nat := 0
  groupRaw : Nat := 0
  cfgEpoch : W32 := 0
  serial : W64 := 0
  ports : List (Nat × Port) := []
  holdQ : List Frame := []
  inbox : List Frame := []
  notices : List (Option Nat × Frame) := []
  nrLog : List Nat := []
  locked : Bool := false
  dbgLock : Bool := false
  lockCount : Nat := 0
  coreReady : Bool := false
  tx : List TxPair := []
  log : List LogFrame := []
  rx : List RxPair := []
deriving DecidableEq, Repr

/-- A slice digest with its flags (R375, R396). -/
structure Digest where
  sum : W64
  cnt : W32
  failed : Bool
  evidence : Bool
deriving DecidableEq, Repr

/-- A comparison interval that has not passed (R397): the digests of the members that have sent theirs; `own` is this member's
node, once its own interval has ended. -/
structure Interval where
  t : Nat
  own : Option (Nat × Nat)
  seq : W32
  num : Nat
  digests : List (Nat × Digest)
  audit : Bool := false
deriving DecidableEq, Repr

/-- Replica-group membership (R394) and the state of its protocol. -/
structure Replica where
  size : Nat := 0
  groupId : Nat := 0
  member : Nat := 0
  members : List Nat := []
  repTenants : BitVec 8 := 0
  inService : BitVec 3 := 0
  active : Nat := 0
  gen : W32 := 0
  out : Bool := false
  intervals : List Interval := []
  lastHeard : List (Nat × Nat) := []
  stalled : List (Nat × Bool) := []
  verdicts : List (Nat × Nat) := []
deriving DecidableEq, Repr

/-- A time base (R340 to R350): the integer part of its position, the edge count, the counted edges since SYNC began, the time of
the last counted edge that the position is measured from and of the last counted edge at all, the tracked interval
`trkNum / trkDen` ns, the direction of the last edge, the filtered levels, since when A and Z are active, the frozen position, the edges
in a row that kept 40 ns, the start of holdover, the latched integer of the last index edge. -/
structure Base where
  count : W32 := 0
  edgeCount : W32 := 0
  edges : Nat := 0
  last : Nat := 0
  lastEdge : Nat := 0
  trkNum : Nat := 0
  trkDen : Nat := 1
  back : Bool := false
  a : Bool := false
  b : Bool := false
  activeAt : Nat := 0
  zAt : Option Nat := none
  frozen : BitVec 48 := 0
  good : Nat := 0
  holdAt : Nat := 0
  stuck : Bool := false
  lastZ : Option W32 := none
deriving DecidableEq, Repr

/-- An ephemeris entry (R352). `node` is the TIMED node that a release entry stands for. -/
structure Eph where
  idx : Nat
  tenant : Nat
  base : Nat
  action : Nat
  late : Nat
  missFault : Bool
  pos : BitVec 48
  counter : Nat
  missCounter : Nat
  value : W32
  period : BitVec 48
  vinc : Nat
  stBase : Nat
  stLog2 : Nat
  fires : Nat := 0
  node : Option (Nat × Nat) := none
deriving DecidableEq, Repr

/-- A due action that waits in X1 (R358): the entry as it was when due, and the stamp of its due sample. -/
structure EphDue where
  e : Eph
  ns : W64
  pos : W32
  hold : Bool
deriving DecidableEq, Repr

/-- Meridian: the bases, the table, the command whose result does not stand yet (R434). -/
structure Meridian where
  bases : List (Nat × Base) := []
  eph : List Eph := []
  due : List EphDue := []
  cmd : Option (Nat × Nat × List Byte) := none
deriving DecidableEq, Repr

/-- A bank copy into a spare (R203), and whether it has ended. -/
structure Copy where
  logical : Nat
  from_ : Nat
  into : Nat
  entry : Nat
  done : Bool := false
deriving DecidableEq, Repr

/-- A unit that is being taken out of service or brought back (R390, R392), with the entry that asked for it. -/
structure UnitCmd where
  unit : Nat
  entry : Option Nat
deriving DecidableEq, Repr

/-- The state of the block. -/
structure State where
  -- the boundary
  phase : Phase := .x3
  pins : Pins := {}
  aon : Nat := 0
  tc : W64 := 0
  retained : Bool := false
  tmLost : Bool := true
  bringAt : Nat := 0
  coreLock : Bool := false
  heldAcc : List (Nat × Nat × W64) := []
  captured : List (Nat × Nat × Nat × Bool) := []
  msgWait : List Nat := []
  txns : List Txn := []
  -- registers and memories
  regs : List (Nat × W64) := []
  sys : List Host.Cell := []
  badRd : List Nat := []
  poison : List Nat := []
  cpu : List (Nat × Nat) := []
  upsets : List Nat := []
  derived : List (Nat × Nat) := []
  tile : List Host.Cell := []
  tileOld : List TileOld := []
  tileNo : Nat := 0
  ecc : List (Nat × Nat) := []
  counters : List (Nat × W32) := []
  ctrNow : List CtrNow := []
  scrubRow : Nat := 0
  clears : List Clear := []
  credit : List (Nat × Nat) := []
  owed : List (Nat × Nat) := []
  -- contexts, graphs, channels
  ctxs : List (Nat × Ctx) := []
  nextEntry : Nat := 0
  fetchTenant : Nat := 8
  grantFirst : Nat := 0
  grantUsed : Nat := 0
  grantNow : List (Nat × Nat) := []
  graphs : List Graph := []
  chans : List (Nat × Chan) := []
  vsOwners : List (Nat × Nat) := []
  waits : List Wait := []
  readyNo : Nat := 0
  -- translation
  tlb : List Xl := []
  ptrs : List Ptr := []
  walks : List Walk := []
  pfaults : List PFault := []
  wc : List WcLine := []
  wcFills : List WcFill := []
  -- units in and out of service, power
  eclWait : List UnitCmd := []
  reenter : List UnitCmd := []
  copies : List Copy := []
  powerTo : Option (Nat × Nat) := none
  heldSince : Nat := 0
  epochNo : Nat := 0
  admitted : List (Nat × Nat) := []
  -- the rest
  coll : Coll := {}
  relay : Relay := {}
  rep : Replica := {}
  mer : Meridian := {}
  -- the model's own: the counter that free values are drawn with, and the waiting commands
  free : Nat := 0
  pending : List Instr := []
deriving DecidableEq, Repr

/-- The machine right after reset: both resets asserted, every supply request low (X3 Off), every register at its reset
value (no register is listed), memories with nothing listed, no work, no command waiting (R10, R27, R418). -/
def State.reset : State := {}

end Sys2Proof.Machine
end

