-- ==== Sys2Proof/Machine/Regs.lean ====
section
/-! DEFINITION. The register map (R418 to R438): offsets, fields, access types, E marks, legal values, reset values, and the rule by
which a write changes a register (R6, R7, R16, R420, R421, R443). -/

namespace Sys2Proof.Machine

/-- A field of the register window: offset of its register, lowest bit, width. -/
structure Fld where
  off : Nat
  lo : Nat
  w : Nat
deriving DecidableEq, Repr

/-- Access types (R6). -/
inductive Acc where
  | ro | rw | w1c | wo | rwl
deriving DecidableEq, Repr

/-- A field's row of a register field table: place, type, E mark, least and greatest legal value. -/
structure FSpec where
  lo : Nat
  w : Nat
  t : Acc
  e : Bool := false
  min : Nat := 0
  max : Nat := 2 ^ 64

namespace Reg

-- global window (R425)
def badAcc : Nat := 0x10
def mcCtrl : Nat := 0x20
def mcSq : Nat := 0x28
def mcCq : Nat := 0x30
def mcSqHead : Nat := 0x38
def mcCqTail : Nat := 0x40
def mcStatus : Nat := 0x48
def mcCnt : Nat := 0x50
def msgAddr : Nat := 0x80
def msgData : Nat := 0x88
def irqEn (h : Nat) : Nat := 0x90 + 8 * h
def irqMask (h : Nat) : Nat := 0xA0 + 8 * h
def irqPend (h : Nat) : Nat := 0xB0 + 8 * h
def schedCfg : Nat := 0x100
def bwCfg : Nat := 0x108
def tmShared : Nat := 0x110
def tmCfg : Nat := 0x118
def spareMap (j : Nat) : Nat := 0x1000 + 8 * j
-- tenant set-up (R426)
def ten (n o : Nat) : Nat := 0x10000 + 0x1000 * n + o
-- engines (R427 to R429)
def chCfg (n : Nat) : Nat := 0x20000 + 0x20 * n
def chStatus (n : Nat) : Nat := 0x20008 + 0x20 * n
def chDone (n : Nat) : Nat := 0x20010 + 0x20 * n
def colMap (e j : Nat) : Nat := 0x30000 + 0x100 * e + 8 * j
def splitStatus : Nat := 0x30200
def vsCfg (i : Nat) : Nat := 0x30400 + 8 * i
def xlatOut (n : Nat) : Nat := 0x40000 + 8 * n
-- Ranen and relay (R430)
def fabId : Nat := 0x50000
def modidCfg : Nat := 0x50008
def modidCmd : Nat := 0x50010
def laneMap : Nat := 0x50018
def relayCfg : Nat := 0x50020
def relayStat : Nat := 0x50028
def modidOvr : Nat := 0x50030
def port (p o : Nat) : Nat := 0x50100 + 0x40 * p + o
def key (p s o : Nat) : Nat := 0x50400 + 0x40 * (4 * p + s) + o
def fabGen (n : Nat) : Nat := 0x54000 + 8 * (n / 2)
def fabGrp (n : Nat) : Nat := 0x58000 + 8 * n
-- Meridian (R433)
def mb (n o : Nat) : Nat := 0x60000 + 0x100 * n + o
def ephStage (i : Nat) : Nat := 0x60400 + 8 * (i / 2)
def ephCmd : Nat := 0x60420
def ephStatus : Nat := 0x60428
def merEvt : Nat := 0x60430
-- fault collector (R435)
def faultCfg : Nat := 0x70000
def faultAck : Nat := 0x70008
def faultStatus : Nat := 0x70010
def recovCnt : Nat := 0x70018
def fqBase : Nat := 0x70020
def fqTail : Nat := 0x70028
def fqHead : Nat := 0x70030
def fqOvf : Nat := 0x70038
def fqSticky (w : Nat) : Nat := 0x70040 + 8 * w
def ecl (w : Nat) : Nat := 0x70080 + 8 * w
def react (u : Nat) : Nat :=
  if 0x100 ≤ u then 0x71800
  else if 0x50 ≤ u ∧ u ≤ 0x71 then 0x71000 + 8 * 0x50
  else if 0x80 ≤ u ∧ u ≤ 0xA1 then 0x71000 + 8 * 0x80
  else 0x71000 + 8 * u
def vsp (u : Nat) : Nat := 0x72000 + 8 * u
-- check values, power, performance (R436 to R438)
def cvu (n o : Nat) : Nat := 0x80000 + 0x20 * n + o
def pwrCtrl : Nat := 0x90000
def pwrStatus (w : Nat) : Nat := 0x90008 + 8 * w
def pwrEst : Nat := 0x90020
def lockViol : Nat := 0x90028
def digest (w : Nat) : Nat := 0x90040 + 8 * w
def dbgCtrl : Nat := 0x90060
def dbgPeek : Nat := 0x90068
def dbgData (w : Nat) : Nat := 0x90080 + 8 * w
def chStall (n c : Nat) : Nat := 0xA0000 + 0x40 * n + 8 * c
def chRadisc (n : Nat) : Nat := 0xA0038 + 0x40 * n
def meSat (e : Nat) : Nat := 0xA1038 + 0x40 * e

end Reg

/-- The units that R376 numbers. -/
def unitAssigned (u : Nat) : Bool :=
  u ≤ 0x43 || (0x48 ≤ u && u ≤ 0x4A) || (0x50 ≤ u && u ≤ 0x71) || (0x80 ≤ u && u ≤ 0xA1) || (0xC0 ≤ u && u ≤ 0xCF)
    || (0xD0 ≤ u && u ≤ 0xD3) || (0xD8 ≤ u && u ≤ 0xE3) || (0xE8 ≤ u && u ≤ 0xEF) || (0x100 ≤ u && u ≤ 0x307)

/-- The units that ECLIPSE_UNIT accepts (R376). -/
def eclipsable (u : Nat) : Bool :=
  u ≤ 0x43 || u == 0x48 || u == 0x49 || (0x50 ≤ u && u ≤ 0x71) || (0x80 ≤ u && u ≤ 0xA1) || (0xC0 ≤ u && u ≤ 0xCF)
    || (0xD0 ≤ u && u ≤ 0xD3) || u == 0xDA || (0xE8 ≤ u && u ≤ 0xED) || (0x100 ≤ u && u ≤ 0x307)

/-- Reset value of a register (R418 to R438). Registers filled "from self-test" read here as self-test without a failure leaves
them: each logical bank served by the physical bank of its number, each active column by its own (log entry 6). -/
def Reg.resetValue (off : Nat) : W64 :=
  if off % 8 ≠ 0 then 0
  else if off = Reg.mcCtrl then BitVec.ofNat 64 (10 <<< 16)
  else if off = Reg.schedCfg then 200000
  else if off = Reg.bwCfg then BitVec.ofNat 64 (136 + (40 <<< 16) + (16 <<< 24) + (7 <<< 32))
  else if off = Reg.tmCfg then 500
  else if 0x1000 ≤ off ∧ off < 0x1400 then
    let j := (off - 0x1000) / 8
    BitVec.ofNat 64 (4 * j + ((4 * j + 1) <<< 16) + ((4 * j + 2) <<< 32) + ((4 * j + 3) <<< 48))
  else if 0x10000 ≤ off ∧ off < 0x18000 then
    let o := off % 0x1000
    if o = 0x10 then BitVec.ofNat 64 (1 + (7 <<< 4) + (16384 <<< 8) + (512 <<< 26))
    else if o = 0x28 then BitVec.ofNat 64 (1000 + (200 <<< 16) + (1000 <<< 32))
    else if o = 0x48 then BitVec.ofNat 64 (8 + (8 <<< 8) + (8 <<< 16) + (0xFFFF <<< 32))
    else if o = 0x50 then BitVec.ofNat 64 ((512 <<< 32) + (128 <<< 48))
    else if o = 0x58 then 10
    else 0
  else if 0x20000 ≤ off ∧ off < 0x20800 ∧ off % 0x20 = 0 then 0xF
  else if off = 0x30000 ∨ off = 0x30008 ∨ off = 0x30010 ∨ off = 0x30018 ∨ off = 0x30100 ∨ off = 0x30108 ∨ off = 0x30110
      ∨ off = 0x30118 then
    let b := 8 * ((off % 0x100) / 8)
    BitVec.ofNat 64 (b + ((b + 1) <<< 8) + ((b + 2) <<< 16) + ((b + 3) <<< 24) + ((b + 4) <<< 32) + ((b + 5) <<< 40)
      + ((b + 6) <<< 48) + ((b + 7) <<< 56))
  else if off = Reg.splitStatus then 0x3FFFC
  else if 0x30400 ≤ off ∧ off < 0x30480 then 0xF
  else if off = Reg.modidCfg then 0x50
  else if off = Reg.relayCfg then BitVec.ofNat 64 (10000 + (50 <<< 32))
  else if 0x50100 ≤ off ∧ off < 0x50280 ∧ off % 0x40 = 0 then BitVec.ofNat 64 ((16 <<< 8) + (16 <<< 16))
  else if off = 0x60000 ∨ off = 0x60100 ∨ off = 0x60200 ∨ off = 0x60300 then
    BitVec.ofNat 64 ((4 <<< 12) + (4 <<< 16) + (4 <<< 24))
  else if off = 0x60008 ∨ off = 0x60108 ∨ off = 0x60208 ∨ off = 0x60308 then BitVec.ofNat 64 (10000 <<< 32)
  else if off = Reg.faultCfg then BitVec.ofNat 64 (10 <<< 16)
  else if 0x71000 ≤ off ∧ off < 0x71800 then
    let u := (off - 0x71000) / 8
    if unitAssigned u && Reg.react u == off then
      BitVec.ofNat 64 (1000 + (if eclipsable u then 1 <<< 32 else 0))
    else 0
  else if off = 0x71800 then BitVec.ofNat 64 (1000 + (1 <<< 32))
  else if off = Reg.pwrStatus 0 then BitVec.ofNat 64 (0xFFFF <<< 16)
  else 0

/-- The fields of a register that a write can touch or trigger, and their rules; a register with none is read-only or
reserved. -/
def Reg.specs (off : Nat) : List FSpec :=
  if off % 8 ≠ 0 then []
  else if off = Reg.mcCtrl then [⟨0, 1, .rw, false, 0, 1⟩, ⟨2, 2, .rw, false, 0, 3⟩, ⟨16, 10, .rwl, false, 1, 1000⟩]
  else if off = Reg.mcSq then [⟨0, 5, .rwl, true, 0, 31⟩, ⟨12, 36, .rwl, true, 0, 2 ^ 36⟩]
  else if off = Reg.mcCq then [⟨0, 5, .rwl, true, 0, 31⟩, ⟨8, 1, .rwl, true, 0, 1⟩, ⟨12, 36, .rwl, true, 0, 2 ^ 36⟩]
  else if off = Reg.msgAddr then [⟨2, 46, .rwl, false, 0, 2 ^ 46⟩]
  else if off = Reg.msgData then [⟨0, 32, .rwl, false, 0, 2 ^ 32⟩]
  else if off = 0x90 ∨ off = 0xA0 then [⟨0, 64, .rw, false, 0, 2 ^ 64⟩]
  else if off = 0x98 ∨ off = 0xA8 then [⟨0, 11, .rw, false, 0, 2 ^ 11⟩]
  else if off = 0xB0 then [⟨0, 64, .w1c, false, 0, 2 ^ 64⟩]
  else if off = 0xB8 then [⟨0, 11, .w1c, false, 0, 2 ^ 11⟩]
  else if off = Reg.schedCfg then [⟨0, 18, .rw, false, 1024, 200000⟩]
  else if off = Reg.bwCfg then
    [⟨0, 10, .rwl, false, 1, 512⟩, ⟨16, 6, .rwl, false, 0, 63⟩, ⟨24, 6, .rwl, false, 0, 63⟩, ⟨32, 6, .rwl, false, 0, 63⟩]
  else if off = Reg.tmShared then
    [⟨0, 6, .rwl, false, 0, 63⟩, ⟨8, 6, .rwl, false, 0, 63⟩, ⟨16, 1, .rwl, false, 0, 1⟩, ⟨17, 1, .rw, false, 0, 1⟩,
     ⟨20, 3, .rw, false, 0, 7⟩, ⟨32, 8, .rw, false, 0, 255⟩]
  else if off = Reg.tmCfg then [⟨0, 16, .rw, false, 0, 65535⟩]
  else if 0x10000 ≤ off ∧ off < 0x18000 then
    let o := off % 0x1000
    if o = 0 then [⟨0, 1, .rw, false, 0, 1⟩]
    else if o = 0x10 then
      [⟨0, 4, .rw, false, 1, 15⟩, ⟨4, 3, .rw, false, 0, 7⟩, ⟨8, 18, .rw, false, 0, 131072⟩, ⟨26, 13, .rw, false, 0, 4096⟩]
    else if o = 0x18 then [⟨0, 1, .rwl, true, 0, 1⟩, ⟨12, 36, .rwl, true, 0, 2 ^ 36⟩]
    else if o = 0x20 then [⟨0, 27, .rwl, true, 0, 2 ^ 27⟩, ⟨32, 27, .rwl, true, 0, 2 ^ 27⟩]
    else if o = 0x28 then
      [⟨0, 16, .rwl, false, 0, 60000⟩, ⟨16, 16, .rwl, false, 1, 60000⟩, ⟨32, 20, .rwl, false, 10, 1000000⟩]
    else if o = 0x30 then [⟨0, 6, .rwl, true, 0, 63⟩, ⟨8, 6, .rwl, true, 0, 63⟩, ⟨16, 1, .rwl, true, 0, 1⟩]
    else if o = 0x38 then [⟨0, 8, .rwl, true, 0, 255⟩, ⟨16, 9, .rwl, true, 0, 511⟩]
    else if o = 0x40 then [⟨0, 5, .rwl, true, 0, 20⟩, ⟨12, 36, .rwl, true, 0, 2 ^ 36⟩]
    else if o = 0x48 then
      [⟨0, 7, .rwl, false, 0, 64⟩, ⟨8, 7, .rwl, false, 0, 64⟩, ⟨16, 7, .rwl, false, 0, 64⟩, ⟨32, 16, .rwl, false, 0, 65535⟩]
    else if o = 0x50 then
      [⟨0, 1, .rwl, true, 0, 1⟩, ⟨1, 1, .rwl, false, 0, 1⟩, ⟨2, 2, .rw, false, 0, 3⟩, ⟨16, 14, .rwl, true, 0, 8192⟩,
       ⟨32, 13, .rwl, false, 0, 4096⟩, ⟨48, 11, .rwl, false, 0, 1024⟩]
    else if o = 0x58 then [⟨0, 10, .rwl, false, 1, 1000⟩]
    else if 0x100 ≤ o ∧ o < 0x180 then
      [⟨0, 5, .rwl, true, 0, 31⟩, ⟨8, 4, .rwl, true, 0, 15⟩, ⟨12, 36, .rwl, true, 0, 2 ^ 36⟩]
    else if 0x180 ≤ o ∧ o < 0x200 then
      [⟨0, 5, .rwl, true, 0, 31⟩, ⟨8, 1, .rwl, true, 0, 1⟩, ⟨12, 36, .rwl, true, 0, 2 ^ 36⟩]
    else []
  else if 0x20000 ≤ off ∧ off < 0x20800 ∧ off % 0x20 = 0 then [⟨0, 4, .rw, false, 0, 15⟩]
  else if 0x30400 ≤ off ∧ off < 0x30480 then [⟨0, 4, .rw, false, 0, 15⟩]
  else if off = Reg.modidCfg then [⟨0, 7, .rwl, false, 0, 127⟩, ⟨16, 16, .rwl, false, 0, 65535⟩]
  else if off = Reg.modidCmd then [⟨0, 1, .wo, false, 0, 1⟩]
  else if off = Reg.laneMap then [⟨0, 6, .rwl, false, 0, 63⟩, ⟨8, 24, .rwl, false, 0, 2 ^ 24⟩]
  else if off = Reg.relayCfg then [⟨0, 20, .rwl, false, 1000, 1000000⟩, ⟨32, 14, .rwl, false, 1, 10000⟩]
  else if off = Reg.modidOvr then
    [⟨0, 12, .rwl, false, 0, 4095⟩, ⟨12, 12, .rwl, false, 0, 4095⟩, ⟨24, 1, .rwl, false, 0, 1⟩, ⟨32, 32, .rwl, false, 0, 2 ^ 32⟩]
  else if 0x50100 ≤ off ∧ off < 0x50280 then
    let o := off % 0x40
    if o = 0 then
      [⟨0, 1, .rwl, false, 0, 1⟩, ⟨1, 2, .rwl, false, 0, 3⟩, ⟨8, 8, .rwl, false, 1, 255⟩, ⟨16, 8, .rwl, false, 1, 255⟩]
    else if o = 8 then [⟨0, 1, .wo, false, 0, 1⟩]
    else if o = 0x38 then [⟨0, 64, .rwl, false, 0, 2 ^ 64⟩]
    else []
  else if 0x50400 ≤ off ∧ off < 0x50A00 then
    let o := off % 0x40
    if o ≤ 0x18 then [⟨0, 64, .wo, false, 0, 2 ^ 64⟩]
    else if o = 0x20 then [⟨0, 32, .wo, false, 0, 2 ^ 32⟩]
    else if o = 0x28 then [⟨0, 2, .wo, false, 0, 3⟩]
    else []
  else if 0x58000 ≤ off ∧ off < 0x60000 then [⟨0, 57, .rwl, false, 0, 2 ^ 57⟩]
  else if 0x60000 ≤ off ∧ off < 0x60400 then
    let o := off % 0x100
    if o = 0 then
      [⟨0, 1, .rwl, false, 0, 1⟩, ⟨1, 3, .rwl, false, 0, 3⟩, ⟨4, 6, .rwl, false, 0, 63⟩, ⟨10, 2, .rwl, false, 0, 2⟩,
       ⟨12, 3, .rwl, false, 1, 4⟩, ⟨16, 8, .rwl, false, 2, 255⟩, ⟨24, 4, .rwl, false, 0, 8⟩]
    else if o = 8 then [⟨0, 20, .rwl, false, 0, 1000000⟩, ⟨32, 20, .rwl, false, 0, 1000000⟩]
    else if o = 0x10 then [⟨0, 32, .rwl, false, 1, 2 ^ 32⟩, ⟨32, 32, .rwl, false, 0, 2 ^ 32⟩]
    else []
  else if 0x60400 ≤ off ∧ off < 0x60420 then [⟨0, 64, .rw, false, 0, 2 ^ 64⟩]
  else if off = Reg.ephCmd then [⟨0, 2, .wo, false, 0, 3⟩, ⟨16, 10, .wo, false, 0, 1023⟩]
  else if off = Reg.merEvt then [⟨0, 20, .w1c, false, 0, 2 ^ 20⟩]
  else if off = Reg.faultCfg then [⟨0, 1, .rwl, false, 0, 1⟩, ⟨1, 1, .rwl, false, 0, 1⟩, ⟨16, 14, .rwl, false, 1, 10000⟩]
  else if off = Reg.faultAck then [⟨0, 32, .wo, false, 0, 2 ^ 32⟩]
  else if off = Reg.fqBase then [⟨0, 5, .rwl, false, 0, 16⟩, ⟨12, 36, .rwl, false, 0, 2 ^ 36⟩]
  else if off = Reg.fqHead then [⟨0, 32, .rw, false, 0, 2 ^ 32⟩]
  else if 0x71000 ≤ off ∧ off ≤ 0x71800 then
    if (Reg.resetValue off).toNat = 0 then []
    else [⟨0, 20, .rwl, false, 0, 1000000⟩, ⟨32, 2, .rwl, false, 0, 3⟩]
  else if 0x72000 ≤ off ∧ off < 0x73840 then [⟨48, 1, .w1c, false, 0, 1⟩, ⟨49, 1, .rw, false, 0, 1⟩]
  else if off = Reg.pwrCtrl then [⟨0, 1, .wo, false, 0, 1⟩]
  else if off = Reg.dbgCtrl then [⟨0, 1, .rw, false, 0, 1⟩, ⟨1, 1, .rw, false, 0, 1⟩]
  else if off = Reg.dbgPeek then [⟨6, 20, .rw, false, 0, 2 ^ 20⟩]
  else []

/-- The bits of a register that a test on its field rows selects. -/
def Reg.mask (off : Nat) (p : FSpec → Bool) : W64 :=
  ((Reg.specs off).filter p).foldl (fun m f => m ||| BitVec.ofNat 64 ((2 ^ f.w - 1) <<< f.lo)) 0

/-- Values of one field that are not an interval: `owner` 8 to 14 (R119), `qmul` 3 (R340), `fq_log2` 1 to 5 (R386), `dt_log2` 1 to 3
(R95). -/
def Reg.hole (off lo v : Nat) : Bool :=
  if (0x20000 ≤ off ∧ off < 0x20800) ∨ (0x30400 ≤ off ∧ off < 0x30480) then 8 ≤ v && v ≤ 14
  else if 0x60000 ≤ off ∧ off < 0x60400 ∧ off % 0x100 = 0 ∧ lo = 12 then v == 3
  else if off = Reg.fqBase ∧ lo = 0 then 1 ≤ v && v ≤ 5
  else if 0x10000 ≤ off ∧ off < 0x18000 ∧ off % 0x1000 = 0x40 ∧ lo = 0 then 1 ≤ v && v ≤ 3
  else false

/-- Every field of `new` is legal or as it was in `old` (R421), and the shares of R179 sum to at most 63. -/
def Reg.legal (off : Nat) (old new : W64) : Bool :=
  (Reg.specs off).all (fun f =>
    let v := bits new.toNat f.lo f.w
    (f.t == .wo) || (f.t == .w1c) || v == bits old.toNat f.lo f.w || (f.min ≤ v && v ≤ f.max && !Reg.hole off f.lo v))
  && (off != Reg.bwCfg || bits new.toNat 16 6 + bits new.toNat 24 6 + bits new.toNat 32 6 ≤ 63)

/-- Whether a register belongs to the relay domain (R419). -/
def Reg.relayDomain (off : Nat) : Bool := (0x50000 ≤ off && off < 0x60000) || off == Reg.dbgCtrl

/-- The context whose E-marked fields a register holds, if any (R420). -/
def Reg.ctxOf (off : Nat) : Option Nat :=
  if off = Reg.mcSq ∨ off = Reg.mcCq then some 8
  else if 0x10000 ≤ off ∧ off < 0x18000 then some ((off - 0x10000) / 0x1000)
  else none

-- the register file

/-- A register's value. -/
def State.reg (s : State) (off : Nat) : W64 := Sparse.get Reg.resetValue s.regs off

/-- Write a whole register. -/
def State.setReg (s : State) (off : Nat) (v : W64) : State := { s with regs := Sparse.set Reg.resetValue s.regs off v }

/-- A field's value. -/
def State.fld (s : State) (f : Fld) : Nat := bits (s.reg f.off).toNat f.lo f.w

/-- Replace bits [lo + w − 1 : lo] of a word. -/
def putBits (r : W64) (lo w v : Nat) : W64 :=
  (r &&& ~~~(BitVec.ofNat 64 ((2 ^ w - 1) <<< lo))) ||| BitVec.ofNat 64 ((v % 2 ^ w) <<< lo)

/-- Set a field (hardware's own update). -/
def State.setFld (s : State) (f : Fld) (v : Nat) : State := s.setReg f.off (putBits (s.reg f.off) f.lo f.w v)

/-- Count up, saturating at all ones (R419). -/
def State.sat (s : State) (f : Fld) (n : Nat := 1) : State := s.setFld f (satInc f.w (s.fld f) n)

/-- Count up, wrapping (R419). -/
def State.wrap (s : State) (f : Fld) (n : Nat := 1) : State := s.setFld f (s.fld f + n)

namespace F
def badAcc : Fld := ⟨Reg.badAcc, 0, 32⟩
def lockViol : Fld := ⟨Reg.lockViol, 0, 32⟩
def id : Fld := ⟨0, 0, 40⟩
def mcEnable : Fld := ⟨Reg.mcCtrl, 0, 1⟩
def mcMbSel : Fld := ⟨Reg.mcCtrl, 2, 2⟩
/-- `enable` or `mc_enable` of a context. -/
def enable (c : Nat) : Fld := if c = 8 then mcEnable else ⟨Reg.ten c 0, 0, 1⟩
def cfgErr (c : Nat) : Fld := if c = 8 then ⟨Reg.mcStatus, 32, 4⟩ else ⟨Reg.ten c 8, 0, 4⟩
def draining (c : Nat) : Fld := if c = 8 then ⟨Reg.mcStatus, 36, 1⟩ else ⟨Reg.ten c 8, 4, 1⟩
def privViol (t : Nat) : Fld := ⟨Reg.ten t 8, 32, 32⟩
def schedWeight (t : Nat) : Fld := ⟨Reg.ten t 0x10, 0, 4⟩
def prioCap (t : Nat) : Fld := ⟨Reg.ten t 0x10, 4, 3⟩
def winQuota (t : Nat) : Fld := ⟨Reg.ten t 0x10, 8, 18⟩
def sbQuota (t : Nat) : Fld := ⟨Reg.ten t 0x10, 26, 13⟩
def pfMode (t : Nat) : Fld := ⟨Reg.ten t 0x18, 0, 1⟩
def ptRoot (t : Nat) : Fld := ⟨Reg.ten t 0x18, 12, 36⟩
def paLo (t : Nat) : Fld := ⟨Reg.ten t 0x20, 0, 27⟩
def paHi (t : Nat) : Fld := ⟨Reg.ten t 0x20, 32, 27⟩
def pfTimeout (t : Nat) : Fld := ⟨Reg.ten t 0x28, 0, 16⟩
def nrLimit (t : Nat) : Fld := ⟨Reg.ten t 0x28, 16, 16⟩
def bpTimeout (t : Nat) : Fld := ⟨Reg.ten t 0x28, 32, 20⟩
def tmBase (t : Nat) : Fld := ⟨Reg.ten t 0x30, 0, 6⟩
def tmLimit (t : Nat) : Fld := ⟨Reg.ten t 0x30, 8, 6⟩
def tmEn (t : Nat) : Fld := ⟨Reg.ten t 0x30, 16, 1⟩
def ctrBase (t : Nat) : Fld := ⟨Reg.ten t 0x38, 0, 8⟩
def ctrLen (t : Nat) : Fld := ⟨Reg.ten t 0x38, 16, 9⟩
def dtLog2 (t : Nat) : Fld := ⟨Reg.ten t 0x40, 0, 5⟩
def dtBase (t : Nat) : Fld := ⟨Reg.ten t 0x40, 12, 36⟩
def tRd (t : Nat) : Fld := ⟨Reg.ten t 0x48, 0, 7⟩
def tWr (t : Nat) : Fld := ⟨Reg.ten t 0x48, 8, 7⟩
def tRm (t : Nat) : Fld := ⟨Reg.ten t 0x48, 16, 7⟩
def wcWays (t : Nat) : Fld := ⟨Reg.ten t 0x48, 32, 16⟩
def ordProfile (t : Nat) : Fld := ⟨Reg.ten t 0x50, 0, 1⟩
def remoteEn (t : Nat) : Fld := ⟨Reg.ten t 0x50, 1, 1⟩
def mbSel (c : Nat) : Fld := if c < 8 then ⟨Reg.ten c 0x50, 2, 2⟩ else mcMbSel
def mbxCount (t : Nat) : Fld := ⟨Reg.ten t 0x50, 16, 14⟩
def rlogQuota (t : Nat) : Fld := ⟨Reg.ten t 0x50, 32, 13⟩
def ephQuota (t : Nat) : Fld := ⟨Reg.ten t 0x50, 48, 11⟩
def cqStallLimit (c : Nat) : Fld := if c = 8 then ⟨Reg.mcCtrl, 16, 10⟩ else ⟨Reg.ten c 0x58, 0, 10⟩
def sqReg (c k : Nat) : Nat := if c = 8 then Reg.mcSq else Reg.ten c (0x100 + 8 * k)
def cqReg (c k : Nat) : Nat := if c = 8 then Reg.mcCq else Reg.ten c (0x180 + 8 * k)
def sqLog2 (c k : Nat) : Fld := ⟨sqReg c k, 0, 5⟩
def sqBase (c k : Nat) : Fld := ⟨sqReg c k, 12, 36⟩
def cqSel (c k : Nat) : Fld := if c = 8 then ⟨sqReg c k, 64, 4⟩ else ⟨sqReg c k, 8, 4⟩
def cqLog2 (c k : Nat) : Fld := ⟨cqReg c k, 0, 5⟩
def irqOnFail (c k : Nat) : Fld := ⟨cqReg c k, 8, 1⟩
def cqBase (c k : Nat) : Fld := ⟨cqReg c k, 12, 36⟩
def sqHeadReg (c k : Nat) : Nat := if c = 8 then Reg.mcSqHead else Reg.ten c (0x200 + 8 * k)
def cqTailReg (c k : Nat) : Nat := if c = 8 then Reg.mcCqTail else Reg.ten c (0x280 + 8 * k)
def sqHead (c k : Nat) : Fld := ⟨sqHeadReg c k, 0, 32⟩
def sqTail (c k : Nat) : Fld := ⟨sqHeadReg c k, 32, 32⟩
def cqTail (c k : Nat) : Fld := ⟨cqTailReg c k, 0, 32⟩
def cqHead (c k : Nat) : Fld := ⟨cqTailReg c k, 32, 32⟩
/-- The counts XH_TEN_CNTi (R426); those of the MC where it has one. -/
def tenCnt (t i w : Nat) : Fld := ⟨Reg.ten t (0x300 + 8 * i), 0, w⟩
def dbErr (c : Nat) : Fld := if c = 8 then ⟨Reg.mcStatus, 0, 32⟩ else tenCnt c 0 64
def descRef (t : Nat) : Fld := tenCnt t 3 64
def oobDrop (t : Nat) : Fld := tenCnt t 4 32
def maskFill (t : Nat) : Fld := tenCnt t 5 32
def partViol (t : Nat) : Fld := tenCnt t 6 64
def xlatViol (t : Nat) : Fld := tenCnt t 7 64
def mbxViol (t : Nat) : Fld := tenCnt t 8 64
def stale (t : Nat) : Fld := tenCnt t 10 64
def dlMiss (t : Nat) : Fld := tenCnt t 11 64
def ephSkip (t : Nat) : Fld := tenCnt t 12 64
def sliceXclk : Fld := ⟨Reg.schedCfg, 0, 18⟩
def schedEpoch : Fld := ⟨Reg.schedCfg, 32, 16⟩
def bwTotal : Fld := ⟨Reg.bwCfg, 0, 10⟩
def rdShare : Fld := ⟨Reg.bwCfg, 16, 6⟩
def wrShare : Fld := ⟨Reg.bwCfg, 24, 6⟩
def rmShare : Fld := ⟨Reg.bwCfg, 32, 6⟩
def shrBase : Fld := ⟨Reg.tmShared, 0, 6⟩
def shrLimit : Fld := ⟨Reg.tmShared, 8, 6⟩
def shrEn : Fld := ⟨Reg.tmShared, 16, 1⟩
def shrWrEn : Fld := ⟨Reg.tmShared, 17, 1⟩
def shrLoader : Fld := ⟨Reg.tmShared, 20, 3⟩
def shrRdMask : Fld := ⟨Reg.tmShared, 32, 8⟩
def scrubStep : Fld := ⟨Reg.tmCfg, 0, 16⟩
/-- The physical bank that serves a logical bank (R425). -/
def spare (l : Nat) : Fld := ⟨Reg.spareMap (l / 4), 16 * (l % 4), 10⟩
def chOwner (n : Nat) : Fld := ⟨Reg.chCfg n, 0, 4⟩
def chState (n : Nat) : Fld := ⟨Reg.chStatus n, 0, 4⟩
def chSlot (n : Nat) : Fld := ⟨Reg.chStatus n, 4, 12⟩
def movetErr (n : Nat) : Fld := ⟨Reg.chStatus n, 16, 4⟩
def chDone (n : Nat) : Fld := ⟨Reg.chDone n, 0, 32⟩
/-- The physical column that serves an active column of an engine (R428). -/
def col (e c : Nat) : Fld := ⟨Reg.colMap e (c / 8), 8 * (c % 8), 6⟩
def splitMode : Fld := ⟨Reg.splitStatus, 0, 1⟩
def meMask (t : Nat) : Fld := ⟨Reg.splitStatus, 2 * t + 2, 2⟩
def vsOwner (i : Nat) : Fld := ⟨Reg.vsCfg i, 0, 4⟩
def xlatOut (t : Nat) : Fld := ⟨Reg.xlatOut t, 0, 7⟩
def chipId : Fld := ⟨Reg.fabId, 0, 12⟩
def dims : Fld := ⟨Reg.fabId, 16, 12⟩
def fabValid : Fld := ⟨Reg.fabId, 31, 1⟩
def nrRetry : Fld := ⟨Reg.relayCfg, 0, 20⟩
def ackTimeout : Fld := ⟨Reg.relayCfg, 32, 14⟩
def resendCnt : Fld := ⟨Reg.relayStat, 0, 32⟩
def nrLogCount : Fld := ⟨Reg.relayStat, 32, 9⟩
def modidBus : Fld := ⟨Reg.modidCfg, 0, 7⟩
def modidOff : Fld := ⟨Reg.modidCfg, 16, 16⟩
def ovrEn : Fld := ⟨Reg.modidOvr, 24, 1⟩
def encEn (p : Nat) : Fld := ⟨Reg.port p 0, 0, 1⟩
def txKeySel (p : Nat) : Fld := ⟨Reg.port p 0, 1, 2⟩
def uncLimit (p : Nat) : Fld := ⟨Reg.port p 0, 8, 8⟩
def authLimit (p : Nat) : Fld := ⟨Reg.port p 0, 16, 8⟩
def linkState (p : Nat) : Fld := ⟨Reg.port p 0x10, 0, 3⟩
def identFail (p : Nat) : Fld := ⟨Reg.port p 0x10, 4, 4⟩
def rxLastSel (p : Nat) : Fld := ⟨Reg.port p 0x10, 8, 2⟩
def partnerReady (p : Nat) : Fld := ⟨Reg.port p 0x10, 10, 1⟩
def partnerChip (p : Nat) : Fld := ⟨Reg.port p 0x10, 16, 12⟩
def partnerSerial (p : Nat) : Fld := ⟨Reg.port p 0x18, 0, 64⟩
def badFrame (p : Nat) : Fld := ⟨Reg.port p 0x20, 0, 16⟩
def authDrop (p : Nat) : Fld := ⟨Reg.port p 0x20, 16, 16⟩
def aliveRep (p : Nat) : Fld := ⟨Reg.port p 0x20, 32, 16⟩
def aliveLoss (p : Nat) : Fld := ⟨Reg.port p 0x20, 48, 16⟩
def authFail (p : Nat) : Fld := ⟨Reg.port p 0x28, 0, 16⟩
def cwCorr (p : Nat) : Fld := ⟨Reg.port p 0x28, 32, 32⟩
def keyId (p sl : Nat) : Fld := ⟨Reg.port p 0x38, 16 * sl, 16⟩
def fabGen (n : Nat) : Fld := ⟨Reg.fabGen n, 32 * (n % 2), 32⟩
def grpId (n : Nat) : Fld := ⟨Reg.fabGrp n, 0, 12⟩
def grpMember (n : Nat) : Fld := ⟨Reg.fabGrp n, 12, 2⟩
def grpSize (n : Nat) : Fld := ⟨Reg.fabGrp n, 14, 2⟩
def grpM (n i : Nat) : Fld := ⟨Reg.fabGrp n, 16 + 12 * i, 12⟩
def grpIn (n : Nat) : Fld := ⟨Reg.fabGrp n, 52, 3⟩
def grpActive (n : Nat) : Fld := ⟨Reg.fabGrp n, 55, 2⟩
def mbEn (b : Nat) : Fld := ⟨Reg.mb b 0, 0, 1⟩
def mbMode (b : Nat) : Fld := ⟨Reg.mb b 0, 1, 3⟩
def mbInvA (b : Nat) : Fld := ⟨Reg.mb b 0, 4, 1⟩
def mbInvB (b : Nat) : Fld := ⟨Reg.mb b 0, 5, 1⟩
def mbInvZ (b : Nat) : Fld := ⟨Reg.mb b 0, 6, 1⟩
def mbDir (b : Nat) : Fld := ⟨Reg.mb b 0, 7, 1⟩
def mbEdge (b : Nat) : Fld := ⟨Reg.mb b 0, 8, 1⟩
def mbHoldExit (b : Nat) : Fld := ⟨Reg.mb b 0, 9, 1⟩
def mbZMode (b : Nat) : Fld := ⟨Reg.mb b 0, 10, 2⟩
def mbQmul (b : Nat) : Fld := ⟨Reg.mb b 0, 12, 3⟩
def mbFilt (b : Nat) : Fld := ⟨Reg.mb b 0, 16, 8⟩
def mbSlew (b : Nat) : Fld := ⟨Reg.mb b 0, 24, 4⟩
def mbStuckUs (b : Nat) : Fld := ⟨Reg.mb b 8, 0, 20⟩
def mbHoldUs (b : Nat) : Fld := ⟨Reg.mb b 8, 32, 20⟩
def mbZPeriod (b : Nat) : Fld := ⟨Reg.mb b 0x10, 0, 32⟩
def mbPosInit (b : Nat) : Fld := ⟨Reg.mb b 0x10, 32, 32⟩
def mbState (b : Nat) : Fld := ⟨Reg.mb b 0x20, 0, 3⟩
def mbCause (b : Nat) : Fld := ⟨Reg.mb b 0x20, 3, 2⟩
def mbSlewing (b : Nat) : Fld := ⟨Reg.mb b 0x20, 5, 1⟩
def mbResync (b : Nat) : Fld := ⟨Reg.mb b 0x20, 32, 32⟩
def mbZLatch (b : Nat) : Fld := ⟨Reg.mb b 0x30, 0, 48⟩
def mbGlitch (b : Nat) : Fld := ⟨Reg.mb b 0x38, 0, 16⟩
def mbExcess (b : Nat) : Fld := ⟨Reg.mb b 0x38, 16, 16⟩
def mbQuadErr (b : Nat) : Fld := ⟨Reg.mb b 0x38, 32, 16⟩
def mbZErr (b : Nat) : Fld := ⟨Reg.mb b 0x38, 48, 16⟩
def ephIdx : Fld := ⟨Reg.ephStatus, 0, 10⟩
def ephErr : Fld := ⟨Reg.ephStatus, 16, 4⟩
def ephBusy : Fld := ⟨Reg.ephStatus, 24, 1⟩
def ephLost : Fld := ⟨Reg.ephStatus, 25, 1⟩
def ephUsed : Fld := ⟨Reg.ephStatus, 32, 11⟩
def merEvt (b i : Nat) : Fld := ⟨Reg.merEvt, 5 * b + i, 1⟩
def errOnCor : Fld := ⟨Reg.faultCfg, 0, 1⟩
def vesper : Fld := ⟨Reg.faultCfg, 1, 1⟩
def twilightMs : Fld := ⟨Reg.faultCfg, 16, 14⟩
def faultState : Fld := ⟨Reg.faultStatus, 0, 1⟩
def outputs : Fld := ⟨Reg.faultStatus, 1, 3⟩
def ackErr : Fld := ⟨Reg.faultStatus, 32, 16⟩
def mergeCnt : Fld := ⟨Reg.faultStatus, 48, 16⟩
def recovCnt : Fld := ⟨Reg.recovCnt, 0, 32⟩
def fqLog2 : Fld := ⟨Reg.fqBase, 0, 5⟩
def fqAddr : Fld := ⟨Reg.fqBase, 12, 36⟩
def fqTail : Fld := ⟨Reg.fqTail, 0, 32⟩
def fqHead : Fld := ⟨Reg.fqHead, 0, 32⟩
def fqOvf (cls : Nat) : Fld := ⟨Reg.fqOvf, 16 * (cls - 2), 16⟩
def ecl (u : Nat) : Fld := ⟨Reg.ecl (u / 64), u % 64, 1⟩
def reactUs (u : Nat) : Fld := ⟨Reg.react u, 0, 20⟩
def reactAct (u : Nat) : Fld := ⟨Reg.react u, 32, 2⟩
def vspClass (u : Nat) : Fld := ⟨Reg.vsp u, 0, 2⟩
def vspCause (u : Nat) : Fld := ⟨Reg.vsp u, 16, 16⟩
def vspCount (u : Nat) : Fld := ⟨Reg.vsp u, 32, 16⟩
def vspPend (u : Nat) : Fld := ⟨Reg.vsp u, 48, 1⟩
def vspIen (u : Nat) : Fld := ⟨Reg.vsp u, 49, 1⟩
def cvuRes (u : Nat) : Fld := ⟨Reg.cvu u 0, 0, 64⟩
def cvuCtx (u : Nat) : Fld := ⟨Reg.cvu u 8, 0, 4⟩
def cvuTag (u : Nat) : Fld := ⟨Reg.cvu u 8, 16, 16⟩
def cvuSeq (u : Nat) : Fld := ⟨Reg.cvu u 0x10, 0, 32⟩
def cvuCount (u : Nat) : Fld := ⟨Reg.cvu u 0x10, 32, 32⟩
def pwrState : Fld := ⟨Reg.pwrStatus 0, 0, 2⟩
def pwrReady : Fld := ⟨Reg.pwrStatus 0, 2, 1⟩
def pwrRetained : Fld := ⟨Reg.pwrStatus 0, 3, 1⟩
def pwrLockCore : Fld := ⟨Reg.pwrStatus 0, 4, 1⟩
def pwrLockRelay : Fld := ⟨Reg.pwrStatus 0, 5, 1⟩
def pwrDbgLocked : Fld := ⟨Reg.pwrStatus 0, 6, 1⟩
def pwrNoRetain : Fld := ⟨Reg.pwrStatus 0, 7, 1⟩
def bringupErr : Fld := ⟨Reg.pwrStatus 0, 16, 16⟩
def wakeErr : Fld := ⟨Reg.pwrStatus 0, 32, 16⟩
def bist1 : Fld := ⟨Reg.pwrStatus 1, 0, 64⟩
def bist2 : Fld := ⟨Reg.pwrStatus 2, 0, 33⟩
def banksSpared : Fld := ⟨Reg.pwrStatus 2, 36, 4⟩
def colsSpared (e : Nat) : Fld := ⟨Reg.pwrStatus 2, 40 + 2 * e, 2⟩
def pwrEst : Fld := ⟨Reg.pwrEst, 0, 16⟩
def peekEn : Fld := ⟨Reg.dbgCtrl, 1, 1⟩
def peekAddr : Fld := ⟨Reg.dbgPeek, 6, 20⟩
def peekUe : Fld := ⟨Reg.dbgPeek, 0, 1⟩
def peekCe : Fld := ⟨Reg.dbgPeek, 1, 1⟩
def radisc (n : Nat) : Fld := ⟨Reg.chRadisc n, 0, 64⟩
def accSat (e : Nat) : Fld := ⟨Reg.meSat e, 0, 32⟩
end F

/-- What a write of `v` under the bit mask `m` makes of a register holding `old`: by access type, with the RWL fields left as
they stand when `locked` (R6, R443). -/
def Reg.written (off : Nat) (old v m : W64) (locked : Bool) : W64 :=
  let rwl := if locked then 0 else Reg.mask off (·.t == .rwl)
  let wm := m &&& (Reg.mask off (·.t == .rw) ||| rwl)
  ((old &&& ~~~wm) ||| (v &&& wm)) &&& ~~~(v &&& m &&& Reg.mask off (·.t == .w1c))

end Sys2Proof.Machine
end

