-- ==== Sys2Proof/Machine/Ops.lean ====
section
/-! DEFINITION. The named operations over the state that every command shares: free values, numbered units, memories, time,
Meridian positions and stamps, counters, interrupt events. -/

namespace Sys2Proof.Machine

/-- What a step of the machine answers. -/
abbrev Out := Host.Outcome State Fault Refusal

-- free values: each use advances the counter, so each use is a fresh value (log entry 2)

/-- A free number below `n` (0 when `n` is 0), and the state after the draw. -/
def State.drawBelow (s : State) (n : Nat) : Nat × State := (Config.freeNat s.free % n, { s with free := s.free + 1 })

/-- A free yes or no, and the state after the draw. -/
def State.drawBool (s : State) : Bool × State := (Config.freeBool s.free, { s with free := s.free + 1 })

-- numbered parts

def State.ctx (s : State) (c : Nat) : Ctx := Sparse.get (fun _ => {}) s.ctxs c
def State.setCtx (s : State) (c : Nat) (x : Ctx) : State := { s with ctxs := Sparse.set (fun _ => {}) s.ctxs c x }
def State.modCtx (s : State) (c : Nat) (f : Ctx → Ctx) : State := s.setCtx c (f (s.ctx c))
def State.chan (s : State) (n : Nat) : Chan := Sparse.get (fun _ => {}) s.chans n
def State.setChan (s : State) (n : Nat) (x : Chan) : State := { s with chans := Sparse.set (fun _ => {}) s.chans n x }
def State.modChan (s : State) (n : Nat) (f : Chan → Chan) : State := s.setChan n (f (s.chan n))
/-- Every channel that is not as after reset changes. -/
def State.eachChan (s : State) (f : Chan → Chan) : State := (s.chans.map (·.1)).foldl (fun s n => s.modChan n f) s
def State.port (s : State) (p : Nat) : Port := Sparse.get (fun _ => {}) s.relay.ports p
def State.setPort (s : State) (p : Nat) (x : Port) : State :=
  { s with relay := { s.relay with ports := Sparse.set (fun _ => {}) s.relay.ports p x } }
def State.modPort (s : State) (p : Nat) (f : Port → Port) : State := s.setPort p (f (s.port p))
def State.base (s : State) (b : Nat) : Base := Sparse.get (fun _ => {}) s.mer.bases b
def State.setBase (s : State) (b : Nat) (x : Base) : State :=
  { s with mer := { s.mer with bases := Sparse.set (fun _ => {}) s.mer.bases b x } }
def State.modBase (s : State) (b : Nat) (f : Base → Base) : State := s.setBase b (f (s.base b))
def State.setColl (s : State) (c : Coll) : State := { s with coll := c }
def State.setRelay (s : State) (r : Relay) : State := { s with relay := r }
def State.setRep (s : State) (r : Replica) : State := { s with rep := r }
def State.setMer (s : State) (m : Meridian) : State := { s with mer := m }
def State.setPins (s : State) (p : Pins) : State := { s with pins := p }

/-- The tenant that owns vector stage `i`, 15 for none (R226): the owner in effect, which differs from the register's while a change
waits. -/
def State.vsOwn (s : State) (i : Nat) : Nat := Sparse.get (fun _ => 15) s.vsOwners i

-- graphs and nodes

def State.graph (s : State) (g : Nat) : Option Graph := s.graphs.find? (·.id == g)
def State.modGraph (s : State) (g : Nat) (f : Graph → Graph) : State :=
  { s with graphs := updFirst (fun x => x.id == g) f s.graphs }
def State.dropGraph (s : State) (g : Nat) : State := { s with graphs := s.graphs.filter (·.id != g) }
def Graph.node (g : Graph) (n : Nat) : Option Node := g.nodes.find? (·.idx == n)
def State.node (s : State) (g n : Nat) : Option Node := (s.graph g).bind (·.node n)
def State.modNode (s : State) (g n : Nat) (f : Node → Node) : State :=
  s.modGraph g (fun x => { x with nodes := updFirst (fun y => y.idx == n) f x.nodes })

/-- A graph's effective priority (R83). -/
def State.effPrio (s : State) (g : Graph) : Nat := Nat.min g.prio (s.fld (F.prioCap g.ctx))
/-- A tenant's position in the grant round robin (R442). -/
def State.rrPos (s : State) (t : Nat) : Nat := (t + 8 - s.grantFirst) % 8
/-- The rank keys of a node; an entry that runs as a one-node graph ranks behind every node at the last of them (R83, R283). -/
def State.rankKeys (s : State) (g : Graph) (n : Node) : List Nat :=
  [7 - s.effPrio g, s.rrPos g.ctx, n.age.getD 0, if g.entryOnly then 2 ^ 32 else n.seq.toNat]
/-- The rank keys of a counter operation of a node, or of its program on a channel; ties go to nodes first, then to channels in ascending
order (R283). -/
def State.nodeRank (s : State) (g n : Nat) (ch : Option Nat) : List Nat :=
  (match s.graph g, s.node g n with
    | some gr, some nd => s.rankKeys gr nd
    | _, _ => [8, 8, 0, 0]) ++ (match ch with | some c => [1, c] | none => [0, 0])

/-- One slice of a node has run (R91). -/
def State.countSlice (s : State) (g n : Nat) : State :=
  (s.modNode g n (fun x => { x with run := x.run + 1 })).modGraph g (fun x => { x with slices := x.slices + 1 })

-- system memory (behind S0 to S3) and tile memory, byte by byte

/-- One byte of system memory itself; a byte that nothing has stored reads 0 (log entry 5). The bytes of a descriptor-table entry that
hold the block's derived state, in a form that R95 does not define, read as free bytes (log entry 2). -/
def State.rawByte (s : State) (pa : Nat) : Byte :=
  match s.derived.find? (fun x => x.1 ≤ pa && pa < x.1 + 128) with
  | some x => Config.freeByte (x.2 + (pa - x.1))
  | none => Sparse.get (fun _ => 0) s.sys pa
/-- One byte at the point of coherence: a CPU cache's copy in preference to memory (R14, R300). -/
def State.sysByte (s : State) (pa : Nat) : Byte :=
  match Sparse.get (fun _ => 0) s.cpu pa with
  | 0 => s.rawByte pa
  | b + 1 => BitVec.ofNat 8 b
def State.setRawByte (s : State) (pa : Nat) (b : Byte) : State := { s with sys := Sparse.set (fun _ => 0) s.sys pa b }
/-- A coherent write of one byte: a CPU cache's copy of it is invalidated (R14). -/
def State.setSysByte (s : State) (pa : Nat) (b : Byte) : State :=
  { s.setRawByte pa b with cpu := Sparse.set (fun _ => 0) s.cpu pa 0 }
/-- Bytes at the point of coherence in ascending address order. -/
def State.sysRd (s : State) (pa : Nat) : Nat → List Byte
  | 0 => []
  | n + 1 => s.sysByte pa :: s.sysRd (pa + 1) n
/-- Bytes of memory itself, as an access without snooping finds them (R14). -/
def State.rawRd (s : State) (pa : Nat) : Nat → List Byte
  | 0 => []
  | n + 1 => s.rawByte pa :: s.rawRd (pa + 1) n
/-- Store bytes coherently in ascending address order. -/
def State.sysWr (s : State) : Nat → List Byte → State
  | _, [] => s
  | pa, b :: l => (s.setSysByte pa b).sysWr (pa + 1) l
/-- Store bytes without snooping: stale copies in CPU caches stay (R14). -/
def State.rawWr (s : State) : Nat → List Byte → State
  | _, [] => s
  | pa, b :: l => (s.setRawByte pa b).rawWr (pa + 1) l
/-- A CPU's stores that stand in its cache. -/
def State.cpuWr (s : State) : Nat → List Byte → State
  | _, [] => s
  | pa, b :: l => { s with cpu := Sparse.set (fun _ => 0) s.cpu pa (b.toNat + 1) }.cpuWr (pa + 1) l
/-- CPU caches hold a byte of the range. -/
def State.cpuHolds (s : State) (pa n : Nat) : Bool := s.cpu.any (fun e => pa ≤ e.1 && e.1 < pa + n)
/-- CPU caches write a range back and drop it (R299). -/
def State.writeBack (s : State) (pa n : Nat) : State := s.sysWr pa (s.sysRd pa n)
/-- One byte of tile memory; it is zero until something is written there, as the clear of bring-up leaves it (R196). -/
def State.tileByte (s : State) (a : Nat) : Byte := Sparse.get (fun _ => 0) s.tile a
def State.setTileByte (s : State) (a : Nat) (b : Byte) : State := { s with tile := Sparse.set (fun _ => 0) s.tile a b }
def State.tileRd (s : State) (a : Nat) : Nat → List Byte
  | 0 => []
  | n + 1 => s.tileByte a :: s.tileRd (a + 1) n
def State.tileWr (s : State) : Nat → List Byte → State
  | _, [] => s
  | a, b :: l => (s.setTileByte a b).tileWr (a + 1) l
/-- Zero a range of tile memory: no byte of it is listed any more, and no error is left in it (R196, R200). -/
def State.tileClear (s : State) (base len : Nat) : State :=
  { s with tile := s.tile.filter (fun e => e.1 < base || base + len ≤ e.1)
           ecc := s.ecc.filter (fun e => 8 * e.1 < base || base + len ≤ 8 * e.1) }
/-- Host stores that are visible before the command that carries them (R52). -/
def State.hostStores (s : State) (l : List HostStore) : State :=
  l.foldl (fun s h => if h.cached then s.cpuWr (h.pa % 2 ^ 48) h.bytes else s.sysWr (h.pa % 2 ^ 48) h.bytes) s

-- time

/-- `n` nanoseconds pass: the always-on clock and the time counter advance together (R24, R34). -/
def State.advance (s : State) (n : Nat) : State := { s with aon := s.aon + n, tc := s.tc + BitVec.ofNat 64 n }
/-- Time moves on to the moment `t` of the always-on clock, if it lies ahead (log entry 4). -/
def State.advanceTo (s : State) (t : Nat) : State := s.advance (t - s.aon)

-- what runs

/-- The core answers the host: X0 or X1, or waiting for isolation after SET_POWER (R19). -/
def State.coreUp (s : State) : Bool := s.phase == .x0 || s.phase == .x1
/-- The engines and the scheduler run: X0, no fatal fault, xh_clk running (R384, R407). -/
def State.engines (s : State) : Bool := s.phase == .x0 && !s.coll.fatal && s.pins.clkRun
/-- The scheduler may fetch, admit and grant: no SET_POWER is winding down (R407). -/
def State.granting (s : State) : Bool := s.engines && s.powerTo.isNone

-- interrupt messages (R22, R39)

/-- The vector's bit in one of the three pairs of registers (`reg` gives the register of a half). -/
def irqFld (reg : Nat → Nat) (v : Nat) : Fld := ⟨reg (v / 64), v % 64, 1⟩

/-- Whether a message may leave on xh_msg for a vector: X0, or X1 for the manager, the collector and Meridian (R39). -/
def State.mayMsg (s : State) (v : Nat) : Bool :=
  s.pins.clkRun && (s.phase == .x0 || (s.phase == .x1 && 72 ≤ v))

/-- The vector belongs to a tenant whose CLEAR_TENANT is under way: it sends no further message (R42). -/
def State.muted (s : State) (v : Nat) : Bool := 64 ≤ v && v < 72 && (s.ctx (v - 64)).clearing.isSome

/-- Send the vector's message if its pending bit is set, it is not masked and no earlier one waits (R22). -/
def State.sendMsg (s : State) (v : Nat) : State :=
  if s.muted v then s
  else if s.fld (irqFld Reg.irqPend v) = 1 ∧ s.fld (irqFld Reg.irqMask v) = 0 ∧ !s.msgWait.contains v ∧ s.mayMsg v then
    { s.setFld (irqFld Reg.irqPend v) 0 with msgWait := s.msgWait ++ [v] }
  else s

/-- Every vector whose message can leave sends it. -/
def State.sendMsgs (s : State) : State := (List.range 75).foldl (fun s v => s.sendMsg v) s

/-- An event on a vector (R22): an event while its message waits unmasked on xh_msg is merged into it. -/
def State.event (s : State) (v : Nat) : State :=
  if s.fld (irqFld Reg.irqEn v) = 0 || s.muted v then s
  else if s.msgWait.contains v && s.fld (irqFld Reg.irqMask v) == 0 then s
  else (s.setFld (irqFld Reg.irqPend v) 1).sendMsg v

/-- The vector of a context (R20). -/
def ctxVector (c : Nat) : Nat := 64 + c

-- Meridian positions (R345 to R349) and stamps (R360)

/-- Time since the last counted edge, in 2^-16 units of the tracked interval. -/
def State.mbFrac (s : State) (b : Nat) : Nat :=
  let x := s.base b
  (s.aon - x.last) * 65536 * x.trkDen / x.trkNum

/-- The position of a base now: integer part above, fraction in the low 16 bits. -/
def State.mbPos (s : State) (b : Nat) : BitVec 48 :=
  let x := s.base b
  let c : BitVec 48 := BitVec.ofNat 48 (x.count.toNat <<< 16)
  match s.fld (F.mbState b) with
  | 0 => 0
  | 1 => c
  | 2 =>
    let f := BitVec.ofNat 48 (Nat.min 0xFFFF (s.mbFrac b))
    if x.back then c - f else c + f
  | 3 => if x.back then c - BitVec.ofNat 48 (s.mbFrac b) else c + BitVec.ofNat 48 (s.mbFrac b)
  | _ => x.frozen

/-- A stamp's parts: time, position's integer part, base, holdover (R360). -/
structure Stamp where
  ns : W64
  pos : W32
  base : Nat
  hold : Bool
deriving DecidableEq, Repr

/-- The stamp of a base now. -/
def State.stampOf (s : State) (b : Nat) : Stamp :=
  ⟨s.tc, BitVec.ofNat 32 ((s.mbPos b).toNat / 65536), b, s.fld (F.mbState b) != 2⟩
/-- The stamp of a context now; a context that is none takes the MC's base (R360). -/
def State.stampFor (s : State) (c : Nat) : Stamp := s.stampOf (s.fld (F.mbSel c))

-- synchronisation counters (R280 to R284)

def State.counter (s : State) (c : Nat) : W32 := Sparse.get (fun _ => 0) s.counters c
/-- The condition of a wait on a counter's value (R282). -/
def condHolds (cond : Nat) (c v : W32) : Bool := if cond = 0 then reached c v else c == v

/-- The first of two lists of rank keys (R83). -/
def rankLt : List Nat → List Nat → Bool
  | x :: l, y :: m => x < y || (x == y && rankLt l m)
  | _, _ => false

/-- A set takes its place by rank, behind those that tie with it. -/
def setByRank (k : List Nat) (v : W32) : List (List Nat × W32) → List (List Nat × W32)
  | [] => [(k, v)]
  | x :: l => if rankLt k x.1 then (k, v) :: x :: l else x :: setByRank k v l

/-- The values at which a counter stands at the ends of this XCLK and of those after it (R283): the first set in rank with the sum of the
adds, then the other sets, one per XCLK. -/
def CtrNow.stands (x : CtrNow) : List W32 :=
  match x.sets with
  | [] => [x.base + x.adds]
  | (_, v) :: l => (v + x.adds) :: l.map (·.2)

/-- One more operation in the XCLK: a set with its rank keys, or an add. -/
def CtrNow.push (x : CtrNow) (op : Option (List Nat)) (v : W32) : CtrNow :=
  match op with
  | some k => { x with sets := setByRank k v x.sets }
  | none => { x with adds := x.adds + v }

/-- The XCLK of a counter's last operations is over: every pending wait is evaluated on the values at which it has stood (R284). -/
def State.ctrSettle (s : State) (c : Nat) : State :=
  match s.ctrNow.find? (·.counter == c) with
  | some x =>
    { s with ctrNow := s.ctrNow.filter (·.counter != c)
             waits := s.waits.map (fun w => if w.counter = c ∧ x.stands.any (fun v => condHolds w.cond v w.value) then { w with met := true } else w) }
  | none => s

/-- The operations of one XCLK give the counter its value. -/
def State.ctrPut (s : State) (x : CtrNow) : State :=
  { s with counters := Sparse.set (fun _ => 0) s.counters x.counter (x.stands.getLastD 0)
           ctrNow := x :: s.ctrNow.filter (·.counter != x.counter) }

/-- A counter operation (R282): an add, or a set with its rank keys. Whether it reaches the counter in the XCLK of the operation before it is
free (R283, log entry 15). -/
def State.ctrOp (s : State) (c : Nat) (op : Option (List Nat)) (v : W32) : State :=
  match s.ctrNow.find? (·.counter == c) with
  | some x =>
    let (same, s) := s.drawBool
    if same then s.ctrPut (x.push op v)
    else
      let s := s.ctrSettle c
      s.ctrPut (CtrNow.push { counter := c, base := s.counter c } op v)
  | none => s.ctrPut (CtrNow.push { counter := c, base := s.counter c } op v)

/-- Set a counter, for an issuer with these rank keys. -/
def State.setCounter (s : State) (c : Nat) (v : W32) (rank : List Nat) : State := s.ctrOp c (some rank) v
def State.addCounter (s : State) (c : Nat) (v : W32) : State := s.ctrOp c none v

/-- A wait is pending from now on, in an XCLK of its own; it is met if its condition holds already (R440, R284). -/
def State.addWait (s : State) (w : Wait) : State :=
  let s := s.ctrSettle w.counter
  { s with waits := s.waits ++ [{ w with met := condHolds w.cond (s.counter w.counter) w.value }] }
/-- The counter lies in the tenant's range (R280, R281). -/
def State.ctrOk (s : State) (t c : Nat) : Bool :=
  64 * s.fld (F.ctrBase t) ≤ c && c < 64 * (s.fld (F.ctrBase t) + s.fld (F.ctrLen t))

-- system ports

/-- The port that carries an access (R13). -/
def portOf (pa : Nat) : Nat := ((pa >>> 8) ^^^ (pa >>> 16)) % 4

/-- Credit balances (R180): class 0 read, 1 write, 2 remote, 3 control; key 9 × class + tenant, 8 for the class itself;
in 1/4096 bytes. -/
def State.creditOf (s : State) (cls t : Nat) : Nat := Sparse.get (fun _ => 0) s.credit (9 * cls + t)
def State.setCredit (s : State) (cls t v : Nat) : State := { s with credit := Sparse.set (fun _ => 0) s.credit (9 * cls + t) v }
/-- What a row's reads have cost beyond a balance, by the same keys; it is paid before the balance grows again (log entry 8). -/
def State.owes (s : State) (k : Nat) : Nat := Sparse.get (fun _ => 0) s.owed k
/-- The balances that a transaction of a class and tenant draws on: the tenant's, and the class's too when the tenants' shares of it sum
to more than 64; the control balance alone for control traffic (R180 items 5 and 6). -/
def State.balances (s : State) (cls t : Nat) : List Nat :=
  let sum := (List.range 8).foldl
    (fun a k => a + s.fld (if cls = 0 then F.tRd k else if cls = 1 then F.tWr k else F.tRm k)) 0
  if 3 ≤ cls then [9 * 3 + 8] else if 64 < sum then [9 * cls + t, 9 * cls + 8] else [9 * cls + t]
/-- A transaction of `z` bytes takes its credit from one balance; what that does not hold is owed. -/
def State.draw (s : State) (z k : Nat) : State :=
  let b := Sparse.get (fun _ => 0) s.credit k
  { s with credit := Sparse.set (fun _ => 0) s.credit k (b - 4096 * z), owed := Sparse.set (fun _ => 0) s.owed k (s.owes k + (4096 * z - b)) }
/-- A transaction of `z` bytes is debited (R180 item 4). -/
def State.debit (s : State) (cls t z : Nat) : State := (s.balances cls t).foldl (fun s k => s.draw z k) s
/-- A transaction of `z` bytes may issue: nothing is owed, and the balances hold its bytes (R180 items 4 to 6). -/
def State.covers (s : State) (cls t z : Nat) : Bool :=
  (s.balances cls t).all (fun k => s.owes k == 0 && 4096 * z ≤ Sparse.get (fun _ => 0) s.credit k)
/-- From `s0` to `s1` a balance was overdrawn that could not have issued even the first transaction (log entry 8). -/
def State.starved (s0 s1 : State) : Bool :=
  s1.owed.any (fun e => s0.owes e.1 < s1.owes e.1 && (s0.owes e.1 != 0 || Sparse.get (fun _ => 0) s0.credit e.1 < 4096 * 64))

/-- The size of the transaction that carries `n` bytes of one 256-byte block: 64 bytes where one aligned 64-byte word holds them, else 256
(R12). -/
def txnSize (pa n : Nat) : Nat := if pa / 64 = (pa + n - 1) / 64 then 64 else 256

/-- The bytes that a write transaction covers: first, one past the last. -/
def Txn.span (x : Txn) : Nat × Nat :=
  if x.isRec then (x.pa, x.pa + x.bytes.length) else (x.pa, (x.cells.getLastD (x.pa, 0)).1 + 1)

/-- The `i`th write transaction may issue: its port has fewer than 64 writes outstanding (R12), its credit is there (R180), no write
before it to the same bytes is still to come (R289), and for a record no earlier record of its ring (R63, R91). -/
def State.mayIssue (s : State) (i : Nat) (x : Txn) : Bool :=
  !x.sent && (s.txns.filter (fun y => y.sent && y.port == x.port)).length < 64 && s.covers x.cls x.t x.z
    && (s.txns.take i).all (fun y => !(y.span.1 < x.span.2 && x.span.1 < y.span.2) && !(x.isRec && y.isRec && x.ctx == y.ctx && x.cq == y.cq))

/-- Writes of a work wait for credit or for their port (R144, R180). -/
def State.held (s : State) (w : Who) : Bool := s.txns.any (fun x => x.who == some w && !x.sent)

/-- A channel whose writes have all been issued leaves STALL (R121), unless it waits for a walk or for its release queue. -/
def State.unheld (s : State) (u : Nat) : State :=
  if u < 64 ∧ s.fld (F.chState u) = 4 ∧ s.txns.all (fun x => x.unit != u || x.sent) ∧ s.walks.all (fun w => w.who != .chan u)
      ∧ (s.chan u).relq.length < 8 then s.setFld (F.chState u) 2
  else s

/-- Issue the `i`th write transaction if it may: it is charged (R180), and the weight cache loses its line (R177). -/
def State.issueAt (s : State) (i : Nat) : State :=
  match s.txns[i]? with
  | some x =>
    if s.mayIssue i x then
      State.unheld { s.debit x.cls x.t x.z with
        txns := s.txns.set i { x with sent := true }
        wc := s.wc.filter (fun l => l.pa != x.pa / 256), wcFills := s.wcFills.filter (fun f => f.pa != x.pa / 256) } x.unit
    else s
  | none => s

/-- Every write transaction that may issue does, oldest first. -/
def State.issue (s : State) : State := (List.range s.txns.length).foldl (fun s i => s.issueAt i) s

/-- A write stands in memory (R290). -/
def State.putCells (s : State) (nc : Bool) (l : List (Nat × Byte)) : State :=
  l.foldl (fun s c => if nc then s.setRawByte c.1 c.2 else s.setSysByte c.1 c.2) s

/-- The blocks of 256 bytes that a range touches, as the ports they use (R13), without repeats. -/
def portsOf (pa n : Nat) : List Nat :=
  ((List.range (Nat.min 4 ((pa + n - 1) / 256 - pa / 256 + 1))).map (fun k => portOf ((pa / 256 + k) * 256))).eraseDups

/-- Units in eclipse (R389). -/
def State.eclipsed (s : State) (u : Nat) : Bool := s.fld (F.ecl u) == 1

/-- The logical bank and row of a tile address (R185). -/
def bankOf (a : Nat) : Nat := ((a >>> 6) ^^^ (a >>> 15) ^^^ (a >>> 24)) % 512
/-- The unit number of the physical bank that serves a tile address (R376, R425). -/
def State.bankUnit (s : State) (a : Nat) : Nat := 0x100 + s.fld (F.spare (bankOf a))

/-- Address of bits [47:12] fields. -/
def page4k (v : Nat) : Nat := v <<< 12

end Sys2Proof.Machine
end

