-- ==== Sys2Proof/Machine/Relay.lean ====
section
/-! DEFINITION. The relay: coordinates (R306), the choice of a port (R321 to R323), delivery to this chip (R324, R337), and
the frames that this chip injects. -/

namespace Sys2Proof.Machine

/-- Coordinate of a chip ID in dimension `d` (R306). -/
def coord (chip d : Nat) : Nat := bits chip (4 * d) 4
/-- Size of dimension `d` (R306). -/
def dimSize (dims d : Nat) : Nat := bits dims (4 * d) 4 + 1
/-- Every coordinate of a chip lies below its dimension (R306). -/
def withinFabric (dims chip : Nat) : Bool :=
  coord chip 0 < dimSize dims 0 && coord chip 1 < dimSize dims 1 && coord chip 2 < dimSize dims 2
/-- The chip with coordinate `c` in dimension `d`. -/
def withCoord (chip d c : Nat) : Nat := chip - (coord chip d <<< (4 * d)) + (c <<< (4 * d))
/-- The neighbour that R307 places on a port. -/
def neighbour (dims chip p : Nat) : Nat :=
  let d := p / 2
  let n := dimSize dims d
  withCoord chip d ((coord chip d + (if p % 2 = 0 then 1 else n - 1)) % n)

def State.self (s : State) : Nat := s.fld F.chipId
def State.fabDims (s : State) : Nat := s.fld F.dims
def State.portUp (s : State) (p : Nat) : Bool := s.fld (F.linkState p) == 4

/-- The port that dimension order takes from this chip to another (R321); none at the destination. -/
def State.dimOrder (s : State) (dst : Nat) : Option Nat :=
  let f (d : Nat) : Option Nat :=
    let n := dimSize s.fabDims d
    let x := (coord dst d + n - coord s.self d % n) % n
    if x = 0 then none else if x ≤ n - x then some (2 * d) else some (2 * d + 1)
  match f 0, f 1, f 2 with
  | some p, _, _ => some p
  | none, some p, _ => some p
  | none, none, r => r

/-- The first UP port of another dimension, in the order Y+, Y−, Z+, Z−, X+, X− (R323 step 4). -/
def State.sideStep (s : State) (d : Nat) : Option Nat :=
  [2, 3, 4, 5, 0, 1].find? (fun p => p / 2 != d && s.portUp p)

/-- The output port and the `detour` of a frame that has not reached its destination and arrived on `arr` (none when this chip
injects it), by the steps of R323. With no UP port that the steps allow, the frame waits at the port of step 2. -/
def State.choosePort (s : State) (arr : Option Nat) (dst detour : Nat) : Nat × Nat :=
  let normal (det : Nat) : Nat × Nat :=
    match s.dimOrder dst with
    | none => (0, det)
    | some p =>
      if s.portUp p then (p, det)
      else if s.portUp (p ^^^ 1) then (p ^^^ 1, 1)
      else match s.sideStep (p / 2) with
        | some q => (q, 2)
        | none => (p, det)
  match detour, arr with
  | 1, some a =>
    let d := a / 2
    if coord dst d = coord s.self d then normal 2
    else if s.portUp (a ^^^ 1) then (a ^^^ 1, 1)
    else match s.sideStep d with
      | some q => (q, 2)
      | none => (a ^^^ 1, 1)
  | det, _ => normal det

/-- A frame leaving this chip on port `p`: hop counted, dateline class (R322), recovery lane once it detours (R318, R323). -/
def State.onto (s : State) (arr : Option Nat) (p detour : Nat) (f : Frame) : Frame :=
  let d := p / 2
  let n := dimSize s.fabDims d
  let c := coord s.self d
  let turned := (match arr with | some a => a / 2 != d | none => true) || (detour != 0 && f.detour != detour)
  let wraps := if p % 2 = 0 then c + 1 == n else c == 0
  { f with hops := f.hops + 1, detour := detour, dl := if wraps then 1 else if turned then 0 else f.dl,
           vl := if detour = 0 then f.vl else 3 }

/-- Put a frame into a port's output queue. -/
def State.enqueue (s : State) (p : Nat) (q : Queued) : State := s.modPort p (fun x => { x with outQ := x.outQ ++ [q] })

/-- Route a frame that is not for this chip; none when its hops are spent (R323 step 5). -/
def State.routeOn (s : State) (arr : Option Nat) (q : Queued) : Option State :=
  if 48 ≤ q.f.hops then none
  else
    let (p, det) := s.choosePort arr q.f.dstChip q.f.detour
    some (s.enqueue p { q with f := s.onto arr p det q.f })

/-- A frame of this chip's own, not yet on a lane: every header field that only some types carry is 0. -/
def State.mkFrame (s : State) (typ vl dst dstTenant srcTenant mailbox seq word : Nat) : Frame :=
  { typ := typ, vl := vl, dl := 0, enc := false, alive := 0, dstChip := dst, dstTenant := dstTenant, srcChip := s.self,
    srcTenant := srcTenant, mailbox := mailbox, offset := 0, lenM1 := 0, keySel := 0, pairSeq := seq, hops := 0, detour := 0,
    word := word, payload := List.replicate 256 0, ok := true }

/-- Send a frame of this chip, which may come from a node, towards another chip. -/
def State.sendOut (s : State) (f : Frame) (who : Option (Nat × Nat) := none) : State := (s.routeOn none { f := f, who := who }).getD s

/-- The retry-after time of a not-ready answer, µs (R337). -/
def State.retryAfter (s : State) : Nat :=
  if s.phase == .bringup then Nat.max 1000 ((s.bringAt + 40000000 - s.aon) / 1000) else s.fld F.nrRetry

/-- Answer a frame with NOT_READY and log its source, up to 256 distinct chips (R337). -/
def State.notReadyTo (s : State) (f : Frame) (us : Nat) : State :=
  let log := s.relay.nrLog
  let s := if log.contains f.srcChip || 256 ≤ log.length then s
    else (s.setRelay { s.relay with nrLog := log ++ [f.srcChip] }).setFld F.nrLogCount (log.length + 1)
  s.sendOut (s.mkFrame 5 0 f.srcChip f.srcTenant f.dstTenant f.mailbox f.pairSeq us)

/-- A MEMBER_OUT frame is the relay's own business, whatever the core does (R401). -/
def isMemberOut (f : Frame) : Bool := f.typ == 7 && bits (fieldAt f.payload 0 1) 0 4 == 3

/-- A frame that has reached its destination: to the core, into the hold queue in X1, or answered NOT_READY (R321, R324,
R337); a REPLICA frame of a reserved type is dropped (R396). `arr` is the port that it arrived on. DESIGN CHOICE: R39 has no column for the time
between step 5 of SET_POWER to X2 or X3 and the fall of xh_rst_n; a frame of that time is taken as in X0, and core reset drops it (log entry
64). -/
def State.deliver (s : State) (f : Frame) (arr : Option Nat := none) : State :=
  if isMemberOut f then s.setRelay { s.relay with notices := s.relay.notices ++ [(arr, f)] }
  else if !s.relay.coreReady then s.notReadyTo f s.retryAfter
  else if f.typ == 7 && 5 ≤ bits (fieldAt f.payload 0 1) 0 4 then s
  else if s.phase == .x1 then
    if 256 ≤ s.relay.holdQ.length then s.notReadyTo f (s.fld F.nrRetry)
    else s.setRelay { s.relay with holdQ := s.relay.holdQ ++ [f] }
  else s.setRelay { s.relay with inbox := s.relay.inbox ++ [f] }

/-- This chip injects a frame: towards another chip, or to itself. -/
def State.inject (s : State) (f : Frame) (who : Option (Nat × Nat) := none) : State :=
  if f.dstChip = s.self then s.deliver f else s.sendOut f who

/-- The payload of a REPLICA frame (R396): type, member, group, generation, and the bytes from offset 28 on. -/
def repPayload (rtype member group gen : Nat) (rest : List Byte) : List Byte :=
  let l := leBytes 1 (rtype + 16 * member) ++ [0] ++ leBytes 2 group ++ leBytes 4 gen ++ rest
  (l ++ List.replicate (256 - l.length) 0).take 256

/-- A REPLICA frame of this chip. -/
def State.repFrame (s : State) (dst : Nat) (payload : List Byte) : Frame :=
  { s.mkFrame 7 3 dst 0 0 0 0 0 with lenM1 := 255, payload := payload }

/-- Payload of a MEMBER_OUT notice: `out` lists the members out of service (R396, R401). -/
def memberOutPayload (member group gen outMask : Nat) : List Byte :=
  repPayload 3 member group gen (List.replicate 27 0 ++ leBytes 1 outMask)

/-- Send a MEMBER_OUT notice to the neighbour on every UP port but one (R401). -/
def State.floodOut (s : State) (payload : List Byte) (but : Option Nat) : State :=
  (List.range 6).foldl (fun s p =>
    if s.portUp p && some p != but then
      s.enqueue p { f := s.onto none p 0 (s.repFrame (neighbour s.fabDims s.self p) payload) }
    else s) s

/-- Update XH_FAB_GRPn on the entries of a group's members: the members in `outMask` leave service; when the active one is
among them the lowest-indexed remaining member becomes active (R401). -/
def State.grpOut (s : State) (group outMask : Nat) : State :=
  ((s.regs.map (·.1)).filter (fun o => 0x58000 ≤ o && o < 0x60000)).foldl (fun s o =>
    let n := (o - 0x58000) / 8
    if s.fld (F.grpId n) = group ∧ 0 < s.fld (F.grpSize n) then
      let ins := s.fld (F.grpIn n) &&& (7 ^^^ (outMask % 8))
      let s := s.setFld (F.grpIn n) ins
      if bit ins (s.fld (F.grpActive n)) then s
      else match [0, 1, 2].find? (fun m => bit ins m) with
        | some m => s.setFld (F.grpActive n) m
        | none => s
    else s) s

end Sys2Proof.Machine
end

