-- ==== Sys2Proof/Machine/Collector.lean ====
section
/-! DEFINITION. The fault collector (R376 to R388, R267): recording a fault with its escalation, queue, outputs and messages, the
fatal stop, the fault ring, acknowledgement and clearing. -/

namespace Sys2Proof.Machine

/-- The class of a cause: 2 corrected, 3 contained, 4 fatal; 0 for a cause that no unit raises (R268, R377). -/
def causeClass (c : Nat) : Nat :=
  if c = 0x10 ∨ c = 0x41 then 2
  else if c = 0x13 ∨ c = 0x1A ∨ c = 0x1B ∨ c = 0x72 then 4
  else if (0x05 ≤ c ∧ c ≤ 0x07) ∨ c = 0x11 ∨ c = 0x12 ∨ (0x14 ≤ c ∧ c ≤ 0x19) ∨ (0x30 ≤ c ∧ c ≤ 0x33) ∨ c = 0x40 ∨ c = 0x42
      ∨ c = 0x43 ∨ c = 0x50 ∨ c = 0x60 ∨ c = 0x70 ∨ c = 0x71 ∨ c = 0x73 ∨ c = 0x74 then 3
  else 0

/-- What a unit reports. -/
structure FaultReq where
  unit : Nat
  cause : Nat
  ctx : Nat := 15
  line : Bool := false
  res : Bool := false
  write : Bool := false
  nodeSeq : W32 := 0
  epoch : BitVec 8 := 0
  xva : Nat := 0
  pte : W64 := 0
  level : Nat := 0
deriving DecidableEq, Repr

/-- The collector is clocked and out of reset. -/
def State.collUp (s : State) : Bool :=
  s.phase == .bringup || s.phase == .x0 || s.phase == .x1 || s.phase == .quietX2 || s.phase == .quietX3

/-- The outputs follow the uncleared faults (R29, R30), through the clamps (R11), and XH_FAULT_STATUS shows them. -/
def State.drive (s : State) : State :=
  let has (c : Nat) := s.coll.faults.any (·.cls == c)
  let up := s.collUp && s.pins.isoN && s.pins.rstN
  let s := s.setPins { s.pins with
    fltCor := up && has 2, fltCon := up && has 3, fltFat := up && has 4,
    errN := !(up && (has 3 || has 4 || (has 2 && bit (s.reg Reg.faultCfg).toNat 0))) }
  s.setFld ⟨Reg.faultStatus, 1, 3⟩
    ((if has 2 then 1 else 0) + (if has 3 then 2 else 0) + (if has 4 then 4 else 0))

def State.vesper (s : State) : Bool := bit (s.reg Reg.faultCfg).toNat 1

/-- The 64 bytes of a fault record in the pass of the ring with this phase (R267). -/
def FRec.bytes (r : FRec) (phase : Nat) : List Byte :=
  let b (x : Bool) (i : Nat) : Nat := if x then 2 ^ i else 0
  leBytes 1 r.cls ++ leBytes 1 (phase + b r.holdover 1 + b r.resumable 2 + b r.write 3) ++ leBytes 2 r.cause
    ++ leBytes 4 r.id.toNat ++ leBytes 8 r.ns.toNat ++ leBytes 4 r.pos.toNat ++ leBytes 2 r.seq.toNat ++ leBytes 1 r.base
    ++ leBytes 1 r.ctx ++ leBytes 2 r.unit ++ leBytes 2 0 ++ leBytes 4 r.nodeSeq.toNat ++ leBytes 8 r.xva
    ++ leBytes 8 r.pte.toNat ++ leBytes 1 r.level ++ leBytes 1 r.epoch.toNat ++ leBytes 14 0

/-- The record of a fault recorded now, and the collector's count of identifiers after it. Its `stamp_seq` is set when it is
written to the ring, so that the ring's records carry rising numbers from the write of XH_FQ_BASE on (R47, log entry 9). -/
def State.mkRec (s : State) (f : FaultReq) (cls : Nat) : FRec × State :=
  let st := s.stampFor f.ctx
  (⟨cls, f.res, f.write, f.cause, s.coll.nextId, st.ns, st.pos, st.hold, st.base, f.ctx, f.unit, f.nodeSeq, f.xva, f.pte,
    f.level, f.epoch, s.coll.seq, false⟩,
   s.setColl { s.coll with nextId := s.coll.nextId + 1 })

/-- The internal queue has no free entry (R387). -/
def State.iqFull (s : State) : Bool := 256 ≤ s.coll.iq.length

/-- A record enters the internal queue; while no ring exists, its event arises now (R386). -/
def State.iqPush (s : State) (r : FRec) : State :=
  let none_ := s.fld F.fqLog2 == 0
  let s := s.setColl { s.coll with iq := s.coll.iq ++ [{ r with told := none_ }] }
  if none_ then s.event 73 else s

/-- Show a record in XH_FQ_STICKY (R387). -/
def State.setSticky (s : State) (r : FRec) : State :=
  (List.range 8).foldl (fun s w => s.setReg (Reg.fqSticky w) (BitVec.ofNat 64 (fieldAt (r.bytes 0) (8 * w) 8)))
    (s.setColl { s.coll with sticky := some r, stickyRead := false })

/-- A record that met a full queue: counted, kept in XH_FQ_STICKY if it is of a higher class than the one kept since the last
read (R387). -/
def State.overflow (s : State) (r : FRec) : State :=
  let s := s.sat (F.fqOvf r.cls)
  match s.coll.sticky with
  | some k => if s.coll.stickyRead || k.cls < r.cls then s.setSticky r else s
  | none => s.setSticky r

/-- XH_VSP_STATu shows the unit's highest uncleared class and the cause of its oldest unacknowledged fault (R380). -/
def State.vspShow (s : State) (u : Nat) : State :=
  let fs := s.coll.faults.filter (·.unit == u)
  let cls := fs.foldl (fun m f => Nat.max m f.cls) 1
  let s := s.setFld (F.vspClass u) (cls - 1)
  s.setFld (F.vspCause u) (match fs.find? (!·.acked) with | some f => f.cause | none => 0)

/-- Vesper mode's record of a fault at a unit (R380). -/
def State.vspFault (s : State) (u : Nat) : State :=
  let was := s.fld (F.vspPend u)
  let s := ((s.sat (F.vspCount u)).setFld (F.vspPend u) 1).vspShow u
  if was = 0 ∧ s.fld (F.vspIen u) = 1 then s.event 73 else s

/-- The reaction timer that a contained fault of a unit starts: none for causes 0x0070 to 0x0073 (R377), for `react_us` 0 and for
a unit without a setting (R382). -/
def State.timerRuns (s : State) (u cause : Nat) : Bool :=
  !(0x70 ≤ cause && cause ≤ 0x73) && s.fld (F.reactUs u) != 0

/-- Record a fault without the consequences of a fatal one and without the report of an overflow: line (R378), escalation
(R383), timer (R382), record or Vesper state (R380), outputs (R29). `true` when its record found no place. -/
def State.record (s : State) (f : FaultReq) : State × Option FRec :=
  let c0 := causeClass f.cause
  if c0 = 0 ∨ s.eclipsed f.unit ∨ s.coll.faults.any (fun x => x.unit == f.unit && x.line && causeClass x.cause == c0) then (s, none)
  else
    let up := c0 < 4 && !(0x70 ≤ f.cause && f.cause ≤ 0x73)
      && s.coll.faults.any (fun x => x.unit == f.unit && x.cls == c0 && !x.acked)
    let cls := if up then c0 + 1 else c0
    let (r, s) := s.mkRec f cls
    let s := s.setColl { s.coll with
      faults := s.coll.faults ++ [⟨r.id, f.unit, f.cause, cls, f.ctx, f.line, false, cls == 3 && s.timerRuns f.unit f.cause, s.aon⟩]
      lastNs := if cls < 4 then s.aon else s.coll.lastNs
      fatal := s.coll.fatal || cls == 4, grave := if 3 ≤ cls then s.coll.grave + 1 else s.coll.grave }
    let s := if cls < 4 then s.setFld ⟨Reg.faultStatus, 0, 1⟩ 1 else s
    let s := s.drive
    if s.vesper then (s.vspFault f.unit, none)
    else if s.iqFull then (s.overflow r, some r)
    else (s.iqPush r, none)

/-- This chip names itself out of its replica group (R401): it tells its neighbours with the next generation and transmits no
longer for the group. -/
def State.nameSelfOut (s : State) : State :=
  let r := s.rep
  if r.size = 0 ∨ r.out then s
  else
    let out := (2 ^ r.size - 1) &&& (7 ^^^ (r.inService.toNat &&& (7 ^^^ (2 ^ r.member))))
    let gen := r.gen + 1
    let s := s.setRep { r with out := true, gen := gen, inService := BitVec.ofNat 3 (7 ^^^ out) &&& BitVec.ofNat 3 (2 ^ r.size - 1) }
    let s := (s.setFld (F.fabGen r.groupId) gen.toNat).grpOut r.groupId out
    s.floodOut (memberOutPayload r.member r.groupId gen.toNat out) none

/-- What a fatal fault does at once (R384): `core_ready` falls and, in a group, the chip names itself out and records 0x0073
(R401). The scheduler and the engines stop by `State.engines`. -/
def State.fatalStop (s : State) : State :=
  let s := s.setRelay { s.relay with coreReady := false }
  if s.rep.size = 0 ∨ s.rep.out then s
  else (s.nameSelfOut.record { unit := 0xEF, cause := 0x73 }).1

/-- A record met a full queue: the first such overflow records 0x0060, whose record takes the first entry that frees (R387). -/
def State.overflowed (s : State) : State :=
  if s.coll.ovfTold then s
  else
    let up := s.coll.faults.any (fun x => x.unit == 0xDD && x.cls == 3 && !x.acked)
    let (r, s) := s.mkRec { unit := 0xDD, cause := 0x60 } (if up then 4 else 3)
    (s.setColl { s.coll with
      ovfTold := true, ovfPend := some r, grave := s.coll.grave + 1
      faults := s.coll.faults ++ [⟨r.id, 0xDD, 0x60, r.cls, 15, false, false, r.cls == 3 && s.timerRuns 0xDD 0x60, s.aon⟩]
      lastNs := if r.cls < 4 then s.aon else s.coll.lastNs
      fatal := s.coll.fatal || r.cls == 4 }).drive

/-- A fault reaches the collector (R378, R384, R387): while the SoC has stopped xh_clk it is kept by the relay domain until the
restart (R39). -/
def State.raise (s : State) (f : FaultReq) : State :=
  if !s.collUp then s
  else if !s.pins.clkRun then { s with captured := s.captured ++ [(f.unit, f.cause, f.ctx, f.line)] }
  else
    let was := s.coll.fatal
    let (s, lost) := s.record f
    let s := if lost.isSome then s.overflowed else s
    if s.coll.fatal && !was then s.fatalStop else s

/-- A contained translation fault that carries its walk (causes 0x0005 to 0x0007) goes through `raise`; a request-class record
enters the queue here and takes no part in classes, outputs and timers (R268). The caller has made sure that the queue has
room (R387). -/
def State.request (s : State) (f : FaultReq) : W32 × State :=
  let (r, s) := s.mkRec f 1
  (r.id, s.iqPush r)

/-- An entry of the internal queue is freed: a record that waits for it takes it (R387). -/
def State.iqPop (s : State) : State :=
  let s := s.setColl { s.coll with iq := s.coll.iq.drop 1, ovfTold := false }
  match s.coll.ovfPend with
  | some r => (s.setColl { s.coll with ovfPend := none }).iqPush r
  | none => s

/-- The writes of a record, charged to control (R180): bytes 1 on first; byte 0 follows when their response has returned, then the event
(R62, R267). Both go through one port (R15). -/
def State.recWrite (s : State) (pa : Nat) (bytes : List Byte) (who : Option Who) (ev : List Nat) (ctx : Nat := 15)
    (cq : Nat := 16) (nc : Bool := false) : State :=
  State.issue { s with txns := s.txns ++ [{ port := portOf pa, unit := 0xE0 + portOf pa, who := who, isRec := true, pa := pa,
                                            bytes := bytes, stage := 1, ev := ev, ctx := ctx, cq := cq, nc := nc }] }

/-- Spill the oldest record to the host ring if the ring exists and has a free slot (R386, R387). -/
def State.spill (s : State) : State :=
  match s.coll.iq with
  | [] => s
  | r :: _ =>
    let n := s.fld F.fqLog2
    let tail := s.fld F.fqTail
    if n = 0 ∨ 2 ^ n ≤ (tail + 2 ^ 32 - s.fld F.fqHead) % 2 ^ 32 then s
    else
      let pa := page4k (s.fld F.fqAddr) + 64 * (tail % 2 ^ n)
      let r := { r with seq := s.coll.seq }
      let s := s.setColl { s.coll with seq := s.coll.seq + 1 }
      let s := (s.recWrite pa (r.bytes (if tail / 2 ^ n % 2 = 0 then 1 else 0)) none
        (if r.told then [] else [73])).setFld F.fqTail (tail + 1)
      { s.iqPop with pfaults := s.pfaults.map (fun f => if f.id = r.id then { f with start := s.aon } else f) }

/-- Acknowledge one fault: its timer stops (R381). -/
def State.ack (s : State) (id : W32) : State :=
  s.setColl { s.coll with faults := s.coll.faults.map (fun f => if f.id == id then { f with acked := true, timer := false } else f) }

/-- A settled fault (R388). -/
def FaultSt.settled (f : FaultSt) : Bool := f.cls != 4 && !f.line && (f.cls == 2 || f.acked)

/-- The fault state can end: nothing unsettled, and `twilight_ms` passed since the last fault (R388). -/
def State.twilightOver (s : State) : Bool :=
  s.coll.faults.all (fun f => f.cls == 4 || f.settled)
    && s.coll.lastNs + 1000000 * bits (s.reg Reg.faultCfg).toNat 16 14 ≤ s.aon

/-- End of the fault state (R388). -/
def State.endTwilight (s : State) : State :=
  let gone := s.coll.faults.filter (·.settled)
  let s := s.setColl { s.coll with faults := s.coll.faults.filter (!·.settled) }
  let s := (s.setFld ⟨Reg.faultStatus, 0, 1⟩ 0).sat F.recovCnt
  let s := if s.vesper then gone.foldl (fun s f => s.vspShow f.unit) s else s
  s.drive

end Sys2Proof.Machine
end

