-- ==== Sys2Proof/Machine/Meridian.lean ====
section
/-! DEFINITION. The time bases of Meridian (R340 to R350, R359): counted edges, positions, holdover, the index, stuck inputs. -/

namespace Sys2Proof.Machine

/-- Meridian samples its inputs in X0 and X1 only (R33). -/
def State.merUp (s : State) : Bool := s.phase == .x0 || s.phase == .x1

/-- An event of a base on vector 74 (R359): 0 `hold_enter`, 1 `hold_left`, 2 `lock`, 3 `z_err`, 4 `eph_drop`. -/
def State.merEvent (s : State) (b k : Nat) : State := (s.setFld ⟨Reg.merEvt, 5 * b + k, 1⟩ 1).event 74

/-- Move a base to a state of R348. -/
def State.mbTo (s : State) (b st : Nat) : State := s.setFld (F.mbState b) st

/-- A fault of the Meridian unit. -/
def State.merFault (s : State) (cause : Nat) (line : Bool := false) : State := s.raise { unit := 0xDC, cause := cause, line := line }

/-- The condition behind a unit's fault ends: its line shows 01 again (R378). -/
def State.lineClear (s : State) (u cause : Nat) : State :=
  s.setColl { s.coll with
    faults := s.coll.faults.map (fun f => if f.unit == u && f.cause == cause then { f with line := false } else f) }

/-- What a base knows of its inputs' levels, and nothing else. -/
def Base.levels (x : Base) : Base := { a := x.a, b := x.b, activeAt := x.activeAt, zAt := x.zAt, stuck := x.stuck }

/-- `en` becomes 1: the base starts in SYNC at `pos_init` (R341, R345, R348). -/
def State.mbStart (s : State) (b : Nat) : State :=
  let p : W32 := BitVec.ofNat 32 (s.fld (F.mbPosInit b))
  (s.modBase b (fun x => { x.levels with count := p, edgeCount := p })).mbTo b 1

/-- Holdover begins with cause 1 silence or 2 excess (R343, R348). -/
def State.holdEnter (s : State) (b cause : Nat) : State :=
  let s := s.modBase b (fun x => { x with holdAt := s.aon, good := 0 })
  ((s.mbTo b 3).setFld (F.mbCause b) cause).merEvent b 0

/-- An edge that is not counted because it follows too closely (R343). -/
def State.excessEdge (s : State) (b : Nat) : State :=
  let s := (s.sat (F.mbExcess b)).modBase b (fun x => { x with good := 0 })
  if s.fld (F.mbState b) = 2 then s.holdEnter b 2 else s

/-- The tracked interval after an edge in LOCKED, and whether the slew limit applied (R346). -/
def slew (num den meas s : Nat) : Nat × Nat × Bool :=
  if s = 0 then (meas, 1, false)
  else
    -- limits T ± T / 2^s, in units of 1 / (den × 2^s)
    let k := 2 ^ s
    if meas * den * k < num * (k - 1) then (num * (k - 1), den * k, true)
    else if num * (k + 1) < meas * den * k then (num * (k + 1), den * k, true)
    else (meas, 1, false)

/-- The base leaves holdover at a counted edge (R350). A tracked interval over no distance is a free value (log entry 2). -/
def State.holdLeave (s : State) (b : Nat) (back : Bool) : State :=
  let x := s.base b
  let ext := s.mbPos b
  let edge : W32 := if back then x.edgeCount - 1 else x.edgeCount + 1
  let new : W32 := if s.fld (F.mbHoldExit b) = 1 then edge else BitVec.ofNat 32 ((ext.toNat + 0x8000) / 65536)
  let step : BitVec 48 := BitVec.ofNat 48 (new.toNat * 65536) - ext
  let adv := (new - x.count).toNat
  let units := if adv < 2 ^ 31 then adv else 2 ^ 32 - adv
  let (free, s) := if units = 0 then s.drawBelow (2 ^ 32) else (0, s)
  let s := s.setBase b { x with
    count := new, edgeCount := new, last := s.aon, lastEdge := s.aon, back := back, good := 0,
    trkNum := if units = 0 then free + 1 else s.aon - x.last, trkDen := if units = 0 then 1 else units }
  let s := (s.setFld (F.mbResync b) step.toNat).setFld (F.mbCause b) 0
  ((s.setFld (F.mbSlewing b) 0).mbTo b 2).merEvent b 1

/-- An edge in the counting direction (`back` for −1) at the present time (R343, R345, R346, R348). -/
def State.countEdge (s : State) (b : Nat) (back : Bool) : State :=
  let x := s.base b
  let st := s.fld (F.mbState b)
  let one (v : W32) : W32 := if back then v - 1 else v + 1
  if 0 < x.edges ∧ s.aon - x.lastEdge < 40 then s.excessEdge b
  else match st with
    | 1 =>
      let y := { x with count := one x.count, edgeCount := one x.edgeCount, edges := x.edges + 1, last := s.aon, lastEdge := s.aon, back := back }
      if x.edges = 0 then s.setBase b y
      else ((s.setBase b { y with trkNum := s.aon - x.last, trkDen := 1 }).mbTo b 2).merEvent b 2
    | 2 =>
      let (n, d, lim) := slew x.trkNum x.trkDen (s.aon - x.last) (s.fld (F.mbSlew b))
      (s.setBase b { x with count := one x.count, edgeCount := one x.edgeCount, edges := x.edges + 1, last := s.aon,
                            lastEdge := s.aon, back := back, trkNum := n, trkDen := d }).setFld (F.mbSlewing b) (if lim then 1 else 0)
    | 3 =>
      if s.fld (F.mbCause b) = 2 ∧ x.good < 64 then
        s.setBase b { x with edgeCount := one x.edgeCount, lastEdge := s.aon, good := x.good + 1 }
      else s.holdLeave b back
    | 4 =>
      let n : W32 := one (BitVec.ofNat 32 (x.frozen.toNat / 65536))
      (s.setBase b { x with count := n, edgeCount := n, edges := 1, last := s.aon, lastEdge := s.aon, back := back }).mbTo b 1
    | _ => s

/-- New filtered levels of A and B of a base: what they count by its mode (R340, R343). -/
def State.merLevels (s : State) (b : Nat) (pa pb : Bool) : State :=
  let x := s.base b
  let inv (f : Nat → Fld) (v : Bool) : Bool := v != (s.fld (f b) == 1)
  let na := inv F.mbInvA pa
  let nb := inv F.mbInvB pb
  let s := s.setBase b { x with a := na, b := nb, activeAt := if na && !x.a then s.aon else x.activeAt,
                                stuck := x.stuck && na }
  let s := if x.stuck && !na && (s.fld (F.mbMode b) == 2 || s.fld (F.mbMode b) == 3) then s.lineClear 0xDC 0x30 else s
  if s.fld (F.mbState b) = 0 then s
  else match s.fld (F.mbMode b) with
    | 1 =>
      let ca := x.a != na
      let cb := x.b != nb
      if ca && cb then ((s.sat (F.mbQuadErr b)).excessEdge b)
      else
        let q := s.fld (F.mbQmul b)
        let counted := if ca then (if q = 1 then na else true) else cb && q == 4
        -- A leads B: A changes to differ from B, B changes to equal A
        let fwd := if ca then na != nb else na == nb
        if counted then s.countEdge b ((s.fld (F.mbDir b) == 1) == fwd) else s
    | 2 => if na && !x.a then s.countEdge b false else s
    | 3 => if (na && !x.a) || (s.fld (F.mbEdge b) == 1 && x.a && !na) then s.countEdge b false else s
    | _ => s

/-- An index edge (R347). -/
def State.zEdge (s : State) (b : Nat) : State :=
  let zm := s.fld (F.mbZMode b)
  let s := s.modBase b (fun x => { x with zAt := some s.aon })
  if s.fld (F.mbState b) = 0 ∨ s.fld (F.mbMode b) ≠ 1 ∨ zm = 0 then s
  else
    let p := s.mbPos b
    let int : W32 := BitVec.ofNat 32 (p.toNat / 65536)
    let was := (s.base b).lastZ
    let s := (s.setFld (F.mbZLatch b) p.toNat).modBase b (fun x => { x with lastZ := some int })
    match was with
    | some w =>
      let d := (int - w).toNat
      let dist := if d < 2 ^ 31 then d else 2 ^ 32 - d
      if zm = 2 ∧ dist ≠ s.fld (F.mbZPeriod b) then (s.sat (F.mbZErr b)).merEvent b 3 else s
    | none => s

/-- The moment at which silence has lasted 1.5 × T_trk (R348). -/
def State.silenceAt (s : State) (b : Nat) : Nat :=
  let x := s.base b
  x.last + cdiv (3 * x.trkNum) (2 * x.trkDen)

/-- A base in holdover longer than `hold_us`: its position freezes (R348). -/
def State.mbLost (s : State) (b : Nat) : State :=
  let p := s.mbPos b
  ((s.modBase b (fun x => { x with frozen := p })).mbTo b 4).merFault 0x31

/-- Serial comparison of positions: `a` has reached `p` (R345). -/
def posReached (a p : BitVec 48) : Bool := (a - p).toNat < 2 ^ 47

/-- When a base's position reaches `p`, if it is on the way there or has (R345, R346, R349). -/
def State.reachAt (s : State) (b : Nat) (p : BitVec 48) : Option Nat :=
  let x := s.base b
  let ahead := (p - BitVec.ofNat 48 (x.count.toNat * 65536)).toNat
  let st := s.fld (F.mbState b)
  if posReached (s.mbPos b) p then some s.aon
  else if !x.back && ahead < 2 ^ 47 && ((st == 2 && ahead ≤ 0xFFFF) || st == 3) then
    some (x.last + cdiv (ahead * x.trkNum) (65536 * x.trkDen))
  else none

end Sys2Proof.Machine
end

