-- ==== Sys2Proof/Machine/Access.lean ====
section
/-! DEFINITION. Accesses of the block's units: page-table walks (R261 to R264), translations (R265, R275), partition checks (R194),
ECC (R187, R200), the weight cache (R175 to R178), reads and writes of both memories, and structure reads. -/

namespace Sys2Proof.Machine

-- page tables

/-- How a walk ends: a translation, or the entry at which it stopped. -/
inductive WalkRes where
  | ok (x : Xl)
  | fail (cause level : Nat) (pte : W64)
deriving DecidableEq, Repr

/-- Every byte of a page lies in the tenant's physical window (R264). -/
def State.inWindow (s : State) (t pa : Nat) : Bool :=
  s.fld (F.paLo t) * 2097152 ≤ pa && pa < (s.fld (F.paHi t) + 1) * 2097152

/-- A valid entry that breaks a rule for its level (R262, R264); `l0` 0 is a leaf level, and `size` the page it would map. -/
def State.malformed (s : State) (t level size : Nat) (e : Nat) : Bool :=
  let leaf := bit e 1
  bit e 11 || bits e 48 16 != 0
    || (2 ≤ level && leaf) || (level == 0 && !leaf)
    || (!leaf && (bits e 2 5 != 0 || bits e 8 3 != 0 || (bit e 7 && level != 1)))
    || (leaf && (bit e 7 || 4 < bits e 8 3 || (bit e 4 && !bit e 3) || page4k (bits e 12 36) % size != 0
        || !s.inWindow t (page4k (bits e 12 36))))

/-- The translation that a leaf gives: the merged entry of its group when every page of the group lies in the window, the page
alone otherwise (R263, log entry 10). -/
def State.leafXl (s : State) (t xva size e : Nat) : Xl :=
  let pa := page4k (bits e 12 36)
  let base := xva / size * size
  let n := 2 ^ bits e 8 3
  let i := (xva / size) % n
  let mk (b p len : Nat) : Xl := ⟨t, b, len, p, bit e 2, bit e 3, bit e 5, bit e 6⟩
  if i * size ≤ pa && s.inWindow t (pa - i * size) && s.inWindow t (pa - i * size + (n - 1) * size) then
    mk (base - i * size) (pa - i * size) (n * size)
  else mk base pa size

/-- The walk from a table on, level by level (R261). -/
def State.walkFrom (s : State) (t xva : Nat) (write : Bool) : (level : Nat) → (table : Nat) → (g64 : Bool) → WalkRes
  | level, table, g64 =>
    let sh := if level = 0 then (if g64 then 16 else 12) else 12 + 9 * level
    let ix := if level = 0 ∧ g64 then bits xva 16 5 else bits xva (12 + 9 * level) 9
    let e := le (s.sysRd (table + 8 * ix) 8)
    let pte := BitVec.ofNat 64 e
    let size := 2 ^ sh
    if !bit e 0 then .fail 1 level pte
    else if s.malformed t level size e then .fail 4 level pte
    else if bit e 1 then
      if !write && !bit e 2 then .fail 2 level pte
      else if write && !bit e 3 then .fail 3 level pte
      else .ok (s.leafXl t xva size e)
    else match level with
      | 0 => .fail 4 level pte
      | l + 1 => s.walkFrom t xva write l (page4k (bits e 12 36)) (bit e 7)

/-- The walk from the root that uses no cache (R269). -/
def State.walkRoot (s : State) (t xva : Nat) (write : Bool) : WalkRes :=
  s.walkFrom t xva write 3 (page4k (s.fld (F.ptRoot t))) false

/-- The range that a pointer covers (R261). -/
def Ptr.range (p : Ptr) : Nat × Nat := (p.xva, p.xva + 2 ^ (12 + 9 * p.level))

/-- The lowest pointer of the walk cache for an address (R264). -/
def State.ptrAt (s : State) (t xva : Nat) : Option Ptr :=
  [1, 2, 3].findSome? (fun l => s.ptrs.find? (fun p => p.t == t && p.level == l && p.range.1 ≤ xva && xva < p.range.2))

/-- A walk: it begins below the walk cache's pointer where there is one, and a failure is confirmed by the walk from the root, whose
outcome then counts (R264, R269). -/
def State.walk (s : State) (t xva : Nat) (write : Bool) : WalkRes :=
  match s.ptrAt t xva with
  | some p =>
    match s.walkFrom t xva write (p.level - 1) p.table p.g64 with
    | .ok x => .ok x
    | .fail _ _ _ => s.walkRoot t xva write
  | none => s.walkRoot t xva write

/-- The pointers that a walk follows from a table on. -/
def State.pointers (s : State) (t xva : Nat) : (level : Nat) → (table : Nat) → (g64 : Bool) → List Ptr
  | 0, _, _ => []
  | l + 1, table, g64 =>
    let e := le (s.sysRd (table + 8 * bits xva (12 + 9 * (l + 1)) 9) 8)
    if !bit e 0 || bit e 1 || s.malformed t (l + 1) 1 e then []
    else
      let size := 2 ^ (12 + 9 * (l + 1))
      { t := t, level := l + 1, xva := xva / size * size, table := page4k (bits e 12 36), g64 := bit e 7 }
        :: s.pointers t xva l (page4k (bits e 12 36)) (bit e 7)

/-- The pointers that a successful walk has read. -/
def State.way (s : State) (t xva : Nat) (write : Bool) : List Ptr :=
  let root := s.pointers t xva 3 (page4k (s.fld (F.ptRoot t))) false
  match s.ptrAt t xva with
  | some p =>
    match s.walkFrom t xva write (p.level - 1) p.table p.g64 with
    | .ok _ => s.pointers t xva (p.level - 1) p.table p.g64
    | .fail _ _ _ => root
  | none => root

/-- The entries that a walk from a table on reads, with their levels (R261). -/
def State.walkAddrs (s : State) (t xva : Nat) : (level : Nat) → (table : Nat) → (g64 : Bool) → List (Nat × Nat)
  | level, table, g64 =>
    let ix := if level = 0 ∧ g64 then bits xva 16 5 else bits xva (12 + 9 * level) 9
    let a := table + 8 * ix
    let e := le (s.sysRd a 8)
    (level, a) :: (match level with
      | 0 => []
      | l + 1 => if bit e 0 && !bit e 1 then s.walkAddrs t xva l (page4k (bits e 12 36)) (bit e 7) else [])

/-- The entries that a walk reads: below the walk cache's pointer where there is one, and from the root where there is none or the first
walk fails (R264, R269). -/
def State.trail (s : State) (t xva : Nat) (write : Bool) : List (Nat × Nat) :=
  let root := s.walkAddrs t xva 3 (page4k (s.fld (F.ptRoot t))) false
  match s.ptrAt t xva with
  | some p =>
    s.walkAddrs t xva (p.level - 1) p.table p.g64
      ++ (match s.walkFrom t xva write (p.level - 1) p.table p.g64 with | .ok _ => [] | .fail _ _ _ => root)
  | none => root

/-- The first table read of a walk that is answered with an error response (cause 0x0005) or with uncorrectable data (0x0006), with its level
and address (R268). -/
def State.trailErr (s : State) (t xva : Nat) (write : Bool) : Option (Nat × Nat × Nat) :=
  (s.trail t xva write).findSome? (fun x =>
    if s.badRd.contains (x.2 / 64) then some (5, x.1, x.2) else if s.poison.contains (x.2 / 64) then some (6, x.1, x.2) else none)

/-- The table reads of a walk are control traffic (R180). -/
def State.walkPaid (s : State) (t xva : Nat) (write : Bool) : State := (s.trail t xva write).foldl (fun s _ => s.debit 3 8 64) s

/-- Pointers enter the walk cache, which holds 512 (R264, log entry 57). -/
def State.cachePtrs (s : State) (l : List Ptr) : State :=
  { s with ptrs := (l ++ s.ptrs.filter (fun p => !l.any (fun q => q.t == p.t && q.level == p.level && q.xva == p.xva))).take 512 }

/-- The cached translation of a tenant's address (R264). -/
def State.lookup (s : State) (t xva : Nat) : Option Xl :=
  s.tlb.find? (fun x => x.t == t && x.xva ≤ xva && xva < x.xva + x.len)

/-- Without the weight-cache lines, and the fills on their way, of the frames behind translations (R177). -/
def State.wcDrop (s : State) (gone : List Xl) : State :=
  let hit (k : Nat) : Bool := gone.any (fun x => x.pa ≤ 256 * k && 256 * k < x.pa + x.len)
  { s with wc := s.wc.filter (fun l => !hit l.pa), wcFills := s.wcFills.filter (fun f => !hit f.pa) }

/-- Install a translation; the shared look-aside buffer holds 4,096 (R264). Lines behind a translation that leaves it for want of room
leave the weight cache with it, so that INVALIDATE_XLAT finds every line through the translations held (R177, log entry 32). -/
def State.install (s : State) (x : Xl) : State :=
  let old (y : Xl) : Bool := y.t == x.t && y.xva == x.xva && y.len == x.len
  let l := x :: s.tlb.filter (fun y => !old y)
  { s.wcDrop (l.drop 4096 ++ s.tlb.filter (fun y => old y && y.pa != x.pa)) with tlb := l.take 4096 }

/-- A walk of these arguments has ended in the translation `x`: both caches take what it read (R264), but no pointer whose range was
invalidated since it began (R278). -/
def State.walked (s : State) (t xva : Nat) (write : Bool) (x : Xl) (inval : List (Nat × Nat) := []) : State :=
  (s.cachePtrs ((s.way t xva write).filter (fun p => !inval.any (fun r => p.range.1 < r.2 && r.1 < p.range.2)))).install x

-- the monad of accesses: the state goes on also when an access ends in an error

/-- Why an access does not go on: its translation is missing (R266), the command has to wait for room in the fault queue (R387) or for
credit (R180), run-ahead wants bytes that are not staged, which steer the move or are its data (R169), or its node or entry ends with a
status (R61). -/
inductive Err where
  | miss (xva : Nat) (write : Bool)
  | wait
  | want (a n : Nat) (steer : Bool)
  | stop (status detail : Nat)
deriving DecidableEq, Repr

abbrev M := ExceptT Err (StateM State)

/-- Run an access. -/
def M.on {α : Type} (m : M α) (s : State) : Except Err α × State := m.run s

/-- The issuer of an access: its tenant (8 the MC), its unit, the work it belongs to, whether its reads may use the weight cache
(R175), its credit class (R180), the number of its writes (R137), whether run-ahead makes its accesses (R169). -/
structure Req where
  t : Nat
  unit : Nat
  who : Who
  wc : Bool := false
  cls : Nat := 0
  no : Nat := 0
  ahead : Bool := false
deriving DecidableEq, Repr

/-- Node sequence and replay epoch of the work (R92), 0 for an entry. -/
def State.whoSeq (s : State) : Who → W32 × BitVec 8
  | .node g n => match s.node g n with | some x => (x.seq, x.rep) | none => (0, 0)
  | _ => (0, 0)

/-- A contained or corrected fault of an access; answers the low 16 bits of its identifier. -/
def accFault (q : Req) (unit cause : Nat) (write : Bool) (xva : Nat := 0) : M Nat := do
  let s ← get
  let (sq, ep) := s.whoSeq q.who
  set (s.raise { unit := unit, cause := cause, ctx := q.t, write := write, nodeSeq := sq, epoch := ep, xva := xva })
  return s.coll.nextId.toNat % 65536

/-- A corrected event counts towards the work's status 0x02 (R61). -/
def State.corrected (s : State) (w : Who) : State :=
  match w with
  | .node g n => s.modNode g n (fun x => { x with corr := x.corr + 1 })
  | .entry id => { s with ctxs := s.ctxs.map (fun (k, c) =>
      (k, { c with entries := c.entries.map (fun e => if e.id == id then { e with corr := e.corr + 1 } else e) })) }
  | .chan _ => s

-- tile memory

/-- The shared partition exists and holds the address. -/
def State.inShared (s : State) (a : Nat) : Bool :=
  s.fld F.shrEn == 1 && s.fld F.shrBase ≤ a / 1048576 && a / 1048576 ≤ s.fld F.shrLimit
/-- The tenant's own partition holds the address (R192). -/
def State.inOwn (s : State) (t a : Nat) : Bool :=
  s.fld (F.tmEn t) == 1 && s.fld (F.tmBase t) ≤ a / 1048576 && a / 1048576 ≤ s.fld (F.tmLimit t)

/-- The partition check of one address (R194, R195). -/
def State.tileOk (s : State) (t : Nat) (write : Bool) (a : Nat) : Bool :=
  a < 67108864 && (s.inOwn t a || (s.inShared a &&
    (if s.fld F.shrWrEn = 1 then s.fld F.shrLoader == t
     else !write && bit (s.fld F.shrRdMask) t)))

/-- The partition check of a range: every 1 MiB block that it touches (R194). -/
def State.tileOkRange (s : State) (t : Nat) (write : Bool) (a n : Nat) : Bool :=
  n == 0 || (s.tileOk t write a && s.tileOk t write (a + n - 1) &&
    (List.range ((a + n - 1) / 1048576 - a / 1048576)).all (fun k => s.tileOk t write ((a / 1048576 + k + 1) * 1048576)))

/-- A refused access: counted, recorded against the unit; the node ends with 0x15 (R194). -/
def tileCheck (q : Req) (write : Bool) (a n : Nat) : M Unit := do
  let s ← get
  if s.tileOkRange q.t write a n then return ()
  else
    set (s.sat (F.partViol q.t))
    let id ← accFault q q.unit 0x16 write
    throw (.stop 0x15 id)

/-- The errors of the granules that a range touches: (granule, 1 single-bit or 2 uncorrectable). -/
def State.eccIn (s : State) (a n : Nat) : List (Nat × Nat) :=
  if n = 0 then [] else s.ecc.filter (fun e => a / 8 ≤ e.1 && e.1 ≤ (a + n - 1) / 8)

/-- Items in ascending address order, grouped by the aligned block of `k` bytes that holds them. -/
def byBlock {α : Type} (k : Nat) (at_ : α → Nat) : List α → List (List α)
  | [] => []
  | x :: l =>
    match byBlock k at_ l with
    | (y :: w) :: r => if at_ x / k = at_ y / k then (x :: y :: w) :: r else [x] :: (y :: w) :: r
    | r => [x] :: r

-- check words (R371 to R373)

/-- The message of the check word of one write (R371). -/
def checkMsg (dest : Nat) (word : List (Nat × Byte)) (seq : W32) : List Byte :=
  let at_ (i : Nat) : Option Byte := (word.find? (fun x => x.1 % 64 == i)).map (·.2)
  (List.range 64).map (fun i => (at_ i).getD 0)
    ++ leBytes 8 ((List.range 64).foldl (fun m i => if (at_ i).isSome then m + 2 ^ i else m) 0)
    ++ leBytes 8 (dest / 64 * 64) ++ leBytes 4 seq.toNat

/-- The check word of one write (R371). -/
def checkWord (dest : Nat) (word : List (Nat × Byte)) (seq : W32) : Nat := crc32c (checkMsg dest word seq)

/-- What reaches the bank or the port of a word that its writer formed: the word itself, or with a bit changed where an upset has struck the
unit's datapath (log entry 61). -/
def State.arrives (s : State) (unit : Nat) (word : List (Nat × Byte)) : List (Nat × Byte) :=
  if s.upsets.contains unit then
    match word with
    | (a, b) :: l => (a, b ^^^ 1) :: l
    | [] => []
  else word

/-- The check word that the writing unit formed over a word is verified where the word leaves the datapath, at the bank or the port
`finder` (R372). A word that fails is not written: a contained fault is recorded against the writing unit, and the work ends with 0x1D and
the finding unit (R373). A word that arrives as it was formed verifies. -/
def wordCheck (q : Req) (finder dest : Nat) (word : List (Nat × Byte)) : M Unit := do
  let s ← get
  if s.upsets.contains q.unit then
    let sq := (s.whoSeq q.who).1
    let got := s.arrives q.unit word
    set { s with upsets := rmFirst (fun u => u == q.unit) s.upsets }
    if checkWord dest word sq ≠ checkWord dest got sq then
      let _ ← accFault q q.unit 0x12 true
      throw (.stop 0x1D finder)

-- order on tile memory (R289 to R294)

/-- The number of the last tile write that reads of this work of a word of 64 bytes may not miss: the one before its last acquire (R286), or
the last that it has seen there (R289). -/
def State.floorOf (s : State) (w : Who) (word : Nat) : Nat :=
  match w with
  | .node g n => (match s.node g n with
    | some x => Nat.max x.acq (((x.seen.find? (·.1 == word)).map (·.2)).getD 0)
    | none => s.tileNo)
  | _ => s.tileNo

/-- A read or a write of the work has seen a word of tile memory as it stood after write number `v`. -/
def State.sees (s : State) (w : Who) (word v : Nat) : State :=
  match w with
  | .node g n => s.modNode g n (fun x => { x with seen := (word, v) :: x.seen.filter (·.1 != word) })
  | _ => s

/-- A byte of tile memory as it stood after write number `v`. -/
def State.tileAt (s : State) (v a : Nat) : Byte :=
  match s.tileOld.find? (fun e => e.a == a && v < e.no) with
  | some e => e.old
  | none => s.tileByte a

/-- A unit reads bytes of one word: as they stand, or, where writes came behind its last acquire, as they stood before some of these, which
is open (R291, R294, log entry 62). -/
def wordRead (w : Who) (a n : Nat) : M (List Byte) := do
  let s ← get
  let lo := s.floorOf w (a / 64)
  if s.tileOld.any (fun e => lo < e.no && a ≤ e.a && e.a < a + n) then
    let (k, s) := s.drawBelow (s.tileNo - lo + 1)
    set (s.sees w (a / 64) (lo + k))
    return (List.range n).map (fun i => s.tileAt (lo + k) (a + i))
  else return s.tileRd a n

/-- The pieces of a range that lie in one 64-byte word each. -/
def words64 (a n : Nat) : List (Nat × Nat) :=
  if n = 0 then []
  else (List.range ((a + n - 1) / 64 - a / 64 + 1)).map (fun k =>
    let lo := Nat.max a ((a / 64 + k) * 64)
    (lo, Nat.min (a + n) ((a / 64 + k + 1) * 64) - lo))

/-- A write of bytes of one word takes the next number; what it replaces is kept while some work may still read it. A unit that is no channel
sees its own writes (R292). -/
def State.tilePut (s : State) (q : Req) (cells : List (Nat × Byte)) : State :=
  let no := s.tileNo + 1
  let live := s.graphs.any (fun g => g.nodes.any (fun x => x.st == .opened || x.st == .between))
  let old := if live then cells.map (fun c => (⟨c.1, s.tileByte c.1, no⟩ : TileOld)) else []
  let s := cells.foldl (fun s c => s.setTileByte c.1 c.2) { s with tileNo := no, tileOld := s.tileOld ++ old }
  if q.unit < 64 ∨ old.isEmpty then s else s.sees q.who ((cells.headD (0, 0)).1 / 64) no

/-- The work has reached an acquire: its later reads miss no write made before it (R286). -/
def State.acquires (s : State) (g n : Nat) : State := s.modNode g n (fun x => { x with acq := s.tileNo, seen := [] })

/-- The granules read meet their errors: an uncorrectable one ends the work with 0x1E and the physical bank in `detail`; a
single-bit one is corrected, written back and recorded (R200). -/
def eccCheck (q : Req) (a n : Nat) (write : Bool := false) : M Unit := do
  let s ← get
  let es := s.eccIn a n
  match es.find? (·.2 == 2) with
  | some e =>
    let u := s.bankUnit (8 * e.1)
    let _ ← accFault q u 0x11 write
    throw (.stop 0x1E (u - 0x100))
  | none =>
    es.forM (fun e => do
      let s ← get
      set ({ s with ecc := s.ecc.filter (·.1 != e.1) }.corrected q.who)
      let _ ← accFault q (s.bankUnit (8 * e.1)) 0x10 write)

/-- A stage of a CHAIN reads bytes of its input buffer that have not been passed to it (R88). -/
def State.unpassed (s : State) (w : Who) (a n : Nat) : Bool :=
  match w with
  | .node g k => (match s.node g k with
    | some x => a < x.inBuf.2 && x.inBuf.1 < a + n && x.hw < Nat.min x.inBuf.2 (a + n)
    | none => false)
  | _ => false

/-- A unit reads tile memory. -/
def tileRead (q : Req) (a n : Nat) : M (List Byte) := do
  tileCheck q false a n
  if (← get).unpassed q.who a n then throw .wait
  eccCheck q a n
  return (← (words64 a n).mapM (fun x => wordRead q.who x.1 x.2)).flatten

/-- One write to one word of tile memory, whole or not at all (R188): bytes with the mask of the bits that are new. Its check word is verified
at the bank (R372); granules that it covers only in part are read first, before any byte is written (R187); those it covers in full lose their
errors (R200). -/
def tileWord (q : Req) (w : List (Nat × Nat × Nat)) : M Unit := do
  let s ← get
  let cells := w.map (fun x => (x.1, BitVec.ofNat 8 (((s.tileByte x.1).toNat &&& (255 ^^^ x.2.1)) ||| x.2.2)))
  let full (g : Nat) : Bool := (List.range 8).all (fun i => w.any (fun x => x.1 == 8 * g + i && x.2.1 == 255))
  wordCheck q (s.bankUnit ((cells.headD (0, 0)).1)) ((cells.headD (0, 0)).1) cells
  (((w.map (fun x => x.1 / 8)).eraseDups).filter (fun g => !full g)).forM (fun g => eccCheck q (8 * g) 1 true)
  modify (fun s => { s with ecc := s.ecc.filter (fun e => !full e.1) }.tilePut q cells)

/-- Whole bytes are written, word by word. -/
def tileStore (q : Req) (a : Nat) (bytes : List Byte) : M Unit :=
  (words64 a bytes.length).forM (fun x =>
    tileWord q ((List.range x.2).map (fun i => (x.1 + i, 255, (bytes.getD (x.1 + i - a) 0).toNat))))

/-- A unit writes tile memory. -/
def tileWrite (q : Req) (a : Nat) (bytes : List Byte) : M Unit := do
  tileCheck q true a bytes.length
  tileStore q a bytes

-- system memory

/-- The pieces of a range that lie in one 256-byte block each (R12). -/
def blocks (a n : Nat) : List (Nat × Nat) :=
  if n = 0 then []
  else (List.range ((a + n - 1) / 256 - a / 256 + 1)).map (fun k =>
    let lo := Nat.max a ((a / 256 + k) * 256)
    (lo, Nat.min (a + n) ((a / 256 + k + 1) * 256) - lo))

/-- A byte of physical memory as a write still outstanding that satisfies `p` will leave it (R289); `b` where there is none. -/
def State.pendByte (s : State) (p : Txn → Bool) (pa : Nat) (b : Byte) : Byte :=
  (s.txns.filter (fun x => !x.isRec && p x)).foldl (fun b x => ((x.cells.find? (·.1 == pa)).map (·.2)).getD b) b

/-- The bytes that a read of this issuer finds: a unit that is no channel reads its own writes (R292). -/
def State.ownSeen (s : State) (q : Req) (pa : Nat) (l : List Byte) : List Byte :=
  if q.unit < 64 || !s.txns.any (fun x => x.who == some q.who) then l
  else ((List.range l.length).zip l).map (fun (i, b) => s.pendByte (fun x => x.who == some q.who) (pa + i) b)

/-- A physical read; an error response gives no data, records 0x0014 against the issuing unit and ends the work with 0x16 and the
port (R15); data marked uncorrectable ends it with 0x1E and the unit (R146, log entry 63). With `nc` it does not snoop: whether a CPU has
written a line back that it holds is open (R14, R299). -/
def physRead (q : Req) (pa n : Nat) (nc : Bool := false) : M (List Byte) := do
  let s ← get
  let hit (b : Nat) : Bool := n != 0 && pa / 64 ≤ b && b ≤ (pa + n - 1) / 64
  match s.badRd.find? hit, s.poison.find? hit with
  | some b, _ =>
    let _ ← accFault q q.unit 0x14 false
    throw (.stop 0x16 (portOf (64 * b)))
  | none, some _ =>
    let _ ← accFault q q.unit 0x11 false
    throw (.stop 0x1E q.unit)
  | none, none =>
    if nc && s.cpuHolds pa n then
      let (b, s) := s.drawBool
      let s := if b then s.writeBack pa n else s
      set s
      return s.ownSeen q pa (s.rawRd pa n)
    else return s.ownSeen q pa (s.sysRd pa n)

/-- A read of space 0 within one block through the weight cache (R175, R176): a hit returns the line as it was filled, with its single-bit
errors corrected; a line with a double-bit error among the bytes read leaves the cache, and the read goes to memory (R178). A miss on a line
whose fill is outstanding takes that fill's bytes; another miss reads the line and starts the fill. -/
def wcRead (q : Req) (pa n : Nat) (nc : Bool := false) : M (List Byte) := do
  let s ← get
  let k := pa / 256
  let hit (e : Nat × Bool) : Bool := pa % 256 / 8 ≤ e.1 && e.1 ≤ (pa % 256 + n - 1) / 8
  match s.wc.find? (fun l => l.pa == k), s.wcFills.find? (fun f => f.pa == k) with
  | some l, _ =>
    if l.flips.any hit then
      set ({ s with wc := s.wc.filterMap (fun (x : WcLine) =>
        if x.pa ≠ k then some x else if x.flips.any (fun e => hit e && e.2) then none
        else some { x with flips := x.flips.filter (fun e => !hit e) }) }.corrected q.who)
      let _ ← accFault q 0xDA 0x10 false
      if l.flips.any (fun e => hit e && e.2) then
        let b ← physRead q pa n nc
        modify (fun s => s.debit q.cls q.t (txnSize pa n))
        return b
      else return (l.bytes.drop (pa % 256)).take n
    else return (l.bytes.drop (pa % 256)).take n
  | none, some f => return (f.bytes.drop (pa % 256)).take n
  | none, none =>
    let b ← physRead q (256 * k) 256 nc
    modify (fun s => { s.debit q.cls q.t 256 with wcFills := s.wcFills ++ [⟨q.t, k, b⟩] })
    return (b.drop (pa % 256)).take n

/-- The physical address of a tenant's address, and its translation; a missing one, or one without the right, has to be walked
(R266, R269). A channel has its prefetch table beside the shared buffer (R169). -/
def translate (q : Req) (xva : Nat) (write : Bool) : M (Nat × Xl) := do
  let s ← get
  let own := if q.unit < 64 then (s.chan q.unit).pre.find? (fun x => x.t == q.t && x.xva ≤ xva && xva < x.xva + x.len) else none
  match own.orElse (fun _ => s.lookup q.t xva) with
  | some x => if (if write then x.w else x.r) then return (x.pa + (xva - x.xva), x) else throw (.miss xva write)
  | none => throw (.miss xva write)

/-- Accesses through a translation go without snooping (R14); in the pairing profile the attribute is ignored (R297 item 4). -/
def State.snoopless (s : State) (x : Xl) : Bool := x.nc && s.fld (F.ordProfile x.t) == 0

/-- Read space 0 at a tenant's address. -/
def xvaRead (q : Req) (xva n : Nat) : M (List Byte) := do
  let parts ← (blocks xva n).mapM (fun (a, k) => do
    let (pa, x) ← translate q a false
    let s ← get
    if q.wc && x.wc && !x.w && !s.eclipsed 0xDA then wcRead q pa k (s.snoopless x)
    else
      let b ← physRead q pa k (s.snoopless x)
      modify (fun s => s.debit q.cls q.t (txnSize pa k))
      return b)
  return parts.flatten

/-- Bytes with their addresses. -/
def cellsAt (a : Nat) (b : List Byte) : List (Nat × Byte) := ((List.range b.length).zip b).map (fun (i, v) => (a + i, v))

/-- A write of bytes of one 256-byte block by a unit becomes a transaction of 64 or 256 bytes at the block's port (R12, R13), charged to the
write class, or to control for an entry (R180). It issues as soon as the port and the balance allow. -/
def State.physWrite (s : State) (q : Req) (cells : List (Nat × Byte)) (nc : Bool := false) : State :=
  match cells.head?, cells.getLast? with
  | some a, some z =>
    State.issue { s with txns := s.txns ++ [{ port := portOf a.1, unit := q.unit, who := some q.who, no := q.no, pa := a.1, cells := cells,
                                              nc := nc, z := txnSize a.1 (z.1 + 1 - a.1), t := q.t
                                              cls := (match q.who with | .entry _ => 3 | _ => 1) }] }
  | _, _ => s

/-- A unit writes bytes of one block through a system port, which verifies the check word of each 64-byte word before it issues the
transaction (R372). -/
def portWrite (q : Req) (cells : List (Nat × Byte)) (nc : Bool) : M Unit := do
  (byBlock 64 (·.1) cells).forM (fun w => wordCheck q (0xE0 + portOf (w.headD (0, 0)).1) (w.headD (0, 0)).1 w)
  modify (fun s => s.physWrite q cells nc)

/-- Write space 0 at a tenant's address. Every block's translation is looked up before the first byte is written (R143). -/
def xvaWrite (q : Req) (xva : Nat) (bytes : List Byte) : M Unit := do
  let parts ← (blocks xva bytes.length).mapM (fun (a, k) => do
    let (pa, x) ← translate q a true
    return (cellsAt pa ((bytes.drop (a - xva)).take k), x))
  parts.forM (fun (c, x) => do portWrite q c ((← get).snoopless x))

/-- Read either space: 0 by address, 1 tile memory. -/
def spRead (q : Req) (space a n : Nat) : M (List Byte) := if space = 0 then xvaRead q a n else tileRead q a n
/-- Write either space. -/
def spWrite (q : Req) (space a : Nat) (bytes : List Byte) : M Unit :=
  if space = 0 then xvaWrite q a bytes else tileWrite q a bytes

/-- A read of control traffic: ring entries, nodes, slots, descriptor images (R180). -/
def ctlRead (q : Req) (pa n : Nat) (nc : Bool := false) : M (List Byte) := do
  let b ← physRead q pa n nc
  modify (fun s => s.debit 3 8 (txnSize pa n))
  return b

/-- Read a structure that an entry or a node names (R265): physical for the MC (R259), else translated at once; a failure writes a
record with `resumable` 0 and ends the work with 0x14 and the fault's identifier. -/
def structRead (q : Req) (xva n : Nat) : M (List Byte) := do
  let parts ← (blocks xva n).mapM (fun (a, k) => do
    if q.t = 8 then ctlRead q a k false
    else
      let s ← get
      match s.lookup q.t a with
      | some x =>
        if x.r then ctlRead q (x.pa + (a - x.xva)) k (s.snoopless x)
        else fetchAt s a k
      | none => fetchAt s a k)
  return parts.flatten
where
  fetchAt (s : State) (a k : Nat) : M (List Byte) := do
    let (sq, ep) := s.whoSeq q.who
    match s.trailErr q.t a false with
    | some (cause, level, at_) =>
      set ((s.walkPaid q.t a false).raise { unit := q.unit, cause := cause, ctx := q.t, nodeSeq := sq, epoch := ep, xva := a, level := level })
      throw (if cause = 5 then .stop 0x16 (portOf at_) else .stop 0x1E 0xD9)
    | none =>
    match s.walk q.t a false with
    | .ok x =>
      set ((s.walkPaid q.t a false).walked q.t a false x)
      ctlRead q (x.pa + (a - x.xva)) k (s.snoopless x)
    | .fail cause level pte =>
      if s.iqFull then throw .wait
      let (id, s) := (s.walkPaid q.t a false).request { unit := q.unit, cause := cause, ctx := q.t, nodeSeq := sq, epoch := ep, xva := a, pte := pte, level := level }
      set (if cause = 1 then s else s.sat (F.xlatViol q.t))
      throw (.stop 0x14 (id.toNat % 65536))

end Sys2Proof.Machine
end

