-- ==== Sys2Proof/Machine/Operands.lean ====
section
/-! DEFINITION. The operand forms: submit-ring entries with their checks (R55 to R59, R224, R390 to R394, R405, R412), graph nodes and
their bodies (R70 to R73, R87), and descriptor handles of operands (R72). -/

namespace Sys2Proof.Machine

namespace Entry
def field (e : Entry) (off n : Nat) : Nat := fieldAt e.bytes off n
def opcode (e : Entry) : Nat := e.field 0 1
def fence (e : Entry) : Bool := bit (e.field 1 1) 0
def quiet (e : Entry) : Bool := bit (e.field 1 1) 1
def irq (e : Entry) : Bool := bit (e.field 1 1) 2
def tag (e : Entry) : Nat := e.field 2 2
end Entry

/-- The bytes of an opcode's operands with the bits of each that are reserved: a byte that is not listed is reserved whole (R55,
R57, R58). -/
def entryNamed (op : Nat) : List (Nat × Nat × Nat) :=  -- first byte, bytes, reserved bits of each byte
  match op with
  | 0x01 => [(8, 13, 0)]
  | 0x02 => [(8, 12, 0)]
  | 0x03 => [(8, 12, 0)]
  | 0x04 => [(16, 4, 0)]
  | 0x05 => [(8, 3, 0), (12, 4, 0)]
  | 0x06 => [(8, 3, 0), (12, 8, 0)]
  | 0x07 => [(8, 17, 0), (28, 4, 0)]
  | 0x08 => [(8, 5, 0)]
  | 0x09 => [(8, 12, 0)]
  | 0x0A => [(8, 4, 0)]
  | 0x0B => [(8, 10, 0)]
  | 0x40 => [(8, 2, 0), (10, 1, 0xFE)]
  | 0x41 => [(8, 2, 0)]
  | 0x42 => [(8, 1, 0xF8)]
  | 0x43 => [(8, 1, 0xFC)]
  | 0x44 => [(8, 3, 0), (11, 1, 0xF0), (12, 1, 0), (13, 1, 0xF0), (14, 1, 0), (15, 1, 0xF0), (16, 1, 0), (17, 1, 0xE0), (20, 4, 0)]
  | 0x45 => [(8, 9, 0xFC)]
  | 0x46 => [(8, 1, 0xFC), (16, 6, 0)]
  | _ => []

/-- The reserved bits of byte `o` of an entry (R8, R55). -/
def entryReserved (op o : Nat) : Nat :=
  if o = 0 ∨ o = 2 ∨ o = 3 then 0
  else if o = 1 then 0xF8
  else match (entryNamed op).find? (fun r => r.1 ≤ o && o < r.1 + r.2.1) with
    | some r => r.2.2
    | none => 0xFF

/-- The offset of an entry's first byte with a reserved bit set. -/
def entryBadByte (e : Entry) : Option Nat :=
  (List.range 64).find? (fun o => e.field o 1 &&& entryReserved e.opcode o != 0)

/-- An XVA with an alignment (R57). -/
def xvaOk (v align : Nat) : Bool := v < 2 ^ 48 && v % align == 0

/-- The tenant that owns a channel (R119), 15 for none: the owner in effect, which differs from the register's while a change waits. -/
def State.owner (s : State) (ch : Nat) : Nat := (s.chan ch).owner

/-- A legal `mode` byte of a scan, and `seq` zero unless it is folded in (R364). -/
def scanModeOk (mode : Nat) : Bool := bits mode 0 2 < 2 && mode < 16
def scanSeqOk (mode seq : Nat) : Bool := bit mode 3 || seq == 0

/-- The first operand outside its legal values, by its byte offset (R57, R59). -/
def State.entryBadOperand (s : State) (c : Nat) (e : Entry) : Option Nat :=
  let pick (l : List (Nat × Bool)) : Option Nat := (l.find? (fun x => !x.2)).map (·.1)
  match e.opcode with
  | 0x01 => pick [(8, xvaOk (e.field 8 8) 64), (16, 1 ≤ e.field 16 4 && e.field 16 4 ≤ 131072), (20, e.field 20 1 ≤ 7)]
  | 0x02 =>
    let ch := e.field 18 1
    pick [(8, xvaOk (e.field 8 8) 16), (16, 1 ≤ e.field 16 2 && e.field 16 2 ≤ 4096),
      (18, ch == 0xFF || (ch ≤ 63 && s.owner ch == c)), (19, e.field 19 1 ≤ 1)]
  | 0x03 => pick [(8, xvaOk (e.field 8 8) 128), (16, e.field 16 4 ≤ 1048575)]
  | 0x05 => pick [(8, s.ctrOk c (e.field 8 2)), (10, e.field 10 1 ≤ 1)]
  | 0x06 => pick [(8, s.ctrOk c (e.field 8 2)), (10, e.field 10 1 ≤ 1), (16, e.field 16 4 ≤ 4000000000)]
  | 0x07 =>
    pick [(8, xvaOk (e.field 8 8) 1), (16, 1 ≤ e.field 16 8 && e.field 16 8 ≤ 2 ^ 40), (24, scanModeOk (e.field 24 1)),
      (28, scanSeqOk (e.field 24 1) (e.field 28 4))]
  | 0x08 => pick [(8, s.pfaults.any (fun f => f.t == c && f.id.toNat == e.field 8 4)), (12, e.field 12 1 ≤ 1)]
  | 0x09 => pick [(8, xvaOk (e.field 8 8) 4096), (16, e.field 16 4 ≤ 2 ^ 24)]
  | 0x0B => pick [(8, xvaOk (e.field 8 8) 64), (16, e.field 16 2 < s.fld (F.mbxCount c))]
  | 0x43 => pick [(8, bits (e.field 8 1) 0 2 != 0)]
  | 0x44 =>
    let size := bits (e.field 8 2) 14 2
    pick [(8, size != 3), (12, 1 ≤ size || e.field 12 2 == 0), (14, 2 ≤ size || e.field 14 2 == 0)]
  | 0x45 => pick [(8, e.field 8 1 ≤ 1)]
  | 0x46 => pick [(16, e.field 16 8 % 64 == 0)]
  | _ => none

/-- The checks of an entry in their order, and the first failure's status and `detail` (R59). -/
def State.entryCheck (s : State) (c : Nat) (e : Entry) : Option (Nat × Nat) :=
  let op := e.opcode
  if !((1 ≤ op && op ≤ 0x0C) || (0x40 ≤ op && op ≤ 0x46)) then some (0x10, 0)
  else if (if c = 8 then op < 0x0C else 0x40 ≤ op) then some (0x12, 0)
  else match entryBadByte e with
    | some o => some (0x11, o)
    | none => (s.entryBadOperand c e).map (fun o => (0x13, o))

-- graph nodes

namespace Node
def field (n : Node) (off k : Nat) : Nat := fieldAt n.bytes off k
def kind (n : Node) : Nat := bits (n.field 0 1) 0 4
def wantsRec (n : Node) : Bool := bit (n.field 1 1) 0
def irq (n : Node) : Bool := bit (n.field 1 1) 1
def inChain (n : Node) : Bool := bit (n.field 1 1) 2
def tag (n : Node) : Nat := n.field 2 2
/-- The valid predecessor entries (R71). -/
def preds (n : Node) : List Nat :=
  ((List.range 4).map (fun i => n.field (8 + 4 * i) 4)).filterMap (fun e => if bit e 31 then some (bits e 0 18) else none)
end Node

/-- Reserved bits of byte `o` of a node of a kind (R70, R72, R73); `buf` counts the hand-over buffers of a CHAIN. -/
def nodeReserved (kind o : Nat) : Nat :=
  if o = 0 then 0xF0
  else if o = 1 then 0xF8
  else if o = 2 ∨ o = 3 then 0
  else if o < 8 then 0xFF
  else if o < 24 then
    -- predecessor entry: bits [30:18] reserved
    if o % 4 = 2 then 0xFC else if o % 4 = 3 then 0x7F else 0
  else match kind with
    | 1 => if o = 26 then 0xFE else if o = 27 ∨ 48 ≤ o then 0xFF else 0
    | 2 => if o = 48 then 0xFC else if (49 ≤ o ∧ o ≤ 51) ∨ 60 ≤ o then 0xFF else 0
    | 3 => if o = 35 then 0xFF else 0
    | 4 => if o < 27 ∨ (28 ≤ o ∧ o < 32) then 0 else 0xFF
    | 5 => if o < 27 ∨ (28 ≤ o ∧ o < 36) then 0 else 0xFF
    | 6 => if o = 24 then 0xFC else if o = 25 ∨ (28 ≤ o ∧ o < 34) then 0 else 0xFF
    | 7 => if o = 41 then 0xFC else if o = 42 ∨ o = 43 then 0xFF else 0
    | 8 =>
      if o < 26 then 0
      else if o < 32 then 0xFF
      else if o < 56 then
        if o % 8 = 3 then 0xFC else if o % 8 ≤ 4 then 0 else 0xFF
      else 0xFF
    | _ => 0

/-- A predecessor entry that names an index not below the node's, or is unused and not zero (R71, code 0x03). -/
def Node.badPred (n : Node) : Bool :=
  (List.range 4).any (fun i =>
    let e := n.field (8 + 4 * i) 4
    if bit e 31 then n.idx ≤ bits e 0 18 else e != 0)

/-- A CHAIN body that breaks R73 in itself (code 0x04): stages, granule, buffers. -/
def Node.chainBad (n : Node) : Bool :=
  let st := n.field 24 1
  let gl := n.field 25 1
  st < 2 || 4 < st || gl < 12 || 20 < gl
    || (List.range 3).any (fun k =>
        let base := n.field (32 + 8 * k) 4
        let log := n.field (36 + 8 * k) 1
        if k + 1 < st then log < gl + 1 || 24 < log || base % 2 ^ log != 0 else base != 0 || log != 0)

/-- A counter operation's and a wait's fields of a node (R73), enumerated and in range (R75 code 0x04). -/
def State.nodeEnumBad (s : State) (t : Nat) (n : Node) : Bool :=
  match n.kind with
  | 1 =>
    let ch := n.field 25 1
    let sl := n.field 28 2
    let fp := n.field 30 2
    1 < n.field 24 1 || !(ch == 0xFF || (ch ≤ 63 && s.owner ch == t))
      || (if n.field 24 1 = 0 then
            sl == 0 || 4096 < sl || fp == 0 || 8 < fp || !xvaOk (n.field 32 8) 16 || !xvaOk (n.field 40 8) 16
          else sl != 0 || fp != 0 || n.field 40 8 != 0)
  | 2 => sext 32 (n.field 56 4) < sext 32 (n.field 52 4)
  | 3 => !xvaOk (n.field 24 8) 64 || n.field 32 2 == 0 || 256 < n.field 32 2 || 16 < n.field 34 1
  | 4 =>
    let op := n.field 26 1
    2 < op || (if op = 2 then n.field 24 2 != 0 || n.field 28 4 != 0 else !s.ctrOk t (n.field 24 2))
  | 5 => !s.ctrOk t (n.field 24 2) || 1 < n.field 26 1 || 4000000000 < n.field 32 4
  | 6 => 1 < n.field 25 1
  | 7 =>
    let sp := bits (n.field 41 1) 0 1
    let mode := n.field 40 1
    let cmp := bit (n.field 41 1) 1
    let lim := if sp = 1 then 67108864 else 2 ^ 48
    lim ≤ n.field 24 8 || n.field 32 8 == 0 || 2 ^ 40 < n.field 32 8
      || !scanModeOk mode || !scanSeqOk mode (n.field 44 4)
      || (!cmp && n.field 48 8 != 0) || (cmp && bits mode 0 2 == 0 && 2 ^ 32 ≤ n.field 48 8) || !xvaOk (n.field 56 8) 8
  | 8 => n.chainBad
  | _ => false

/-- The check of a node at fetch (R75): its refusal code. `chain` tells how many stages of the CHAIN before it are still to come. DESIGN
CHOICE: R75 gives the checks at fetch no order; a node that fails several is refused with the lowest code (log entry 64). -/
def State.nodeFetchBad (s : State) (t chain count : Nat) (n : Node) : Option Nat :=
  if n.kind = 0 ∨ 8 < n.kind then some 1
  else if (List.range 64).any (fun o => n.field o 1 &&& nodeReserved n.kind o != 0) then some 2
  else if n.badPred then some 3
  else if s.nodeEnumBad t n then some 4
  else if n.inChain != (chain != 0) then some 7
  else if n.inChain && (3 < n.kind || !n.preds.isEmpty) then some 7
  else if n.kind == 8 && count ≤ n.idx + n.field 24 1 then some 7
  else none

end Sys2Proof.Machine
end

