-- ==== Sys2Proof/Machine/Tensors.lean ====
section
/-! DEFINITION. Tensor descriptors (R95 to R118): image, sharding, layouts, placement, extents, validation, and the pass count of a
permutation (R150, R151, R153, R155). -/

namespace Sys2Proof.Machine

/-- "None" in a handle field (R72). -/
def noHandle : Nat := 0xFFFFFFFF

/-- Bits per element (R99). -/
def dtypeBits : Nat → Nat
  | 1 | 2 | 0xC | 0xE => 4
  | 3 | 4 | 7 | 8 | 0xD => 8
  | 5 | 9 | 0xA => 16
  | 6 | 0xB => 32
  | _ => 0

/-- The group-scaled types. -/
def isGroup (dt : Nat) : Bool := dt == 0xC || dt == 0xD || dt == 0xE
/-- The floating-point types of R159. -/
def isFloat (dt : Nat) : Bool := 7 ≤ dt && dt ≤ 0xB

/-- The descriptor of an image (R98, R100). -/
def descOf (b : List Byte) : Desc :=
  let f (off n : Nat) : Nat := fieldAt b off n
  { dtype := bits (f 0 1) 0 4, layout := bits (f 0 1) 4 4, rank := bits (f 1 1) 0 3, space := bits (f 1 1) 3 1,
    vol := bit (f 1 1) 4, rep := bits (f 1 1) 5 1, shardIndex := bits (f 2 2) 0 12, group := bits (f 2 2) 12 2, fill := f 4 4,
    allocBase := f 8 8, allocLen := f 16 5, groupDim := bits (f 21 1) 0 3, slotSize := bits (f 21 1) 4 2, origin := f 24 5,
    scale := f 32 4, scale2 := f 36 4, base := f 40 4, spillOff := f 44 4, spillBlocks := f 48 4,
    dims := (List.range 6).map (fun d =>
      let o := 56 + 12 * d
      ⟨f o 4, f (o + 4) 5, bits (f (o + 9) 1) 0 2, bits (f (o + 9) 1) 2 4, bits (f (o + 10) 2) 0 12 + 1⟩) }

/-- Reserved bits of an image byte (R98, R100); dimension records from `rank` on are reserved whole. -/
def descReserved (rank o : Nat) : Nat :=
  if o = 1 then 0xC0
  else if o = 3 then 0xC0
  else if o = 21 then 0xC8
  else if o = 22 ∨ o = 23 ∨ (29 ≤ o ∧ o ≤ 31) ∨ (52 ≤ o ∧ o ≤ 55) then 0xFF
  else if 56 ≤ o then
    if rank ≤ (o - 56) / 12 then 0xFF
    else if (o - 56) % 12 = 9 then 0xC0
    else if (o - 56) % 12 = 11 then 0xF0
    else 0
  else 0

namespace Desc

def bitsPer (d : Desc) : Nat := dtypeBits d.dtype
/-- Bits that an element occupies: an s32 CPANEL element stands in a 6-byte container (R105). -/
def cellBits (d : Desc) : Nat := if d.layout = 3 ∧ d.dtype = 6 then 48 else d.bitsPer
/-- Element size in bytes, 1 for 4-bit types (R107). -/
def elemBytes (d : Desc) : Nat := Nat.max 1 (d.bitsPer / 8)
def dim (d : Desc) (i : Nat) : Dim := d.dims.getD i ⟨1, 0, 0, 0, 1⟩

/-- This chip's shard coordinate in a dimension: mixed radix, dimension 0 fastest (R101). -/
def shardCoord (d : Desc) (i : Nat) : Nat :=
  (d.shardIndex / ((d.dims.take (Nat.min i d.rank)).foldl (fun a x => a * x.cnt) 1)) % (d.dim i).cnt

/-- The local size of a dimension (R101). -/
def localOf (x : Dim) (s : Nat) : Nat :=
  let n := x.size
  let c := x.cnt
  match x.mode with
  | 0 => n
  | 1 => let blk := cdiv n c; Nat.min blk (n - s * blk)
  | 2 => if s < n then (n - s + c - 1) / c else 0
  | _ =>
    let b := 2 ^ x.bcyc
    let nb := cdiv n b
    let count := if s < nb then (nb - s + c - 1) / c else 0
    if 0 < count ∧ (nb - 1) % c = s then count * b - (nb * b - n) else count * b

def size (d : Desc) (i : Nat) : Nat := if i < d.rank then localOf (d.dim i) (d.shardCoord i) else 1

/-- Local sizes of the used dimensions. -/
def sizes (d : Desc) : List Nat := (List.range d.rank).map d.size

/-- Insert a dimension by ascending stride, ties after the earlier index. -/
def insDim (d : Desc) (i : Nat) : List Nat → List Nat
  | [] => [i]
  | j :: l => if (d.dim i).stride < (d.dim j).stride then i :: j :: l else j :: insDim d i l

/-- The used dimensions in the stride order of R103, innermost first. -/
def strideOrder (d : Desc) : List Nat := (List.range d.rank).foldl (fun l i => d.insDim i l) []

/-- The innermost storage dimension (R103; K or N in panels, R150). -/
def inner (d : Desc) : Nat := if d.layout = 0 then d.strideOrder.headD 0 else 0

/-- Bytes of a line along the innermost dimension of a ROW tensor (R103). -/
def lineBytes (d : Desc) : Nat := cdiv (d.size d.inner * d.bitsPer) 8

/-- 32-byte reduction chunks of a panel (R104). -/
def kc (d : Desc) : Nat := cdiv (d.size 0 * d.bitsPer) 256
/-- 32-row groups of dimension 1. -/
def pt (d : Desc) : Nat := cdiv (d.size 1) 32
def batch (d : Desc) : Nat := if d.rank = 3 then d.size 2 else 1
/-- 1,024-byte words of an APANEL, BPANEL or raw SLOT tensor. -/
def words (d : Desc) : Nat := d.batch * d.pt * d.kc
/-- Raw blocks, so slots, of a SLOT tensor (R106). -/
def slots (d : Desc) : Nat := cdiv d.words 2
def slotBytes (d : Desc) : Nat := 512 * d.slotSize
/-- Bytes of a CPANEL container (R105). -/
def cBytes (d : Desc) : Nat := if d.dtype = 6 then 6 else 4

/-- A dimension's in-bounds test on local coordinates. -/
def inBounds (d : Desc) (c : List Int) : Bool :=
  (List.range d.rank).all (fun i => 0 ≤ c.getD i 0 && c.getD i 0 < (d.size i : Int))

/-- The bit offset of an element from `alloc_base` + `origin` (R103 to R106; a SLOT tensor by its raw form). -/
def bitAt (d : Desc) (c : List Nat) : Nat :=
  let x := c.getD 0 0
  let y := c.getD 1 0
  let b := if d.rank = 3 then c.getD 2 0 else 0
  match d.layout with
  | 0 => (List.range d.rank).foldl (fun a i =>
      a + (if i = d.inner then c.getD i 0 * d.bitsPer else 8 * (c.getD i 0 * (d.dim i).stride))) 0
  | 1 => ((b * d.pt + y / 32) * d.kc + x * d.bitsPer / 256) * 8192 + y % 32 * 256 + x * d.bitsPer % 256
  | 3 =>
    let nt := cdiv (d.size 0) 32
    (((b * d.pt + y / 32) * nt + x / 32) * 1024 + 32 * (y % 32) + x % 32) * (8 * d.cBytes)
  | _ => ((b * d.kc + x * d.bitsPer / 256) * d.pt + y / 32) * 8192 + y % 32 * 256 + x * d.bitsPer % 256

/-- The extent (R108): offsets from `alloc_base`, first byte and one past the last. -/
def extent (d : Desc) : Nat × Nat :=
  match d.layout with
  | 0 =>
    let far := (List.range d.rank).foldl (fun a i => a + (if i = d.inner then 0 else (d.size i - 1) * (d.dim i).stride)) 0
    (d.origin, d.origin + far + d.lineBytes)
  | 3 => (d.origin, d.origin + d.batch * d.pt * cdiv (d.size 0) 32 * 1024 * d.cBytes)
  | 4 =>
    let e := d.origin + d.slots * d.slotBytes
    if d.spillBlocks = 0 then (d.origin, e)
    else (Nat.min d.origin (64 * d.spillOff), Nat.max e (64 * d.spillOff + 2048 * d.spillBlocks))
  | _ => (d.origin, d.origin + d.words * 1024)

/-- The extent in its space: first byte and one past the last. -/
def span (d : Desc) : Nat × Nat := (d.allocBase + d.extent.1, d.allocBase + d.extent.2)

/-- Elements of the tensor's type in 32 bytes (R150). -/
def k32 (d : Desc) : Nat := 256 / Nat.max 1 d.bitsPer

/-- Storage dimensions, innermost first (R150): dimension, the element count where the part begins, and where it ends (0: no end). -/
def storage (d : Desc) : List (Nat × Nat × Nat) :=
  let l := match d.layout with
    | 0 => d.strideOrder.map (fun i => (i, 1, 0))
    | 1 => [(0, 1, d.k32), (1, 1, 32), (0, d.k32, 0), (1, 32, 0), (2, 1, 0)]
    | 3 => [(0, 1, 32), (1, 1, 32), (0, 32, 0), (1, 32, 0), (2, 1, 0)]
    | _ => [(0, 1, d.k32), (1, 1, 32), (1, 32, 0), (0, d.k32, 0), (2, 1, 0)]
  l.filter (fun p => p.1 < d.rank)

end Desc

-- permutations

/-- The refined dimensions of one side (R150): source dimension and element count where each part begins. `dimOf` maps the side's
dimensions to source dimensions, none for a broadcast. -/
def refined (parts : List (Nat × Nat × Nat)) (dimOf : Nat → Option Nat) (cuts : Nat → List Nat) (ext : Nat → Nat) :
    List (Nat × Nat) :=
  parts.flatMap (fun (d, lo, hi) =>
    match dimOf d with
    | none => []
    | some sd => ((lo :: (cuts sd).filter (fun x => lo < x && (hi == 0 || x < hi))).map (fun u => (sd, u))).filter
        (fun p => p.2 < ext p.1))

/-- Ascending distinct numbers. -/
def insNat (x : Nat) : List Nat → List Nat
  | [] => [x]
  | y :: l => if x < y then x :: y :: l else if x = y then y :: l else y :: insNat x l

/-- Both sides' refined dimensions of a MOVET, each in its own storage order (R150). -/
def moveDims (src dst : Desc) (perm : Nat → Nat) (ext : Nat → Nat) : List (Nat × Nat) × List (Nat × Nat) :=
  let dimOf (k : Nat) : Option Nat := if k < src.rank then some (perm k) else none
  let cuts (d : Nat) : List Nat :=
    let a := src.storage.filterMap (fun p => if p.1 = d ∧ 1 < p.2.1 then some p.2.1 else none)
    let b := dst.storage.filterMap (fun p => if dimOf p.1 = some d ∧ 1 < p.2.1 then some p.2.1 else none)
    (a ++ b).foldl (fun l x => insNat x l) []
  (refined src.storage some cuts ext, refined dst.storage dimOf cuts ext)

/-- Ascending runs of a label list. -/
def runsOf : List Nat → Nat
  | a :: b :: l => (if b < a then 1 else 0) + runsOf (b :: l)
  | _ => 1

/-- The pass count (R151). -/
def passCount (src dst : Desc) (perm : Nat → Nat) (ext : Nat → Nat) : Nat :=
  let (a, b) := moveDims src dst perm ext
  let r := runsOf (b.map (fun p => a.idxOf p))
  if r ≤ 2 then 1 else if r ≤ 4 then 2 else 3

/-- The order condition of a streaming MOVET (R153). -/
def streamOrder (src dst : Desc) (perm : Nat → Nat) (ext : Nat → Nat) : Bool :=
  let (a, b) := moveDims src dst perm ext
  let u := (a.map (·.1)).eraseDups
  let v := (b.map (·.1)).eraseDups
  v == u || (match u with | x :: y :: l => v == y :: x :: l | _ => false)

/-- A ROW tensor of the same local shape in canonical order (R103). -/
def canonical (d : Desc) : Desc :=
  { d with layout := 0, shardIndex := 0,
           dims := (List.range 6).map (fun i => ⟨d.size i, if i = 0 then 0 else i, 0, 0, 1⟩) }

/-- The pass count that CREATE_TENSOR reports (R96, R155). -/
def Desc.passes (d : Desc) : Nat :=
  if d.layout = 4 then 0
  else Nat.max (passCount d (canonical d) id d.size) (passCount (canonical d) d id d.size)

-- validation

/-- The tenant's descriptor behind a handle in use (not retiring). -/
def State.handle (s : State) (t h : Nat) : Option Desc :=
  ((s.ctx t).handles.find? (fun x => x.h == h && x.retiring.isNone)).map (·.d)

/-- Layout and type go together (R107). -/
def layoutOk (layout dt : Nat) : Bool :=
  match layout with
  | 0 => true
  | 1 | 2 => dt != 6 && dt != 0xB && dt != 5
  | 3 => dt == 6 || dt == 0xB
  | 4 => dt ≤ 8 && dt != 5 && dt != 6 || isGroup dt
  | _ => false

/-- The strides of R103 and R107. -/
def Desc.stridesOk (d : Desc) : Bool :=
  let used := List.range d.rank
  if d.layout ≠ 0 then used.all (fun i => (d.dim i).stride == 0)
  else
    (used.filter (fun i => (d.dim i).stride == 0)).length == 1
      && used.all (fun i => (d.dim i).stride % d.elemBytes == 0)
      && (let rec go (need : Nat) : List Nat → Bool
            | [] => true
            | i :: l => need ≤ (d.dim i).stride && go ((d.dim i).stride * d.size i) l
          go d.lineBytes (d.strideOrder.drop 1))

/-- The scale tensors and the base tensor that an image names (R109 row 10). -/
def State.linksOk (s : State) (t : Nat) (d : Desc) : Bool :=
  (if isGroup d.dtype then
    (match s.handle t d.scale with
      | some x => x.layout == 0 && x.dtype == 4 && x.rank == d.rank
          && (List.range d.rank).all (fun i =>
            x.size i == if i = d.groupDim then cdiv (d.size i) (16 * 2 ^ d.group) else d.size i)
      | none => false)
    && (d.scale2 == noHandle || (match s.handle t d.scale2 with | some x => x.dtype == 0xA | none => false))
   else d.scale == noHandle && d.scale2 == noHandle)
  && (if d.layout = 4 then
    d.base == noHandle || (match s.handle t d.base with
      | some x => x.layout == 2 && x.space == 1 && x.dtype == d.dtype && x.sizes == d.sizes
      | none => false)
   else d.base == noHandle)

/-- The allocation lies where R109 row 11 wants it. DESIGN CHOICE: an `alloc_len` of 0, which no row of R109 names and which cannot stand for 2^40,
is refused here (log entry 64). -/
def State.allocOk (s : State) (t : Nat) (d : Desc) : Bool :=
  let last := d.allocBase + d.allocLen - 1
  0 < d.allocLen &&
  (if d.space = 0 then d.allocBase + d.allocLen ≤ 2 ^ 48
   else last < 67108864 && ((s.inOwn t d.allocBase && s.inOwn t last) || (s.inShared d.allocBase && s.inShared last)))

/-- The checks of CREATE_TENSOR in their order, and the first refusal code (R109). A handle whose record waits for its ring is taken
(R97). -/
def State.descCheck (s : State) (t h : Nat) (image : List Byte) : Option Nat :=
  let d := descOf image
  let used := List.range d.rank
  let checks : List (Nat × Bool) := [
    (1, h < 2 ^ s.fld (F.dtLog2 t) && s.fld (F.dtLog2 t) != 0 && !(s.ctx t).handles.any (·.h == h)
      && !((s.ctx t).holdQ ++ (s.ctx t).held).any (fun r => match r.after with | .handle x => x.h == h | _ => false)),
    (2, (List.range 128).all (fun o => fieldAt image o 1 &&& descReserved d.rank o == 0)),
    (3, dtypeBits d.dtype != 0),
    (4, d.layout ≤ 4 && layoutOk d.layout d.dtype),
    (5, if d.layout = 0 then 1 ≤ d.rank && d.rank ≤ 6 else d.rank == 2 || d.rank == 3),
    (6, used.all (fun i =>
          let x := d.dim i
          1 ≤ x.size && (x.mode == 3 || x.bcyc == 0) && (x.mode != 0 || x.cnt == 1))
        && (let p := (d.dims.take d.rank).foldl (fun a x => a * x.cnt) 1
            p ≤ 4096 && d.shardIndex < p)
        && used.all (fun i => 1 ≤ d.size i)),
    (7, d.stridesOk),
    (8, d.fill < 2 ^ d.bitsPer && (!isGroup d.dtype || d.fill == 0)),
    (9, (if isGroup d.dtype then d.group != 0 && d.groupDim < d.rank else d.group == 0 && d.groupDim == 0)
        && ((d.slotSize != 0) == (d.layout == 4)) && (d.layout == 4 || (d.spillOff == 0 && d.spillBlocks == 0))),
    (10, s.linksOk t d),
    (11, s.allocOk t d),
    (12, (d.allocBase + d.origin) % (if d.layout = 0 then d.elemBytes else 1024) == 0),
    (13, d.extent.2 ≤ d.allocLen)]
  (checks.find? (fun x => !x.2)).map (·.1)

end Sys2Proof.Machine
end

