-- ==== Sys2Proof/Machine/Float.lean ====
section
/-! DEFINITION. Element values: exact values of floating-point patterns, rounding, casts (R159, R160), the binary32 operations of
R230, and the correctly rounded EXP, LOG, RSQRT and RECIP. -/

namespace Sys2Proof.Machine

/-- A floating-point value; a finite one has the magnitude `m` × 2^−320, which holds every value, product and sum of two
products of the formats of R99 exactly. -/
inductive Fp where
  | nan
  | inf (neg : Bool)
  | num (neg : Bool) (m : Nat)
deriving DecidableEq, Repr

/-- Exponent of the unit of `Fp.num` is −320. -/
def fpUnit : Nat := 320

/-- A floating-point format (R99, R160): exponent bits, mantissa bits, bias, whether it has infinities, its largest finite
pattern, its canonical NaN. -/
structure Fmt where
  exp : Nat
  man : Nat
  bias : Nat
  hasInf : Bool
  maxFin : Nat
  cnan : Nat

/-- The format of a floating-point `dtype` (R160). -/
def fmtOf : Nat → Fmt
  | 7 => ⟨4, 3, 7, false, 0x7E, 0x7F⟩
  | 8 => ⟨5, 2, 15, true, 0x7B, 0x7E⟩
  | 9 => ⟨5, 10, 15, true, 0x7BFF, 0x7E00⟩
  | 0xA => ⟨8, 7, 127, true, 0x7F7F, 0x7FC0⟩
  | _ => ⟨8, 23, 127, true, 0x7F7FFFFF, 0x7FC00000⟩

/-- Sign bit of a format. -/
def Fmt.sign (f : Fmt) : Nat := 2 ^ (f.exp + f.man)

/-- The value of a pattern. -/
def Fmt.decode (f : Fmt) (p : Nat) : Fp :=
  let neg := (p / f.sign) % 2 == 1
  let a := p % f.sign
  let e := a / 2 ^ f.man
  let m := a % 2 ^ f.man
  if f.maxFin < a then if f.hasInf && a == f.maxFin + 1 then .inf neg else .nan
  else .num neg ((if e = 0 then m else 2 ^ f.man + m) <<< (fpUnit + Nat.max e 1 - f.bias - f.man))

/-- The largest integer not above `a` ÷ 2^k, rounded to nearest even or toward zero. -/
def roundShift (a k : Nat) (trunc : Bool) : Nat :=
  let q := a / 2 ^ k
  let r := 2 * (a % 2 ^ k)
  if trunc || r < 2 ^ k || (r == 2 ^ k && q % 2 == 0) then q else q + 1

/-- The pattern of the magnitude `m` × 2^−320, `m` not zero, rounded as though the exponent had no upper end (R160); `sticky` says
that the exact value lies above `m`, below `m` + 1. -/
def Fmt.round (f : Fmt) (m : Nat) (trunc : Bool) (sticky : Bool := false) : Nat :=
  let n := 2 * m + (if sticky then 1 else 0)
  -- bit 0 of n has the weight 2^−321; the least weight of a subnormal is 2^(1 − bias − man)
  let low := fpUnit + 2 - f.bias - f.man
  let len := Nat.log2 n + 1
  let q := Nat.max low (len - (f.man + 1))
  roundShift n q trunc + (q - low) * 2 ^ f.man

/-- A value as a pattern, by `round` 0, 1 or 2 of R160. -/
def Fmt.encode (f : Fmt) (rnd : Nat) (v : Fp) (sticky : Bool := false) : Nat :=
  let sg (neg : Bool) : Nat := if neg then f.sign else 0
  match v with
  | .nan => f.cnan
  | .inf neg => sg neg + (if rnd = 2 then f.maxFin else if f.hasInf then f.maxFin + 1 else if rnd = 1 then f.maxFin else f.cnan)
  | .num neg m =>
    if m = 0 && !sticky then sg neg
    else
      let p := f.round m (rnd = 1) sticky
      sg neg + (if p ≤ f.maxFin then p
        else if rnd = 0 then (if f.hasInf then f.maxFin + 1 else f.cnan) else f.maxFin)

/-- An integer as a value. -/
def Fp.ofInt (i : Int) : Fp := .num (i < 0) (i.natAbs <<< fpUnit)

/-- A finite value as an integer, to nearest even or toward zero. -/
def fpToInt (neg : Bool) (m : Nat) (trunc : Bool) : Int :=
  let q : Int := roundShift m fpUnit trunc
  if neg then -q else q

-- integer types (R159); type 16 is the 48-bit integer of an s32 CPANEL tensor (R105)

/-- Signedness and width of an integer type. -/
def intType : Nat → Bool × Nat
  | 1 => (true, 4)
  | 2 => (false, 4)
  | 3 => (true, 8)
  | 4 => (false, 8)
  | 5 => (true, 16)
  | 16 => (true, 48)
  | _ => (true, 32)

def intLo (t : Nat) : Int := if (intType t).1 then -(2 ^ ((intType t).2 - 1) : Nat) else 0
def intHi (t : Nat) : Int := if (intType t).1 then ((2 ^ ((intType t).2 - 1) : Nat) : Int) - 1 else ((2 ^ (intType t).2 : Nat) : Int) - 1
/-- The value of an integer pattern. -/
def intVal (t p : Nat) : Int := if (intType t).1 then sext (intType t).2 p else (p % 2 ^ (intType t).2 : Nat)
/-- The pattern of an integer in range. -/
def intPat (t : Nat) (v : Int) : Nat := toPat (intType t).2 v

/-- The element type of a tensor as casts see it. -/
def Desc.etype (d : Desc) : Nat := if d.layout = 3 ∧ d.dtype = 6 then 16 else d.dtype
/-- The `fill` as a pattern of that type (R105). -/
def Desc.fillPat (d : Desc) : Nat := if d.etype = 16 then toPat 48 (sext 32 d.fill) else d.fill

/-- The type pairs that a cast allows (R159). -/
def castOk (src dst : Nat) : Bool := if isGroup src || isGroup dst then src == dst else true

/-- Convert a pattern from one type to another (R159, R160). -/
def castPat (src dst rnd p : Nat) : Nat :=
  if isGroup src then p
  else if isFloat src then
    let v := (fmtOf src).decode p
    if isFloat dst then (fmtOf dst).encode rnd v
    else match v with
      | .nan => 0
      | .inf neg => intPat dst (if neg then intLo dst else intHi dst)
      | .num neg m => intPat dst (clampInt (intLo dst) (intHi dst) (fpToInt neg m (rnd = 1)))
  else
    let v := intVal src p
    if isFloat dst then (fmtOf dst).encode rnd (Fp.ofInt v)
    else if rnd = 2 then intPat dst (clampInt (intLo dst) (intHi dst) v) else intPat dst v

-- binary32 (R230)

/-- The value of a binary32 pattern. -/
def f32 (p : Nat) : Fp := (fmtOf 0xB).decode p
/-- A value rounded to binary32, to nearest even. -/
def toF32 (v : Fp) : Nat := (fmtOf 0xB).encode 0 v
/-- The canonical NaN. -/
def nan32 : Nat := 0x7FC00000

/-- A signed magnitude as an integer in units of 2^−320. -/
def signedMag (neg : Bool) (m : Nat) : Int := if neg then -(m : Int) else m

/-- An exact sum as a value; a sum of zero has the sign `z`. -/
def ofSum (i : Int) (z : Bool) : Fp := if i = 0 then .num z 0 else .num (i < 0) i.natAbs

/-- The exact sum of two values, signs of zero as IEEE 754 has them under rounding to nearest. -/
def Fp.add : Fp → Fp → Fp
  | .nan, _ => .nan
  | _, .nan => .nan
  | .inf a, .inf b => if a = b then .inf a else .nan
  | .inf a, _ => .inf a
  | _, .inf b => .inf b
  | .num a m, .num b n => ofSum (signedMag a m + signedMag b n) (a && b && m == 0 && n == 0)

/-- The value with the other sign. -/
def Fp.neg : Fp → Fp
  | .nan => .nan
  | .inf a => .inf (!a)
  | .num a m => .num (!a) m

/-- The exact product; the magnitudes of factors of R99's formats lose no bit at 2^−320. -/
def Fp.mul : Fp → Fp → Fp
  | .nan, _ => .nan
  | _, .nan => .nan
  | .inf a, .inf b => .inf (a != b)
  | .inf a, .num b n => if n = 0 then .nan else .inf (a != b)
  | .num a m, .inf b => if m = 0 then .nan else .inf (a != b)
  | .num a m, .num b n => .num (a != b) ((m * n) >>> fpUnit)

def fAdd (a b : Nat) : Nat := toF32 ((f32 a).add (f32 b))
def fSub (a b : Nat) : Nat := toF32 ((f32 a).add (f32 b).neg)
def fMul (a b : Nat) : Nat := toF32 ((f32 a).mul (f32 b))
def fFma (a b c : Nat) : Nat := toF32 (((f32 a).mul (f32 b)).add (f32 c))
/-- A NaN pattern. -/
def isNan (p : Nat) : Bool := f32 p == .nan
/-- Position of a pattern in the order −infinity … −0, +0 … +infinity. -/
def fRank (p : Nat) : Int := if p / 2 ^ 31 % 2 = 1 then -((p % 2 ^ 31 : Nat) : Int) - 1 else (p % 2 ^ 31 : Nat)
/-- Minimum and maximum of IEEE 754-2019: a NaN wins, −0 lies below +0. -/
def fMin (a b : Nat) : Nat := if isNan a || isNan b then nan32 else if fRank a ≤ fRank b then a else b
def fMax (a b : Nat) : Nat := if isNan a || isNan b then nan32 else if fRank b ≤ fRank a then a else b
/-- Absolute value; a NaN result is canonical. -/
def fAbs (a : Nat) : Nat := if isNan a then nan32 else a % 2 ^ 31
/-- A zero of either sign. -/
def isZero32 (a : Nat) : Bool := a % 2 ^ 31 == 0
/-- Numeric order of values that are not NaN: +0 equals −0. -/
def fLt (a b : Nat) : Bool := !isNan a && !isNan b && !(isZero32 a && isZero32 b) && fRank a < fRank b
def fEq (a b : Nat) : Bool := !isNan a && !isNan b && ((isZero32 a && isZero32 b) || a == b)

-- correctly rounded functions

/-- The integer square root, by its bits from `2^(k−1)` down. -/
def isqrt (n : Nat) : (k r : Nat) → Nat
  | 0, r => r
  | k + 1, r => isqrt n k (if (r + 2 ^ k) * (r + 2 ^ k) ≤ n then r + 2 ^ k else r)

/-- 1 ÷ x (R230): the quotient below and whether it is inexact. -/
def fRecip (a : Nat) : Nat :=
  match f32 a with
  | .nan => nan32
  | .inf neg => if neg then 2 ^ 31 else 0
  | .num neg m =>
    if m = 0 then (fmtOf 0xB).encode 0 (.inf neg)
    else
      let n := 2 ^ (2 * fpUnit)
      (fmtOf 0xB).encode 0 (.num neg (n / m)) (n % m != 0)

/-- 1 ÷ √x (R230). -/
def fRsqrt (a : Nat) : Nat :=
  match f32 a with
  | .nan => nan32
  | .inf neg => if neg then nan32 else 0
  | .num neg m =>
    if m = 0 then (fmtOf 0xB).encode 0 (.inf neg)
    else if neg then nan32
    else
      -- (2^320 ÷ √(m ÷ 2^320))² = 2^960 ÷ m
      let q := isqrt (2 ^ (3 * fpUnit) / m) (2 * fpUnit) 0
      (fmtOf 0xB).encode 0 (.num false q) (q * q * m != 2 ^ (3 * fpUnit))

/-- 2 × Σ z^(2i+1) ÷ (2i+1) in units of 2^−320: the natural logarithm of (1 + z) ÷ (1 − z), for z up to 1/3. -/
def atanhSum (z2 : Nat) : (fuel i pow : Nat) → Nat
  | 0, _, _ => 0
  | n + 1, i, p => p / (2 * i + 1) + atanhSum z2 n (i + 1) ((p * z2) >>> fpUnit)
def lnRatio (z : Nat) : Nat := 2 * atanhSum ((z * z) >>> fpUnit) 110 0 z
/-- ln 2 in units of 2^−320. -/
def ln2 : Nat := lnRatio (2 ^ fpUnit / 3)

/-- ln x of a binary32 value (R230): no finite value but 1 has an exact result, so every other one rounds from the truncated
series. -/
def fLog (a : Nat) : Nat :=
  match f32 a with
  | .nan => nan32
  | .inf neg => if neg then nan32 else (fmtOf 0xB).encode 0 (.inf false)
  | .num neg m =>
    if m = 0 then (fmtOf 0xB).encode 0 (.inf true)
    else if neg then nan32
    else if m = 2 ^ fpUnit then 0
    else
      let k : Int := (Nat.log2 m : Int) - fpUnit
      -- y = m × 2^−k lies from 1 to 2
      let y := if k < 0 then m <<< (-k).toNat else m >>> k.toNat
      let z := ((y - 2 ^ fpUnit) <<< fpUnit) / (y + 2 ^ fpUnit)
      let v : Int := k * ln2 + lnRatio z
      (fmtOf 0xB).encode 0 (.num (v < 0) v.natAbs) true

/-- Σ r^i ÷ i! in units of 2^−320, from the term given on. -/
def expSum (r : Nat) : (fuel i term : Nat) → Nat
  | 0, _, _ => 0
  | n + 1, i, t => t + expSum r n (i + 1) (((t * r) >>> fpUnit) / (i + 1))

/-- e^x of a binary32 value (R230). -/
def fExp (a : Nat) : Nat :=
  match f32 a with
  | .nan => nan32
  | .inf neg => if neg then 0 else (fmtOf 0xB).encode 0 (.inf false)
  | .num neg m =>
    if m = 0 then 0x3F800000
    else if 2 ^ (fpUnit + 8) ≤ m then if neg then 0 else (fmtOf 0xB).encode 0 (.inf false)
    else
      let v := signedMag neg m
      let k : Int := v.fdiv ln2
      let r := (v - k * ln2).toNat
      let e := expSum r 100 0 (2 ^ fpUnit)
      let n := if k < 0 then e >>> (-k).toNat else e <<< k.toNat
      (fmtOf 0xB).encode 0 (.num false n) true

end Sys2Proof.Machine
end

