-- ==== Sys2Proof/Machine/Lines.lean ====
section
/-! DEFINITION. What a unit does with one line: footprint checks (R74), reads from staging or memory (R169), words of 64 bytes with
byte enables, their writes (R143, R187, R188) and their share of the slice digest (R371, R375). -/

namespace Sys2Proof.Machine

/-- Bits of one byte to be written: address, mask of the bits, value of the byte. -/
structure Patch where
  a : Nat
  mask : Nat
  v : Nat
deriving DecidableEq, Repr

/-- Place a patch in ascending address order; where two patches of one byte have a bit, the one that stands there already keeps it. -/
def patchIns (p : Patch) : List Patch → List Patch
  | [] => [p]
  | q :: l =>
    if p.a < q.a then p :: q :: l
    else if p.a = q.a then ⟨q.a, q.mask ||| p.mask, (p.v &&& (255 ^^^ q.mask)) ||| q.v⟩ :: l
    else q :: patchIns p l

/-- The runs of consecutive bytes of patches in ascending order: first byte, how many. -/
def patchRuns : List Patch → List (Nat × Nat)
  | [] => []
  | p :: l =>
    match patchRuns l with
    | (a, n) :: r => if p.a + 1 = a then (p.a, n + 1) :: r else (p.a, 1) :: (a, n) :: r
    | [] => [(p.a, 1)]

/-- The patches that an element of `w` bits at a bit offset makes. -/
def elemPatches (bitOff w v : Nat) : List Patch :=
  if w < 8 then [⟨bitOff / 8, (2 ^ w - 1) <<< (bitOff % 8), (v % 2 ^ w) <<< (bitOff % 8)⟩]
  else (List.range (w / 8)).map (fun i => ⟨bitOff / 8 + i, 255, (v >>> (8 * i)) % 256⟩)

/-- All patches in ascending order; the last of a list that has a bit gives it its value. -/
def patchSort (l : List Patch) : List Patch := l.foldr patchIns []

/-- Whole bytes as patches. -/
def bytePatches (a : Nat) (b : List Byte) : List Patch :=
  ((List.range b.length).zip b).map (fun (i, v) => ⟨a + i, 255, v.toNat⟩)

/-- Consecutive bytes of one 64-byte word. -/
def wordRuns : List (Nat × Byte) → List (Nat × List Byte)
  | [] => []
  | (a, b) :: l =>
    match wordRuns l with
    | (c, bs) :: r => if a + 1 = c ∧ a / 64 = c / 64 then (a, b :: bs) :: r else (a, [b]) :: (c, bs) :: r
    | [] => [(a, [b])]

/-- The footprint allows every byte from `lo` to `hi` − 1: records together (R74). -/
def covered (rs : List Range) (sp : Nat) (wr : Bool) (hi : Nat) : (fuel lo : Nat) → Bool
  | 0, lo => hi ≤ lo
  | n + 1, lo =>
    hi ≤ lo || (match rs.find? (fun r => r.sp == sp && r.lo ≤ lo && lo < r.hi && (if wr then r.wr else r.rd)) with
      | some r => covered rs sp wr hi n r.hi
      | none => false)

/-- The footprint check of one access of a program (R74), and the address range check of R135. -/
def fpCheck (p : Prog) (q : Req) (sp : Nat) (wr : Bool) (lo n : Int) : M Unit := do
  let top : Int := if sp = 0 then 2 ^ 48 else 67108864
  let bad := lo < 0 || top < lo + n || (p.checked && !covered p.ranges sp wr (lo + n).toNat p.ranges.length lo.toNat)
  if bad then
    let id ← accFault q q.unit 0x15 wr
    throw (.stop 0x15 id)

/-- Bytes of a program's source that its move in progress has overwritten, as they were (R130, R168). -/
def overlay (kept : List (Nat × Byte)) (a : Nat) (b : List Byte) : List Byte :=
  if kept.isEmpty then b else ((List.range b.length).zip b).map (fun (i, v) => ((kept.find? (·.1 == a + i)).map (·.2)).getD v)

/-- Bytes staged for an access are used: the staging corrects a single-bit error of its own, which counts for the work now, and an
uncorrectable one ends the work (R174). -/
def useStaged (ch : Nat) (q : Req) (x : Staged) : M (List Byte) := do
  modify (fun s => s.modChan ch (fun c => { c with staged := rmFirst (fun y => y == x) c.staged }))
  if x.flip = 2 then
    let _ ← accFault q ch 0x11 false
    throw (.stop 0x1E ch)
  if x.flip = 1 then
    modify (fun s => s.corrected q.who)
    let _ ← accFault q ch 0x10 false
  return x.bytes

/-- What run-ahead finds of an access: in space 0 its pages are translated, bytes not staged are asked for, and what steers the move stays
staged for its execution; tile memory, and what a volatile descriptor names, is read at execution only (R170). -/
def aheadRead (ch : Nat) (q : Req) (x : Option Staged) (sp a n : Nat) (steer : Bool) : M (List Byte) := do
  if sp = 0 then let _ ← (blocks a n).mapM (fun b => translate q b.1 false)
  match x with
  | some x =>
    if !steer then modify (fun s => s.modChan ch (fun c => { c with staged := rmFirst (fun y => y == x) c.staged }))
    return x.bytes
  | none =>
    if sp = 0 ∧ q.wc then throw (.want a n steer)
    if steer then throw .wait
    return List.replicate n 0

/-- Read `n` bytes for a channel: bytes staged for this access unless it is volatile, else the memory (R167, R169, R301). `steer`: a list
entry, a mask byte or a sample's length. -/
def chanRead (ch : Nat) (q : Req) (sp a n : Nat) (steer : Bool := false) : M (List Byte) := do
  let s ← get
  let x := if sp = 0 ∧ q.wc then (s.chan ch).staged.find? (fun x => x.sp == sp && x.xva == a && x.bytes.length == n) else none
  if q.ahead then aheadRead ch q x sp a n steer
  else match x with
    | some x => useStaged ch q x
    | none => spRead q sp a n

/-- Run an access that leaves no trace when a translation is missing or credit lacks: the line, group or row is replayed whole (R143, R167,
R180). It does not begin while writes of the same work are held. -/
def atomically {α : Type} (w : Who) (m : M α) : M α := do
  let s ← get
  if s.held w then throw .wait
  match m.on s with
  | (.ok x, s') =>
    if s.starved s' then throw .wait
    set s'
    return x
  | (.error (.stop st d), s') => set s'; throw (.stop st d)
  | (.error e, _) => throw e

/-- A read of a unit that works on a node's group or row: a replay takes what the read gave before, so that it starts with the access that
did not go on (R266). -/
def replayRead (g n : Nat) (w : Who) (m : M (List Byte)) : M (List Byte) := do
  match ((← get).node g n).map (·.again) with
  | some (b :: l) =>
    modify (fun s => s.modNode g n (fun x => { x with again := l }))
    return b
  | _ =>
    let b ← atomically w m
    modify (fun s => s.modNode g n (fun x => { x with reads := x.reads ++ [b] }))
    return b

/-- A group or row begins, or begins again: what its reads have given is at hand. -/
def State.replayReads (s : State) (g n : Nat) : State := s.modNode g n (fun x => { x with again := x.reads })

/-- A group or row is over: its reads are forgotten. -/
def State.readsOver (s : State) (g n : Nat) : State := s.modNode g n (fun x => { x with reads := [], again := [] })

/-- The node's writes enter the replica comparison (R102, R375). -/
def State.compares (s : State) (t : Nat) : Bool := s.rep.size != 0 && t < 8 && bit s.rep.repTenants.toNat t

/-- Add a compared message to the slice digest of a node (R375). -/
def State.digestMsg (s : State) (w : Who) (msg : List Byte) : State :=
  match w with
  | .node g n => s.modNode g n (fun x => { x with digSum := x.digSum + BitVec.ofNat 64 (crc 1 msg), digCnt := x.digCnt + 1 })
  | _ => s

/-- The writes of one word enter the slice digest if they are compared (R375). -/
def digestWord (q : Req) (rep : Bool) (w : List (Nat × Byte)) : M Unit :=
  modify (fun s => if rep && s.compares q.t then s.digestMsg q.who (checkMsg ((w.headD (0, 0)).1) w (s.whoSeq q.who).1) else s)

/-- The bytes of one 256-byte block of a line, given what stands there already: the bits outside a patch's mask keep it. -/
def patched (old : Nat → Byte) (ps : List Patch) : List (Nat × Byte) :=
  ps.map (fun p => (p.a, BitVec.ofNat 8 (((old p.a).toNat &&& (255 ^^^ p.mask)) ||| p.v)))

/-- Write a line's bytes: every page is translated and every block is checked before its first byte is written (R143, R194). In space 0 a
block of 256 bytes makes one transaction, in tile memory a word of 64 bytes one write (R12, R188). Run-ahead translates only (R170). -/
def lineWrite (q : Req) (sp : Nat) (rep : Bool) (ps : List Patch) : M Unit := do
  if q.ahead then
    if sp = 0 then (byBlock 256 (·.a) ps).forM (fun l => do let _ ← translate q (((l.head?).map (·.a)).getD 0) true)
  else if sp = 0 then
    let parts ← (byBlock 256 (·.a) ps).mapM (fun l => do
      let a := ((l.head?).map (·.a)).getD 0
      let (pa, x) ← translate q a true
      return (l.map (fun p => { p with a := pa - a + p.a }), x))
    parts.forM (fun (l, x) => do
      let s ← get
      let cells := patched (fun a => s.pendByte (fun _ => true) a (s.sysByte a)) l
      (byBlock 64 (·.1) cells).forM (digestWord q rep)
      portWrite q cells (s.snoopless x))
  else
    let ws := byBlock 64 (·.a) ps
    ws.forM (fun l => tileCheck q true (((l.head?).map (·.a)).getD 0 / 64 * 64) 64)
    ws.forM (fun l => do
      let s ← get
      digestWord q rep (patched (fun a => s.tileByte a) l)
      tileWord q (l.map (fun p => (p.a, p.mask, p.v))))

/-- One line of a move: what it reads, the bytes it writes given those bytes, how many elements it drops (R114) and how many lie in
damaged cells (R165), and the elements that an earlier entry of a scatter list has written too (R116). -/
structure LinePlan where
  pieces : List (Nat × Int × Nat)
  put : List (List Byte) → List Patch
  drops : Nat := 0
  damaged : Nat := 0
  shared : List (List Patch) := []

/-- Read a line's pieces for a channel, each after its footprint check; bytes that the move has overwritten meanwhile read as they were. -/
def readPieces (ch : Nat) (p : Prog) (q : Req) (l : LinePlan) : M (List (List Byte)) :=
  l.pieces.mapM (fun (sp, a, n) => do
    fpCheck p q sp false a n
    return overlay p.kept a.toNat (← chanRead ch q sp a.toNat n))

/-- The old value of a byte of either space, as a read of the program would find it. -/
def oldByte (q : Req) (sp a : Nat) : M Byte := do
  if sp = 0 then
    let (pa, _) ← translate q a true
    return (← get).sysByte pa
  else return (← get).tileByte a

/-- Before a line of a move is written over bytes of the move's own source, these are kept for the lines to come (R130, R168). -/
def keepOld (ch : Nat) (p : Prog) (q : Req) (sp : Nat) (mine : Nat → Bool) (ps : List Patch) : M Unit := do
  if !q.ahead then
    let l ← ((ps.filter (fun x => mine x.a && !p.kept.any (·.1 == x.a))).map (·.a)).mapM (fun a => do return (a, ← oldByte q sp a))
    if !l.isEmpty then modify (fun s => s.modChan ch (fun c => { c with prog := c.prog.map (fun p => { p with kept := l ++ p.kept }) }))

/-- Each element that two scatter entries write keeps one of the two values, which is free (R116). -/
def freeShared (els : List (List Patch)) (ps : List Patch) : M (List Patch) := do
  let kept ← els.filterM (fun _ => do
    let (b, s) := (← get).drawBool
    set s
    return b)
  return (kept.flatten.foldl (fun ps k => ps.map (fun p => if p.a = k.a then { p with mask := p.mask &&& (255 ^^^ k.mask), v := p.v &&& (255 ^^^ k.mask) } else p)) ps).filter (·.mask != 0)

/-- Replace by free bytes what a move writes over its own source (R130, R168). -/
def freeOverlap (mine : Nat → Bool) (ps : List Patch) : M (List Patch) :=
  ps.mapM (fun p => do
    if mine p.a then
      let s ← get
      set { s with free := s.free + 1 }
      return { p with v := (Config.freeByte s.free).toNat &&& p.mask }
    else return p)

end Sys2Proof.Machine
end

