-- ==== Sys2Proof/Machine/Programs.lean ====
section
/-! DEFINITION. Move programs as stored (R123 to R140): slots, the scan and its codes, loops, and the addresses of MOVE instances
(R135). -/

namespace Sys2Proof.Machine

/-- A slot's opcode (R125). -/
def slotOp (b : List Byte) : Nat := fieldAt b 0 1

/-- The instruction at a slot: its 16 bytes, 32 for a MOVE or MOVET. -/
def instrAt (slots : List (List Byte)) (j : Nat) : List Byte :=
  let b := slots.getD j []
  if slotOp b = 1 ∨ slotOp b = 2 then b ++ slots.getD (j + 1) [] else b

/-- Slots an instruction occupies (R125). -/
def instrLen (b : List Byte) : Nat := if slotOp b = 1 ∨ slotOp b = 2 then 2 else 1

/-- Signed 32-bit field. -/
def sfield (b : List Byte) (off : Nat) : Int := sext 32 (fieldAt b off 4)

-- MOVE (R126)

/-- Bits per element of a width code. -/
def widthBits (c : Nat) : Nat := if c = 0 then 4 else 8 * 2 ^ (c - 1)

/-- A MOVE's fields. -/
structure Mv where
  ssp : Nat
  dsp : Nat
  sext : Bool
  sat : Bool
  sw : Nat
  dw : Nat
  rten : Nat
  sstride : Int
  src : Nat
  cnt : Nat
  dst : Nat
  slen : Nat
  dlen : Nat
  dstride : Int

def mvOf (b : List Byte) : Mv :=
  let f (o n : Nat) : Nat := fieldAt b o n
  { ssp := bits (f 1 1) 0 1, dsp := bits (f 1 1) 1 2, sext := bit (f 1 1) 3, sat := bit (f 1 1) 4, sw := bits (f 2 1) 0 3,
    dw := bits (f 2 1) 4 3, rten := bits (f 3 1) 0 3, sstride := sfield b 4, src := f 8 6, cnt := f 14 2, dst := f 16 6,
    slen := f 22 3, dlen := f 25 3, dstride := sfield b 28 }

namespace Mv
def sbits (m : Mv) : Nat := widthBits m.sw
def dbits (m : Mv) : Nat := widthBits m.dw
/-- Elements and destination lines (R127). -/
def total (m : Mv) : Nat := m.slen * m.cnt
def lines (m : Mv) : Nat := m.total / m.dlen
def srcBytes (m : Mv) : Nat := cdiv (m.slen * m.sbits) 8
def dstBytes (m : Mv) : Nat := cdiv (m.dlen * m.dbits) 8

/-- The width rules of R128. -/
def widthsOk (m : Mv) : Bool :=
  if m.sw = m.dw then !m.sat && !m.sext
  else if m.sw < m.dw then !m.sat
  else m.sat || !m.sext

/-- The geometry rules of R127. -/
def geometryOk (m : Mv) : Bool :=
  let eb (w : Nat) : Nat := Nat.max 1 (widthBits w / 8)
  m.slen != 0 && m.cnt != 0 && m.dlen != 0 && m.total % m.dlen == 0
    && m.srcBytes ≤ 16777216 && m.dstBytes ≤ 16777216
    && m.src % eb m.sw == 0 && m.sstride.natAbs % eb m.sw == 0
    && (if m.dsp = 2 then m.dst % 2 ^ 20 else m.dst) % eb m.dw == 0 && m.dstride.natAbs % eb m.dw == 0

/-- An element converted between widths (R128). -/
def conv (m : Mv) (v : Nat) : Nat :=
  if m.dw ≤ m.sw then
    if m.sat then
      if m.sext then toPat m.dbits (clampInt (-(2 ^ (m.dbits - 1) : Nat)) ((2 ^ (m.dbits - 1) : Nat) - 1) (Machine.sext m.sbits v))
      else Nat.min v (2 ^ m.dbits - 1)
    else v % 2 ^ m.dbits
  else if m.sext then toPat m.dbits (Machine.sext m.sbits v) else v
end Mv

-- the scan (R123, R124)

/-- Reserved bits of byte `o` of an instruction (R126, R132, R134 to R140). DESIGN CHOICE: R132 gives bit [3] of byte 22 of a MOVET neither to a
field nor to "Reserved"; it counts as reserved here (log entry 64). -/
def slotReserved (op o : Nat) : Nat :=
  match op with
  | 1 => if o = 1 then 0xE0 else if o = 2 then 0x88 else if o = 3 then 0xF8 else 0
  | 2 => if o = 1 then 0xC0 else if o = 4 then 0xFC else if o = 22 then 0x88 else if o = 23 then 0xFF else 0
  | 3 => if o = 1 then 0x88 else if o = 3 then 0xF0 else 0
  | 5 => if 12 ≤ o then 0xFF else 0
  | 6 => if 8 ≤ o then 0xFF else 0
  | 7 => if 2 ≤ o then 0xFF else 0
  | 8 => if o = 1 then 0xFC else if (2 ≤ o ∧ o ≤ 7) ∨ 14 ≤ o then 0xFF else 0
  | _ => if o = 0 then 0 else 0xFF

/-- A reserved field of an instruction is not zero (code 0x02). -/
def slotRsvBad (b : List Byte) : Bool :=
  let op := slotOp b
  (List.range (16 * instrLen b)).any (fun o => fieldAt b o 1 &&& slotReserved op o != 0)
    || (op == 1 && (((mvOf b).ssp == 1 && 2 ^ 26 ≤ (mvOf b).src) || ((mvOf b).dsp == 1 && 2 ^ 26 ≤ (mvOf b).dst)))
    || (op == 8 && bit (fieldAt b 1 1) 0 && 2 ^ 26 ≤ fieldAt b 8 6)

/-- An enumerated field, a width, a space, a flag combination or an alignment is illegal (code 0x05). -/
def slotEnumBad (b : List Byte) : Bool :=
  let f (o n : Nat) : Nat := fieldAt b o n
  match slotOp b with
  | 1 =>
    let m := mvOf b
    m.dsp == 3 || 4 < m.sw || 4 < m.dw || !m.widthsOk || (m.dsp != 2 && m.rten != 0)
  | 2 =>
    let fl := f 1 1
    let list := bit fl 0
    bits fl 2 2 == 3 || (bit fl 4 && bit fl 5)
      || (if list then f 16 6 % 16 != 0 || f 24 4 == 0 || 2 ^ 24 < f 24 4 else bit fl 1 || f 16 6 != 0 || f 24 4 != 0)
  | 5 => 1 < f 1 1 || 4000000000 < f 8 4
  | 6 => 1 < f 1 1
  | 7 => 1 < f 1 1
  | 8 => f 8 6 % 16 != 0
  | _ => false

/-- A LOOP at slot `j` breaks R135, given the second slots and the bodies met before it. -/
def loopBad (b : List Byte) (j : Nat) (seconds : List Nat) (bodies : List (Nat × Nat)) : Bool :=
  let start := fieldAt b 2 2
  fieldAt b 4 4 == 0 || j ≤ start || seconds.contains start
    || bodies.any (fun x => x.1 < start && start < x.2)
    -- a slot inside more than four bodies
    || (List.range j).any (fun p => start ≤ p && 4 ≤ (bodies.filter (fun x => x.1 ≤ p && p < x.2)).length)

/-- The scan from slot `j` on: the code of the lowest failing slot, in table order within it (R124). -/
def State.scanFrom (s : State) (t : Nat) (slots : List (List Byte)) :
    (fuel j : Nat) → (seconds : List Nat) → (bodies : List (Nat × Nat)) → Option Nat
  | 0, _, _, _ => none
  | n + 1, j, seconds, bodies =>
    if slots.length ≤ j then none
    else
      let b := instrAt slots j
      let op := slotOp b
      if !(op ≤ 3 || (5 ≤ op && op ≤ 8) || op == 0xF) then some 1
      else if slotRsvBad b then some 2
      else if instrLen b = 2 && slots.length ≤ j + 1 then some 3
      else if op == 3 && loopBad b j seconds bodies then some 4
      else if slotEnumBad b then some 5
      else if op == 1 && !(mvOf b).geometryOk then some 6
      else if (op == 5 || op == 6) && !s.ctrOk t (fieldAt b 2 2) then some 7
      else s.scanFrom t slots n (j + instrLen b)
        (if instrLen b = 2 then (j + 1) :: seconds else seconds)
        (if op = 3 then bodies ++ [(fieldAt b 2 2, j)] else bodies)

/-- Cut bytes into slots. -/
def slotsOf (b : List Byte) : List (List Byte) := (List.range (b.length / 16)).map (fun i => slice b (16 * i) 16)

/-- Read and scan a program (R123): its slots, or the error 0x1C with its code. -/
def progScan (q : Req) (xva count : Nat) : M (List (List Byte)) := do
  let slots := slotsOf (← structRead q xva (16 * count))
  match (← get).scanFrom q.t slots (slots.length + 1) 0 [] [] with
  | some code => throw (.stop 0x1C code)
  | none => return slots

-- loops (R135)

/-- The slots where instructions start. -/
def startsFrom (slots : List (List Byte)) : (fuel j : Nat) → List Nat
  | 0, _ => []
  | n + 1, j => if slots.length ≤ j then [] else j :: startsFrom slots n (j + instrLen (instrAt slots j))

/-- The LOOPs whose bodies hold slot `p`, innermost first. -/
def enclosing (slots : List (List Byte)) (p : Nat) : List Nat :=
  (startsFrom slots slots.length 0).filter (fun j =>
    let b := slots.getD j []
    slotOp b == 3 && fieldAt b 2 2 ≤ p && p < j)

/-- The iteration count of a LOOP so far. -/
def iterOf (iters : List (Nat × Nat)) (j : Nat) : Nat := ((iters.find? (·.1 == j)).map (·.2)).getD 0

/-- What follows a LOOP slot: the next slot and the iteration counts. -/
def loopNext (b : List Byte) (j : Nat) (iters : List (Nat × Nat)) : Nat × List (Nat × Nat) :=
  let i := iterOf iters j + 1
  let rest := iters.filter (·.1 != j)
  if i < fieldAt b 4 4 then (fieldAt b 2 2, (j, i) :: rest) else (j + 1, rest)

/-- The sum of an increment (at byte `off`) over the enclosing loops. -/
def loopSum (slots : List (List Byte)) (iters : List (Nat × Nat)) (p off : Nat) : Int :=
  (enclosing slots p).foldl (fun a j => a + (iterOf iters j : Int) * sfield (slots.getD j []) off) 0

/-- The offset that the loops give along one dimension of a MOVET; `lo` is the bit of the dimension field, `off` the byte of the
increment. -/
def loopDim (slots : List (List Byte)) (iters : List (Nat × Nat)) (p lo off d : Nat) : Int :=
  (enclosing slots p).foldl (fun a j =>
    let b := slots.getD j []
    if bits (fieldAt b 1 1) lo 3 = d then a + (iterOf iters j : Int) * sfield b off else a) 0

/-- The addresses of a MOVE's line 0 at its present iteration (R135); a remote destination wraps in its `offset` (R131). -/
def Mv.at (m : Mv) (slots : List (List Byte)) (iters : List (Nat × Nat)) (p : Nat) : Int × Int :=
  (m.src + loopSum slots iters p 8,
   if m.dsp = 2 then (((m.dst % 2 ^ 20 : Nat) : Int) + loopSum slots iters p 12) % (2 ^ 20 : Nat)
   else m.dst + loopSum slots iters p 12)

/-- The source pieces of destination line `l`: address, bytes, first element's bit, elements. -/
def Mv.pieces (m : Mv) (src : Int) (l : Nat) : List (Int × Nat × Nat × Nat) :=
  let e0 := l * m.dlen
  let e1 := e0 + m.dlen
  (List.range ((e1 - 1) / m.slen - e0 / m.slen + 1)).map (fun k =>
    let i := e0 / m.slen + k
    let lo := Nat.max e0 (i * m.slen) - i * m.slen
    let hi := Nat.min e1 ((i + 1) * m.slen) - i * m.slen
    let b0 := lo * m.sbits / 8
    (src + (i : Int) * m.sstride + (b0 : Int), cdiv (hi * m.sbits) 8 - b0, lo * m.sbits - 8 * b0, hi - lo))

/-- Elements of `w` bits from a bit offset on. -/
def unpackBits (b : List Byte) (off w n : Nat) : List Nat :=
  let v := le b
  (List.range n).map (fun i => (v >>> (off + i * w)) % 2 ^ w)

/-- Elements of `w` bits as bytes, the rest of the last byte zero (R127). -/
def packBits (w : Nat) (l : List Nat) : List Byte :=
  leBytes (cdiv (l.length * w) 8) (l.foldr (fun v a => v % 2 ^ w + a <<< w) 0)

/-- The bytes of a destination line, given the bytes of its pieces. -/
def Mv.lineBytes (m : Mv) (ps : List (Int × Nat × Nat × Nat)) (got : List (List Byte)) : List Byte :=
  packBits m.dbits (((ps.zip got).flatMap (fun (p, b) => unpackBits b p.2.2.1 m.sbits p.2.2.2)).map m.conv)

/-- Source bytes of the MOVE: whether an address is one (R130). -/
def Mv.reads (m : Mv) (src : Int) (a : Nat) : Bool :=
  (List.range m.cnt).any (fun i => src + (i : Int) * m.sstride ≤ (a : Int) && (a : Int) < src + (i : Int) * m.sstride + (m.srcBytes : Int))

/-- Destination line `l` of a MOVE into memory. -/
def Mv.plan (m : Mv) (src dst : Int) (l : Nat) : LinePlan :=
  let ps := m.pieces src l
  { pieces := ps.map (fun p => (m.ssp, p.1, p.2.1)),
    put := fun got => bytePatches (dst + (l : Int) * m.dstride).toNat (m.lineBytes ps got) }

end Sys2Proof.Machine
end

