-- ==== Sys2Proof/Machine/Moves.lean ====
section
/-! DEFINITION. MOVET (R132, R133, R147 to R168): its fields, its checks at begin, the lines of its region with what each element
becomes, block lists (R115, R116), packing (R161 to R163) and damage masks (R164, R165). -/

namespace Sys2Proof.Machine

/-- A MOVET's fields (R132). -/
structure Mt where
  list : Bool
  scatter : Bool
  round : Nat
  pack : Bool
  mask : Bool
  permF : Nat
  blkF : Nat
  src : Nat
  dst : Nat
  xva : Nat
  sdim : Nat
  ddim : Nat
  count : Nat
  sstart : Int
  dstart : Int
  side : Nat

def mtOf (b : List Byte) : Mt :=
  let f (o n : Nat) : Nat := fieldAt b o n
  let h := bit (f 1 1) 4 || bit (f 1 1) 5
  { list := bit (f 1 1) 0, scatter := bit (f 1 1) 1, round := bits (f 1 1) 2 2, pack := bit (f 1 1) 4, mask := bit (f 1 1) 5,
    permF := f 2 3, blkF := f 5 3, src := f 8 4, dst := f 12 4, xva := f 16 6, sdim := bits (f 22 1) 0 3, ddim := bits (f 22 1) 4 3,
    count := f 24 4, sstart := if h then 0 else sext 16 (f 28 2), dstart := if h then 0 else sext 16 (f 30 2),
    side := if h then f 28 4 else noHandle }

/-- The MOVET that a TRANSIT node in mode 1 runs as (R133), for a source of rank `rs`. -/
def copyInstr (src dst rs : Nat) : List Byte :=
  leBytes 2 2 ++ leBytes 3 ((List.range rs).foldl (fun a d => a + d <<< (3 * d)) 0) ++ leBytes 3 0 ++ leBytes 4 src ++ leBytes 4 dst
    ++ List.replicate 16 0

namespace Mt
def perm (m : Mt) (d : Nat) : Nat := bits m.permF (3 * d) 3
def blk (m : Mt) (d : Nat) : Nat := bits m.blkF (4 * d) 4
/-- Region extent along a source dimension (R132). -/
def ext (m : Mt) (src : Desc) (k : Nat) : Nat :=
  if src.rank ≤ k then 1 else if m.blk k = 0 then src.size k else 2 ^ (m.blk k - 1)
/-- Identity permutation over the source's dimensions. -/
def permId (m : Mt) (rs : Nat) : Bool := (List.range rs).all (fun d => m.perm d == d)
end Mt

/-- The MOVET is a SLOT copy (R106). -/
def slotCopyOk (m : Mt) (src dst : Desc) : Bool :=
  src.layout == 4 && dst.layout == 4 && { src with allocBase := 0, allocLen := 0, origin := 0 } == { dst with allocBase := 0, allocLen := 0, origin := 0 }
    && m.permId src.rank && m.blkF == 0 && m.round == 0 && !m.list && !m.pack && !m.mask && m.sstart == 0 && m.dstart == 0

/-- The mark tensor's conditions that do not depend on the MOVET (R161). -/
def markOk (x : Desc) (samples : Nat) : Bool :=
  x.layout == 0 && x.dtype == 6 && x.rank == 2 && x.size 0 == 2 && samples ≤ x.size 1

/-- The range of a descriptor lies in the footprint (R161, R164). -/
def spanCovered (p : Prog) (x : Desc) (wr : Bool) : Bool :=
  !p.checked || covered p.ranges x.space wr x.span.2 p.ranges.length x.span.1

/-- The sample axis and the sample index of a packing MOVET (R161). -/
def packAxis (src : Desc) : Nat := if src.rank = 2 then 0 else 1

/-- The cell extents of a damage mask (R164). -/
def cellOf (src msk : Desc) (d : Nat) : Nat := cdiv (src.size d) (Nat.max 1 (msk.size d))

/-- The checks at MOVET begin in their order: the first failing row of R166, 0 for none. `incs` says that an enclosing LOOP has a
non-zero increment; `side` is the mark or mask tensor. -/
def mtRow (m : Mt) (src dst : Desc) (side : Option Desc) (p : Prog) (incs : Bool) : Nat :=
  let rs := src.rank
  let rd := dst.rank
  let up := (List.range 6).filter (fun d => rs ≤ d)
  let rows : List (Nat × Bool) := [
    (1, up.all (fun d => m.perm d == 0 && m.blk d == 0) && m.sdim < rs && m.ddim < rd),
    (2, (List.range rs).all (fun k => ((List.range rs).filter (fun d => m.perm d == k)).length == 1)),
    (3, (List.range rs).all (fun d => d < rd || m.ext src (m.perm d) == 1)),
    (4, (src.layout != 4 && dst.layout != 4) || (slotCopyOk m src dst && !incs)),
    (5, castOk src.dtype dst.dtype),
    (6, !m.list || ((src.bitsPer != 4 || m.ext src src.inner % 2 == 0)
          && (dst.bitsPer != 4 || (dst.inner < rs && m.ext src (m.perm dst.inner) % 2 == 0)))),
    (7, p.cls == 1 || src.layout == 4
          || (streamOrder src dst m.perm (m.ext src) && passCount src dst m.perm (m.ext src) == 1)),
    (8, !m.pack || (!m.list && m.permId rs && src.layout == 0 && dst.layout == 0 && rs == rd && (rs == 2 || rs == 3)
          && dst.size (packAxis src) ≤ 65536 && dst.size (packAxis src + 1) ≤ 16384
          && (match side with
              | some x => markOk x (m.ext src (packAxis src + 1)) && spanCovered p x false && spanCovered p x true
              | none => false)
          && m.sdim == 0 && m.ddim == 0)),
    (9, !m.mask || ((match side with
              | some x => x.layout == 0 && x.dtype == 4 && x.rank == rs && spanCovered p x false
                  && (List.range rs).all (fun d => x.size d == cdiv (src.size d) (cellOf src x d))
              | none => false)
          && m.sdim == 0 && m.ddim == 0))]
  ((rows.find? (fun r => !r.2)).map (·.1)).getD 0

-- lines of a destination box

/-- Where a run of a box of counts along the storage parts ends: how many parts one line spans (R118). -/
def lineParts (d : Desc) (count : Nat → Nat) : Nat :=
  if d.layout ≠ 0 then 2
  else
    let rec go (run : Nat) : List Nat → Nat
      | [] => 0
      | k :: l =>
        let s := 8 * (d.dim k).stride
        if s = run ∧ s * count k ≤ 8 * 16777216 then 1 + go (s * count k) l else 0
    1 + go (8 * cdiv (count d.inner * d.bitsPer) 8) (d.strideOrder.drop 1)

/-- Coordinates of a box along storage parts given outermost first. -/
def enumParts (box : List (Int × Nat)) : List (Nat × Nat × Nat) → List Int → List (List Int)
  | [], c => [c]
  | (d, lo, hi) :: rest, c =>
    let (a, n) := box.getD d (0, 1)
    let vals : List Int :=
      if hi = 0 then
        if n = 0 then []
        else
          let first := a.fdiv lo
          (List.range ((a + n - 1).fdiv lo - first + 1).toNat).map (fun (i : Nat) => (first + (i : Int)) * lo)
      else ((List.range (hi / lo)).map (fun i => c.getD d 0 + ((i * lo : Nat) : Int))).filter (fun v => a ≤ v && v < a + n)
    -- a part that begins a dimension and is not its innermost is narrowed by the inner part
    vals.flatMap (fun v => enumParts box rest (c.set d v))

/-- The lines of a box in storage order, each with its coordinates in storage order. -/
def boxLines (d : Desc) (box : List (Int × Nat)) : List (List (List Int)) :=
  let k := lineParts d (fun i => (box.getD i (0, 1)).2)
  let outer := (d.storage.drop k).reverse
  let inner := (d.storage.take k).reverse
  ((enumParts box outer (List.replicate 6 0)).map (fun c => enumParts box inner c)).filter (fun l => !l.isEmpty)

/-- The bit of an element in its space; none outside the tensor (R113, R114). -/
def Desc.locate (d : Desc) (c : List Int) : Option Nat :=
  if d.inBounds c then some (8 * (d.allocBase + d.origin) + d.bitAt (c.map Int.toNat)) else none

/-- The patches of a destination element: a value at its bit; the odd end of a 4-bit line takes a zero nibble (R103). -/
def Desc.elemPatch (d : Desc) (c : List Int) (bitOff v : Nat) : List Patch :=
  if d.bitsPer = 4 ∧ d.layout = 0 ∧ (c.getD d.inner 0).toNat + 1 = d.size d.inner ∧ d.size d.inner % 2 = 1 then [⟨bitOff / 8, 255, v % 16⟩]
  else elemPatches bitOff d.cellBits v

/-- The panel padding of the word that holds an element, as zeros (R104, R158). -/
def Desc.padding (d : Desc) (c : List Int) (bitOff : Nat) : List Patch :=
  let word := bitOff / 8192 * 1024
  let kc := (c.getD 0 0).toNat * d.bitsPer / 256
  let row0 := (c.getD 1 0).toNat / 32 * 32
  ((List.range 32).flatMap (fun r => (List.range 32).map (fun j => (r, j)))).filterMap (fun (r, j) =>
    let valid : Nat := if row0 + r < d.size 1 then Nat.min 8 (d.size 0 * d.bitsPer - 8 * (32 * kc + j)) else 0
    if valid = 8 then none else some ⟨word + 32 * r + j, 255 ^^^ (2 ^ valid - 1), 0⟩)

/-- What an element takes its value from: a source element at a bit of the source's space, or a pattern of the destination type. -/
inductive Item where
  | read (bitOff : Nat)
  | const (v : Nat)
deriving DecidableEq, Repr

/-- Runs of consecutive elements of `w` bits: first byte, one past the last, the elements' bits. -/
def bitRuns (w : Nat) : List Nat → List (Nat × Nat × List Nat)
  | [] => []
  | o :: l =>
    let lo := o / 8
    let hi := (o + w + 7) / 8
    match bitRuns w l with
    | (a, z, os) :: r => if hi = a ∨ lo = a then (lo, Nat.max hi z, o :: os) :: r else (lo, hi, [o]) :: (a, z, os) :: r
    | [] => [(lo, hi, [o])]

/-- Elements of the runs, given their bytes. -/
def runVals (w : Nat) (runs : List (Nat × Nat × List Nat)) (got : List (List Byte)) : List Nat :=
  (runs.zip got).flatMap (fun (r, b) =>
    let v := le b
    r.2.2.map (fun o => (v >>> (o - 8 * r.1)) % 2 ^ w))

/-- Give the items their values in order: constants as they are, reads from the list. -/
def itemVals (f : Nat → Nat) : List Item → List Nat → List Nat
  | [], _ => []
  | .const v :: l, vs => v :: itemVals f l vs
  | .read _ :: l, v :: vs => f v :: itemVals f l vs
  | .read _ :: l, [] => f 0 :: itemVals f l []

/-- A line's plan from its elements: destination coordinates and items. -/
def planOf (m : Mt) (src dst : Desc) (els : List (List Int × Item)) (damaged : Nat) (shared : List Int → Bool) : LinePlan :=
  let runs := bitRuns src.cellBits (els.filterMap (fun e => match e.2 with | .read o => some o | .const _ => none))
  let at_ := els.map (fun e => (e.1, dst.locate e.1))
  { pieces := runs.map (fun r => (src.space, (r.1 : Int), r.2.1 - r.1))
    put := fun got =>
      let vals := itemVals (castPat src.etype dst.etype m.round) (els.map (·.2)) (runVals src.cellBits runs got)
      let ps := (at_.zip vals).flatMap (fun ((c, o), v) => match o with | some b => dst.elemPatch c b v | none => [])
      let pad := if dst.layout = 1 ∨ dst.layout = 2 then
          (match at_.find? (fun x => x.2.isSome) with
            | some (c, some b) => dst.padding c b
            | _ => [])
        else []
      patchSort (ps ++ pad)
    drops := (at_.filter (fun x => x.2.isNone)).length
    damaged := damaged
    shared := at_.filterMap (fun (c, o) => match o with
      | some b => if shared c then some (dst.elemPatch c b 0) else none
      | none => none) }

/-- A block of a MOVET: source and destination start coordinates; a skipped gather entry fills (R116). -/
structure Block where
  so : List Int
  dn : List Int
  skip : Bool := false

/-- The destination box of a block (R133, R156). -/
def Mt.box (m : Mt) (src dst : Desc) (bl : Block) : List (Int × Nat) :=
  (List.range dst.rank).map (fun d =>
    let a := bl.dn.getD d 0
    (a, if d < src.rank then m.ext src (m.perm d) else ((dst.size d : Int) - a).toNat))

/-- The source coordinates of a destination coordinate. -/
def Mt.back (m : Mt) (src dst : Desc) (bl : Block) (c : List Int) : List Int :=
  (List.range src.rank).map (fun k =>
    let base := bl.so.getD k 0
    match (List.range src.rank).find? (fun d => m.perm d == k) with
    | some d => if d < dst.rank then base + (c.getD d 0 - bl.dn.getD d 0) else base
    | none => base)

/-- Starts with loop offsets (R133). -/
def Mt.starts (m : Mt) (slots : List (List Byte)) (iters : List (Nat × Nat)) (p : Nat) : List Int × List Int :=
  ((List.range 6).map (fun k => (if k = m.sdim then m.sstart else 0) + loopDim slots iters p 0 8 k),
   (List.range 6).map (fun d => (if d = m.ddim then m.dstart else 0) + loopDim slots iters p 4 12 d))

/-- Add to one coordinate. -/
def bump (c : List Int) (d : Nat) (v : Int) : List Int := c.set d (c.getD d 0 + v)

/-- The block of list entry `i` (R115, R133). DESIGN CHOICE: along a broadcast dimension of the destination the block has the extent 1, by which its
coordinate and its advance are multiplied (log entry 64). -/
def Mt.entryBlock (m : Mt) (src dst : Desc) (so dn : List Int) (i : Nat) (e : List Byte) : Block :=
  let v := le e
  let c (d : Nat) : Int := sext 20 (bits v (20 * d) 20)
  let img (d : Nat) : Nat := if d < src.rank then m.ext src (m.perm d) else 1
  if m.scatter then
    { so := bump so src.inner ((i : Int) * (m.ext src src.inner : Int)), dn := (List.range 6).map (fun d => c d * (img d : Int)),
      skip := bit v 120 }
  else
    { so := (List.range 6).map (fun k => c k * (m.ext src k : Int)), dn := bump dn dst.inner ((i : Int) * (img dst.inner : Int)),
      skip := bit v 120 }

/-- A list entry is malformed (R116). -/
def entryMalformed (side : Desc) (e : List Byte) : Bool :=
  let v := le e
  v >>> 121 != 0 || (List.range 6).any (fun d => side.rank ≤ d && bits v (20 * d) 20 != 0)

/-- The damaged elements of a line: reads of the mask, one byte for each cell (R165), past the cache where the mask is volatile (R117). -/
def maskRead (ch : Nat) (p : Prog) (q : Req) (src msk : Desc) (cs : List (List Int)) : M (List (Nat × Bool)) := do
  let q := { q with wc := !msk.vol }
  let at_ (c : List Int) : Option Nat :=
    if src.inBounds c then (msk.locate ((List.range src.rank).map (fun d => c.getD d 0 / (cellOf src msk d : Int)))).map (fun o => o / 8) else none
  ((cs.filterMap at_).eraseDups).mapM (fun (a : Nat) => do
    fpCheck p q msk.space false a 1
    let b ← chanRead ch q msk.space a 1 true
    return (a, le b != 0))

/-- The element of a line at a destination coordinate (R113, R116, R165), and whether it is damaged. -/
def itemAt (m : Mt) (src dst : Desc) (bl : Block) (dmg : List Int → Bool) (c : List Int) : Item × Bool :=
  if bl.skip then (.const dst.fillPat, false)
  else
    let x := m.back src dst bl c
    match src.locate x with
    | some o => if dmg x then (.const (castPat src.etype dst.etype m.round src.fillPat), true) else (.read o, false)
    | none => (.const (castPat src.etype dst.etype m.round src.fillPat), false)

/-- A side tensor overlaps the destination of its MOVET (R168): their extents meet. -/
def sideMeets (side : Option Desc) (dst : Desc) : Bool :=
  match side with
  | some k => k.space == dst.space && k.span.1 < dst.span.2 && dst.span.1 < k.span.2
  | none => false

/-- A byte of the destination that a side tensor holds (R168). -/
def sideByte (side : Option Desc) (dst : Desc) (a : Nat) : Bool :=
  match side with
  | some k => k.space == dst.space && k.span.1 ≤ a && a < k.span.2
  | none => false

/-- Reads of a mask that overlaps the destination are free values (R168). -/
def freeFlags (l : List (Nat × Bool)) : M (List (Nat × Bool)) :=
  l.mapM (fun x => do
    let (b, s) := (← get).drawBool
    set s
    return (x.1, b))

/-- The plan of a line of a block. -/
def linePlan (ch : Nat) (p : Prog) (q : Req) (m : Mt) (src dst : Desc) (side : Option Desc) (bl : Block) (cs : List (List Int)) :
    M LinePlan := do
  let dm ← match m.mask, side with
    | true, some k => maskRead ch p q src k (cs.map (m.back src dst bl))
    | _, _ => pure []
  let dm ← if sideMeets side dst then freeFlags dm else pure dm
  let dmg (x : List Int) : Bool := match side with
    | some k => (match k.locate ((List.range src.rank).map (fun d => x.getD d 0 / (cellOf src k d : Int))) with
      | some o => dm.contains (o / 8, true)
      | none => false)
    | none => false
  let els := cs.map (fun c => (c, itemAt m src dst bl dmg c))
  let img (d : Nat) : Nat := if d < src.rank then m.ext src (m.perm d) else 1
  let shared (c : List Int) : Bool := m.scatter && p.blocks.any (fun b =>
    (List.range dst.rank).all (fun d => d ≥ src.rank || (b.getD d 0 ≤ c.getD d 0 && c.getD d 0 < b.getD d 0 + (img d : Int))))
  -- copies along a broadcast dimension come from one read
  let fresh (c : List Int) : Bool := (List.range dst.rank).all (fun d => d < src.rank || c.getD d 0 == bl.dn.getD d 0)
  return planOf m src dst (els.map (fun e => (e.1, e.2.1))) (els.filter (fun e => e.2.2 && fresh e.1)).length shared

/-- Source bytes that a block reads: first, one past the last. -/
def Mt.blockReads (m : Mt) (src dst : Desc) (bl : Block) : List (Nat × Nat) :=
  if bl.skip then []
  else ((boxLines dst (m.box src dst bl)).flatten.filterMap (fun c => src.locate (m.back src dst bl c))).map
    (fun o => (o / 8, (o + src.cellBits + 7) / 8))

-- packing

/-- Where a sample lands: row, column, elements placed, whether unplaced (R163). -/
structure Placed where
  s : Nat
  row : Nat
  col : Nat
  n : Nat
  len : Nat
  unplaced : Bool
deriving DecidableEq, Repr

/-- The placement of R163 from the samples' lengths. -/
def placeFrom (w r : Nat) : (s row col : Nat) → List Nat → List Placed
  | _, _, _, [] => []
  | s, row, col, l :: ls =>
    let n := Nat.min l w
    let (row, col) := if w < col + n then (row + 1, 0) else (row, col)
    if r ≤ row then ⟨s, 0, 0, 0, l, true⟩ :: placeFrom w r (s + 1) row col ls
    else ⟨s, row, col, n, l, false⟩ :: placeFrom w r (s + 1) row (col + n) ls

/-- Element 1 of a sample's mark (R162). -/
def Placed.mark (x : Placed) : Nat :=
  if x.unplaced then 2 ^ 31 else x.col % 65536 + x.row <<< 16 + (if x.n < x.len then 2 ^ 30 else 0)

/-- The element of a sample that lands at a coordinate relative to the loop offsets; none where no sample does (R163). -/
def packItem (m : Mt) (src dst : Desc) (so : List Int) (pl : List Placed) (c : List Int) : Option Item :=
  let ax := packAxis src
  let x := c.getD ax 0
  let r := c.getD (ax + 1) 0
  let chOk := ax = 0 || (0 ≤ c.getD 0 0 && c.getD 0 0 < (m.ext src 0 : Int))
  match pl.find? (fun z => !z.unplaced && (z.row : Int) == r && (z.col : Int) ≤ x && x < ((z.col + z.n : Nat) : Int)) with
  | some z =>
    if !chOk then none
    else some <|
      let y := (List.range src.rank).map (fun d =>
        so.getD d 0 + (if d = ax then x - z.col else if d = ax + 1 then (z.s : Int) else c.getD d 0))
      match src.locate y with
      | some o => .read o
      | none => .const (castPat src.etype dst.etype m.round src.fillPat)
  | none => none

/-- The lines of a packed destination, every row in full (R163). Channels of the region beyond the destination's belong to its lines, where
they are dropped. -/
def packLines (m : Mt) (src dst : Desc) (dn : List Int) : List (List (List Int)) :=
  boxLines dst ((List.range dst.rank).map (fun d =>
    (dn.getD d 0, if packAxis src = 1 ∧ d = 0 then Nat.max (dst.size 0) (m.ext src 0) else dst.size d)))

/-- What a packed line's positions take: samples' elements, and the destination's fill at its other positions (R163). -/
def packEls (m : Mt) (src dst : Desc) (so dn : List Int) (pl : List Placed) (cs : List (List Int)) : List (List Int × Item) :=
  cs.filterMap (fun c => match packItem m src dst so pl ((List.range 6).map (fun d => c.getD d 0 - dn.getD d 0)) with
    | some x => some (c, x)
    | none => if dst.inBounds c then some (c, .const dst.fillPat) else none)

/-- Elements of samples that packing truncates or leaves unplaced (R163); in rank 3 each sample position carries every channel. -/
def packDrops (m : Mt) (src : Desc) (pl : List Placed) : Nat :=
  (pl.foldl (fun a z => a + (z.len - z.n)) 0) * (if packAxis src = 0 then 1 else m.ext src 0)

end Sys2Proof.Machine
end

