-- ==== Sys2Proof/Machine/Rings.lean ====
section
/-! DEFINITION. Contexts and their rings: the checks of `enable` (R43, R192, R280), fetching (R51, R67), admission (R56, R65), and
completion records (R60 to R65). -/

namespace Sys2Proof.Machine

/-- The submit and completion rings of a context (R40). -/
def ringsOf (c : Nat) : List Nat := if c = 8 then [0] else List.range 16

def State.sqUsed (s : State) (c k : Nat) : Bool := s.fld (F.sqLog2 c k) != 0
def State.cqUsed (s : State) (c k : Nat) : Bool := s.fld (F.cqLog2 c k) != 0
/-- The completion ring that a submit ring is paired with; CQ0 for the MC. -/
def State.cqOf (s : State) (c k : Nat) : Nat := if c = 8 then 0 else s.fld (F.cqSel c k)
def State.sqSpan (s : State) (c k : Nat) : Nat × Nat :=
  let b := page4k (s.fld (F.sqBase c k))
  (b, b + 64 * 2 ^ s.fld (F.sqLog2 c k))
def State.cqSpan (s : State) (c k : Nat) : Nat × Nat :=
  let b := page4k (s.fld (F.cqBase c k))
  (b, b + 32 * 2 ^ s.fld (F.cqLog2 c k))

/-- Two byte ranges overlap. -/
def overlaps (a b : Nat × Nat) : Bool := a.1 < b.2 && b.1 < a.2

/-- No two members of a list of ranges overlap. -/
def disjointAll : List (Nat × Nat) → Bool
  | [] => true
  | a :: l => l.all (fun b => !overlaps a b) && disjointAll l

/-- The table reads of a walk from the root. -/
def State.rootReads (s : State) (t a : Nat) : List (Nat × Nat) := s.walkAddrs t a 3 (page4k (s.fld (F.ptRoot t))) false

/-- Translate every page of a range from the root (R43 code 7); none when a page is missing or lacks the right, or a table cannot be read
(R265: the code is the only evidence). -/
def State.walkRange (s : State) (t hi : Nat) (write : Bool) : (fuel : Nat) → (a : Nat) → Option (List Xl)
  | 0, _ => some []
  | n + 1, a =>
    if hi ≤ a then some []
    else if (s.rootReads t a).any (fun x => s.badRd.contains (x.2 / 64) || s.poison.contains (x.2 / 64)) then none
    else match s.walkRoot t a write with
      | .ok x => (s.walkRange t hi write n (x.xva + x.len)).map (fun l => x :: l)
      | .fail _ _ _ => none

/-- The translations of every page of a tenant's rings. -/
def State.ringWalks (s : State) (t : Nat) : Option (List Xl) :=
  let one (w : Bool) (sp : Nat × Nat) := s.walkRange t sp.2 w ((sp.2 - sp.1) / 4096 + 1) sp.1
  ((((ringsOf t).filter (s.sqUsed t)).map (fun k => one false (s.sqSpan t k)))
    ++ (((ringsOf t).filter (s.cqUsed t)).map (fun k => one true (s.cqSpan t k)))).foldl
    (fun acc o => match acc, o with | some l, some m => some (l ++ m) | _, _ => none) (some [])

/-- Some other tenant satisfies `p`. -/
def anyOther (t : Nat) (p : Nat → Bool) : Bool := (List.range 8).any (fun u => u != t && p u)

/-- The ring checks of R43 in their order: the code of the first failing row, 0 for none. DESIGN CHOICE: `cq_sel` is checked for the submit
rings in use alone; the row says "per submit ring" (log entry 64). -/
def State.ringCheck (s : State) (c : Nat) : Nat :=
  let ks := ringsOf c
  let sq := ks.filter (s.sqUsed c)
  let cq := ks.filter (s.cqUsed c)
  let logOk (v : Nat) : Bool := v == 0 || (4 ≤ v && v ≤ 16)
  if !ks.all (fun k => logOk (s.fld (F.sqLog2 c k))) then 1
  else if !sq.all (fun k => s.cqUsed c (s.cqOf c k)) then 3
  else if !ks.all (fun k => logOk (s.fld (F.cqLog2 c k))) then 4
  else if !disjointAll (sq.map (s.sqSpan c) ++ cq.map (s.cqSpan c)) then 6
  else if c < 8 && (s.ringWalks c).isNone then 7
  else if sq.isEmpty then 8
  else 0

/-- The partition checks of R192 and the counter checks of R280. -/
def State.rangeCheck (s : State) (t : Nat) : Nat :=
  let part (u : Nat) : Nat × Nat := (s.fld (F.tmBase u), s.fld (F.tmLimit u) + 1)
  let ctr (u : Nat) : Nat × Nat := (s.fld (F.ctrBase u), s.fld (F.ctrBase u) + s.fld (F.ctrLen u))
  let some_ (r : Nat × Nat) : Bool := r.1 < r.2
  let tm := s.fld (F.tmEn t) == 1
  if tm && s.fld (F.tmLimit t) < s.fld (F.tmBase t) then 0x9
  else if tm && (anyOther t (fun u => s.fld (F.tmEn u) == 1 && overlaps (part t) (part u))
      || (s.fld F.shrEn == 1 && overlaps (part t) (s.fld F.shrBase, s.fld F.shrLimit + 1))) then 0xA
  else if 256 < (ctr t).2 then 0xB
  else if some_ (ctr t) && anyOther t (fun u => s.fld (F.enable u) == 1 && some_ (ctr u) && overlaps (ctr t) (ctr u)) then 0xC
  else 0

/-- Every check that writing `enable` 1 makes (R439). -/
def State.enableCheck (s : State) (c : Nat) : Nat :=
  match s.ringCheck c with
  | 0 => if c < 8 then s.rangeCheck c else 0
  | k => k

/-- The held translation of a ring address (R44). -/
def State.ringXlOf (s : State) (c a : Nat) : Option Xl := (s.ctx c).ringXl.find? (fun x => x.xva ≤ a && a < x.xva + x.len)

/-- A ring address as a physical address: as it is for the MC (R259), through the held translations for a tenant (R44). -/
def State.ringPa (s : State) (c a : Nat) : Nat :=
  if c = 8 then a
  else match s.ringXlOf c a with
    | some x => x.pa + (a - x.xva)
    | none => a

/-- A ring page carries the non-coherent attribute: it is accessed without snooping (R45). -/
def State.ringNc (s : State) (c a : Nat) : Bool := c != 8 && (s.ringXlOf c a).any s.snoopless

-- records

/-- A record as its 32 bytes (R60). -/
def Rec.bytes (r : Rec) (phase : Nat) (st : Stamp) (seq : Nat) : List Byte :=
  leBytes 1 r.status ++ leBytes 1 (phase + (if st.hold then 2 else 0)) ++ leBytes 2 r.tag ++ leBytes 1 r.sq ++ leBytes 1 r.opcode
    ++ leBytes 2 r.detail ++ leBytes 8 st.ns.toNat ++ leBytes 4 st.pos.toNat ++ leBytes 2 seq ++ leBytes 1 st.base
    ++ leBytes 1 0 ++ leBytes 8 r.result

/-- A completion ring has a free slot. -/
def State.cqFree (s : State) (c k : Nat) : Bool :=
  s.cqUsed c k && (s.fld (F.cqTail c k) + 2 ^ 32 - s.fld (F.cqHead c k)) % 2 ^ 32 < 2 ^ s.fld (F.cqLog2 c k)

/-- A status that reports success (R61). -/
def isSuccess (status : Nat) : Bool := status < 0x10

/-- The debug registers off and zero (R415). -/
def State.dbgOff (s : State) : State :=
  (List.range 8).foldl (fun s w => s.setReg (Reg.dbgData w) 0) ((s.setReg Reg.dbgCtrl 0).setReg Reg.dbgPeek 0)

/-- Both locks, and those that byte 8 of LOCK_CONFIG asks for (R412 to R415). -/
def State.lockNow (s : State) (flags : Nat) : State :=
  let dbg := bit flags 1
  let s := s.setRelay { s.relay with locked := true, lockCount := s.relay.lockCount + 1, dbgLock := s.relay.dbgLock || dbg }
  let s := if dbg then s.dbgOff.setFld F.pwrDbgLocked 1 else s
  let s := ((s.setFld F.pwrLockCore 1).setFld F.pwrLockRelay 1).setFld F.pwrNoRetain (bits flags 0 1)
  { s with coreLock := true }

/-- What takes effect with a record of a context (R96, R413). -/
def State.afterRec (s : State) (c : Nat) : After → State
  | .none => s
  | .handle x => s.modCtx c (fun y => { y with handles := y.handles ++ [x] })
  | .lock flags => s.lockNow flags

/-- Write a record into its ring's next slot (R60, R62); its event follows its second write. -/
def State.writeRec (s : State) (r : Rec) : State :=
  let tail := s.fld (F.cqTail r.ctx r.cq)
  let log := s.fld (F.cqLog2 r.ctx r.cq)
  let a := (s.cqSpan r.ctx r.cq).1 + 32 * (tail % 2 ^ log)
  let ev := r.irq || (!isSuccess r.status && s.fld (F.irqOnFail r.ctx r.cq) == 1)
  let b := r.bytes (if tail / 2 ^ log % 2 = 0 then 1 else 0) (s.stampFor r.ctx) (tail % 65536)
  ((s.recWrite (s.ringPa r.ctx a) b none ((if ev then [ctxVector r.ctx] else []) ++ r.chan.toList) r.ctx r.cq (s.ringNc r.ctx a)).setFld
    (F.cqTail r.ctx r.cq) (tail + 1)).afterRec r.ctx r.after

/-- Write the waiting records whose rings have free slots, in completion order; the others wait, the first 64 in the hold queue
(R65). -/
def State.flushRecs (s : State) (c : Nat) : State :=
  let x := s.ctx c
  let (s, left) := (x.holdQ ++ x.held).foldl (fun (s, l) r =>
    if s.cqFree c r.cq && !s.coll.fatal then (s.writeRec r, l) else (s, l ++ [r])) (s, [])
  s.modCtx c (fun x => { x with holdQ := left.take 64, held := left.drop 64,
                                waitAt := if left.isEmpty then none else some (x.waitAt.getD s.aon)
                                stallTold := if left.isEmpty then false else x.stallTold })

/-- A record is due: written at once if its ring has a free slot, else queued (R65); none after a fatal fault (R384). -/
def State.emit (s : State) (r : Rec) : State :=
  if s.coll.fatal then s
  else (s.modCtx r.ctx (fun x =>
    if x.holdQ.length < 64 then { x with holdQ := x.holdQ ++ [r] } else { x with held := x.held ++ [r] })).flushRecs r.ctx

/-- The status and `detail` of a success in which corrected events occurred (R61). -/
def withCorr (status detail corr : Nat) : Nat × Nat :=
  if status = 1 ∧ 0 < corr then (2, Nat.min 0xFFFF corr) else (status, detail)

/-- An entry completes: it leaves the context, and its record is written unless it is `quiet` and succeeds (R60). -/
def State.finish (s : State) (c : Nat) (e : Entry) (status : Nat) (detail : Nat := 0) (result : Nat := 0)
    (chan : Option Nat := none) (after : After := .none) : State :=
  let cur := ((s.ctx c).entries.find? (·.id == e.id)).getD e
  let (st, de) := withCorr status detail cur.corr
  let s := s.modCtx c (fun x => { x with entries := x.entries.filter (·.id != e.id) })
  if e.quiet && isSuccess st then (match chan with | some n => s.event n | none => s).afterRec c after
  else s.emit ⟨c, s.cqOf c e.sq, e.sq, st, e.tag, e.opcode, de, result, e.irq, chan, after⟩

/-- An entry has issued its writes: it completes with success when they have returned (R62), with this `result` and effect. -/
def State.dueEntry (s : State) (c : Nat) (e : Entry) (result : Nat) (after : After) : State :=
  s.modCtx c (fun x => { x with entries := x.entries.map (fun y =>
    if y.id == e.id then { y with started := true, due := some (result, after) } else y) })

/-- The context that holds an entry, with the entry. -/
def State.entryAt (s : State) (id : Nat) : Option (Nat × Entry) :=
  (List.range 9).findSome? (fun c => ((s.ctx c).entries.find? (·.id == id)).map (fun e => (c, e)))

-- fetching

/-- Entries of a ring that a tail doorbell has made fetchable (R49). -/
def State.fetchable (s : State) (c k : Nat) : Nat :=
  if s.sqUsed c k then (s.fld (F.sqTail c k) + 2 ^ 32 - s.fld (F.sqHead c k)) % 2 ^ 32 else 0

/-- The context's next ring with something to fetch, in round robin (R67). -/
def State.nextRing (s : State) (c : Nat) : Option Nat :=
  if (s.ctx c).phase != .enabled then none
  else
    let n := if c = 8 then 1 else 16
    ((List.range n).map (fun i => ((s.ctx c).nextSq + i) % n)).find? (fun k => s.fetchable c k != 0)

/-- One turn of a ring: up to four consecutive entries of one aligned 256-byte block, in one read (R51, R67). A slot is read only once: an
error response is recorded against the scheduler (R15), and the entries of its slots are lost (log entry 11). -/
def State.fetchRing (s : State) (c k : Nat) : State :=
  let head := s.fld (F.sqHead c k)
  let slot := head % 2 ^ s.fld (F.sqLog2 c k)
  let n := Nat.min (s.fetchable c k) (4 - slot % 4)
  let pa := s.ringPa c ((s.sqSpan c k).1 + 64 * slot)
  let q : Req := { t := c, unit := 0xD8, who := .entry s.nextEntry }
  match (ctlRead q pa (64 * n) (s.ringNc c ((s.sqSpan c k).1 + 64 * slot))).on s with
  | (.error _, s) => (s.setFld (F.sqHead c k) (head + n)).modCtx c (fun x => { x with nextSq := k + 1 })
  | (.ok b, s) =>
    let new := (List.range n).map (fun i => ({ id := s.nextEntry + i, sq := k, bytes := (b.drop (64 * i)).take 64 } : Entry))
    let s := s.modCtx c (fun x => { x with fetched := x.fetched ++ new, nextSq := k + 1 })
    { s.setFld (F.sqHead c k) (head + n) with nextEntry := s.nextEntry + n }

/-- Turns that a context has in one round (R67). -/
def State.turnsOf (s : State) (c : Nat) : Nat := if c = 8 then 1 else s.fld (F.schedWeight c)

/-- The context after `c` in a round: the MC, then the tenants in ascending index. -/
def nextCtx (c : Nat) : Nat := if c = 8 then 0 else if c = 7 then 8 else c + 1

/-- One fetch turn: the context whose turn it is, or the next one with something to fetch; turns not taken are not saved (R67). -/
def State.fetchTurn (s : State) : State :=
  let rec go : Nat → Nat → Nat → State
    | 0, _, _ => s
    | n + 1, c, used =>
      if used < s.turnsOf c then
        match s.nextRing c with
        | some k => (({ s with fetchTenant := c }).fetchRing c k).modCtx c (fun x => { x with turns := used + 1 })
        | none => go n (nextCtx c) 0
      else go n (nextCtx c) 0
  go 10 s.fetchTenant (s.ctx s.fetchTenant).turns

-- admission

/-- A WAIT of the ring is admitted and not satisfied (R56). -/
def Ctx.ringWaits (x : Ctx) (k : Nat) : Bool := x.entries.any (fun e => e.sq == k && e.opcode == 6)

/-- The entry of a ring that may be admitted now, while the context is enabled (R44, log entry 65): a RESUME_FAULT at once (R273); otherwise
the oldest, unless a WAIT is pending, its `fence` holds it (R56), an admitted SET_EPOCH holds the tenant (R93) or the hold queue is full and
its completion ring too (R65). -/
def State.admissible (s : State) (c k : Nat) : Option Entry :=
  let x := s.ctx c
  let mine := x.fetched.filter (·.sq == k)
  if x.phase != .enabled then none
  else if 64 ≤ x.holdQ.length && !s.cqFree c (s.cqOf c k) then none
  else match mine.find? (fun e => c < 8 && e.opcode == 8) with
    | some e => some e
    | none =>
      match mine with
      | [] => none
      | e :: _ =>
        if x.ringWaits k || x.entries.any (fun y => y.opcode == 0x0A) || (e.fence && x.entries.any (·.sq == k)) then none else some e

/-- A WAIT entry's first evaluation is its admission (R440): it is pending from then on, and met if its condition holds already. -/
def State.waitBegins (s : State) (c : Nat) (e : Entry) : State :=
  if e.opcode = 6 then
    let v := BitVec.ofNat 32 (e.field 12 4)
    s.addWait { t := c, who := .entry e.id, counter := e.field 8 2, cond := e.field 10 1, value := v, start := s.aon, timeoutUs := e.field 16 4 }
  else s

/-- Admit an entry: its checks, then it waits for its opcode's own step (R56, R59). -/
def State.admitEntry (s : State) (c : Nat) (e : Entry) : State :=
  let s := { s with readyNo := s.readyNo + 1 }.modCtx c (fun x => { x with fetched := x.fetched.filter (·.id != e.id), entries := x.entries ++ [{ e with age := s.readyNo }] })
  match s.entryCheck c e with
  | none => s.waitBegins c e
  | some (st, de) =>
    let s := if st = 0x12 ∧ c < 8 then s.sat (F.privViol c) else s
    s.finish c e st de

/-- The oldest admitted entry of a context with an opcode whose step has not run (log entry 12). -/
def State.oldest (s : State) (c op : Nat) : Option Entry := (s.ctx c).entries.find? (fun e => e.opcode == op && !e.started)

/-- Mark an entry's step as run. -/
def State.start (s : State) (c : Nat) (e : Entry) : State :=
  s.modCtx c (fun x => { x with entries := x.entries.map (fun y => if y.id == e.id then { y with started := true } else y) })

end Sys2Proof.Machine
end

