-- ==== Sys2Proof/Machine/Send.lean ====
section
/-! DEFINITION. The sending side of the fabric: targets (R332), pairs and the send log (R329), batches (R328), transmission (R331),
and what a remote MOVE line does (R131). -/

namespace Sys2Proof.Machine

/-- The chips that a remote write for a chip goes to: the in-service members of its group, or the chip alone (R332). -/
def State.targets (s : State) (chip : Nat) : List Nat :=
  if s.fld (F.grpSize chip) = 0 then [chip]
  else ((List.range (s.fld (F.grpSize chip) + 1)).filter (fun m => bit (s.fld (F.grpIn chip)) m)).map (fun m => s.fld (F.grpM chip m))

/-- The index of a pair in the list of sending pairs. -/
def State.txIdx (s : State) (t chip rt mbx : Nat) : Option Nat :=
  s.relay.tx.findIdx? (fun x => x.srcTenant == t && x.dstChip == chip && x.dstTenant == rt && x.mailbox == mbx)

/-- The pair's index, with a new pair if there is none. -/
def State.txPair (s : State) (t chip rt mbx : Nat) : Nat × State :=
  match s.txIdx t chip rt mbx with
  | some i => (i, s)
  | none => (s.relay.tx.length,
      s.setRelay { s.relay with tx := s.relay.tx ++ [{ srcTenant := t, dstChip := chip, dstTenant := rt, mailbox := mbx }] })

def State.modTx (s : State) (i : Nat) (f : TxPair → TxPair) : State :=
  s.setRelay { s.relay with tx := s.relay.tx.modify i f }

/-- Log frames of a tenant that are not acknowledged (R329). -/
def State.logged (s : State) (t : Nat) : Nat := (s.relay.log.filter (·.t == t)).length

/-- The target value that the frame word covers (R374). -/
def targetBytes (f : Frame) : List Byte :=
  leBytes 8 ((if f.typ = 2 then 0 else f.offset) + f.mailbox <<< 20 + f.dstChip <<< 36 + f.dstTenant <<< 48)

/-- The message of R374. -/
def frameMsg (f : Frame) (seq : W32) : List Byte := f.payload.take (f.lenM1 + 1) ++ targetBytes f ++ leBytes 4 seq.toNat

/-- The payload of a BATCH frame (R328): the stamp, then epochs and count. -/
def batchPayload (st : Stamp) (stampSeq rep : Nat) (seq run : W32) (count : Nat) : List Byte :=
  let l := leBytes 8 st.ns.toNat ++ leBytes 4 st.pos.toNat ++ leBytes 2 stampSeq ++ leBytes 1 (st.base + (if st.hold then 4 else 0))
    ++ leBytes 1 rep ++ leBytes 4 seq.toNat ++ leBytes 4 run.toNat ++ leBytes 1 count
  l ++ List.replicate (256 - l.length) 0

/-- The node sequence in a BATCH payload (R328). -/
def batchSeq (f : Frame) : W32 := BitVec.ofNat 32 (fieldAt f.payload 16 4)

/-- A BATCH frame as it leaves: its stamp is taken now (R328), and its word covers it (R374). -/
def State.stamped (s : State) (t : Nat) (f : Frame) : Frame :=
  if f.typ = 2 then
    let st := s.stampFor t
    let p := leBytes 8 st.ns.toNat ++ leBytes 4 st.pos.toNat ++ slice f.payload 12 2 ++ leBytes 1 (st.base + (if st.hold then 4 else 0))
      ++ f.payload.drop 15
    let f := { f with payload := p }
    { f with word := crc32c (frameMsg f (batchSeq f)) }
  else f

/-- This chip transmits: it is in no replica group, or its active member and not named out (R331, R401). -/
def State.transmits (s : State) : Bool := s.rep.size == 0 || (!s.rep.out && s.rep.active == s.rep.member)

/-- A logged frame may leave now. -/
def State.mayLeave (s : State) (l : LogFrame) : Bool :=
  !l.sent && (s.rep.size == 0 || (s.transmits && l.passed)) && (match s.relay.tx[l.pair]? with | some x => x.waitUntil.isNone | none => false)

/-- Transmit every logged frame that may leave, oldest first within each pair (R329, R331). -/
def State.transmit (s : State) : State :=
  if s.engines then
    (List.range s.relay.log.length).foldl (fun s i =>
      match s.relay.log[i]? with
      | some l =>
        if s.mayLeave l then
          let f := s.stamped l.t l.frame
          -- the acknowledgement timer of the pair runs from its first frame outstanding (R329)
          let s := if s.relay.log.any (fun x => x.pair == l.pair && x.sent) then s else s.modTx l.pair (fun x => { x with adv := s.aon })
          (s.setRelay { s.relay with log := s.relay.log.modify i (fun l => { l with frame := f, sent := true }) }).inject f (some (l.g, l.n))
        else s
      | none => s) s
  else s

/-- A frame of a pair enters the send log with the pair's next sequence number (R329). -/
def State.logFrame (s : State) (i : Nat) (l : LogFrame) : State :=
  match s.relay.tx[i]? with
  | some x =>
    let s := s.modTx i (fun x => { x with nextSeq := (x.nextSeq + 1) % 2 ^ 24, batch := if l.frame.typ = 2 then (x.batch + 1) % 65536 else x.batch })
    s.setRelay { s.relay with log := s.relay.log ++ [{ l with pair := i, frame := { l.frame with pairSeq := x.nextSeq } }] }
  | none => s

/-- The checks at the first line of a remote MOVE (R131). -/
def State.remoteOk (s : State) (t chip : Nat) : Bool :=
  s.fld (F.remoteEn t) == 1 && withinFabric s.fabDims chip && chip != s.self

/-- The present comparison interval of a node (R395), 0 for work without one. -/
def State.ivOf (s : State) (g n : Nat) : Nat := ((s.node g n).map (·.intervals)).getD 0

/-- Half of the tenant's log share holds frames of the node's present interval that await comparison (R331, R395). -/
def State.halfLog (s : State) (t g n : Nat) : Bool :=
  s.compares t && s.fld (F.rlogQuota t) ≤ 2 * ((s.relay.log.filter (fun l => l.g == g && l.n == n && l.iv == s.ivOf g n && !l.passed)).length)

/-- A pair that a program uses for the first time since its replay point: its numbers are kept (R330). -/
def State.keepPair (s : State) (ch i : Nat) : State :=
  match s.relay.tx[i]? with
  | some x => s.modChan ch (fun c => { c with prog := c.prog.map (fun p =>
      if p.pairs.any (·.1 == i) then p else { p with pairs := (i, x.nextSeq, x.batch) :: p.pairs }) })
  | none => s

/-- Log the frames of one remote line from frame `k` on, to every target (R328, R332): a BATCH frame opens each 64 DATA frames. It
stops when the tenant's log share is full (R329) and, in a replica group, at the frame boundary at which half of it waits for
comparison (R331); it answers the frame it stopped at. -/
def sendFrames (ch : Nat) (m : Mv) (p : Prog) (t off : Nat) (bytes : List Byte) (no : Nat) : (fuel k : Nat) → State → Nat × State
  | 0, k, s => (k, s)
  | n + 1, k, s =>
    let total := cdiv bytes.length 256
    if total ≤ k then (k, s)
    else
      let mbx := bits m.dst 20 16
      let chip := bits m.dst 36 12
      let tg := s.targets chip
      let opens := k % 64 = 0
      let need := tg.length * (if opens then 2 else 1)
      let quota := s.fld (F.rlogQuota t)
      let half := s.halfLog t p.g p.n
      if quota < s.logged t + need || half then (k, s)
      else
        let b := (bytes.drop (256 * k)).take 256
        let (sq, rep) := s.whoSeq (.node p.g p.n)
        let ent (f : Frame) : LogFrame := ⟨0, f, false, !s.compares t, ch, p.g, p.n, no, t, s.ivOf p.g p.n⟩
        let s := tg.foldl (fun s c =>
          let (i, s) := s.txPair t c m.rten mbx
          let s := s.keepPair ch i
          let s := if opens then
              let f := { s.mkFrame 2 (1 + p.cls) c m.rten t mbx 0 0 with
                lenM1 := 31, payload := batchPayload ⟨0, 0, 0, false⟩ ((s.relay.tx[i]?.map (·.batch)).getD 0) rep.toNat sq (s.ctx t).runEpoch (Nat.min 64 (total - k)) }
              s.logFrame i (ent f)
            else s
          let f := { s.mkFrame 1 (1 + p.cls) c m.rten t mbx 0 0 with
            offset := off + 256 * k, lenM1 := b.length - 1, payload := b ++ List.replicate (256 - b.length) 0 }
          s.logFrame i (ent { f with word := crc32c (frameMsg f sq) })) s
        -- a remote frame enters the slice digest once (R375)
        let s := if s.compares t then
            s.digestMsg (.node p.g p.n) (frameMsg { s.mkFrame 1 0 chip m.rten t mbx 0 0 with offset := off + 256 * k, lenM1 := b.length - 1, payload := b } sq)
          else s
        sendFrames ch m p t off bytes no n (k + 1) s

/-- Every write of a program with at most this number has returned its response, on whichever channel it was issued: port writes, and
remote frames acknowledged (R137, R131). -/
def State.writesDone (s : State) (g n no : Nat) : Bool :=
  s.txns.all (fun x => !(x.who == some (.node g n) && x.no ≤ no))
    && s.relay.log.all (fun l => !(l.g == g && l.n == n && l.no ≤ no))

end Sys2Proof.Machine
end

