-- ==== Sys2Proof/Machine/Channels.lean ====
section
/-! DEFINITION. Transit channels (R119 to R146): binding a program, running its slots, the release queue, stalls and parks, run-ahead
(R169 to R173), completion. -/

namespace Sys2Proof.Machine

-- nodes as channels see them

/-- What a unit of the node was waiting for is forgotten: walks, waits, attachments to faults. -/
def State.forget (s : State) (ws : List Who) : State :=
  { s with walks := s.walks.filter (fun w => !ws.contains w.who), waits := s.waits.filter (fun w => !ws.contains w.who)
           pfaults := s.pfaults.map (fun f => { f with who := f.who.filter (fun w => !ws.contains w) }) }

/-- A graph is abandoned: its WAIT and TIMED nodes that wait stop at once, without a record (R90). -/
def State.stopWaiters (s : State) (g : Nat) : State :=
  match s.graph g with
  | some gr =>
    let gone := (gr.nodes.filter (fun n => (n.kind == 5 || n.kind == 6) && (n.st == .registered || n.st == .waiting))).map (·.idx)
    if gone.isEmpty then s
    else
      let eph := s.mer.eph.filter (fun e => !gone.any (fun n => e.node == some (g, n)))
      (((s.modGraph g (fun x => { x with nodes := x.nodes.filter (fun n => !gone.contains n.idx) })).forget (gone.map (.node g ·))).setMer
        { s.mer with eph := eph, due := s.mer.due.filter (fun d => !gone.any (fun n => d.e.node == some (g, n))) }).setFld F.ephUsed eph.length
  | none => s

/-- A node ends with a failure status (R90), in the slice it runs if it runs one, and waits for nothing any more: its graph is abandoned with
0x18 and the node's index. A program that waits for its next slice ends with it, on the channel that holds it (R142). -/
def State.failNode (s : State) (g n status detail : Nat) : State :=
  let s := (if (s.node g n).any (·.st == .opened) then s.countSlice g n else s).forget [.node g n]
  let s := match s.chans.find? (fun c => c.2.idle.any (fun p => p.g == g && p.n == n)) with
    | some c => ((s.modChan c.1 (fun x => { x with idle := x.idle.filter (fun p => !(p.g == g && p.n == n)) })).modNode g n
        (fun x => { x with units := [c.1] })).wrap (F.chDone c.1)
    | none => s
  ((s.modNode g n (fun x => { x with st := .failed, status := status, detail := detail, stall := false })).modGraph g (fun x =>
    if x.fail.isSome then x else { x with fail := some (n, 0x18, n % 65536) })).stopWaiters g

/-- The slice of a node has reached its last cut point (R80, R82). -/
def Node.sliceOver (n : Node) : Bool := n.endSlice || (1 < n.slices.length && n.slices.headD 0 ≤ n.pos)

/-- A cut interval of a node is done. -/
def State.cut (s : State) (g n : Nat) : State := s.modNode g n (fun x => { x with pos := x.pos + 1, total := x.total + 1 })

/-- The node that holds a unit in an open slice. -/
def State.holder (s : State) (u : Nat) : Option (Graph × Node) :=
  s.graphs.findSome? (fun g => (g.nodes.find? (fun n => n.st == .opened && n.units.contains u)).map (fun n => (g, n)))

-- channels

def State.chSt (s : State) (ch : Nat) : Nat := s.fld (F.chState ch)
def State.chTo (s : State) (ch st : Nat) : State := s.setFld (F.chState ch) st
def State.modProg (s : State) (ch : Nat) (f : Prog → Prog) : State := s.modChan ch (fun c => { c with prog := c.prog.map f })

/-- The program ends: the channel waits for nothing else any more and drains (R141). A failure that it ended with stands. -/
def State.endProg (s : State) (ch status detail : Nat) : State :=
  ((s.forget [.chan ch]).modProg ch (fun p =>
    if p.ended && 0x10 ≤ p.status then p else { p with ended := true, status := status, detail := detail })).chTo ch 7

/-- Go on at slot `pc`; reaching `slot_count` ends the program as a HALT does (R125). -/
def State.goSlot (s : State) (ch pc : Nat) : State :=
  let s := (s.modProg ch (fun p => { p with pc := pc, line := 0, item := 0, begun := [], kept := [], blocks := [] })).chTo ch 2
  match (s.chan ch).prog with
  | some p => if p.slots.length ≤ pc then s.endProg ch 1 0 else s.setFld (F.chSlot ch) pc
  | none => s

/-- A walk is outstanding for an issuer. -/
def State.walking (s : State) (w : Who) : Bool := s.walks.any (·.who == w)

/-- The program that a channel may go on with, and its instruction, when the present slot has the opcode: none of its writes is held
(R144). -/
def State.atSlot (s : State) (ch op : Nat) : Option (Prog × List Byte) :=
  match (s.chan ch).prog with
  | some p =>
    let ended := match s.node p.g p.n with | some n => n.sliceOver || n.st != .opened | none => true
    let b := instrAt p.slots p.pc
    if s.engines && !p.ended && !ended && (s.chSt ch == 2 || s.chSt ch == 4) && !s.walking (.chan ch) && slotOp b == op
        && !s.eclipsed ch && !s.held (.node p.g p.n) then some (p, b) else none
  | none => none

/-- The request of a channel's accesses. -/
def State.chReq (s : State) (ch : Nat) (p : Prog) : Req :=
  { t := p.ctx, unit := ch, who := .node p.g p.n, wc := true, no := p.issued }

/-- A missing translation stalls the channel and begins a walk (R143, R266). -/
def State.missChan (s : State) (ch t xva : Nat) (write : Bool) : State :=
  { s.chTo ch 4 with walks := s.walks ++ [⟨t, xva, write, .chan ch, []⟩] }

/-- A channel in RUN whose writes are held enters STALL (R144). -/
def State.settleCh (s : State) (ch : Nat) : State :=
  match (s.chan ch).prog with
  | some p => if s.chSt ch = 2 ∧ s.held (.node p.g p.n) then s.chTo ch 4 else s
  | none => s

/-- Run a channel's access: it goes on, stalls on a translation or on credit, waits, or ends its program (R143, R144, R146). -/
def State.runCh (s : State) (ch t : Nat) (m : M Unit) : State :=
  match m.on s with
  | (.ok _, s) => s.settleCh ch
  | (.error (.miss xva w), s) => s.missChan ch t xva w
  | (.error (.stop st d), s) => s.endProg ch st d
  | (.error _, s) => s.settleCh ch

/-- Run-ahead state is discarded: the bytes are counted (R172). -/
def State.discard (s : State) (ch : Nat) : State :=
  let n := (s.chan ch).staged.foldl (fun a x => a + x.bytes.length) 0
  let s := s.modChan ch (fun c => { c with staged := [], pre := [], last := none })
  if n = 0 then s else s.wrap (F.radisc ch) n

/-- Take over from an owner: the channel's tenant changes when it is next idle (R119); what belongs to the old one goes (R139, R172). -/
def State.applyOwner (s : State) (ch : Nat) : State :=
  let o := s.fld (F.chOwner ch)
  if o = (s.chan ch).owner ∨ (s.chan ch).prog.isSome ∨ !(s.chan ch).idle.isEmpty then s
  else
    let s := (s.discard ch).modChan ch (fun c => { c with owner := o, stampSeq := 0 })
    if s.eclipsed ch then s else s.chTo ch (if o = 15 then 0 else 1)

/-- The channel holds no program any more (R141, R119). -/
def State.chIdle (s : State) (ch : Nat) : State :=
  let s := (s.discard ch).modChan ch (fun c => { c with prog := none, mark := none, back := none })
  (s.chTo ch 1).applyOwner ch

/-- Bind the program of the node that holds the channel: a new one, or the one whose next slice this is (R86, R122). -/
def State.bindProg (s : State) (ch mode : Nat) : State :=
  match s.holder ch, (s.chan ch).prog with
  | some (g, n), none =>
    if s.engines && n.kind == 1 && n.field 24 1 == mode && !s.eclipsed ch then
      let p := match (s.chan ch).idle.find? (fun p => p.g == g.id && p.n == n.idx) with
        | some p => p
        | none => { g := g.id, n := n.idx, ctx := g.ctx, cls := bits (n.field 26 1) 0 1, seq := n.seq,
                    checked := mode == 0 && !g.entryOnly, ranges := n.fp, slots := n.prog
                    xva := if mode = 0 then some (n.field 32 8) else none }
      let p := { p with pairs := [] }
      -- what was prefetched stays with the node that it was prefetched for (R172)
      let s := if (s.chan ch).last = some (g.id, n.idx) then s else s.discard ch
      let s := s.modChan ch (fun c => { c with prog := some p, mark := some p, idle := c.idle.filter (fun x => !(x.g == g.id && x.n == n.idx)) })
      let s := if p.pc = 0 ∧ p.line = 0 ∧ p.item = 0 then s.setFld (F.movetErr ch) 0 else s
      (s.chTo ch 2).setFld (F.chSlot ch) p.pc
    else s
  | _, _ => s

-- the instruction buffer (R123)

/-- The slots that the instruction buffer lacks are fetched, up to the end of their block of 256 bytes; it holds 64. -/
def fetchSlot (ch : Nat) (p : Prog) : M Unit :=
  match p.xva with
  | none => return ()
  | some x => ((List.range (instrLen (instrAt p.slots p.pc))).map (p.pc + ·)).forM (fun j => do
      let s ← get
      match (s.chan ch).prog with
      | some p =>
        if !p.ibuf.contains j then
          let a := x + 16 * j
          let n := Nat.min (16 - a / 16 % 16) (p.slots.length - j)
          let _ ← structRead (s.chReq ch p) a (16 * n)
          modify (fun s => s.modProg ch (fun p => { p with ibuf := ((List.range n).map (j + ·) ++ p.ibuf).take 64 }))
      | none => return ())

/-- Run the slot at which a channel stands if it has the opcode: its fetch, then what it does. -/
def State.slotRun (s : State) (ch op : Nat) (f : State → Prog → List Byte → State) : State :=
  match s.atSlot ch op with
  | some (p, b) =>
    match (atomically (.node p.g p.n) (fetchSlot ch p)).on s with
    | (.ok _, s) => f s p b
    | (.error (.stop st d), s) => s.endProg ch st d
    | (.error _, s) => s
  | none => s

-- moves

/-- The two sides of a MOVE may overlap: their bounding ranges meet in one space. -/
def Mv.mayOverlap (m : Mv) (src dst : Int) : Bool :=
  let lo (a st : Int) (n : Nat) : Int := min a (a + ((n : Int) - 1) * st)
  let hi (a st : Int) (n b : Nat) : Int := max a (a + ((n : Int) - 1) * st) + b
  m.ssp == m.dsp && lo src m.sstride m.cnt < hi dst m.dstride m.lines m.dstBytes
    && lo dst m.dstride m.lines < hi src m.sstride m.cnt m.srcBytes

/-- After line `l` of a move with `total` lines: the next line, or the slot behind the move. -/
def lineDone (ch : Nat) (p : Prog) (total : Nat) : M Unit :=
  modify (fun s =>
    let s := s.cut p.g p.n
    if total ≤ p.line + 1 then s.goSlot ch (p.pc + 2) else s.modProg ch (fun p => { p with line := p.line + 1, item := 0 }))

/-- The remote target of a MOVE (R131). -/
def Mv.target (m : Mv) : Nat := m.dst / 2 ^ 20 * 8 + m.rten

/-- A channel's line is under way: the program as it stood before it is kept, for a park (R144). -/
def beginLine (ch : Nat) (p : Prog) : M Unit :=
  modify (fun s => s.modChan ch (fun c => { c with back := (s.node p.g p.n).map (fun n => (p, n)) }))

/-- One destination line of a remote MOVE (R131, R328, R329). -/
def remoteLine (ch : Nat) (p : Prog) (m : Mv) (src dst : Int) (ahead : Bool) : M Unit := do
  let s ← get
  let q := { s.chReq ch p with cls := 2 }
  let issued := p.issued
  if !ahead && s.fld (F.ordProfile p.ctx) == 1 && p.lastRemote.isSome && p.lastRemote != some m.target
      && !(s.writesDone p.g p.n issued && (s.chan ch).relq.isEmpty) then throw .wait
  let q := { q with ahead := ahead }
  let off := ((dst + (p.line : Int) * m.dstride) % (2 ^ 20 : Nat)).toNat
  if (p.line == 0 && p.item == 0 && !s.remoteOk p.ctx (bits m.dst 36 12)) || 2 ^ 20 < off + m.dstBytes then throw (.stop 0x1C 0x0B)
  let plan := m.plan src dst p.line
  let got ← readPieces ch p q plan
  if ahead then lineDone ch p m.lines
  else
  let bytes := m.lineBytes (m.pieces src p.line) got
  let total := cdiv m.dstBytes 256
  let s ← get
  let (k, s) := sendFrames ch m p p.ctx off bytes issued total p.item s
  set ((s.modProg ch (fun p => { p with lastRemote := some m.target, item := k })).transmit)
  if k < total then
    -- half of the log share waits for comparison: the slice ends here (R331); else the channel waits for credit (R329)
    let s ← get
    if s.halfLog p.ctx p.g p.n then
      set (s.modNode p.g p.n (fun x => { x with endSlice := true }))
    else set (s.chTo ch 4)
  else lineDone ch p m.lines

/-- One destination line of a MOVE, or what run-ahead does about it. -/
def moveLine (ch : Nat) (p : Prog) (ahead : Bool := false) : M Unit := do
  let m := mvOf (instrAt p.slots p.pc)
  let (src, dst) := m.at p.slots p.iters p.pc
  if m.dsp = 2 then remoteLine ch p m src dst ahead
  else
    let q := { (← get).chReq ch p with ahead := ahead }
    beginLine ch p
    let plan := m.plan src dst p.line
    let got ← readPieces ch p q plan
    fpCheck p q m.dsp true (dst + (p.line : Int) * m.dstride) m.dstBytes
    let ps := plan.put got
    let ps ← if m.mayOverlap src dst then do
        keepOld ch p q m.dsp (m.reads src) ps
        freeOverlap (m.reads src) ps
      else pure ps
    lineWrite q m.dsp true ps
    lineDone ch p m.lines

/-- Issue up to `n` lines of the MOVE at the channel's slot, as far as its slice reaches. -/
def moveLines (ch pc : Nat) : Nat → M Unit
  | 0 => return ()
  | n + 1 => do
    match (← get).atSlot ch 1 with
    | some (p, _) => if p.pc = pc && (p.item = 0 || (← get).chSt ch = 2) then do atomically (.node p.g p.n) (moveLine ch p); moveLines ch pc n else return ()
    | none => return ()

-- MOVET

/-- Write a line of a MOVET and count what it dropped (R114) and blanked (R165). -/
def movetLine (ch : Nat) (p : Prog) (q : Req) (dst : Desc) (mine : Nat → Bool) (plan : LinePlan) : M Unit := do
  let got ← readPieces ch p q plan
  let ps ← freeShared plan.shared (plan.put got)
  let ps ← freeOverlap mine ps
  (patchRuns ps).forM (fun r => fpCheck p q dst.space true r.1 r.2)
  keepOld ch p q dst.space mine ps
  lineWrite q dst.space (dst.rep == 0) ps
  modify (fun s =>
    let s := if plan.drops = 0 then s else s.sat (F.oobDrop p.ctx) plan.drops
    if plan.damaged = 0 then s else s.sat (F.maskFill p.ctx) plan.damaged)

/-- Lines of a MOVET from the program's position on, each followed by its cut point; `k` lines come before these. -/
def movetLines (ch : Nat) (p : Prog) (mk : Prog → List (List Int) → M Unit) : List (List (List Int)) → Nat → M Bool
  | [], _ => return true
  | c :: l, k => do
    let s ← get
    match (s.chan ch).prog, s.node p.g p.n with
    | some p', some n =>
      if n.sliceOver then return false
      else
        if p'.line ≤ k then do
          atomically (.node p.g p.n) (do
            beginLine ch p'
            mk p' c)
          modify (fun s => (s.cut p.g p.n).modProg ch (fun p => { p with line := k + 1 }))
        movetLines ch p mk l (k + 1)
    | _, _ => return false

/-- The tensors of a MOVET in progress: bound handles stand though they retire (R110, R111). -/
def State.boundDesc (s : State) (t h : Nat) : Option Desc := ((s.ctx t).handles.find? (·.h == h)).map (·.d)

/-- Begin a MOVET (R133, R166): its tensors, each in use (R110), then its conditions. `bound` says that the node has bound them at
registration. -/
def movetBegin (ch : Nat) (p : Prog) (m : Mt) (bound : Bool) : M (Desc × Desc × Option Desc) := do
  let s ← get
  let look (h : Nat) : Option Desc := if bound || !p.begun.isEmpty then s.boundDesc p.ctx h else s.handle p.ctx h
  let sided := m.pack || m.mask
  match look m.src, look m.dst, (if sided then look m.side else none) with
  | some a, some b, side =>
    if !p.begun.isEmpty then return (a, b, side)
    else if sided && side.isNone then throw (.stop 0x1C 8)
    else
      let incs := (enclosing p.slots p.pc).any (fun j => fieldAt (p.slots.getD j []) 8 4 != 0 || fieldAt (p.slots.getD j []) 12 4 != 0)
      let row := mtRow m a b side p incs
      if row ≠ 0 then
        set (s.setFld (F.movetErr ch) row)
        throw (.stop 0x1C 9)
      else
        set (s.modProg ch (fun p => { p with begun := [m.src, m.dst] ++ (if sided then [m.side] else []) }))
        return (a, b, side)
  | _, _, _ => throw (.stop 0x1C 8)

/-- Bytes that a SLOT copy moves: the source's extent, within the destination's (R106). -/
def slotCopyLen (src dst : Desc) : Nat := Nat.min (src.span.2 - src.span.1) (dst.span.2 - dst.span.1)

/-- A SLOT copy moves the source's extent byte for byte (R106), in pieces of 1,024 bytes. -/
def slotCopyLine (ch : Nat) (p : Prog) (q : Req) (src dst : Desc) (k : Nat) : M Unit := do
  let n := Nat.min 1024 (slotCopyLen src dst - 1024 * k)
  fpCheck p q src.space false (src.span.1 + 1024 * k) n
  let b := overlay p.kept (src.span.1 + 1024 * k) (← chanRead ch q src.space (src.span.1 + 1024 * k) n)
  fpCheck p q dst.space true (dst.span.1 + 1024 * k) n
  let mine (a : Nat) : Bool := src.space == dst.space && src.span.1 ≤ a && a < src.span.2
  let ps := bytePatches (dst.span.1 + 1024 * k) b
  keepOld ch p q dst.space mine ps
  lineWrite q dst.space (dst.rep == 0) (← freeOverlap mine ps)

/-- The blocks of a MOVET as its list stands now (R115, R116), none when an entry cannot be read; its one block without a list. -/
def State.blocksOf (s : State) (q : Req) (m : Mt) (src dst : Desc) (so dn : List Int) : Option (List Block) :=
  if m.list then
    (List.range m.count).mapM (fun i => match (spRead q 0 (m.xva + 16 * i) 16).on s with
      | (.ok e, _) => some (m.entryBlock src dst so dn i e)
      | _ => none)
  else some [⟨so, dn, false⟩]

/-- Source bytes that a MOVET reads and may overwrite (R168). -/
def State.overlapReads (s : State) (q : Req) (m : Mt) (src dst : Desc) (so dn : List Int) : List (Nat × Nat) :=
  if src.space == dst.space && overlaps src.span dst.span then
    match s.blocksOf q m src dst so dn with
    | some l => l.flatMap (m.blockReads src dst)
    | none => [src.span]
  else []

/-- One block of a MOVET (R133); `reads` are the source bytes that the MOVET may overwrite (R168). -/
def movetBlock (ch : Nat) (p : Prog) (q : Req) (m : Mt) (src dst : Desc) (side : Option Desc) (reads : List (Nat × Nat)) (bl : Block) :
    M Bool := do
  let lines := boxLines dst (m.box src dst bl)
  let mine (a : Nat) : Bool := reads.any (fun r => r.1 ≤ a && a < r.2) || sideByte side dst a
  movetLines ch p (fun p cs => do
    let plan ← linePlan ch p q m src dst side bl cs
    movetLine ch p q dst mine plan) lines 0

/-- A MOVET with sample packing (R163): the marks' lengths, the rows with their fill, the marks' positions. Marks that the destination
overlaps are free bytes (R168). -/
def movetPack (ch : Nat) (p : Prog) (q : Req) (m : Mt) (src dst mk : Desc) (so dn : List Int) : M Bool := do
  let ax := packAxis src
  let n := m.ext src (ax + 1)
  let elem (i s : Nat) : Nat := ((mk.locate [(i : Int), (s : Int)]).getD 0) / 8
  let lens ← atomically q.who ((List.range n).mapM (fun s => do
    fpCheck p q mk.space false (elem 0 s) 4
    let b ← chanRead ch { q with wc := !mk.vol } mk.space (elem 0 s) 4 true
    return le b % 2 ^ 24))
  let pl := placeFrom (dst.size ax) (dst.size (ax + 1)) 0 0 0 lens
  let lines := packLines m src dst dn
  let els := packEls m src dst so dn pl
  let reads := if src.space == dst.space && overlaps src.span dst.span then
      ((lines.map els).flatten.filterMap (fun e => match e.2 with
        | .read o => some (o / 8, (o + src.cellBits + 7) / 8)
        | .const _ => none))
    else []
  let mine (a : Nat) : Bool := reads.any (fun r => r.1 ≤ a && a < r.2) || sideByte (some mk) dst a
  let done ← movetLines ch p (fun p cs => movetLine ch p q dst mine (planOf m src dst (els cs) 0 (fun _ => false))) lines 0
  if done then
    atomically q.who (pl.forM (fun z => do
      fpCheck p q mk.space true (elem 1 z.s) 4
      let ps ← freeOverlap (fun _ => sideMeets (some mk) dst) (bytePatches (elem 1 z.s) (leBytes 4 z.mark))
      lineWrite q mk.space (mk.rep == 0) ps))
    let d := packDrops m src pl
    modify (fun s => if d = 0 then s else s.sat (F.oobDrop p.ctx) d)
  return done

/-- The entries of a block list from entry `i` on (R115, R116). -/
def movetList (ch : Nat) (q : Req) (m : Mt) (src dst : Desc) (side : Option Desc) (so dn : List Int) (reads : List (Nat × Nat)) :
    (fuel i : Nat) → M Bool
  | 0, _ => return true
  | n + 1, i => do
    match ((← get).chan ch).prog with
    | none => return false
    | some p =>
      if i < p.item then movetList ch q m src dst side so dn reads n (i + 1)
      else
        fpCheck p q 0 false (m.xva + 16 * i) 16
        let e ← atomically q.who (chanRead ch { q with wc := true } 0 (m.xva + 16 * i) 16 true)
        if entryMalformed (if m.scatter then dst else src) e then throw (.stop 0x1C 0x0A)
        let bl := m.entryBlock src dst so dn i e
        let done ← if m.scatter && bl.skip then pure true else movetBlock ch p q m src dst side reads bl
        if done then
          modify (fun s => s.modProg ch (fun p => { p with item := i + 1, line := 0,
                                                           blocks := if m.scatter && !bl.skip then bl.dn :: p.blocks else p.blocks }))
          movetList ch q m src dst side so dn reads n (i + 1)
        else return false

/-- Run the MOVET at the channel's slot (R132, R133), as far as its slice reaches; or what run-ahead does about it. -/
def movetRun (ch : Nat) (bound : Bool) (ahead : Bool := false) : M Unit := do
  match (← get).atSlot ch 2 with
  | none => return ()
  | some (p, b) =>
    let m := mtOf b
    let (src, dst, side) ← movetBegin ch p m bound
    let s ← get
    let q := { s.chReq ch p with wc := src.vol == false, ahead := ahead }
    let (so, dn) := m.starts p.slots p.iters p.pc
    let done ←
      if src.layout = 4 then
        movetLines ch p (fun p c => slotCopyLine ch p q src dst (((c.getD 0 []).getD 0 0).toNat))
          ((List.range (cdiv (slotCopyLen src dst) 1024)).map (fun (k : Nat) => [[(k : Int)]])) 0
      else match m.pack, side with
        | true, some mk => movetPack ch p q m src dst mk so dn
        | _, _ =>
          let reads := s.overlapReads q m src dst so dn
          if m.list then movetList ch q m src dst side so dn reads m.count 0 else movetBlock ch p q m src dst side reads ⟨so, dn, false⟩
    if done then modify (fun s => s.goSlot ch (p.pc + 2))

-- the other slots

/-- The bytes of a stamp record (R139); the channel's stamp sequence moves on. -/
def State.stampRec (s : State) (ch t : Nat) : List Byte × State :=
  let st := s.stampFor t
  (leBytes 8 st.ns.toNat ++ leBytes 4 st.pos.toNat ++ leBytes 2 (s.chan ch).stampSeq.toNat
     ++ leBytes 1 (st.base + (if st.hold then 4 else 0)) ++ leBytes 1 ch,
   s.modChan ch (fun c => { c with stampSeq := c.stampSeq + 1 }))

/-- Put an operation behind the writes issued so far (R137); later writes carry the next number. -/
def State.release (s : State) (ch : Nat) (op : RelOp) : State :=
  let pos := ((s.node op.g op.n).map (·.pos)).getD 0
  s.modChan ch (fun c =>
    let (pc, it, ps, no) := match c.prog with | some p => (p.pc + 1, p.iters, p.pairs, p.issued) | none => (0, [], [], 0)
    let seqs := ps.filterMap (fun x => (s.relay.tx[x.1]?).map (fun y => (x.1, y.nextSeq, y.batch)))
    { c with relq := c.relq ++ [{ op with barrier := no, iv := s.ivOf op.g op.n, pc := pc, iters := it, pos := pos, seqs := seqs }],
             prog := c.prog.map (fun p => { p with issued := p.issued + 1 }) })

/-- Where a STAMP's record goes: its check and its translation (R139). -/
def stampPlace (p : Prog) (q : Req) (b : List Byte) : M (Nat × Bool) := do
  let sp := bits (fieldAt b 1 1) 0 1
  let a := fieldAt b 8 6
  fpCheck p q sp true a 16
  if sp = 0 then
    let (pa, x) ← translate q a true
    return (pa, (← get).snoopless x)
  else
    tileCheck q true a 16
    return (a, false)

/-- A STAMP slot (R139). -/
def stampSlot (ch : Nat) (p : Prog) (b : List Byte) : M Unit := do
  let sp := bits (fieldAt b 1 1) 0 1
  let q := (← get).chReq ch p
  let (at_, nc) ← stampPlace p q b
  if bit (fieldAt b 1 1) 1 then
    if 8 ≤ ((← get).chan ch).relq.length then modify (fun s => s.chTo ch 4)
    else modify (fun s => (s.release ch { g := p.g, n := p.n, op := 2, a := at_, space := sp, barrier := 0, nc := nc }).goSlot ch (p.pc + 1))
  else
    beginLine ch p
    let (r, s) := (← get).stampRec ch p.ctx
    set s
    if sp = 0 then portWrite q (cellsAt at_ r) nc else tileStore q at_ r
    modify (fun s => s.goSlot ch (p.pc + 1))

/-- A comparison interval of a node has not passed (R395): it has not ended, or its digests are not compared yet. -/
def State.awaits (s : State) (g n iv : Nat) : Bool :=
  match s.graph g, s.node g n with
  | some gr, some nd => s.compares gr.ctx && (nd.intervals ≤ iv || s.rep.intervals.any (fun i => i.own == some (g, n) && i.num ≤ iv))
  | _, _ => false

/-- After a SIGNAL slot of the present slice is performed, a replay of the slice starts behind it (R389). -/
def State.moveMark (s : State) (ch : Nat) (o : RelOp) : State :=
  let here := match (s.chan ch).prog, (s.chan ch).mark with | some p, some m => p.g == o.g && p.n == o.n && m.issued ≤ o.barrier | _, _ => false
  if here then
    (s.modChan ch (fun c => { c with
      mark := c.mark.map (fun p => { p with pc := o.pc, iters := o.iters, line := 0, item := 0, begun := [], kept := [], blocks := [], pairs := [] }),
      prog := c.prog.map (fun p => { p with pairs := o.seqs ++ p.pairs.filter (fun x => !o.seqs.any (·.1 == x.1)) }) })).modNode o.g o.n (fun x => { x with pos0 := o.pos })
  else s

/-- The record of a STAMP with `after` 1 is written when it is performed; tile memory's partition is checked then too (R139, R194). -/
def stampLate (q : Req) (o : RelOp) (r : List Byte) : M Unit :=
  if o.space = 0 then portWrite q (cellsAt o.a r) o.nc else tileWrite q o.a r

/-- Perform the operation at the head of the release queue if its writes have returned (R137). -/
def State.releaseHead (s : State) (ch : Nat) : State :=
  match (s.chan ch).relq with
  | [] => s
  | o :: _ =>
    if s.engines && s.writesDone o.g o.n o.barrier && !(o.op < 2 && s.awaits o.g o.n o.iv) then
      let s := s.modChan ch (fun c => { c with relq := c.relq.drop 1 })
      let s := if o.op < 2 then s.moveMark ch o else s
      let s := match (s.chan ch).prog with
        | some p => if s.chSt ch = 4 && !s.walking (.chan ch) && !s.held (.node p.g p.n) then s.chTo ch 2 else s
        | none => s
      match o.op with
      | 0 => s.addCounter o.a o.v
      | 1 => s.setCounter o.a o.v (s.nodeRank o.g o.n (some ch))
      | _ =>
        let t := match s.graph o.g with | some g => g.ctx | none => s.owner ch
        let (r, s) := s.stampRec ch t
        let no := match (s.chan ch).prog with | some p => if p.g = o.g ∧ p.n = o.n then p.issued else o.barrier + 1 | none => o.barrier + 1
        match (stampLate { t := t, unit := ch, who := .node o.g o.n, no := no } o r).on s with
        | (.error (.stop st d), s) => s.endProg ch st d
        | (_, s) => s
    else s

/-- Every write of the channel's program has returned and none of its operations waits (R138, R141). -/
def State.drained (s : State) (p : Prog) : Bool :=
  s.chans.all (fun c => !c.2.relq.any (fun o => o.g == p.g && o.n == p.n)) && s.writesDone p.g p.n p.issued

/-- A program is complete (R141, R142): the channel returns to IDLE; a success leaves the node's slice at its end, a failure fails the
node. -/
def State.progDone (s : State) (ch : Nat) : State :=
  match (s.chan ch).prog with
  | some p =>
    if s.pins.clkRun && p.ended && s.drained p then
      let s := (s.chIdle ch).wrap (F.chDone ch)
      let s := if p.status < 0x10 then
          s.modNode p.g p.n (fun x => { x with slices := [], status := p.status, detail := p.detail, stall := false })
        else s.failNode p.g p.n p.status p.detail
      s
    else s
  | none => s

-- back-pressure (R144)

/-- A write of the program is held by its port, which has 64 outstanding (R12); the channel waits for a link with a remote line (R329). -/
def State.pressed (s : State) (ch : Nat) (p : Prog) : Bool :=
  s.chSt ch == 4 && !s.walking (.chan ch) && !p.ended
    && (s.txns.any (fun x => x.who == some (.node p.g p.n) && !x.sent && 64 ≤ (s.txns.filter (fun y => y.sent && y.port == x.port)).length)
      || (slotOp (instrAt p.slots p.pc) == 1 && (mvOf (instrAt p.slots p.pc)).dsp == 2))

/-- The program goes back to its park line, the first that is not issued whole: its writes that no port has issued are not issued. -/
def State.toParkLine (s : State) (ch : Nat) (p : Prog) : State :=
  match (s.chan ch).back with
  | some (b, n) =>
    if s.held (.node p.g p.n) then
      State.issue (({ s with txns := s.txns.filter (fun x => x.sent || !(x.who == some (Who.node p.g p.n))) }.modChan ch (fun c => { c with
        prog := some { b with issued := p.issued, pairs := p.pairs, ibuf := p.ibuf, kept := p.kept }, back := none })).modNode p.g p.n
        (fun x => { x with pos := n.pos, total := n.total, digSum := n.digSum, digCnt := n.digCnt }))
    else s
  | none => s

/-- Park a channel: a contained fault of cause 0x0017 with `resumable` 1, an outstanding resumable fault of the tenant (R144). -/
def State.park (s : State) (ch : Nat) : State :=
  match (s.chan ch).prog with
  | some p =>
    let s := s.toParkLine ch p
    let id := s.coll.nextId
    let (sq, ep) := s.whoSeq (.node p.g p.n)
    let s := s.raise { unit := ch, cause := 0x17, ctx := p.ctx, res := true, write := true, nodeSeq := sq, epoch := ep }
    let s : State := { s with pfaults := s.pfaults ++ [⟨p.ctx, id, 0x17, 0, true, [.chan ch], s.aon, ch, 0, 0, 0⟩] }
    (s.setFld (F.xlatOut p.ctx) ((s.pfaults.filter (·.t == p.ctx)).length)).chTo ch 6
  | none => s

-- run-ahead (R169 to R173)

/-- What run-ahead does about the instruction at a channel's position (R170): it moves on as execution will, and translates; a WAIT and a
FENCE are left to `aheadFrom`. -/
def aheadStep (ch : Nat) (bound : Bool) : M Unit := do
  match ((← get).chan ch).prog with
  | none => throw .wait
  | some p =>
    if p.ended then throw .wait
    let b := instrAt p.slots p.pc
    match slotOp b with
    | 1 => moveLine ch p true
    | 2 => movetRun ch bound true
    | 3 =>
      let (pc, it) := loopNext b p.pc p.iters
      modify (fun s => (s.modProg ch (fun p => { p with iters := it })).goSlot ch pc)
    | 8 =>
      let _ ← stampPlace p { (← get).chReq ch p with ahead := true } b
      modify (fun s => s.goSlot ch (p.pc + 1))
    | 0xF => throw .wait
    | _ => modify (fun s => s.goSlot ch (p.pc + 1))

/-- The copy of the state on which run-ahead is evaluated: the channel runs, nothing holds it, and each step is one line. -/
def State.aheadView (s : State) (ch : Nat) : State :=
  match (s.chan ch).prog with
  | some p => ({ s with walks := [], txns := [] }.chTo ch 2).modNode p.g p.n
      (fun x => { x with st := .opened, slices := [1, 1], pos := 0, endSlice := false })
  | none => s

/-- A translation is walked ahead: it enters the channel's prefetch table, which holds 64 (R169); a failure leaves no trace, and run-ahead
comes to it again (R173). -/
def State.aheadWalk (s : State) (ch t xva : Nat) (write : Bool) : State :=
  let s1 := s.walkPaid t xva write
  match s.trailErr t xva write, s.walk t xva write with
  | none, .ok x => (s1.cachePtrs (s.way t xva write)).modChan ch (fun c => { c with pre := (x :: c.pre).take 64 })
  | _, _ => s1

/-- Source bytes are staged (R169); an error of the read leaves nothing (R174). -/
def State.aheadStage (s : State) (ch : Nat) (q : Req) (a n : Nat) : State :=
  match (xvaRead q a n).on s with
  | (.ok b, s1) => if s.starved s1 then s else s1.modChan ch (fun c => { c with staged := c.staged ++ [⟨0, a, b, 0⟩] })
  | (.error _, _) => s

/-- Run-ahead goes on from a position on the copy `v` to the first translation or bytes that are not there, and fetches them into `s` (R169,
R170): at most 64 MOVE instances (`inst`) and 2 MiB of source (`n0`) ahead. Behind a WAIT or a FENCE of kind 1, where the staging of 64 KiB
is full, and for a tenant in the pairing profile (R297) it only translates (`only`). -/
def State.aheadFrom (s : State) (ch : Nat) (q : Req) (bound : Bool) : (fuel : Nat) → (v : State) → (only : Bool) → (inst n0 : Nat) → State
  | 0, _, _, _, _ => s
  | f + 1, v, only, inst, n0 =>
    match (aheadStep ch bound).on v, (v.chan ch).prog with
    | (.ok _, v1), some p =>
      let b := instrAt p.slots p.pc
      let at_ (v : State) := (v.chan ch).prog.map (fun p => (p.pc, p.iters, p.item))
      let inst := if (slotOp b = 1 ∨ slotOp b = 2) ∧ at_ v1 ≠ at_ v then inst + 1 else inst
      if 64 < inst then s
      else s.aheadFrom ch q bound f (v1.aheadView ch) (only || slotOp b == 5 || (slotOp b == 7 && fieldAt b 1 1 == 1)) inst n0
    | (.error (.miss a w), _), _ => s.aheadWalk ch q.t a w
    | (.error (.want a n steer), _), _ =>
      let used := (s.chan ch).staged.foldl (fun k x => k + x.bytes.length) 0
      if 2097152 < n0 + n then s
      else if !only && used + n ≤ 65536 then s.aheadStage ch q a n
      else if steer then s
      else s.aheadFrom ch q bound f (v.modChan ch (fun c => { c with staged := c.staged ++ [⟨0, a, List.replicate n 0, 0⟩] })) true inst (n0 + n)
    | _, _ => s

/-- One prefetch of a channel (R169). -/
def State.prefetch (s : State) (ch : Nat) (bound : Bool) (p : Prog) : State :=
  s.aheadFrom ch (s.chReq ch p) bound 65536 (s.aheadView ch) (s.fld (F.ordProfile p.ctx) == 1) 0
    ((s.chan ch).staged.foldl (fun k x => k + x.bytes.length) 0)

end Sys2Proof.Machine
end

