-- ==== Sys2Proof/Machine/Replica.lean ====
section
/-! DEFINITION. The replica protocol (R394 to R401): comparison intervals and their digests, decisions and verdicts, members out of
service, the notices that tell the fabric. -/

namespace Sys2Proof.Machine

/-- Members of this chip's group that are in service, and the others among them. -/
def State.svcMembers (s : State) : List Nat := (List.range s.rep.size).filter (fun m => bit s.rep.inService.toNat m)
def State.partners (s : State) : List Nat := s.svcMembers.filter (fun m => m != s.rep.member)
/-- This chip takes part in its group. -/
def State.inGroup (s : State) : Bool := s.rep.size != 0 && !s.rep.out

/-- Send a REPLICA frame to every other in-service member (R397); `rest` are its bytes from offset 28 on. -/
def State.sendRep (s : State) (rtype : Nat) (rest : List Byte) : State :=
  s.partners.foldl (fun s m =>
    s.inject (s.repFrame (s.rep.members.getD m 0) (repPayload rtype s.rep.member s.rep.groupId s.rep.gen.toNat rest))) s

/-- The bytes of a DIGEST frame from offset 28 on (R396). -/
def digestRest (t rep : Nat) (seq run : W32) (num : Nat) (d : Digest) : List Byte :=
  leBytes 1 t ++ leBytes 1 rep ++ leBytes 2 0 ++ leBytes 4 seq.toNat ++ leBytes 4 run.toNat ++ leBytes 2 num ++ leBytes 8 d.sum.toNat
    ++ leBytes 4 d.cnt.toNat ++ leBytes 1 ((if d.failed then 1 else 0) + (if d.evidence then 2 else 0))

/-- The bytes of a VERDICT frame from offset 28 on. -/
def verdictRest (i : Interval) (out : Nat) : List Byte :=
  leBytes 1 i.t ++ leBytes 3 0 ++ leBytes 4 i.seq.toNat ++ leBytes 4 0 ++ leBytes 2 i.num ++ leBytes 13 0 ++ leBytes 1 out

/-- The interval of an identity. -/
def Interval.is (i : Interval) (t : Nat) (seq : W32) (num : Nat) : Bool := i.t == t && i.seq == seq && i.num == num

/-- A member's digest of an interval is known (R397); the interval is opened if this chip has not ended it. -/
def State.putDigest (s : State) (t : Nat) (seq : W32) (num m : Nat) (own : Option (Nat × Nat)) (d : Digest) : State :=
  let r := s.rep
  let l := if r.intervals.any (·.is t seq num) then r.intervals else r.intervals ++ [{ t := t, own := none, seq := seq, num := num, digests := [] }]
  s.setRep { r with intervals := updFirst (fun i => i.is t seq num) (fun i =>
    { i with own := if own.isSome then own else i.own, digests := (m, d) :: i.digests.filter (·.1 != m) }) l }

/-- What the digests of an interval say (R397, R399); `wrong` tells that the member's digest differs from two equal ones. -/
inductive Judge where
  | wait | pass | out (mask : Nat) (wrong : Bool) | audit
deriving DecidableEq, Repr

/-- Judge an interval. Where every member failed alike, the failure is the node's own and nobody is out (log entry 30). -/
def State.judge (s : State) (i : Interval) : Judge :=
  let ms := s.svcMembers
  let ds := ms.filterMap (fun m => (i.digests.find? (·.1 == m)))
  if i.own.isNone || i.audit || ds.length ≠ ms.length then .wait
  else
    let val (d : Digest) : W64 × W32 := (d.sum, d.cnt)
    let same := match ds with | [] => true | x :: l => l.all (fun y => val y.2 == val x.2)
    let bad := ds.filter (·.2.failed)
    if same && (bad.isEmpty || bad.length == ds.length) then .pass
    else if bad.length = 1 then .out (2 ^ (bad.headD (0, ⟨0, 0, false, false⟩)).1) false
    else if ds.length = 3 then
      match ds.find? (fun x => (ds.filter (fun y => y.1 != x.1)).all (fun y => val y.2 != val x.2)
          && (match ds.filter (fun y => y.1 != x.1) with | [a, b] => val a.2 == val b.2 | _ => false)) with
      | some x => .out (2 ^ x.1) true
      | none => .audit
    else .audit

/-- An interval passes: its frames may leave (R331), operations that waited for it may be performed (R395). -/
def State.passInterval (s : State) (i : Interval) : State :=
  let s := s.setRep { s.rep with intervals := s.rep.intervals.filter (fun j => !j.is i.t i.seq i.num) }
  match i.own with
  | some (g, n) =>
    (s.setRelay { s.relay with log := s.relay.log.map (fun l => if l.g = g ∧ l.n = n ∧ l.iv = i.num then { l with passed := true } else l) }).transmit
  | none => s

/-- Pass every interval that can pass. -/
def State.passAll (s : State) : State :=
  s.rep.intervals.foldl (fun s i => if s.judge i = .pass then s.passInterval i else s) s

/-- Members out of service (R401): the group table, the new active member, the notice of the lowest remaining member, the intervals
among those that remain; a member that is out itself records 0x0073. -/
def State.membersOut (s : State) (mask : Nat) (wrong : Bool) : State :=
  let r := s.rep
  let gone := mask &&& r.inService.toNat
  if r.size = 0 ∨ r.out ∨ gone = 0 then s
  else if bit gone r.member then
    let s := if wrong then s.raise { unit := 0xEF, cause := 0x70 } else s
    s.nameSelfOut.raise { unit := 0xEF, cause := 0x73 }
  else
    let left := r.inService.toNat &&& (7 ^^^ gone)
    let low := ((List.range 3).find? (fun m => bit left m)).getD r.member
    let active := if bit left r.active then r.active else low
    let gen := r.gen + 1
    let s := s.setRep { r with inService := BitVec.ofNat 3 left, active := active, gen := gen,
                               verdicts := [] }
    let outMask := (2 ^ r.size - 1) &&& (7 ^^^ left)
    let s := (s.setFld (F.fabGen r.groupId) gen.toNat).grpOut r.groupId outMask
    let s := if low = r.member then s.floodOut (memberOutPayload r.member r.groupId gen.toNat outMask) none else s
    s.passAll.transmit

/-- A verdict is agreed when every member that it leaves in service has sent it (R399). -/
def State.agree (s : State) (out : Nat) (wrong : Bool) : State :=
  if s.svcMembers.all (fun m => bit out m || s.rep.verdicts.any (fun v => v.1 == m && v.2 == out)) then s.membersOut out wrong else s

/-- This member decides that members are out, and tells the others (R399). -/
def State.decide (s : State) (i : Interval) (out : Nat) (wrong : Bool) : State :=
  if s.rep.verdicts.any (fun v => v.1 == s.rep.member && v.2 == out) then s
  else
    let s := s.sendRep 2 (verdictRest i out)
    let s := s.setRep { s.rep with verdicts := (s.rep.member, out) :: s.rep.verdicts.filter (·.1 != s.rep.member) }
    s.agree out wrong

/-- Judge every interval (R399). -/
def State.settle (s : State) : State :=
  if !s.inGroup then s
  else s.rep.intervals.foldl (fun s i =>
    match s.judge i with
    | .wait => s
    | .pass => s.passInterval i
    | .out m w => s.decide i m w
    | .audit => s.setRep { s.rep with intervals := s.rep.intervals.map (fun j => if j.is i.t i.seq i.num then { j with audit := true } else j) }) s

/-- A comparison interval of a node ends: its digest goes to the other members (R397). -/
def State.intervalEnd (s : State) (g n : Nat) (failed : Bool) : State :=
  match s.graph g, s.node g n with
  | some gr, some nd =>
    let d : Digest := ⟨nd.digSum, nd.digCnt, failed, nd.grave < s.coll.grave⟩
    let s := s.modNode g n (fun x => { x with
      intervals := x.intervals + 1, digSum := 0, digCnt := 0, digSum0 := 0, digCnt0 := 0, grave := s.coll.grave })
    let s := s.putDigest gr.ctx nd.seq nd.intervals s.rep.member (some (g, n)) d
    let s := if s.inGroup then s.sendRep 0 (digestRest gr.ctx nd.rep.toNat nd.seq (s.ctx gr.ctx).runEpoch nd.intervals d) else s
    s.settle
  | _, _ => s

/-- A failure in a replicated tenant ends its interval with `failed` set (R396). -/
def State.failedIntervals (s : State) : State :=
  s.graphs.foldl (fun s g =>
    if s.compares g.ctx then
      g.nodes.foldl (fun s n => if n.st = .failed ∧ !n.cmp ∧ !n.units.isEmpty then
        (s.modNode g.id n.idx (fun x => { x with cmp := true })).intervalEnd g.id n.idx true else s) s
    else s) s

/-- A replicated interval is held by a stall (R396). -/
def State.repStalled (s : State) : Bool :=
  s.graphs.any (fun g => s.compares g.ctx && g.nodes.any (fun n => n.st == .opened
    && (n.stall || n.units.any (fun u => u < 64 && (s.chSt u == 4 || s.chSt u == 5 || s.chSt u == 6)))))

/-- The slice limit of a tenant's nodes: 40 µs at 2,000 MHz while its group has two members in service (R395, log entry 31). -/
def State.sliceLimit (s : State) (t : Nat) : Nat :=
  if s.compares t && s.svcMembers.length == 2 then Nat.min (s.fld F.sliceXclk) 80000 else s.fld F.sliceXclk

end Sys2Proof.Machine
end

