-- ==== Sys2Proof/Machine/Ephemeris.lean ====
section
/-! DEFINITION. The ephemeris (R351 to R358): entries, their insertion and removal (R352, R353, R434), when they are due and what they
do (R354, R355), and a base that goes to OFF (R357). -/

namespace Sys2Proof.Machine

/-- The table with its count of entries in use (R433). -/
def State.setEph (s : State) (l : List Eph) : State := (s.setMer { s.mer with eph := l }).setFld F.ephUsed l.length

/-- The staged 32 bytes of an entry (R433). -/
def State.ephStaged (s : State) : List Byte := (List.range 4).flatMap (fun i => leBytes 8 (s.reg (Reg.ephStage (2 * i))).toNat)

/-- An entry from its bytes (R352). -/
def ephOf (b : List Byte) (idx : Nat) : Eph :=
  let f (o n : Nat) : Nat := fieldAt b o n
  { idx := idx, tenant := bits (f 1 1) 0 3, base := bits (f 0 1) 2 2, action := bits (f 0 1) 0 2, late := bits (f 0 1) 4 1,
    missFault := bit (f 0 1) 5, pos := BitVec.ofNat 48 (f 2 2 + f 4 4 * 65536), counter := f 8 2, missCounter := f 10 2,
    value := BitVec.ofNat 32 (f 12 4), period := BitVec.ofNat 48 (f 16 4 * 65536 + f 20 2), vinc := f 22 2,
    stBase := bits (f 24 4) 0 26, stLog2 := bits (f 28 4) 0 4 }

/-- A tenant's entries. -/
def State.ephOfTenant (s : State) (t : Nat) : Nat := (s.mer.eph.filter (·.tenant == t)).length
/-- The tenant's quota or the table is full (R351). -/
def State.ephFull (s : State) (t : Nat) : Bool := s.fld (F.ephQuota t) ≤ s.ephOfTenant t || 1024 ≤ s.mer.eph.length
/-- The lowest free index (log entry 27). -/
def State.ephFree (s : State) : Nat := ((List.range 1024).find? (fun i => !s.mer.eph.any (·.idx == i))).getD 0

/-- The code of the first failing check of an insertion (R353), 0 for none. A stamp ring that is not 16-byte aligned or longer than
2^12 records counts as not inside the partition (log entry 28). -/
def State.ephCheck (s : State) (b : List Byte) : Nat :=
  let e := ephOf b 0
  let f (o n : Nat) : Nat := fieldAt b o n
  let dl := e.action == 3
  let st := e.action == 2
  if bits (f 0 1) 6 2 != 0 || bits (f 1 1) 3 5 != 0 || bits (f 24 4) 26 6 != 0 || bits (f 28 4) 4 28 != 0
      || (!dl && (e.missFault || e.missCounter != 0 || e.vinc != 0))
      || (st && (e.counter != 0 || e.value != 0)) || (!st && (e.stBase != 0 || e.stLog2 != 0)) then 1
  else if e.action = 0 then 2
  else if s.fld (F.enable e.tenant) != 1 || (!st && !s.ctrOk e.tenant e.counter) || (dl && !s.ctrOk e.tenant e.missCounter) then 3
  else if st && (e.stBase % 16 != 0 || 12 < e.stLog2 || !s.inOwn e.tenant e.stBase
      || !s.inOwn e.tenant (e.stBase + 16 * 2 ^ e.stLog2 - 1)) then 4
  else if s.ephFull e.tenant then 5
  else if s.fld (F.mbState e.base) = 0 then 6
  else 0

/-- An entry at a position that its base has reached already (R355): as it is when it fires at once; skipped over whole periods, with
the number of periods; or retired. -/
def State.ephArm (s : State) (e : Eph) : Option (Eph × Nat) :=
  let p := s.mbPos e.base
  if e.late = 0 ∨ !posReached p e.pos then some (e, 0)
  else if e.period = 0 then none
  else
    let k := (p - e.pos).toNat / e.period.toNat + 1
    some ({ e with pos := e.pos + BitVec.ofNat 48 (k * e.period.toNat),
                   value := if e.action = 3 then e.value + BitVec.ofNat 32 (k * e.vinc) else e.value }, k)

/-- Arm an entry and count the periods skipped (R355). -/
def State.ephPlace (s : State) (e : Eph) : State :=
  match s.ephArm e with
  | some (e, k) =>
    let s := s.setEph (s.mer.eph ++ [e])
    if k = 0 then s else s.sat (F.ephSkip e.tenant) k
  | none => s

/-- A command in XH_EPH_CMD (R352, R434): it waits for EPH_CMD_DONE, or is discarded while another does. -/
def State.ephCommand (s : State) (op idx : Nat) : State :=
  if s.mer.cmd.isSome then s.setFld F.ephLost 1
  else ((s.setMer { s.mer with cmd := some (op, idx, s.ephStaged) }).setFld F.ephBusy 1).setFld F.ephLost 0

/-- The result of the command stands (R434). -/
def State.ephResult (s : State) : State :=
  match s.mer.cmd with
  | none => s
  | some (op, idx, b) =>
    let s := (s.setMer { s.mer with cmd := none }).setFld F.ephBusy 0
    if op = 1 then
      match s.ephCheck b with
      | 0 =>
        let i := s.ephFree
        ((s.ephPlace (ephOf b i)).setFld F.ephIdx i).setFld F.ephErr 0
      | c => s.setFld F.ephErr c
    else s.setEph (s.mer.eph.filter (fun e => !(e.idx == idx && e.node.isNone)))

/-- No other entry of the base is due before this one (R354). -/
def State.ephFirst (s : State) (e : Eph) : Bool :=
  s.mer.eph.all (fun x => x.base != e.base || x.idx == e.idx || !posReached e.pos x.pos || (x.pos == e.pos && e.idx < x.idx))

/-- An entry that is due, at the moment at which it is, as the first of its base (R354). -/
def State.ephDue (s : State) (idx action : Nat) : Option (Eph × State) :=
  match s.mer.eph.find? (fun e => e.idx == idx && e.action == action) with
  | some e =>
    match s.reachAt e.base e.pos with
    | some t => if s.merUp && s.ephFirst e then some (e, s.advanceTo t) else none
    | none => none
  | none => none

/-- After firing, the entry re-arms or retires (R355). -/
def State.ephNext (s : State) (e : Eph) : State :=
  let s := s.setEph (s.mer.eph.filter (·.idx != e.idx))
  if e.period = 0 then s
  else
    let e := { e with pos := e.pos + e.period, fires := e.fires + 1,
                      value := if e.action = 3 then e.value + BitVec.ofNat 32 e.vinc else e.value }
    match s.ephArm e with
    | some (e, k) =>
      let s := s.setEph (s.mer.eph ++ [e])
      if k = 0 then s else s.sat (F.ephSkip e.tenant) k
    | none => s

/-- The record of a stamp entry (R354, R139). -/
def ephRecord (d : EphDue) : List Byte :=
  leBytes 8 d.ns.toNat ++ leBytes 4 d.pos.toNat ++ leBytes 2 d.e.fires ++ leBytes 1 (d.e.base + (if d.hold then 4 else 0)) ++ leBytes 1 0xFF

/-- What an add, stamp or deadline entry does (R354). A refused stamp write retires the entry. -/
def State.ephAct (s : State) (d : EphDue) : State :=
  let e := d.e
  match e.action with
  | 1 => s.addCounter e.counter e.value
  | 2 =>
    let q : Req := { t := e.tenant, unit := 0xDC, who := .entry 0 }
    match (tileWrite q (e.stBase + 16 * (e.fires % 2 ^ e.stLog2)) (ephRecord d)).on s with
    | (.ok _, s) => s
    | (.error _, s) => s.setEph (s.mer.eph.filter (·.idx != e.idx))
  | 3 =>
    if reached (s.counter e.counter) e.value then s
    else
      let s := ((s.addCounter e.missCounter 1).sat (F.dlMiss e.tenant)).event (ctxVector e.tenant)
      if e.missFault then s.merFault 0x32 else s
  | _ => s

/-- An entry fires now; in X1 its action waits (R354, R355, R358). -/
def State.ephFire (s : State) (e : Eph) : State :=
  let st := s.stampOf e.base
  let d : EphDue := ⟨e, st.ns, st.pos, st.hold⟩
  let s := s.ephNext e
  if s.phase == .x1 || !s.pins.clkRun then s.setMer { s.mer with due := s.mer.due ++ [d] } else s.ephAct d

/-- A release entry fires: its node is released (R354, R358), and completes once it is ready (R79, log entry 29). -/
def State.timedRelease (s : State) (g n : Nat) : State :=
  if (s.graph g).any (fun x => x.fail.isNone && x.stopped.isNone) then
    (s.modNode g n (fun x => { x with st := .between, slices := [], status := 1 })).countSlice g n
  else s

/-- The actions that waited in X1, in due order (R358). -/
def State.ephWaited (s : State) : State :=
  let l := s.mer.due
  l.foldl (fun s d => match d.e.action, d.e.node with
    | 0, some (g, n) => s.timedRelease g n
    | _, _ => s.ephAct d) (s.setMer { s.mer with due := [] })

/-- A base goes to OFF (R357, R348): its TIMED nodes fail, its other entries retire with the `eph_drop` event. -/
def State.mbOff (s : State) (b : Nat) : State :=
  let gone := s.mer.eph.filter (·.base == b)
  let s := s.setEph (s.mer.eph.filter (·.base != b))
  let s := s.setMer { s.mer with due := s.mer.due.filter (fun d => !(d.e.base == b && d.e.action == 0)) }
  let s := gone.foldl (fun s e => match e.node with | some (g, n) => s.failNode g n 0x17 0 | none => s) s
  let s := if gone.any (·.node.isNone) then s.merEvent b 4 else s
  (s.modBase b Base.levels).mbTo b 0

end Sys2Proof.Machine
end

