-- ==== Sys2Proof/Machine/Check.lean ====
section
/-! DEFINITION. Check-value units (R362 to R370): the scan of a CHECK node or a SCAN_CHECK entry in intervals of 64 KiB, its result,
its compare, and the registers of the unit; and what a unit's access does when it does not go on. -/

namespace Sys2Proof.Machine

/-- Run the work of a node on its unit: it goes on, stalls on a translation (R266), waits, or fails the node (R90). -/
def State.runNode (s : State) (g n t : Nat) (m : M Unit) : State :=
  match m.on s with
  | (.ok _, s) => s
  | (.error (.miss xva w), s) =>
    { s.modNode g n (fun x => { x with stall := true }) with walks := s.walks ++ [⟨t, xva, w, .node g n, []⟩] }
  | (.error (.stop st d), s) => s.failNode g n st d
  | (.error _, s) => s

/-- The node that runs on a unit now: granted, not waiting for a translation, the unit in service. -/
def State.onUnit (s : State) (u kind : Nat) : Option (Graph × Node) :=
  match s.holder u with
  | some (g, n) =>
    if s.engines && n.kind == kind && !s.walking (.node g.id n.idx) && !n.stall && !s.eclipsed u then some (g, n) else none
  | none => none

namespace Node
/-- A CHECK node's fields (R73). -/
def ckStart (n : Node) : Nat := n.field 24 8
def ckLen (n : Node) : Nat := n.field 32 8
def ckPoly (n : Node) : Nat := bits (n.field 40 1) 0 2
def ckAddr (n : Node) : Bool := bit (n.field 40 1) 2
def ckSeqOn (n : Node) : Bool := bit (n.field 40 1) 3
def ckSpace (n : Node) : Nat := bits (n.field 41 1) 0 1
def ckCmp (n : Node) : Bool := bit (n.field 41 1) 1
def ckSeq (n : Node) : Nat := n.field 44 4
def ckExpect (n : Node) : Nat := n.field 48 8
def ckResult (n : Node) : Nat := n.field 56 8
/-- Cut intervals of a scan: 64 KiB of input each (R80). -/
def ckCount (n : Node) : Nat := cdiv n.ckLen 65536
end Node

/-- The body of a CHECK node that scans as a SCAN_CHECK entry asks (R57, R367). -/
def scanBytes (e : Entry) : List Byte :=
  leBytes 1 7 ++ leBytes 1 0 ++ leBytes 2 e.tag ++ leBytes 20 0 ++ leBytes 8 (e.field 8 8) ++ leBytes 8 (e.field 16 8)
    ++ leBytes 1 (e.field 24 1) ++ leBytes 3 0 ++ leBytes 4 (e.field 28 4) ++ leBytes 16 0

/-- XCLK of unit time of interval `i`: the 64-byte words that it touches (R362). -/
def checkCost (start len i : Nat) : Nat :=
  let lo := start + 65536 * i
  let hi := Nat.min (start + len) (lo + 65536)
  cdiv hi 64 - lo / 64

/-- Fold-in bytes of a scan (R366). -/
def foldIns (n : Node) : List Byte :=
  (if n.ckAddr then leBytes 8 n.ckStart else []) ++ (if n.ckSeqOn then leBytes 4 n.ckSeq else [])

/-- Bytes of the present interval that a scan has not read. -/
def Node.ckLeft (n : Node) : Nat := Nat.min 65536 (n.ckLen - 65536 * n.total) - n.sub

/-- The running value of a scan before its next byte. -/
def Node.ckRun (n : Node) : Nat := if n.total = 0 ∧ n.sub = 0 then crcOnes n.ckPoly else n.crc

/-- A scan reads its next block of 64 bytes, the unit of its replay (R266). -/
def checkBlock (g : Graph) (n : Node) (u : Nat) : M Unit := do
  let at_ := n.ckStart + 65536 * n.total + n.sub
  let k := Nat.min n.ckLeft (64 - at_ % 64)
  let b ← spRead { t := g.ctx, unit := u, who := .node g.id n.idx } n.ckSpace at_ k
  modify (fun s => s.modNode g.id n.idx (fun x => { x with crc := crcRun (crcPoly n.ckPoly) n.ckRun b, sub := n.sub + k }))

/-- An interval of a scan ends; after the last one the result stands in the node, and is written and compared (R368). -/
def checkInterval (g : Graph) (n : Node) (u : Nat) : M Unit := do
  let q : Req := { t := g.ctx, unit := u, who := .node g.id n.idx }
  if n.total + 1 < n.ckCount then
    modify (fun s => (s.modNode g.id n.idx (fun x => { x with sub := 0 })).cut g.id n.idx)
  else
    let res := crcRun (crcPoly n.ckPoly) n.ckRun (foldIns n) ^^^ crcOnes n.ckPoly
    if n.ckResult ≠ 0 then
      let s ← get
      if s.compares g.ctx then
        let (pa, _) ← translate q n.ckResult true
        let (sq, _) := s.whoSeq q.who
        let w := ((List.range 8).zip (leBytes 8 res)).map (fun (i, v) => (n.ckResult + i, v))
        modify (fun s => s.digestMsg q.who (checkMsg pa w sq))
      xvaWrite q n.ckResult (leBytes 8 res)
    modify (fun s => (s.modNode g.id n.idx (fun x => { x with crc := res, sub := 0 })).cut g.id n.idx)
    if n.ckCmp && res ≠ n.ckExpect then throw (.stop 0x1D u)

/-- The rest of a scan's slice. -/
def checkSlice (gi ni u : Nat) : Nat → M Unit
  | 0 => return ()
  | f + 1 => do
    match (← get).graph gi, (← get).node gi ni with
    | some g, some n =>
      if n.slices.headD 0 ≤ n.pos || n.endSlice then return ()
      else do
        atomically (.node gi ni) (if n.ckLeft = 0 then checkInterval g n u else checkBlock g n u)
        checkSlice gi ni u f
    | _, _ => return ()

/-- The registers of the unit that ran a scan, as its record is written (R369). -/
def State.cvuDone (s : State) (g : Graph) (n : Node) : State :=
  let u := n.units.headD 0xD0 - 0xD0
  let s := (s.setFld (F.cvuRes u) n.crc).setFld (F.cvuCtx u) g.ctx
  ((s.setFld (F.cvuTag u) n.tag).setFld (F.cvuSeq u) n.seq.toNat).wrap (F.cvuCount u)

end Sys2Proof.Machine
end

