-- ==== Sys2Proof/Machine/Estimate.lean ====
section
/-! DEFINITION. The work estimate of a TRANSIT node, RUN_PROGRAM entry or descriptor copy (R80, R441, R152), in units of 1/256 XCLK,
one figure for each cut interval, and the filling of slices (R80). -/

namespace Sys2Proof.Machine

/-- The cost of a line of `n` bytes on the wider side: each beat of 64 bytes that meets a half-rate range counts twice (R152, R441). -/
def beatCost (n : Nat) (half : List (Nat × Nat)) : Nat :=
  if half.isEmpty then n
  else (List.range (cdiv n 64)).foldl (fun a k =>
    let m := Nat.min 64 (n - 64 * k)
    a + (if half.any (fun r => overlaps r (64 * k, 64 * k + m)) then 2 * m else m)) 0

/-- A line at full rate: its start and length in bits are multiples of 64 bytes (R118, R129). -/
def fullRate (startBits : Int) (lenBits : Nat) : Bool := startBits % 512 == 0 && lenBits % 512 == 0

/-- The figure of destination line `l` of a MOVE at its present addresses (R129). -/
def Mv.lineCost (m : Mv) (src dst : Int) (l : Nat) : Nat :=
  let w := Nat.max m.sbits m.dbits
  let n := cdiv (m.dlen * w) 8
  if !fullRate (8 * (dst + (l : Int) * m.dstride)) (8 * m.dstBytes) then 2 * n
  else
    let e0 := l * m.dlen
    let first := e0 / m.slen
    let half := ((List.range ((e0 + m.dlen - 1) / m.slen - first + 1)).map (fun (k : Nat) => k + first)).filterMap (fun (i : Nat) =>
      if fullRate (8 * (src + (i : Int) * m.sstride)) (8 * m.srcBytes) then none
      else some ((Nat.max e0 (i * m.slen) - e0) * w / 8, cdiv ((Nat.min (e0 + m.dlen) ((i + 1) * m.slen) - e0) * w) 8))
    beatCost n half

/-- The line of a descriptor that holds a coordinate of a box moves at half rate; lines of panel layouts are aligned words and tiles
(R118). -/
def Desc.halfLine (d : Desc) (box : List (Int × Nat)) (c : List Int) : Bool :=
  if d.layout ≠ 0 then false
  else
    let k := lineParts d (fun i => (box.getD i (0, 1)).2)
    let own := d.strideOrder.take k
    let bitsAt := (List.range d.rank).foldl (fun (a : Int) i =>
      let v := if own.contains i then (box.getD i (0, 1)).1 else c.getD i 0
      a + (if i = d.inner then v * d.bitsPer else 8 * v * ((d.dim i).stride : Int))) (8 * (d.allocBase + d.origin : Nat))
    let len := (own.filter (· != d.inner)).foldl (fun a i => a * (box.getD i (0, 1)).2) (8 * cdiv ((box.getD d.inner (0, 1)).2 * d.bitsPer) 8)
    !fullRate bitsAt len

/-- Consecutive positions of a list of flags that are set, in elements. -/
def flagRuns : List Bool → (i : Nat) → List (Nat × Nat)
  | [], _ => []
  | b :: l, i => if b then (i, i + 1) :: flagRuns l (i + 1) else flagRuns l (i + 1)

/-- The figures of the lines of one block of a MOVET with pass count `p`. The bytes of a damage mask count on the source side. -/
def Mt.blockCost (m : Mt) (src dst : Desc) (side : Option Desc) (p : Nat) (bl : Block) : List Nat :=
  let box := m.box src dst bl
  let sbox := (List.range src.rank).map (fun k => (bl.so.getD k 0, m.ext src k))
  (boxLines dst box).map (fun cs =>
    let cells := match m.mask, side with
      | true, some k => ((cs.filterMap (fun c =>
          let x := m.back src dst bl c
          if src.inBounds x then k.locate ((List.range src.rank).map (fun d => x.getD d 0 / (cellOf src k d : Int))) else none)).eraseDups).length
      | _, _ => 0
    -- copies along a broadcast dimension count on the destination side only (R152)
    let reads := (cs.filter (fun c => (List.range dst.rank).all (fun d => d < src.rank || c.getD d 0 == bl.dn.getD d 0))).length
    let n := Nat.max (cdiv (reads * src.cellBits) 8 + cells) (cdiv (cs.length * dst.cellBits) 8)
    if dst.halfLine box (cs.headD []) then 2 * n * p
    else
      let half := (flagRuns (cs.map (fun c => src.halfLine sbox (m.back src dst bl c))) 0).map
        (fun r => (r.1 * n / cs.length, cdiv (r.2 * n) cs.length))
      beatCost n half * p)

/-- One cut interval of a node: its figure in 1/256 XCLK, and the hulls of the bytes of tile memory that it reads and writes. -/
structure LineFig where
  cost : Nat
  rd : List (Nat × Nat) := []
  wr : List (Nat × Nat) := []

/-- The smallest range that holds some elements of a tensor in tile memory. -/
def Desc.hull (d : Desc) (cs : List (List Int)) : List (Nat × Nat) :=
  if d.space = 0 then []
  else match cs.filterMap d.locate with
    | [] => []
    | o :: l => [(l.foldl Nat.min o / 8, cdiv (l.foldl Nat.max o + d.cellBits) 8)]

/-- All of a tensor in tile memory. -/
def Desc.whole (d : Desc) : List (Nat × Nat) := if d.space = 0 then [] else [d.span]

/-- Lines of a block with the hulls of their accesses. -/
def Mt.blockFigs (m : Mt) (src dst : Desc) (side : Option Desc) (p : Nat) (bl : Block) : List LineFig :=
  ((m.blockCost src dst side p bl).zip (boxLines dst (m.box src dst bl))).map (fun (c, cs) =>
    ⟨c, src.hull (cs.map (m.back src dst bl)) ++ (side.map Desc.whole).getD [], dst.hull cs⟩)

/-- The figures of a MOVET's lines at its present starts. Entries of a list count at block coordinate 0, a packing MOVET counts at half
rate: their coordinates are not known before execution (log entry 21). -/
def Mt.costs (m : Mt) (look : Nat → Option Desc) (so dn : List Int) : List LineFig :=
  let side := if m.pack || m.mask then look m.side else none
  match look m.src, look m.dst, (m.pack || m.mask) && side.isNone with
  | some a, some b, false =>
    let rd := a.whole ++ (side.map Desc.whole).getD []
    if a.layout = 4 then
      (List.range (cdiv (slotCopyLen a b) 1024)).map (fun k => ⟨Nat.min 1024 (slotCopyLen a b - 1024 * k), a.whole, b.whole⟩)
    else
      let p := passCount a b m.perm (m.ext a)
      if m.list then
        (List.range m.count).flatMap (fun i =>
          (m.blockCost a b side p (m.entryBlock a b so dn i [])).map (fun c => ⟨c, rd, b.whole⟩))
      else if m.pack then
        (packLines m a b dn).map (fun cs => ⟨2 * cdiv (cs.length * Nat.max a.cellBits b.cellBits) 8 * p, rd, b.hull cs⟩)
      else m.blockFigs a b side p ⟨so, dn, false⟩
  | _, _, _ => []

/-- The hulls of line `l` of a MOVE. -/
def Mv.lineFig (m : Mv) (src dst : Int) (l : Nat) : LineFig :=
  let ps := (m.pieces src l).map (fun p => (p.1.toNat, p.1.toNat + p.2.1))
  let d := (dst + (l : Int) * m.dstride).toNat
  { cost := m.lineCost src dst l
    rd := if m.ssp = 1 then [(ps.foldl (fun a p => Nat.min a p.1) (2 ^ 26), ps.foldl (fun a p => Nat.max a p.2) 0)] else []
    wr := if m.dsp = 1 then [(d, d + m.dstBytes)] else [] }

/-- One step of the expansion of a program: the slot's figures so far (latest first), XCLK units since the last cut point. -/
structure Walked where
  pc : Nat := 0
  iters : List (Nat × Nat) := []
  out : List LineFig := []
  pend : Nat := 0

/-- Add line figures; what came since the last cut point goes to the first of them. DESIGN CHOICE: R441 does not say to which cut interval the
XCLK of slots that move no data belong; they go to the next line, and those behind the last line make an interval of their own (log entry
64). -/
def Walked.lines (x : Walked) (l : List LineFig) : Walked :=
  match l with
  | [] => x
  | a :: r => { x with out := r.reverse ++ ({ a with cost := a.cost + x.pend } :: x.out), pend := 0 }

/-- Expand a program slot by slot (R441). -/
def expand (look : Nat → Option Desc) (slots : List (List Byte)) : (fuel : Nat) → Walked → Walked
  | 0, x => x
  | f + 1, x =>
    if slots.length ≤ x.pc then x
    else
      let b := instrAt slots x.pc
      match slotOp b with
      | 1 =>
        let m := mvOf b
        let (src, dst) := m.at slots x.iters x.pc
        let y := x.lines ((List.range m.lines).map (m.lineFig src dst))
        expand look slots f { y with pc := x.pc + 2 }
      | 2 =>
        let m := mtOf b
        let (so, dn) := m.starts slots x.iters x.pc
        let y := x.lines (m.costs look so dn)
        expand look slots f { y with pc := x.pc + 2 }
      | 3 =>
        let (pc, it) := loopNext b x.pc x.iters
        expand look slots f { x with pc := pc, iters := it, pend := x.pend + 256 }
      | 0xF => { x with pend := x.pend + 256 }
      | _ => expand look slots f { x with pc := x.pc + 1, pend := x.pend + 256 }

/-- A bound on the slots that a program executes. -/
def slotBound (slots : List (List Byte)) : Nat :=
  slots.foldl (fun a b => if slotOp b = 3 then a * (fieldAt b 4 4 + 1) else a) (slots.length + 1)

/-- A program's cut intervals in order: its lines, and what follows the last one (R80, R441). -/
def progFigs (look : Nat → Option Desc) (slots : List (List Byte)) : List LineFig :=
  let x := expand look slots (slotBound slots) {}
  (if x.pend = 0 then x.out else { cost := x.pend } :: x.out).reverse

/-- Their figures in 1/256 XCLK. -/
def progCosts (look : Nat → Option Desc) (slots : List (List Byte)) : List Nat := (progFigs look slots).map (·.cost)

/-- Fill slices with whole intervals in order: the intervals of each slice; none when an interval is longer than a slice (R80). -/
def fillSlices (limit : Nat) : List Nat → (used n : Nat) → Option (List Nat)
  | [], _, n => some [n]
  | c :: l, used, n =>
    if limit < c then none
    else if limit < used + c then (fillSlices limit l c 1).map (fun r => n :: r)
    else fillSlices limit l (used + c) (n + 1)

end Sys2Proof.Machine
end

