-- ==== Sys2Proof/Machine/Contract.lean ====
section
/-! DEFINITION. CONTRACT (R204 to R225, R236 to R258): the tensors a node may name, operand words, the expander, exact accumulation,
the output stage, tile groups. -/

namespace Sys2Proof.Machine

-- the node's tensors

/-- Elements of a pair's chunk class (R209): 0 illegal, 1 integer, 2 float. -/
def pairClass (a b : Nat) : Nat :=
  let i8 (x : Nat) : Bool := x == 3 || x == 4 || x == 0xD
  let i4 (x : Nat) : Bool := x == 1 || x == 2 || x == 0xC
  let f8 (x : Nat) : Bool := x == 7 || x == 8
  if (i8 a && i8 b) || (i4 a && i4 b) || (a == 0xE && b == 0xE) then 1
  else if (f8 a && f8 b) || (a == 9 && b == 9) || (a == 0xA && b == 0xA) then 2
  else 0

/-- XCLK for one chunk of one tile (R209). -/
def pairR (a : Nat) : Nat := if a = 9 ∨ a = 0xA then 2 else 1

/-- The tensors of a CONTRACT node (R208, R239, R242, R246). -/
structure Contr where
  a : Desc
  b : Desc
  c : Desc
  bias : Option Desc := none
  ms : Option Desc := none
  outl : Option Desc := none
  sa : Option Desc := none
  sb : Option Desc := none
  s2 : Option Desc := none
  base : Option Desc := none
deriving DecidableEq, Repr

namespace Contr
def k (x : Contr) : Nat := x.a.size 0
def m (x : Contr) : Nat := x.a.size 1
def n (x : Contr) : Nat := x.b.size 1
def bt (x : Contr) : Nat := x.a.batch
def isInt (x : Contr) : Bool := pairClass x.a.dtype x.b.dtype == 1
/-- The integer path of the output stage (R215). -/
def intPath (x : Contr) : Bool := x.isInt && x.a.dtype != 0xE && x.outl.isNone && x.s2.isNone
def mt (x : Contr) : Nat := cdiv x.m 32
def nt (x : Contr) : Nat := cdiv x.n 32
def kc (x : Contr) : Nat := x.a.kc
def j (x : Contr) : Nat := match x.outl with | some o => o.size 0 | none => 0
/-- XCLK of a tile in a group (R211, R249). -/
def tileWork (x : Contr) : Nat := Nat.max (x.kc * pairR x.a.dtype) (4 * x.j)
/-- Tiles of a group at most (R211). -/
def tmax (x : Contr) (slice : Nat) : Nat := Nat.min 8 (slice / Nat.max 1 (x.kc * pairR x.a.dtype))
/-- Tile groups in one M panel. -/
def groupsOf (x : Contr) (t : Nat) : Nat := cdiv x.nt (Nat.max 1 t)
/-- Work of each tile group in order, in XCLK. -/
def intervals (x : Contr) (t : Nat) : List Nat :=
  (List.range (x.bt * x.mt)).flatMap (fun _ => (List.range (x.groupsOf t)).map (fun g => Nat.min t (x.nt - g * t) * x.tileWork))
/-- All tensors of the node; `c` comes first. -/
def inputs (x : Contr) : List Desc := [x.a, x.b] ++ (([x.base, x.bias, x.ms, x.outl, x.sa, x.sb, x.s2].filterMap id))
end Contr

/-- The tensors that a node's handles name, through `look`; none when a handle is not usable. -/
def contrOf (look : Nat → Option Desc) (n : Node) : Option Contr :=
  let opt (h : Nat) : Option (Option Desc) := if h = noHandle then some none else (look h).map some
  match look (n.field 24 4), look (n.field 28 4), look (n.field 32 4), opt (n.field 36 4), opt (n.field 40 4), opt (n.field 44 4) with
  | some a, some b, some c, some bias, some ms, some o =>
    match opt a.scale, opt b.scale, opt b.scale2, opt b.base with
    | some sa, some sb, some s2, some base => some ⟨a, b, c, bias, ms, o, sa, sb, s2, base⟩
    | _, _, _, _ => none
  | _, _, _, _, _, _ => none

/-- A first-level scale tensor fits an operand (R237, R239). -/
def scaleOk (d : Desc) (s : Option Desc) : Bool :=
  if isGroup d.dtype then
    d.groupDim == 0 && (match s with
      | some x => x.layout == 0 && x.dtype == 4 && x.rank == d.rank && x.inner == 1 && x.size 1 == d.size 1
          && x.size 0 == cdiv (d.size 0) (16 * 2 ^ d.group) && (x.allocBase + x.origin) % 32 == 0
          && (List.range x.rank).all (fun i => (x.dim i).stride % 32 == 0)
      | none => false)
  else true

/-- A ROW vector of N elements of a type. -/
def vecOk (d : Desc) (dt n : Nat) : Bool := d.layout == 0 && d.rank == 1 && d.dtype == dt && d.size 0 == n

/-- The checks of R208, R209, R221, R239, R242, R246 and R255. -/
def Contr.ok (x : Contr) : Bool :=
  let shape (d : Desc) : Bool := d.size 0 == x.n && d.size 1 == x.m && (if x.a.rank = 3 then d.rank == 3 && d.size 2 == x.bt else d.rank == 2)
  let cp := x.c.layout == 3
  x.a.layout == 1 && (x.b.layout == 2 || (x.b.layout == 4 && x.b.space == 1))
    && pairClass x.a.dtype x.b.dtype != 0
    && x.b.size 0 == x.k && (x.b.rank == 2 || x.b.size 2 == x.bt)
    && shape x.c
    && (if cp then x.c.dtype == (if x.isInt then 6 else 0xB) && x.outl.isNone && x.ms.isNone
        else x.c.layout == 0 && (x.c.dim 0).stride == 0
          && (List.range x.c.rank).all (fun i => i + 1 == x.c.rank || (x.c.dim i).stride < (x.c.dim (i + 1)).stride)
          && (if x.intPath then 1 ≤ x.c.dtype && x.c.dtype ≤ 6 else 1 ≤ x.c.dtype && x.c.dtype ≤ 0xB))
    && (match x.bias with
        | none => true
        | some d => if d.layout = 3 then shape d && d.dtype == (if x.isInt then 6 else 0xB)
            else vecOk d (if x.intPath then 6 else 0xB) x.n)
    && (match x.ms with | none => true | some d => vecOk d 6 x.n)
    && (match x.outl with
        | none => true
        | some d => d.layout == 0 && d.dtype == 0xA && d.inner == 0 && 1 ≤ d.size 0 && d.size 0 ≤ 64 && d.size 1 == x.n + x.m
            && (if x.c.rank = 3 then d.rank == 3 && d.size 2 == x.bt else d.rank == 2))
    && scaleOk x.a x.sa && scaleOk x.b x.sb && x.a.scale2 == noHandle
    && (match x.s2 with
        | none => true
        | some d => d.layout == 0 && d.dtype == 0xA && (d.rank == 2 || (d.rank == 3 && x.b.rank == 3)) && d.inner == 0
            && d.size 0 == x.n && (d.size 1 == 1 || d.size 1 == x.mt) && (d.rank == 2 || d.size 2 == 1 || d.size 2 == x.bt)
            && (d.allocBase + d.origin) % 64 == 0 && (List.range d.rank).all (fun i => (d.dim i).stride % 64 == 0))
    && (match x.base with
        | none => true
        | some d => d.layout == 2 && d.space == 1 && d.dtype == x.b.dtype && d.sizes == x.b.sizes)

-- reading operands

/-- How the units of a node make a read. -/
abbrev Rd := M (List Byte) → M (List Byte)

/-- Patterns of elements of a tensor, read in one access; outside it, its fill (R113). -/
def rdRun (rd : Rd) (q : Req) (d : Desc) (cs : List (List Nat)) : M (List Nat) := do
  let os := cs.map (fun c => d.locate (c.map (fun (x : Nat) => (x : Int))))
  match os.filterMap id with
  | [] => return os.map (fun _ => d.fillPat)
  | o :: l =>
    let lo := l.foldl Nat.min o / 8
    let v := le (← rd (spRead { q with wc := q.wc && !d.vol } d.space lo (cdiv (l.foldl Nat.max o + d.cellBits) 8 - lo)))
    return os.map (fun o => match o with
      | some o => (v >>> (o - 8 * lo)) % 2 ^ d.cellBits
      | none => d.fillPat)

/-- A sub-block's width and `z` (R251). -/
def subDesc (hdr : List Byte) (i : Nat) : Nat × Bool :=
  let v := fieldAt hdr 8 20
  (bits v (5 * i) 4, bit v (5 * i + 4))

/-- Decode the sub-blocks from payload position `at_` on (R252): their symbols, and where the payload ends; none where a width is
illegal. -/
def subBlocks (hdr pay : List Byte) (b : Nat) : (fuel i at_ : Nat) → Option (List Nat × Nat)
  | 0, _, at_ => some ([], at_)
  | n + 1, i, at_ =>
    let (w, z) := subDesc hdr i
    let cnt := 512 / b
    if b < w ∨ (z ∧ w = 0) then none
    else
      let mask := fieldAt pay at_ (cnt / 8)
      let present (s : Nat) : Bool := if z then bit mask s else true
      let p := ((List.range cnt).filter present).length
      let start := at_ + (if z then cnt / 8 else 0)
      let vals := unpackBits (slice pay start (cdiv (p * w) 8)) 0 w p
      let map (v : Nat) : Nat :=
        if w = 0 then 0
        else match bits (fieldAt hdr 0 1) 2 2 with
          | 0 => toPat b (sext w v)
          | 1 => v
          | _ => (v / 2) ||| ((v % 2) <<< (b - 1))
      let syms := (List.range cnt).map (fun s =>
        if present s then map (vals.getD (((List.range s).filter present).length) 0) else 0)
      match subBlocks hdr pay b n (i + 1) (start + cdiv (p * w) 8) with
      | some (l, e) => some (syms ++ l, e)
      | none => none

/-- A raw block of a SLOT tensor (R250 to R254); a slot that fails the check fails the node with 0x1D and records 0x0019. -/
def rawBlock (q : Req) (d : Desc) (base : Option Desc) (unit i : Nat) : M (List Byte) := do
  let slot := d.allocBase + d.origin + i * d.slotBytes
  let hdr ← tileRead q slot 32
  let f (o n : Nat) : Nat := fieldAt hdr o n
  let kind := bits (f 0 1) 0 2
  let len := f 2 2
  let b := d.bitsPer
  let bad : M (List Byte) := do
    let _ ← accFault q unit 0x19 false
    throw (.stop 0x1D unit)
  if f 0 1 ≥ 16 || f 1 1 != 0 || f 28 4 != 0 || kind == 3 || bits (f 0 1) 2 2 == 3 || d.slotBytes < len + 32
      || (kind == 2 && (f 8 20 != 0 || len != 0 || d.spillBlocks ≤ f 4 4)) || (kind == 1 && base.isNone) then bad
  else if kind = 2 then tileRead q (d.allocBase + 64 * d.spillOff + 2048 * f 4 4) 2048
  else
    let pay ← tileRead q (slot + 32) len
    match subBlocks hdr pay b 32 0 0 with
    | some (syms, e) =>
      if e ≠ len then bad
      else match kind, base with
        | 1, some x =>
          let n := Nat.min 2048 (1024 * x.words - 2048 * i)
          let raw ← tileRead q (x.allocBase + x.origin + 2048 * i) n
          let bs := unpackBits (slice raw 0 2048) 0 b (16384 / b)
          return packBits b ((bs.zip syms).map (fun (r, u) => (r + u) % 2 ^ b))
        | _, _ => return packBits b syms
    | none => bad

/-- An operand word of A or B: batch, panel, chunk (R104, R206). -/
def opWord (q : Req) (d : Desc) (base : Option Desc) (unit b p kc : Nat) : M (List Byte) := do
  let bi := if d.rank = 3 then b else 0
  let i := if d.layout = 1 then (bi * d.pt + p) * d.kc + kc else (bi * d.kc + kc) * d.pt + p
  if d.layout = 4 then
    let raw ← rawBlock q d base unit (i / 2)
    return (raw.drop (1024 * (i % 2))).take 1024
  else spRead { q with wc := q.wc && !d.vol } d.space (d.allocBase + d.origin + 1024 * i) 1024

/-- The codes of one row of a word. -/
def wordRow (bitsPer : Nat) (w : List Byte) (r : Nat) : List Nat := unpackBits (slice w (32 * r) 32) 0 bitsPer (256 / bitsPer)

/-- The integer form of an f4 code (R236). -/
def f4Form (c : Nat) : Int :=
  let m : Int := [0, 1, 2, 3, 4, 6, 8, 12].getD (c % 8) 0
  if 8 ≤ c then -m else m

/-- The integer that an integer-class code stands for (R236, R238). -/
def codeVal (dt c : Nat) : Int :=
  match dt with
  | 0xC => sext 4 c
  | 0xD => sext 8 c
  | 0xE => f4Form c
  | _ => intVal dt c

/-- Add a chunk to an integer accumulator (R213): the sum, and whether it was saturated. -/
def accInt (acc sum : Int) : Int × Bool :=
  let v := acc + sum
  let c := clampInt (-(2 ^ 47 : Nat)) ((2 ^ 47 : Nat) - 1) v
  (c, c != v)

/-- Add a chunk's products to a float accumulator (R214). -/
def accFloat (acc : Nat) (ps : List (Fp × Fp)) : Nat :=
  let xs := ps.map (fun (a, b) => a.mul b)
  let all := f32 acc :: xs
  if all.contains .nan then nan32
  else
    let p := all.contains (.inf false)
    let m := all.contains (.inf true)
    if p && m then nan32
    else if p then toF32 (.inf false)
    else if m then toF32 (.inf true)
    else toF32 (ofSum (all.foldl (fun a x => match x with | .num g v => a + signedMag g v | _ => a) 0) false)

-- the output stage

/-- The multiplier and the shift of a `mulshift` element (R216). -/
def mulShift (v : Nat) : Int × Nat := (sext 16 v, bits v 16 5)

/-- The integer path (R217). -/
def intOut (acc bias : Int) (ms : Int × Nat) (lo hi : Int) (dt : Nat) : Nat :=
  let z := (acc + bias) * ms.1
  let z := if 0 < ms.2 then (z + (2 ^ (ms.2 - 1) : Nat)).fdiv (2 ^ ms.2 : Nat) else z
  let z := clampInt lo hi z
  intPat dt (clampInt (intLo dt) (intHi dt) z)

/-- The float path from step 2 on (R218): value, second-level scale (bf16), outlier sum, bias, multiplier and shift, clamp pair. -/
def floatOut (v : Nat) (s2 o bias : Option Nat) (ms : Int × Nat) (lo hi : Nat) (dt : Nat) : Nat :=
  let v := match s2 with | some x => fMul v (x <<< 16) | none => v
  let v := match o with | some x => fAdd v x | none => v
  let v := match bias with | some x => fAdd v x | none => v
  let v := toF32 ((f32 v).mul (.num (ms.1 < 0) (ms.1.natAbs <<< (fpUnit - ms.2))))
  let v := if lo = 2 ^ 31 then v else
    let l := toF32 (Fp.ofInt (sext 32 lo)); if fLt v l then l else v
  let v := if hi = 2 ^ 31 - 1 then v else
    let h := toF32 (Fp.ofInt (sext 32 hi)); if fLt h v then h else v
  castPat 0xB dt 2 v

/-- One accumulator's work: the running value over the chunks, and how often it saturated. -/
def accRun (x : Contr) (init : Int) (row : Nat → List Nat) (col : Nat → List Nat) (s1 : Nat → Int) : Int × Nat :=
  let per := 256 / x.a.bitsPer
  (List.range x.kc).foldl (fun (acc, sat) c =>
    let ks := (List.range per).filter (fun l => per * c + l < x.k)
    let pairs := ks.map (fun l => (l, (row c).getD l 0, (col c).getD l 0))
    if x.isInt then
      let sum := pairs.foldl (fun a (l, p, r) => a + codeVal x.a.dtype p * codeVal x.b.dtype r * s1 (per * c + l)) 0
      let (v, o) := accInt acc sum
      (v, if o then sat + 1 else sat)
    else
      ((accFloat acc.toNat (pairs.map (fun (_, p, r) => ((fmtOf x.a.dtype).decode p, (fmtOf x.b.dtype).decode r))) : Nat), sat)) (init, 0)

/-- The first-level scales of a panel for a chunk of `per` elements: one read for each scale group that begins in it (R237, R244). -/
def scaleRun (rd : Rd) (q : Req) (d : Desc) (s : Option Desc) (b p per c : Nat) : M (List (List Nat)) := do
  match s with
  | some x =>
    ((List.range (x.size 0)).filter (fun k => k * (16 * 2 ^ d.group) / per == c)).mapM (fun k =>
      rdRun rd q x ((List.range 32).map (fun r => [k, 32 * p + r, if x.rank = 3 then b else 0])))
  | none => return []

/-- What the ports read of one operand panel: its words by chunk, and its scales by scale group (R206, R244). -/
structure PanelIn where
  words : List (List Byte) := []
  scales : List (List Nat) := []

/-- The first-level scale of element `k` of row `r` of a panel, 1 without scales (R238). -/
def PanelIn.scale (x : PanelIn) (d : Desc) (s : Option Desc) (k r : Nat) : Int :=
  match s with
  | some _ => (((x.scales.getD (k / (16 * 2 ^ d.group)) []).getD r 1 : Nat) : Int)
  | none => 1

/-- A panel after its next chunk. -/
def PanelIn.push (x : PanelIn) (w : List Byte) (s : List (List Nat)) : PanelIn := ⟨x.words ++ [w], x.scales ++ s⟩

/-- The reads of a tile group in the order of R211: chunk by chunk, the panel of `a`, then that of `b` for each tile. -/
def groupReads (rd : Rd) (q : Req) (x : Contr) (unit b mt : Nat) (tiles : List Nat) : M (PanelIn × List PanelIn) := do
  let per := 256 / x.a.bitsPer
  (List.range x.kc).foldlM (fun (acc : PanelIn × List PanelIn) c => do
    let aw ← rd (opWord q x.a none unit b mt c)
    let as ← scaleRun rd q x.a x.sa b mt per c
    let bs ← (acc.2.zip tiles).mapM (fun (p, nt) => do
      let bw ← rd (opWord q x.b x.base unit b nt c)
      return p.push bw (← scaleRun rd q x.b x.sb b nt per c))
    return (acc.1.push aw as, bs)) ({}, tiles.map (fun _ => {}))

/-- The vectors that the output stage reads for a tile: multipliers and shifts, bias by column (or the preload by row and column), second-level
scales, outlier values by column and by row (R216, R218, R221, R242, R247). -/
structure TileIn where
  ms : Option (List Nat)
  bias : Option (List Nat)
  pre : Option (List (List Nat))
  s2 : Option (List Nat)
  outW : List (List Nat)
  outX : List (List Nat)

/-- The output stage's reads for the tile of rows `ms` and columns `ns`. -/
def tileReads (rd : Rd) (q : Req) (x : Contr) (b : Nat) (ms ns : List Nat) : M TileIn := do
  let row (o : Option Desc) (cs : List (List Nat)) : M (Option (List Nat)) := do
    match o with
    | some d => return some (← rdRun rd q d cs)
    | none => return none
  let preload := match x.bias with | some d => d.layout == 3 | none => false
  let pre ← if preload then do
      let rows ← ms.mapM (fun m => row x.bias (ns.map (fun n => [n, m, b])))
      pure (some (rows.filterMap id))
    else pure none
  let out := x.c.layout != 3
  let mul ← if out then row x.ms (ns.map (fun n => [n])) else pure none
  let bias ← if out && !preload then row x.bias (ns.map (fun n => [n])) else pure none
  let m0 := ms.headD 0 / 32
  let s2 ← if out then
      row x.s2 (ns.map (fun n => match x.s2 with
        | some d => [n, if d.size 1 = 1 then 0 else m0, if d.rank = 3 ∧ d.size 2 ≠ 1 then b else 0]
        | none => []))
    else pure none
  let lists (ks : List Nat) : M (List (List Nat)) := do
    match x.outl with
    | some d => ks.mapM (fun k => rdRun rd q d ((List.range x.j).map (fun j => [j, k, b])))
    | none => return []
  let w ← lists ns
  let xs ← lists (ms.map (x.n + ·))
  return ⟨mul, bias, pre, s2, w, xs⟩

/-- The outlier sum of an output element (R247). -/
def outlierSum (xs ws : List Nat) : Nat := accFloat 0 ((xs.zip ws).map (fun (a, w) => ((fmtOf 0xA).decode a, (fmtOf 0xA).decode w)))

/-- An output element from its accumulator, at row `r` and column `cl` of its tile (R217, R218, R220): the pattern in `c`'s type. -/
def outVal (x : Contr) (ti : TileIn) (lo hi r cl : Nat) (acc : Int) : Nat :=
  if x.c.layout = 3 then (if x.isInt then toPat 48 acc else acc.toNat)
  else
    let ms := match ti.ms with | some l => mulShift (l.getD cl 0) | none => (1, 0)
    let bias := ti.bias.map (·.getD cl 0)
    if x.intPath then intOut acc (match bias with | some v => sext 32 v | none => 0) ms (sext 32 lo) (sext 32 hi) x.c.dtype
    else
      let v := if x.isInt then toF32 (.num (acc < 0) ((acc.natAbs <<< fpUnit) >>> (if x.a.dtype = 0xE then 2 else 0))) else acc.toNat
      let o := x.outl.map (fun _ => outlierSum (ti.outX.getD r []) (ti.outW.getD cl []))
      floatOut v (ti.s2.map (·.getD cl 0)) o bias ms lo hi x.c.dtype

/-- The accumulators of a tile, by row and column, with the saturations of each (R213, R214). -/
def tileAcc (x : Contr) (a bp : PanelIn) (ti : TileIn) (rows cols : Nat) : List (List (Int × Nat)) :=
  (List.range rows).map (fun r => (List.range cols).map (fun cl =>
    let init : Int := match ti.pre with
      | some l => (let v := (l.getD r []).getD cl 0; if x.isInt then sext 48 v else (v : Int))
      | none => 0
    accRun x init (fun c => wordRow x.a.bitsPer (a.words.getD c []) r) (fun c => wordRow x.b.bitsPer (bp.words.getD c []) cl)
      (fun k => a.scale x.a x.sa k r * bp.scale x.b x.sb k cl)))

/-- The CRC-32C that an engine of a twin pair computes over a tile's output bytes (R222). -/
def tileCrc (vals : List (List Nat)) (bitsPer : Nat) : Nat := crc32c (packBits bitsPer vals.flatten)

/-- The two engines of a twin pair compare the tile that each has formed; one whose datapath an upset has struck (log entry 61) has formed
another, and the node fails before the tile is written (R222, R223). -/
def twinCheck (q : Req) (unit bitsPer : Nat) (vals : List (List Nat)) : M Unit := do
  let s ← get
  let mine (u : Nat) : List (List Nat) := if s.upsets.contains u then (match vals with | (v :: l) :: r => ((v ^^^ 1) :: l) :: r | l => l) else vals
  if unit = 0x4A then
    set { s with upsets := rmFirst (fun u => u == 0x49) (rmFirst (fun u => u == 0x48) s.upsets) }
    if tileCrc (mine 0x48) bitsPer ≠ tileCrc (mine 0x49) bitsPer then
      let _ ← accFault q 0x4A 0x18 false
      throw (.stop 0x1D 0x4A)

/-- Write the output rows that wait, one after another: each is a unit of replay (R266). -/
def outRows (q : Req) (x : Contr) (g n : Nat) : Nat → M Unit
  | 0 => return ()
  | f + 1 => do
    match ((← get).node g n).map (·.outq) with
    | some (r :: l) =>
      atomically q.who (lineWrite q x.c.space (x.c.rep == 0) (r.map (fun (a, m, v) => ⟨a, m, v⟩)))
      modify (fun s => s.modNode g n (fun y => { y with outq := l }))
      outRows q x g n f
    | _ => return ()

/-- The output of one tile of a group: its reads, its values, the twin comparison; then its rows wait to be written. `eng` is the engine, 2
for both of a twin pair (R213, R222). -/
def tileOut (rd : Rd) (q : Req) (x : Contr) (unit eng lo hi g n b mt nt : Nat) (a bp : PanelIn) : M Unit := do
  let ms := ((List.range 32).map (32 * mt + ·)).filter (· < x.m)
  let ns := ((List.range 32).map (32 * nt + ·)).filter (· < x.n)
  let ti ← tileReads rd q x b ms ns
  let accs := tileAcc x a bp ti ms.length ns.length
  let sat := accs.foldl (fun k r => r.foldl (fun k v => k + v.2) k) 0
  let vals := ((List.range ms.length).zip accs).map (fun (r, l) => ((List.range ns.length).zip l).map (fun (cl, v) => outVal x ti lo hi r cl v.1))
  twinCheck q unit x.c.cellBits vals
  let rows : List (List Patch) := (ms.zip vals).map (fun (y : Nat × List Nat) => patchSort ((ns.zip y.2).flatMap (fun (z : Nat × Nat) =>
    let at_ : List Int := [(z.1 : Int), (y.1 : Int), (b : Int)]
    match x.c.locate at_ with | some o => x.c.elemPatch at_ o z.2 | none => [])))
  modify (fun s =>
    let s := if sat = 0 then s else if eng = 2 then (s.wrap (F.accSat 0) sat).wrap (F.accSat 1) sat else s.wrap (F.accSat eng) sat
    s.modNode g n (fun y => { y with sub := y.sub + 1, outq := rows.map (·.map (fun p => (p.a, p.mask, p.v))) }))

/-- One tile group (R211): its reads, then the output of its tiles in order. -/
def contrGroup (q : Req) (x : Contr) (unit eng lo hi t g n i : Nat) : M Unit := do
  let rd : Rd := replayRead g n q.who
  let gs := x.groupsOf t
  let b := i / (gs * x.mt)
  let mt := i / gs % x.mt
  let tiles := (List.range (Nat.min t (x.nt - i % gs * t))).map (fun k => i % gs * t + k)
  modify (fun s => s.replayReads g n)
  let (a, bs) ← groupReads rd q x unit b mt tiles
  outRows q x g n 33
  let begun := (((← get).node g n).map (·.sub)).getD 0
  ((tiles.zip bs).drop begun).forM (fun (nt, bp) => do
    tileOut rd q x unit eng lo hi g n b mt nt a bp
    outRows q x g n 33)
  modify (fun s => ((s.readsOver g n).modNode g n (fun y => { y with sub := 0 })).cut g n)

/-- The rest of a CONTRACT node's slice, group by group (R211, R80). -/
def contrGroups (q : Req) (x : Contr) (unit eng lo hi : Nat) (g n : Nat) : Nat → M Unit
  | 0 => return ()
  | f + 1 => do
    match (← get).node g n with
    | some nd =>
      if nd.slices.headD 0 ≤ nd.pos || nd.endSlice then return ()
      else
        contrGroup q x unit eng lo hi nd.tmax g n nd.total
        contrGroups q x unit eng lo hi g n f
    | none => return ()

end Sys2Proof.Machine
end

