-- ==== Sys2Proof/Machine/Vector.lean ====
section
/-! DEFINITION. Vector stages (R226 to R235): the operation list and its checks, the 28 operations on rows and segments, the cost of a
row, one step of a node. -/

namespace Sys2Proof.Machine

-- list entries (R229)

namespace VOp
def f (e : List Byte) (o n : Nat) : Nat := fieldAt e o n
def op (e : List Byte) : Nat := f e 0 1
def d (e : List Byte) : Nat := bits (f e 1 1) 0 4
def s0 (e : List Byte) : Nat := bits (f e 1 1) 4 4
def s1 (e : List Byte) : Nat := bits (f e 2 1) 0 4
def s2 (e : List Byte) : Nat := bits (f e 2 1) 4 4
def dom (e : List Byte) : Nat := bits (f e 3 1) 0 2
def seg (e : List Byte) : Bool := bit (f e 3 1) 2
def round (e : List Byte) : Nat := bits (f e 3 1) 3 2
def wide (e : List Byte) : Bool := bit (f e 3 1) 5
def mark (e : List Byte) : Nat := bits (f e 4 1) 0 3
def k (e : List Byte) : Nat := f e 5 1
def imm (e : List Byte) : Nat := f e 8 4
end VOp

/-- Sources that an operation uses (R230). -/
def opSources (op : Nat) : Nat :=
  if op = 4 ∨ op = 0xC ∨ op = 0x15 ∨ op = 0x16 then 3
  else if (1 ≤ op ∧ op ≤ 6) ∨ op = 8 ∨ op = 0xA ∨ op = 0xB ∨ op = 0x1B ∨ op = 0x1C then 2
  else 1

/-- Operations in F alone and in I alone (R230). -/
def opDomOk (op dom : Nat) : Bool :=
  if op = 8 ∨ op = 0x1B ∨ op = 0x1C then dom == 1
  else if (0xD ≤ op ∧ op ≤ 0x10) ∨ (0x14 ≤ op ∧ op ≤ 0x16) then dom == 0
  else dom < 2

/-- The tensors t0 to t6 of a VECTOR node through `look`: for each, none for "none"; the whole is none when a handle is not usable. -/
def vecTensors (look : Nat → Option Desc) (n : Node) : Option (List (Option Desc)) :=
  let hs := (List.range 7).map (fun i => n.field (36 + 4 * i) 4)
  if hs.all (fun h => h == noHandle || (look h).isSome) then
    some (hs.map (fun h => if h = noHandle then none else look h))
  else none

/-- The tensors are ones that R227 admits; t0 gives the rows. -/
def vecTensorsOk (ts : List (Option Desc)) : Bool :=
  ts.all (fun t => match t with | some d => d.layout == 0 && !isGroup d.dtype | none => true) && (ts.getD 0 none).isSome

/-- An operand code names what it may (R229). -/
def opndOk (ts : List (Option Desc)) (src : Bool) (c : Nat) : Bool :=
  (c < 7 && (ts.getD c none).isSome) || (8 ≤ c && c ≤ 11) || (src && c == 12)

/-- A bank atomic's target (R234). -/
def atomOk (ts : List (Option Desc)) (e : List Byte) : Bool :=
  VOp.d e < 7 && (match ts.getD (VOp.d e) none with
    | some x => x.space == 1 && (x.dtype == 6 || x.dtype == 0xB)
        && (!VOp.wide e || (x.size x.inner % 2 == 0 && (x.allocBase + x.origin) % 8 == 0))
    | none => false)

/-- A list entry obeys R229, R230, R233 and R234, for rows of `n` elements. -/
def vopOk (ts : List (Option Desc)) (n : Nat) (e : List Byte) : Bool :=
  let op := VOp.op e
  let two := op == 0x18 || op == 0x1C
  let nsrc := opSources op
  let use (i c : Nat) : Bool := if i < nsrc then opndOk ts true c else c == 15
  1 ≤ op && op ≤ 0x1C && opDomOk op (VOp.dom e) && VOp.round e != 3
    && fieldAt e 3 1 < 64 && fieldAt e 4 1 < 8 && zeroAt e 6 2 && zeroAt e 12 4
    && (!VOp.wide e || op == 0x1B || op == 0x1C)
    && (if VOp.seg e then VOp.mark e < 7 && (match ts.getD (VOp.mark e) none with | some x => markOk x 0 | none => false) else VOp.mark e == 0)
    && (if op = 0x18 then 1 ≤ VOp.k e && VOp.k e ≤ 16 else if op = 0x16 then 1 ≤ VOp.k e && n % VOp.k e == 0 else VOp.k e == 0)
    && (if op = 0x1B ∨ op = 0x1C then atomOk ts e else opndOk ts false (VOp.d e))
    && use 0 (VOp.s0 e) && use 1 (VOp.s1 e) && (if two then opndOk ts false (VOp.s2 e) else use 2 (VOp.s2 e))

/-- Tensors that a list reads and writes: index, whether written (R76). -/
def vopUses (e : List Byte) : List (Nat × Bool) :=
  let op := VOp.op e
  let nsrc := opSources op
  let two := op == 0x18 || op == 0x1C
  ((if VOp.d e < 7 then [(VOp.d e, true)] else [])
    ++ ((List.range 3).zip [VOp.s0 e, VOp.s1 e, VOp.s2 e]).filterMap (fun (i, c) =>
        if c < 7 then (if two && i == 2 then some (c, true) else if i < nsrc then some (c, false) else none) else none)
    ++ (if VOp.seg e then [(VOp.mark e, false)] else []))

-- cost (R235)

/-- Work of one row on one stage, in XCLK, where `segs` gives the segments that the row has for a mark tensor. -/
def vecRowCost (ts : List (Option Desc)) (n : Nat) (segs : Nat → Nat) (ops : List (List Byte)) : Nat :=
  ops.foldl (fun a e =>
    let op := VOp.op e
    let k := if VOp.seg e then segs (VOp.mark e) else 1
    let c (k : Nat) : Nat := cdiv n k
    let bytes (i : Nat) : Nat := match ts.getD i none with | some d => cdiv (n * d.bitsPer) 2048 | none => 0
    let scalar := (0x11 ≤ op && op ≤ 0x13) || op == 0x17
    let io := ((vopUses e).filter (fun x => x.2 || !(VOp.seg e && x.1 == VOp.mark e) || [VOp.s0 e, VOp.s1 e, VOp.s2 e].contains x.1)).foldl
      (fun a (i, w) => a + (if w && scalar then k else bytes i)) 0
    a + io + (if VOp.seg e then 2 * k else 0) + (if op ≤ 0xC then c 128
      else if op ≤ 0x10 then c 64
      else if op ≤ 0x13 ∨ op = 0x17 then c 128 + 6
      else if op = 0x14 then 3 * c 128 + c 64 + 13
      else if op = 0x15 then 5 * c 128 + 14
      else if op = 0x16 then 5 * c 128 + 14 + 2 * VOp.k e
      else if op = 0x18 then c 64 + 2 * VOp.k e + 6
      else if op ≤ 0x1A then c 16 + 6
      else c 4)) 0

-- arithmetic on patterns (R230)

/-- A result of F: every NaN is the canonical one. -/
def canonF (p : Nat) : Nat := if isNan p then nan32 else p

def iv (p : Nat) : Int := sext 32 p
def ip (v : Int) : Nat := toPat 32 v

/-- The elementwise operations. -/
def elemOp (op dom rnd a b c : Nat) : Nat :=
  let i := dom == 1
  let tf (t : Bool) : Nat := if t then (if i then 1 else 0x3F800000) else 0
  match op with
  | 0x01 => if i then (a + b) % 2 ^ 32 else fAdd a b
  | 0x02 => if i then ip (iv a - iv b) else fSub a b
  | 0x03 => if i then (a * b) % 2 ^ 32 else fMul a b
  | 0x04 => if i then (a * b + c) % 2 ^ 32 else fFma a b c
  | 0x05 => if i then (if iv a ≤ iv b then a else b) else fMin a b
  | 0x06 => if i then (if iv b ≤ iv a then a else b) else fMax a b
  | 0x07 => if i then ip (if iv a < 0 then -iv a else iv a) else fAbs a
  | 0x08 => let sh := b % 32; if sh = 0 then a else ip ((iv a + (2 ^ (sh - 1) : Nat)).fdiv (2 ^ sh : Nat))
  | 0x09 => if i then castPat 6 0xB rnd a else castPat 0xB 6 rnd a
  | 0x0A => tf (if i then iv a < iv b else fLt a b)
  | 0x0B => tf (if i then a == b else fEq a b)
  | 0x0C => if i then (if a = 0 then c else b) else canonF (if isZero32 a then c else b)
  | 0x0D => fExp a
  | 0x0E => fLog a
  | 0x0F => fRsqrt a
  | _ => fRecip a

/-- Combine two partial results, of which either may be missing. -/
def combO (f : Nat → Nat → Nat) : Option Nat → Option Nat → Option Nat
  | some a, some b => some (f a b)
  | none, b => b
  | a, none => a

/-- One halving of the partial results: neighbours combined. -/
def halve (f : Nat → Nat → Nat) : List (Option Nat) → List (Option Nat)
  | a :: b :: l => combO f a b :: halve f l
  | l => l

/-- Row reduction in the order of R231; `z` is the identity, none for MAX and MIN. -/
def rowReduce (f : Nat → Nat → Nat) (z : Option Nat) (x : List Nat) : Option Nat :=
  let part := ((List.range x.length).zip x).foldl (fun p (i, v) => p.modify (i % 64) (fun a => combO f a (some v))) (List.replicate 64 z)
  (halve f (halve f (halve f (halve f (halve f (halve f part)))))).getD 0 none

/-- The sum of a row, its maximum, its minimum. -/
def rsum (dom : Nat) (x : List Nat) : Nat := (rowReduce (elemOp 1 dom 0 · · 0) (some 0) x).getD 0
def rmax (dom : Nat) (x : List Nat) : Option Nat := rowReduce (elemOp 6 dom 0 · · 0) none x
def rmin (dom : Nat) (x : List Nat) : Option Nat := rowReduce (elemOp 5 dom 0 · · 0) none x

/-- The rank of ARGMAX and TOPK: NaN above +infinity, −0 below +0 (R230). -/
def rankKey (dom p : Nat) : Int := if dom = 1 then iv p else if isNan p then 2 ^ 31 else fRank p

/-- Insert an index by descending value, lower index first. -/
def insRank (key : Nat → Int) (i : Nat) : List Nat → List Nat
  | [] => [i]
  | j :: l => if key j < key i then i :: j :: l else j :: insRank key i l

/-- Indices of a row by descending rank, equal values by ascending index. -/
def rankOrder (dom : Nat) (x : List Nat) : List Nat :=
  (List.range x.length).foldl (fun l i => insRank (fun i => rankKey dom (x.getD i 0)) i l) []

/-- LAYERNORM over consecutive elements (R232). -/
def layerNorm (eps : Nat) (x g b : List Nat) : List Nat :=
  let rn := fRecip (toF32 (Fp.ofInt x.length))
  let mu := fMul (rsum 0 x) rn
  let dv := x.map (fun v => fSub v mu)
  let v := fMul (rsum 0 (dv.map (fun d => fMul d d))) rn
  let inv := fRsqrt (fAdd v eps)
  (dv.zip (g.zip b)).map (fun (d, g, b) => fFma (fMul d inv) g b)

/-- SOFTMAX (R232). -/
def softmax (x : List Nat) : List Nat :=
  let mx := (rmax 0 x).getD 0
  let e := x.map (fun v => fExp (fSub v mx))
  let q := fRecip (rsum 0 e)
  e.map (fun v => fMul v q)

/-- Cut a list into pieces of `k` elements. -/
def pieces (k : Nat) : (fuel : Nat) → List Nat → List (List Nat)
  | 0, _ => []
  | n + 1, l => if l.isEmpty then [] else l.take k :: pieces k n (l.drop k)

/-- Running combination in ascending order. -/
def scanWith (f : Nat → Nat → Nat) : Nat → List Nat → List Nat
  | _, [] => []
  | a, x :: l => f a x :: scanWith f (f a x) l

/-- What a row operation makes of the elements of a row or a segment: a scalar, values of a row shape, or the TOPK pair; none where
R231 and R232 state no value. -/
inductive RowRes where
  | scalar (v : Nat) (int : Bool)
  | shape (l : List Nat)
  | top (vals idx : List Nat)
  | open_ (scalar : Bool)
deriving DecidableEq, Repr

def rowOp (op dom k eps : Nat) (x g b : List Nat) : RowRes :=
  let int := dom == 1
  let opt (o : Option Nat) : RowRes := match o with | some v => .scalar (if int then v else canonF v) int | none => .open_ true
  match op with
  | 0x11 => .scalar (rsum dom x) int
  | 0x12 => opt (rmax dom x)
  | 0x13 => opt (rmin dom x)
  | 0x14 => .shape (softmax x)
  | 0x15 => .shape (layerNorm eps x g b)
  | 0x16 =>
    if x.length % Nat.max 1 k ≠ 0 then .open_ false
    else
      let w := x.length / Nat.max 1 k
      .shape (((pieces w x.length x).zip ((pieces w x.length g).zip (pieces w x.length b))).flatMap (fun (x, g, b) => layerNorm eps x g b))
  | 0x17 => match rankOrder dom x with | i :: _ => .scalar i true | [] => .open_ true
  | 0x18 =>
    let o := (rankOrder dom x).take k
    .top (o.map (fun i => let v := x.getD i 0; if int then v else canonF v)) o
  | 0x19 => .shape (scanWith (elemOp 1 dom 0 · · 0) 0 x)
  | _ => match x with
    | [] => .shape []
    | a :: l => let a := if int then a else canonF a; .shape (a :: scanWith (elemOp 6 dom 0 · · 0) a l)

-- rows and operands

/-- Rows of a node: local coordinates of t0 with the innermost at 0, in storage order. -/
def rowsOf (d : Desc) : List (List Int) :=
  let box : List (Int × Nat) := (List.range d.rank).map (fun i => ((0 : Int), if i = d.inner then 1 else d.size i))
  enumParts box d.storage.reverse (List.replicate 6 0)

def rowCount (d : Desc) : Nat := (List.range d.rank).foldl (fun a i => if i = d.inner then a else a * d.size i) 1

/-- The coordinates at which another tensor is addressed (R227). -/
def addrAt (x : Desc) (c : List Int) : List Int := (List.range 6).map (fun i => if i < x.rank ∧ x.size i ≠ 1 then c.getD i 0 else 0)

/-- Elements of a tensor at coordinates; outside it, its fill (R113). A replay of the row takes what a read gave (R266). -/
def rdElems (g n : Nat) (q : Req) (d : Desc) (cs : List (List Int)) : M (List Nat) := do
  let locs := cs.map (fun c => d.locate c)
  let runs := bitRuns d.cellBits (locs.filterMap id)
  let got ← runs.mapM (fun r => replayRead g n q.who (spRead { q with wc := false } d.space r.1 (r.2.1 - r.1)))
  return itemVals id (locs.map (fun l => match l with | some o => .read o | none => .const d.fillPat)) (runVals d.cellBits runs got)

/-- Store patterns of a domain type at coordinates of a tensor (R229), the last where several meet at one (R227); elements outside it are
dropped and counted (R114). -/
def wrElems (q : Req) (d : Desc) (from_ rnd : Nat) (els : List (List Int × Nat)) : M Unit := do
  let at_ := els.map (fun (c, v) => (c, d.locate c, castPat from_ d.dtype rnd v))
  let ps := at_.flatMap (fun (c, o, v) => match o with | some b => d.elemPatch c b v | none => [])
  lineWrite q d.space (d.rep == 0) (patchSort ps)
  let k := (at_.filter (fun x => x.2.1.isNone)).length
  modify (fun s => if k = 0 then s else s.sat (F.oobDrop q.t) k)

/-- What the operations of a row work with: the node, its tensors, the row, its length, the issuing stage's request. -/
structure RowCtx where
  g : Nat
  n : Nat
  ts : List (Option Desc)
  r : Nat
  len : Nat
  c0 : List Int
  inner : Nat
  q : Req

/-- Coordinates of position `i` of the row in t0. -/
def RowCtx.at (x : RowCtx) (i : Nat) : List Int := x.c0.set x.inner (i : Int)

/-- A row buffer; one that the row has not written holds free values (log entry 2). -/
def bufRead (x : RowCtx) (k : Nat) : M (List Nat) := do
  let s ← get
  let b := match s.node x.g x.n with | some nd => nd.vec.bufs.getD k [] | none => []
  if b.isEmpty then
    let l := (List.range x.len).map (fun i => Config.freeNat (s.free + i) % 2 ^ 32)
    set ({ s with free := s.free + x.len }.modNode x.g x.n (fun nd =>
      { nd with vec := { nd.vec with bufs := nd.vec.bufs.set k (l.map (BitVec.ofNat 32)) } }))
    return l
  else return b.map (·.toNat)

def bufWrite (x : RowCtx) (k : Nat) (l : List Nat) : M Unit :=
  modify (fun s => s.modNode x.g x.n (fun nd => { nd with vec := { nd.vec with bufs := nd.vec.bufs.set k (l.map (BitVec.ofNat 32)) } }))

/-- The domain's element type. -/
def domType (dom : Nat) : Nat := if dom = 1 then 6 else 0xB

/-- A source operand over the whole row, converted into the domain (R229). -/
def srcRead (x : RowCtx) (e : List Byte) (c : Nat) : M (List Nat) := do
  if c = 15 then return []
  else if c = 12 then return List.replicate x.len (VOp.imm e)
  else if 8 ≤ c then bufRead x (c - 8)
  else match x.ts.getD c none with
    | some d => do
      let l ← rdElems x.g x.n x.q d ((List.range x.len).map (fun i => addrAt d (x.at i)))
      return l.map (castPat d.dtype (domType (VOp.dom e)) (VOp.round e))
    | none => return []

/-- Write a whole row (or the positions given) to a destination. -/
def dstRow (x : RowCtx) (e : List Byte) (c from_ : Nat) (l : List (Nat × Nat)) : M Unit := do
  if 8 ≤ c then
    let whole := l.length == x.len
    let old ← if whole then pure [] else bufRead x (c - 8)
    bufWrite x (c - 8) (l.foldl (fun b (i, v) => b.set i v) (if whole then List.replicate x.len 0 else old))
  else match x.ts.getD c none with
    | some d => wrElems x.q d from_ (VOp.round e) (l.map (fun (i, v) => (addrAt d (x.at i), v)))
    | none => return ()

/-- Write values to indices of a tensor's innermost dimension, at the row's coordinates, or with the other coordinates 0 under `seg`
(R231). -/
def dstIndex (x : RowCtx) (e : List Byte) (d : Desc) (from_ : Nat) (l : List (Nat × Nat)) : M Unit :=
  let base : List Int := if VOp.seg e then List.replicate 6 0 else addrAt d x.c0
  wrElems x.q d from_ (VOp.round e) (l.map (fun (i, v) => (base.set d.inner (i : Int), v)))

/-- The segments of the row (R233): sample, first position, positions. Without `seg` the row is one. -/
def segments (x : RowCtx) (e : List Byte) : M (List (Nat × Nat × Nat)) := do
  if VOp.seg e then
    match x.ts.getD (VOp.mark e) none with
    | some d => do
      let cs := (List.range (d.size 1)).flatMap (fun (s : Nat) => [[0, (s : Int)], [1, (s : Int)]])
      let l ← rdElems x.g x.n x.q d (cs.map (fun c => c ++ [0, 0, 0, 0]))
      return (List.range (d.size 1)).filterMap (fun s =>
        let len := l.getD (2 * s) 0 % 2 ^ 24
        let m := l.getD (2 * s + 1) 0
        let col := bits m 0 16
        if bit m 31 || bits m 16 14 != x.r then none else some (s, col, Nat.min (Nat.min len x.len) (x.len - col)))
    | none => return []
  else return [(0, 0, x.len)]

/-- A free 32-bit pattern. -/
def drawPat : M Nat := do
  let (v, s) := (← get).drawBelow (2 ^ 32)
  set s
  return v

/-- A row operation on each segment (R231 to R233). -/
def rowStep (x : RowCtx) (e : List Byte) : M Unit := do
  let op := VOp.op e
  let a ← srcRead x e (VOp.s0 e)
  let g ← if opSources op = 3 then srcRead x e (VOp.s1 e) else pure []
  let b ← if opSources op = 3 then srcRead x e (VOp.s2 e) else pure []
  let segs ← segments x e
  let cut (l : List Nat) (c p : Nat) : List Nat := (l.drop c).take p
  let res ← segs.mapM (fun (s, c, p) => do
    match rowOp op (VOp.dom e) (VOp.k e) (VOp.imm e) (cut a c p) (cut g c p) (cut b c p) with
    | .open_ true => do return (s, c, p, RowRes.scalar (← drawPat) (VOp.dom e == 1 || op == 0x17))
    | .open_ false => do return (s, c, p, RowRes.shape (← (List.range p).mapM (fun _ => drawPat)))
    | r => return (s, c, p, r))
  let from_ := if op = 0x17 then 6 else domType (VOp.dom e)
  let shaped := op == 0x14 || op == 0x15 || op == 0x16 || op == 0x19 || op == 0x1A
  if shaped then
    let l := res.foldl (fun l (_, c, _, r) => match r with
      | .shape v => ((List.range v.length).zip v).foldl (fun l (i, v) => l.set (c + i) v) l
      | _ => l) (List.replicate x.len 0)
    atomically x.q.who (dstRow x e (VOp.d e) from_ ((List.range x.len).zip l))
  else
    atomically x.q.who (res.forM (fun (s, c, p, r) => do
      let idx (j : Nat) : Nat := if VOp.seg e then s else j
      match r with
      | .scalar v _ =>
        if 8 ≤ VOp.d e then dstRow x e (VOp.d e) from_ ((List.range p).map (fun i => (c + i, v)))
        else match x.ts.getD (VOp.d e) none with
          | some d => dstIndex x e d from_ [(idx 0, v)]
          | none => return ()
      | .top vs is => do
        let put (code ty : Nat) (l : List Nat) : M Unit := do
          let ps := (List.range l.length).zip l
          if 8 ≤ code then dstRow x e code ty (ps.map (fun (j, v) => (c + j, v)))
          else match x.ts.getD code none with
            | some d => dstIndex x e d ty (ps.map (fun (j, v) => (if VOp.seg e then s * VOp.k e + j else j, v)))
            | none => return ()
        put (VOp.d e) from_ vs
        put (VOp.s2 e) 6 is
      | _ => return ()))

/-- A bank atomic at position `i` of its destination, for the operand `v` (R189, R234): the old value, for a swap. The old value of a swap that
is dropped, or that no 32-bit position holds, is a free value (log entry 2). -/
def atomAt (x : RowCtx) (e : List Byte) (d : Desc) (i v : Nat) : M Nat := do
  let wide := VOp.wide e
  let w := if wide then 8 else 4
  match d.locate ((addrAt d x.c0).set d.inner (iv i * (if wide then 2 else 1))) with
  | none => do
    modify (fun s => s.sat (F.oobDrop x.q.t))
    if VOp.op e = 0x1C then drawPat else return 0
  | some o => do
    let a := o / 8
    tileCheck x.q true a w
    eccCheck x.q a w true
    let s ← get
    let cur := le (s.tileRd a w)
    let v64 := toPat (8 * w) (iv v)
    let (sq, _) := s.whoSeq x.q.who
    if d.rep == 0 && s.compares x.q.t then
      set (s.digestMsg x.q.who (checkMsg a ((List.range w).zip (leBytes w v64) |>.map (fun (k, b) => (a + k, b))) sq))
    tileStore x.q a (leBytes w (if VOp.op e = 0x1B then (cur + v64) % 2 ^ (8 * w) else v64))
    if VOp.op e = 0x1C ∧ wide ∧ sext 64 cur ≠ iv cur then drawPat else return cur % 2 ^ 32

/-- Bank atomics, position by position in ascending order (R189, R234). -/
def atomStep (x : RowCtx) (e : List Byte) : M Unit := do
  let ix ← srcRead x e (VOp.s0 e)
  let vs ← srcRead x e (VOp.s1 e)
  match x.ts.getD (VOp.d e) none with
  | none => return ()
  | some d =>
    atomically x.q.who (do
      let old ← (ix.zip vs).mapM (fun (i, v) => atomAt x e d i v)
      if VOp.op e = 0x1C then dstRow x e (VOp.s2 e) 6 ((List.range x.len).zip old))

/-- An elementwise operation over the row. -/
def elemStep (x : RowCtx) (e : List Byte) : M Unit := do
  let a ← srcRead x e (VOp.s0 e)
  let b ← srcRead x e (VOp.s1 e)
  let c ← srcRead x e (VOp.s2 e)
  let op := VOp.op e
  let r := (List.range x.len).map (fun i => (i, elemOp op (VOp.dom e) (VOp.round e) (a.getD i 0) (b.getD i 0) (c.getD i 0)))
  atomically x.q.who (dstRow x e (VOp.d e) (if op = 9 then domType (1 - VOp.dom e) else domType (VOp.dom e)) r)

/-- One entry of the list on one row (R228, R230). What it writes it writes whole (R266). -/
def vecEntry (x : RowCtx) (e : List Byte) : M Unit :=
  if VOp.op e = 0x1B ∨ VOp.op e = 0x1C then atomStep x e
  else if 0x11 ≤ VOp.op e then rowStep x e
  else elemStep x e

/-- The stage that takes a row (R228). -/
def Node.stageOf (n : Node) (r : Nat) : Nat := n.units.getD (r % Nat.max 1 n.units.length) 0xC0

/-- The row that a node goes on with: rows come in ascending order, in a free order where the list swaps (R228, R234). -/
def State.pickRow (s : State) (n : Node) (rows : Nat) : Nat × State :=
  match n.vec.row with
  | some r => (r, s)
  | none =>
    let left := (List.range rows).filter (fun r => !n.vec.done.contains r)
    if n.ops.any (fun e => VOp.op e == 0x1C) then
      let (k, s) := s.drawBelow left.length
      (left.getD k 0, s)
    else (left.getD 0 0, s)

/-- The tensors of a node in its window, bound at registration (R111). -/
def State.vecNode (s : State) (g : Graph) (n : Node) : Option (List (Option Desc) × Desc) :=
  match vecTensors (s.boundDesc g.ctx) n with
  | some ts => (ts.getD 0 none).map (fun t0 => (ts, t0))
  | none => none

/-- One step of a VECTOR node: the next entry of its list on its present row; after the last entry the row is a cut interval done. -/
def vecStep (g n : Nat) : M Unit := do
  let s ← get
  match s.graph g, s.node g n with
  | some gr, some nd =>
    match s.vecNode gr nd with
    | none => return ()
    | some (ts, t0) =>
      let (r, s) := s.pickRow nd (rowCount t0)
      set ((s.modNode g n (fun x => { x with vec := { x.vec with row := some r } })).replayReads g n)
      let x : RowCtx := { g := g, n := n, ts := ts, r := r, len := t0.size t0.inner, c0 := (rowsOf t0).getD r [], inner := t0.inner,
                          q := { t := gr.ctx, unit := nd.stageOf r, who := .node g n, no := 0 } }
      vecEntry x (nd.ops.getD nd.vec.op [])
      let atomic := VOp.op (nd.ops.getD nd.vec.op []) ≥ 0x1B
      modify (fun s => (s.readsOver g n).modNode g n (fun x =>
        if x.vec.op + 1 < x.ops.length then { x with atomic := x.atomic || atomic, vec := { x.vec with op := x.vec.op + 1 } }
        else { x with atomic := x.atomic || atomic, pos := x.pos + 1, total := x.total + 1, vec := { row := none, done := r :: x.vec.done } }))
  | _, _ => return ()

/-- The rest of a VECTOR node's slice. -/
def vecSlice (g n : Nat) : Nat → M Unit
  | 0 => return ()
  | f + 1 => do
    match (← get).node g n with
    | some nd =>
      if nd.slices.headD 0 ≤ nd.pos || (nd.endSlice && nd.vec.op == 0) then return ()
      else do vecStep g n; vecSlice g n f
    | none => return ()

end Sys2Proof.Machine
end

