-- ==== Sys2Proof/Machine/Register.lean ====
section
/-! DEFINITION. Registration of nodes (R75 to R80, R87, R210, R227, R229): operands, footprints, program scans, chains, slices; and the
scoreboard's readiness (R78, R79). -/

namespace Sys2Proof.Machine

/-- A refusal at registration with its code (R75). -/
def refuse {α : Type} (code : Nat) : M α := throw (.stop 0x1B code)

/-- Read a list that a node names; a failure is a refusal with code 0x06 (R75, R265). -/
def listRead (q : Req) (xva n : Nat) : M (List Byte) :=
  tryCatch (structRead q xva n) (fun e => match e with
    | .stop _ _ => refuse 6
    | e => throw e)

-- footprints

/-- Widen a range outward (R76). -/
def Range.widen (r : Range) : Range :=
  let k := if r.sp = 0 then 4096 else 64
  { r with lo := r.lo / k * k, hi := cdiv r.hi k * k }

/-- Add a range to disjoint ranges, merging those it overlaps (R76). -/
def mergeIn (l : List Range) (r : Range) : List Range :=
  let hit (x : Range) : Bool := x.sp == r.sp && overlaps (x.lo, x.hi) (r.lo, r.hi)
  let m := (l.filter hit).foldl (fun a x => { a with lo := Nat.min a.lo x.lo, hi := Nat.max a.hi x.hi, rd := a.rd || x.rd, wr := a.wr || x.wr }) r
  l.filter (fun x => !hit x) ++ [m]

/-- The scoreboard entries of a footprint (R76). -/
def scoreboard (l : List Range) : List Range := (l.map Range.widen).foldl mergeIn []

/-- The range of a tensor. -/
def Desc.range (d : Desc) (wr : Bool) : Range := ⟨d.space, d.span.1, d.span.2, !wr, wr⟩

/-- A footprint record (R73); none when it is illegal. DESIGN CHOICE: the 40-bit length field cannot hold 2^40, and 0 is illegal in it (log
entry 64). -/
def fpRecord (b : List Byte) : Option Range :=
  let base := fieldAt b 0 8
  let len := fieldAt b 8 5
  let fl := fieldAt b 13 1
  let sp := bits fl 0 1
  if 8 ≤ fl ∨ bits fl 1 2 = 0 ∨ fieldAt b 14 2 ≠ 0 ∨ len = 0 ∨ (if sp = 1 then 67108864 < base + len else 2 ^ 48 ≤ base) then none
  else some ⟨sp, base, base + len, bit fl 1, bit fl 2⟩

/-- The node writes a range that it reads, before merging (R389). -/
def selfOverlap (l : List Range) : Bool :=
  l.any (fun r => r.wr && l.any (fun x => x.rd && x.sp == r.sp && overlaps (x.lo, x.hi) (r.lo, r.hi)))

/-- What registration finds of a node: the node with its program, list and tensors, its footprint before widening, its cut intervals. -/
structure Found where
  node : Node
  fp : List Range
  figs : List LineFig

/-- TRANSIT in mode 0: footprint list, then the program scan (R75). -/
def regProgram (q : Req) (n : Node) : M Found := do
  let b ← listRead q (n.field 40 8) (16 * n.field 30 2)
  let rs := (List.range (n.field 30 2)).map (fun i => fpRecord (slice b (16 * i) 16))
  if rs.contains none then refuse 6
  let fp := rs.filterMap id
  if 8 < (scoreboard fp).length then refuse 6
  let slots ← progScan q (n.field 32 8) (n.field 28 2)
  return ⟨{ n with prog := slots, fp := fp }, fp, progFigs ((← get).handle q.t) slots⟩

/-- A SLOT tensor's base is usable and still fits it (R106, R255). -/
def baseUsable (look : Nat → Option Desc) (d : Desc) : Bool :=
  d.layout != 4 || d.base == noHandle || (match look d.base with
    | some x => x.layout == 2 && x.space == 1 && x.dtype == d.dtype && x.sizes == d.sizes
    | none => false)

/-- TRANSIT in mode 1: two tensors with their bases, one MOVET (R122, R133, R255). -/
def regCopy (q : Req) (n : Node) : M Found := do
  let look := (← get).handle q.t
  match look (n.field 32 4), look (n.field 36 4) with
  | some a, some b =>
    if !baseUsable look a || !baseUsable look b then refuse 5
    let fp := [a.range false, b.range true]
    let slots := slotsOf (copyInstr (n.field 32 4) (n.field 36 4) a.rank)
    let bases := ([a, b].filter (fun d => d.layout == 4 && d.base != noHandle)).map (·.base)
    return ⟨{ n with prog := slots, fp := fp, handles := [n.field 32 4, n.field 36 4] ++ bases }, fp, progFigs look slots⟩
  | _, _ => refuse 5

/-- The tile groups of a CONTRACT as cut intervals: work, and what each reads and writes of tile memory (R80, R206, R211). -/
def Contr.figs (x : Contr) (t : Nat) : List LineFig :=
  let gs := x.groupsOf t
  let words (d : Desc) (first last : Nat) : List (Nat × Nat) :=
    if d.space = 0 then []
    else if d.layout = 4 then [d.span]
    else [(d.allocBase + d.origin + 1024 * first, d.allocBase + d.origin + 1024 * (last + 1))]
  let others := (x.inputs.drop 2).flatMap Desc.whole
  ((List.range (x.intervals t).length).zip (x.intervals t)).map (fun (i, c) =>
    let b := i / (gs * x.mt)
    let mt := i / gs % x.mt
    let n0 := i % gs * t
    let n1 := Nat.min x.nt (n0 + t) - 1
    let ba := if x.a.rank = 3 then b else 0
    let bb := if x.b.rank = 3 then b else 0
    let lo : List Int := [(32 * n0 : Nat), (32 * mt : Nat), (b : Int)]
    let hi : List Int := [(Nat.min x.n (32 * (n1 + 1)) - 1 : Nat), (Nat.min x.m (32 * (mt + 1)) - 1 : Nat), (b : Int)]
    { cost := 256 * c
      rd := words x.a ((ba * x.a.pt + mt) * x.kc) ((ba * x.a.pt + mt) * x.kc + x.kc - 1)
              ++ words x.b (bb * x.kc * x.b.pt + n0) ((bb * x.kc + x.kc - 1) * x.b.pt + n1) ++ others
      wr := x.c.hull [lo, hi] })

/-- CONTRACT: its tensors, with those that they name (R208, R210, R240). -/
def regContract (q : Req) (n : Node) : M Found := do
  match contrOf ((← get).handle q.t) n with
  | some x =>
    if !x.ok then refuse 5
    let t := x.tmax ((← get).fld F.sliceXclk)
    let hs := ([24, 28, 32, 36, 40, 44].map (fun o => n.field o 4)) ++ [x.a.scale, x.b.scale, x.b.scale2, x.b.base]
    return ⟨{ n with tmax := t, handles := hs.filter (· != noHandle) }, x.c.range true :: x.inputs.map (·.range false),
      if t = 0 then [{ cost := 2 ^ 64 }] else x.figs t⟩
  | none => refuse 5

/-- What row `c` of a VECTOR node reads or writes of tensor `i`, `d`, in tile memory. -/
def vecHull (t0 : Desc) (ops : List (List Byte)) (c : List Int) (i : Nat) (d : Desc) : List (Nat × Nat) :=
  let all := ops.any (fun e => (VOp.seg e && (VOp.mark e == i || 0x11 ≤ VOp.op e)) || (0x1B ≤ VOp.op e && VOp.d e == i))
  if all then d.whole
  else
    let n := Nat.min (t0.size t0.inner) (Nat.max 1 (d.size t0.inner))
    d.hull [addrAt d c, addrAt d (c.set t0.inner ((n - 1 : Nat) : Int))]

/-- The rows of a VECTOR node as cut intervals. The segments of a row (R233) are not known before its marks are read: their number is free,
and no more than the mark tensor's samples (log entry 22). -/
def vecFigs (s : State) (ts : List (Option Desc)) (t0 : Desc) (ops : List (List Byte)) : List LineFig × State :=
  let rows := rowsOf t0
  let uses := ops.flatMap vopUses
  let samples (i : Nat) : Nat := ((ts.getD i none).map (·.size 1)).getD 0
  let figs := ((List.range (rowCount t0)).zip rows).map (fun (r, c) =>
    let hulls (wr : Bool) : List (Nat × Nat) := (List.range 7).flatMap (fun i => match ts.getD i none with
      | some d => if uses.contains (i, wr) then vecHull t0 ops c i d else []
      | none => [])
    { cost := 256 * vecRowCost ts (t0.size t0.inner) (fun i => Config.freeNat (s.free + 7 * r + i) % (samples i + 1)) ops
      rd := hulls false, wr := hulls true : LineFig })
  (figs, { s with free := s.free + 7 * rowCount t0 })

/-- VECTOR: its tensors, then its list (R227, R229). -/
def regVector (q : Req) (n : Node) : M Found := do
  match vecTensors ((← get).handle q.t) n with
  | some ts =>
    if !vecTensorsOk ts then refuse 5
    match ts.getD 0 none with
    | some t0 =>
      let b ← listRead q (n.field 24 8) (16 * n.field 32 2)
      let ops := (List.range (n.field 32 2)).map (fun i => slice b (16 * i) 16)
      if 16384 < t0.size t0.inner || !ops.all (vopOk ts (t0.size t0.inner)) then refuse 6
      let uses := ops.flatMap vopUses
      let fp := (List.range 7).filterMap (fun i => match ts.getD i none with
        | some d =>
          let rd := uses.contains (i, false)
          let wr := uses.contains (i, true)
          if rd || wr then some { d.range wr with rd := rd } else none
        | none => none)
      let hs := ((List.range 7).map (fun i => n.field (36 + 4 * i) 4)).filter (· != noHandle)
      let (figs, s) := vecFigs (← get) ts t0 ops
      set s
      return ⟨{ n with ops := ops, handles := hs }, fp, figs⟩
    | none => refuse 5
  | none => refuse 5

/-- What registration finds of a node that is no CHAIN. -/
def regNode (q : Req) (n : Node) : M Found :=
  match n.kind with
  | 1 => if n.field 24 1 = 0 then regProgram q n else regCopy q n
  | 2 => regContract q n
  | 3 => regVector q n
  | 7 => return ⟨n, [⟨n.ckSpace, n.ckStart, n.ckStart + n.ckLen, true, false⟩],
      (List.range n.ckCount).map (fun i => { cost := 256 * checkCost n.ckStart n.ckLen i })⟩
  | _ => return ⟨n, [], []⟩

/-- Cut a node into slices (R80). -/
def withSlices (f : Found) (limit : Nat) : M Node := do
  match fillSlices (256 * limit) (f.figs.map (·.cost)) 0 0 with
  | some l => return { f.node with slices := l }
  | none => refuse 8

/-- Register a node that is no CHAIN: what it needs, then its slices; at most eight ranges (R75). -/
def regPlain (q : Req) (n : Node) (limit : Nat) : M (Found × Node) := do
  let f ← regNode q n
  if 8 < (scoreboard f.fp).length then refuse 6
  let m ← withSlices f limit
  return (f, m)

-- chains

/-- The buffers of a CHAIN: first byte and one past the last (R73). -/
def Node.buffers (n : Node) : List (Nat × Nat) :=
  (List.range (n.field 24 1 - 1)).map (fun k =>
    let b := n.field (32 + 8 * k) 4
    (b, b + 2 ^ n.field (36 + 8 * k) 1))

/-- A tensor is the hand-over operand of a buffer: its allocation is the buffer (R87). -/
def isHandOver (b : Nat × Nat) (d : Desc) : Bool := d.space == 1 && d.allocBase == b.1 && d.allocBase + d.allocLen == b.2

/-- The tensors that a stage names, each with whether it writes it. -/
def stageTensors (look : Nat → Option Desc) (n : Node) : List (Desc × Bool) :=
  match n.kind with
  | 2 => (match contrOf look n with
    | some x => (x.c, true) :: x.inputs.map (·, false)
    | none => [])
  | 3 => (match vecTensors look n with
    | some ts => (n.ops.flatMap vopUses).filterMap (fun u => (ts.getD u.1 none).map (·, u.2))
    | none => [])
  | _ => (startsFrom n.prog n.prog.length 0).flatMap (fun j =>
      let m := mtOf (instrAt n.prog j)
      if slotOp (instrAt n.prog j) = 2 then
        ((look m.src).map (·, false)).toList ++ ((look m.dst).map (·, true)).toList
          ++ (if m.pack || m.mask then ((look m.side).map (·, false)).toList else [])
      else [])

/-- The hull of what a cut interval touches of a buffer. -/
def touched (b : Nat × Nat) (l : List (Nat × Nat)) : Option (Nat × Nat) :=
  match l.filter (overlaps b) with
  | [] => none
  | x :: l => some (l.foldl (fun a y => (Nat.min a.1 y.1, Nat.max a.2 y.2)) x)

/-- Ranges that a stage passes over one after another never go back to an earlier granule (R87). -/
def granulesAscend (base gran : Nat) : List (Nat × Nat) → Bool
  | x :: y :: l => (x.2 - 1 - base) / gran ≤ (y.1 - base) / gran && granulesAscend base gran (y :: l)
  | _ => true

/-- A stage hands over, or takes over, through a buffer as R87 asks: it touches the buffer, within the buffer, in ascending granule order, and
every tensor of it that meets the buffer has the buffer for its allocation (log entry 36). -/
def handsOver (look : Nat → Option Desc) (b : Nat × Nat) (gran : Nat) (wr : Bool) (f : Found) : Bool :=
  let ts := f.figs.filterMap (fun x => touched b (if wr then x.wr else x.rd))
  !ts.isEmpty && ts.all (fun x => b.1 ≤ x.1 && x.2 ≤ b.2) && granulesAscend b.1 gran ts
    && (stageTensors look f.node).all (fun d => d.2 != wr || d.1.space == 0 || !overlaps d.1.span b || isHandOver b d.1)

/-- The checks of a CHAIN that wait for registration (R87): the first stage that breaks them. -/
def chainFault (look : Nat → Option Desc) (c : Node) (fs : List Found) : Option Nat :=
  let gran := 2 ^ c.field 25 1
  let bad (k : Nat) (wr : Bool) (f : Found) : Bool := match c.buffers[k]? with
    | some b => !handsOver look b gran wr f
    | none => false
  (((List.range fs.length).zip fs).find? (fun (k, f) => bad k true f || (0 < k && bad (k - 1) false f))).map (·.2.node.idx)

/-- Before each cut interval of a producer: the first granule of its buffer that this interval or a later one writes (R88). -/
def gatesOf (b : Nat × Nat) (gran : Nat) (figs : List LineFig) : List Nat :=
  figs.foldr (fun f l =>
    let next := l.headD b.2
    (match touched b f.wr with | some x => Nat.min next (b.1 + (x.1 - b.1) / gran * gran) | none => next) :: l) []

/-- The last stage's cut intervals, as many as end in each granule of its input buffer, with their work (R80): a granule ends with the interval
whose input reaches its end. `top` is how far the input has reached. -/
def granuleCosts (b : Nat × Nat) (gran : Nat) : List LineFig → (top n cost : Nat) → List (Nat × Nat)
  | [], _, n, cost => if n = 0 then [] else [(n, cost)]
  | f :: l, top, n, cost =>
    let t := match touched b f.rd with | some x => Nat.max top x.2 | none => top
    if (top - b.1) / gran < (t - b.1) / gran then (n + 1, cost + f.cost) :: granuleCosts b gran l t 0 0
    else granuleCosts b gran l t (n + 1) (cost + f.cost)

/-- Group counts as slices say. -/
def regroup : List Nat → List Nat → List Nat
  | [], _ => []
  | k :: l, cs => (cs.take k).foldl (· + ·) 0 :: regroup l (cs.drop k)

/-- A range without the bytes of another. -/
def Range.minus (r : Range) (b : Nat × Nat) : List Range :=
  if r.sp = 1 ∧ overlaps (r.lo, r.hi) b then
    (if r.lo < b.1 then [{ r with hi := b.1 }] else []) ++ (if b.2 < r.hi then [{ r with lo := b.2 }] else [])
  else [r]

/-- The stages of a CHAIN, one after another; the first refusal is charged to its own stage (R75). -/
def regStages (q : Req) (gid : Nat) : List Node → M (Except (Nat × Err) (List Found))
  | [] => return .ok []
  | n :: l => do
    match ← tryCatch (do return Except.ok (← regNode { q with who := .node gid n.idx } n)) (fun e => return Except.error (n.idx, e)) with
    | .error e => return .error e
    | .ok f => match ← regStages q gid l with
      | .error e => return .error e
      | .ok fs => return .ok (f :: fs)

/-- Register a CHAIN whose stages are found: its footprint without the buffers, the chain checks, the slices of the last stage (R75, R76, R87).
What is refused is charged to the CHAIN, or to the stage that breaks R87. -/
def regChain (look : Nat → Option Desc) (c : Node) (fs : List Found) (limit : Nat) : Except (Nat × Err) (List Node × List Range) :=
  let gran := 2 ^ c.field 25 1
  let rs := scoreboard (c.buffers.foldl (fun l b => l.flatMap (·.minus b)) (fs.flatMap (·.fp)))
  if 16 < rs.length then .error (c.idx, .stop 0x1B 6)
  else match chainFault look c fs with
    | some i => .error (i, .stop 0x1B 7)
    | none =>
      let gs := granuleCosts (c.buffers.getLastD (0, 0)) gran ((fs.getLast?.map (·.figs)).getD []) ((c.buffers.getLastD (0, 0)).1) 0 0
      match fillSlices (256 * limit) (gs.map (·.2)) 0 0 with
      | none => .error (c.idx, .stop 0x1B 8)
      | some l =>
        .ok (((List.range fs.length).zip fs).map (fun (i, f) =>
          { f.node with
            slices := if i + 1 = fs.length then regroup l (gs.map (·.1)) else [f.figs.length]
            selfRw := selfOverlap f.fp, ranges := []
            gates := (match c.buffers[i]? with | some b => gatesOf b gran f.figs | none => [])
            inBuf := if i = 0 then (0, 0) else c.buffers.getD (i - 1) (0, 0) }), rs)

-- the scoreboard

/-- Scoreboard entries in use: by a tenant, and in all. -/
def State.sbUsed (s : State) (t : Option Nat) : Nat :=
  (s.graphs.filter (fun g => match t with | some t => g.ctx == t | none => true)).foldl (fun a g =>
    g.nodes.foldl (fun a n => a + n.ranges.length) a) 0

/-- The entries fit within the free scoreboard and the tenant's quota (R77). -/
def State.sbFits (s : State) (t k : Nat) : Bool := s.sbUsed none + k ≤ 4096 && s.sbUsed (some t) + k ≤ s.fld (F.sbQuota t)

/-- Two nodes of one graph conflict (R78). -/
def conflicts (a b : Node) : Bool :=
  a.ranges.any (fun r => b.ranges.any (fun x => r.sp == x.sp && overlaps (r.lo, r.hi) (x.lo, x.hi) && (r.wr || x.wr)))

/-- Every explicit predecessor and every conflicting earlier node has completed (R79). -/
def Graph.ready (g : Graph) (n : Node) : Bool :=
  n.preds.all (fun i => g.doneIdx.contains i)
    && g.nodes.all (fun m => n.idx ≤ m.idx || m.st == .fetched || !conflicts m n)

/-- The wait of a WAIT node, which begins when the node is ready (R440). -/
def State.nodeWait (s : State) (g : Graph) (n : Node) : Wait :=
  { t := g.ctx, who := .node g.id n.idx, counter := n.field 24 2, cond := n.field 26 1, value := BitVec.ofNat 32 (n.field 28 4), start := s.aon
    timeoutUs := n.field 32 4 }

/-- The scoreboard shows newly ready nodes: each takes its age (R79, R83), and a WAIT node begins to wait (R440). -/
def State.markReady (s : State) : State :=
  let fresh (g : Graph) (n : Node) : Bool := n.st == .registered && n.age.isNone && !n.inChain && g.ready n
  if s.graphs.any (fun g => g.nodes.any (fresh g)) then
    (s.graphs.flatMap (fun g => (g.nodes.filter (fun n => fresh g n && n.kind == 5)).map (s.nodeWait g))).foldl State.addWait
      { s with readyNo := s.readyNo + 1
               graphs := s.graphs.map (fun g => { g with nodes := g.nodes.map (fun n => if fresh g n then { n with age := some s.readyNo } else n) }) }
  else s

/-- Enter a node into the scoreboard. -/
def State.putNode (s : State) (g : Nat) (n : Node) : State := s.modNode g n.idx (fun _ => { n with st := .registered })

/-- A node is refused, or its scan failed: it fails, with the graph's status (R75, R90). -/
def State.refuseNode (s : State) (g n status detail : Nat) : State :=
  let s := s.modGraph g (fun x => if x.fail.isSome ∨ status ≠ 0x1B then x else { x with fail := some (n, 0x1B, detail) })
  s.failNode g n status detail

/-- A translation is made before an access needs it; a failure leaves no trace (R173, R265). -/
def State.warmPage (s : State) (t : Nat) (x : Nat × Bool) : State :=
  match s.lookup t x.1 with
  | some _ => s
  | none =>
    let s1 := s.walkPaid t x.1 x.2
    match s.trailErr t x.1 x.2, s.walk t x.1 x.2 with
    | none, .ok y => s1.walked t x.1 x.2 y
    | _, _ => s1

/-- The translation of the first page of each space-0 range is looked up at registration (R265). -/
def State.warm (s : State) (t : Nat) (l : List Range) : State :=
  ((l.filter (·.sp == 0)).map (fun r => (r.lo, !r.rd))).foldl (fun s x => s.warmPage t x) s

end Sys2Proof.Machine
end

