-- ==== Sys2Proof/Machine/Graphs.lean ====
section
/-! DEFINITION. The life of a graph (R67 to R94): fetching nodes into the window, registering them, granting units, ending slices,
completing nodes, abandoning graphs, and the records of both. -/

namespace Sys2Proof.Machine

-- records and completion

/-- The `result` field of a node record (R91). -/
def nodeResult (n : Node) : Nat := n.idx % 2 ^ 18 + (Nat.min 0xFFFF n.run) <<< 37 + 1 <<< 63

/-- The `result` field of a graph record (R91). -/
def graphResult (g : Graph) : Nat :=
  g.doneIdx.length % 2 ^ 18
    + (match g.fail with | some (i, _, _) => 1 <<< 18 + (i % 2 ^ 18) <<< 19 | none => 0)
    + (Nat.min 0xFFFF g.slices) <<< 37

/-- The channel whose program a node ran (R142). -/
def Node.ranOn (n : Node) : Option Nat := if n.kind = 1 then (n.units.find? (· < 64)) else none

/-- A node's record is due (R70, R91); its program's event follows it, or arises now (R142). -/
def State.nodeRec (s : State) (g : Graph) (n : Node) : State :=
  let (st, de) := withCorr n.status n.detail n.corr
  if n.wantsRec ∨ !isSuccess st then
    s.emit ⟨g.ctx, s.cqOf g.ctx g.sq, g.sq, st, n.tag, 1, de, nodeResult n, n.irq, n.ranOn, .none⟩
  else match n.ranOn with
    | some ch => s.event ch
    | none => s

/-- The entry behind a graph. -/
def State.graphEntry (s : State) (g : Graph) : Option Entry := (s.ctx g.ctx).entries.find? (·.id == g.id)

/-- The graph's record is written and the graph is gone (R90, R91). DESIGN CHOICE: where a failure of the node fetch and a node's failure both
occur, the record tells the node's (log entry 64). -/
def State.endGraph (s : State) (g : Graph) : State :=
  match s.graphEntry g with
  | some e =>
    let s := s.modCtx g.ctx (fun x => { x with entries := x.entries.map (fun y => if y.id == e.id then { y with corr := y.corr + g.corr } else y) })
    let (st, de) := match g.fail, g.stopped with
      | some (_, st, de), _ => (st, de)
      | none, some x => x
      | none, none => (1, 0)
    (s.finish g.ctx e st de (graphResult g)).dropGraph g.id
  | none => s.dropGraph g.id

/-- An entry that ran as a one-node graph is complete (R122, R367). -/
def State.endEntryGraph (s : State) (g : Graph) (n : Node) : State :=
  match s.graphEntry g with
  | some e =>
    let s := s.modCtx g.ctx (fun x => { x with entries := x.entries.map (fun y => if y.id == e.id then { y with corr := y.corr + n.corr } else y) })
    let s := if n.kind = 7 then s.cvuDone g n else s
    (s.finish g.ctx e n.status n.detail (if n.kind = 7 ∧ n.status < 0x10 then n.crc else 0) n.ranOn).dropGraph g.id
  | none => s.dropGraph g.id

/-- The stages of a CHAIN that stand in the window (R87). -/
def Graph.stages (g : Graph) (c : Node) : List Node :=
  if c.kind = 8 then g.nodes.filter (fun n => c.idx < n.idx && n.idx ≤ c.idx + c.field 24 1) else []

/-- A vector stage is held by a node with work left (R226). -/
def State.vsBusy (s : State) (i : Nat) : Bool :=
  s.graphs.any (fun g => g.nodes.any (fun n => n.units.contains (0xC0 + i) && (n.st == .opened || (n.st == .between && !n.slices.isEmpty))))

/-- Vector stages that nobody holds change their owner as written (R119, R226). -/
def State.applyVs (s : State) : State :=
  (List.range 16).foldl (fun s i =>
    if s.fld (F.vsOwner i) = s.vsOwn i || s.vsBusy i then s
    else { s with vsOwners := Sparse.set (fun _ => 15) s.vsOwners i (s.fld (F.vsOwner i)) }) s

/-- Every write, remote frame and counter operation of a node is done, and its intervals have passed (R89, R138). -/
def State.nodeQuiet (s : State) (g n : Nat) : Bool :=
  s.txns.all (fun x => x.who != some (.node g n))
    && s.relay.log.all (fun l => !(l.g == g && l.n == n))
    && s.chans.all (fun c => c.2.relq.all (fun o => !(o.g == g && o.n == n)))
    && s.rep.intervals.all (fun i => i.own != some (g, n))

/-- A node leaves the window as complete: its record, its scoreboard entries, its successors (R89). -/
def State.retire (s : State) (g : Graph) (n : Node) : State :=
  let s := s.modGraph g.id (fun x => { x with
    nodes := x.nodes.filter (·.idx != n.idx), doneIdx := x.doneIdx ++ [n.idx], corr := x.corr + n.corr })
  let s := if n.kind = 7 then s.cvuDone g n else s
  (s.nodeRec g n).applyVs

/-- The graph's record when its last node has completed (R91). -/
def State.graphDone (s : State) (gid : Nat) : State :=
  match s.graph gid with
  | some g => if g.fail.isNone ∧ g.stopped.isNone ∧ g.doneIdx.length = g.count then s.endGraph g else s
  | none => s

/-- A node completes, a CHAIN with its stages (R88, R89). -/
def State.completeNode (s : State) (gid n : Nat) : State :=
  match s.graph gid, s.node gid n with
  | some g, some nd =>
    if g.entryOnly then s.endEntryGraph g nd
    else
      let s := (g.stages nd).foldl (fun s m => s.retire g m) s
      ((s.retire g nd).graphDone gid).markReady
  | _, _ => s

-- fetching

/-- Nodes in flight: of a tenant, and in all (R67, R68). -/
def State.inFlight (s : State) (t : Option Nat) : Nat :=
  (s.graphs.filter (fun g => !g.entryOnly && (match t with | some t => g.ctx == t | none => true))).foldl (fun a g => a + g.nodes.length) 0

/-- Stages that the last CHAIN before an index still has to come (R87). -/
def Graph.chainLeft (g : Graph) (i : Nat) : Nat :=
  match g.nodes.find? (fun c => c.kind == 8 && c.idx < i && i ≤ c.idx + c.field 24 1) with
  | some c => c.idx + c.field 24 1 + 1 - i
  | none => 0

/-- The CHAIN that covers an index (R87). -/
def Graph.chainAt (g : Graph) (i : Nat) : Option Node := g.nodes.find? (fun c => c.kind == 8 && c.idx < i && i ≤ c.idx + c.field 24 1)

/-- One fetched node enters the window (R92), or is refused (R75). -/
def State.takeNode (s : State) (gid : Nat) (b : List Byte) : State :=
  match s.graph gid with
  | some g =>
    if g.fail.isSome then s
    else
      let left := g.chainLeft g.fetchedN
      let old := (s.ctx g.ctx).nodeSeq
      let nd : Node := { idx := g.fetchedN, bytes := b, seq := ((g.chainAt g.fetchedN).map (·.seq)).getD old }
      let bad := s.nodeFetchBad g.ctx left g.count nd
      let s := if left = 0 then s.modCtx g.ctx (fun x => { x with nodeSeq := old + 1 }) else s
      let s := s.modGraph gid (fun x => { x with nodes := x.nodes ++ [nd], fetchedN := x.fetchedN + 1 })
      match bad with
      | some c => s.refuseNode gid nd.idx 0x1B c
      | none => s
  | none => s

/-- Read the next nodes of a graph, up to four of one 256-byte block (R68). -/
def State.fetchNodes (s : State) (gid : Nat) : State :=
  match s.graph gid with
  | some g =>
    let room := Nat.min (s.fld (F.winQuota g.ctx) - s.inFlight (some g.ctx)) (131072 - s.inFlight none)
    let a := g.xva + 64 * g.fetchedN
    let n := Nat.min (Nat.min (4 - a / 64 % 4) (g.count - g.fetchedN)) room
    if !s.granting ∨ g.entryOnly ∨ g.fail.isSome ∨ g.stopped.isSome ∨ n = 0 then s
    else
      match (structRead { t := g.ctx, unit := 0xD8, who := .entry g.id } a (64 * n)).on s with
      | (.ok b, s) => (List.range n).foldl (fun s i => s.takeNode gid (slice b (64 * i) 64)) s
      | (.error (.stop st de), s) => (s.modGraph gid (fun x => { x with stopped := some (st, de) })).stopWaiters gid
      | (.error _, _) => s
  | none => s

-- registration

/-- A node that R77 holds back: a predecessor that is an incomplete WAIT or TIMED node. -/
def Graph.waitsForWait (g : Graph) (n : Node) : Bool :=
  n.preds.any (fun i => g.nodes.any (fun m => m.idx == i && (m.kind == 5 || m.kind == 6)))

/-- The node that is next to register, if it may (R77). -/
def State.nextNode (s : State) (gid : Nat) : Option (Graph × Node) :=
  match s.graph gid with
  | some g =>
    if s.engines && g.fail.isNone && g.stopped.isNone then
      match g.nodes.find? (fun n => n.st == .fetched) with
      | some n => if g.waitsForWait n then none else some (g, n)
      | none => none
    else none
  | none => none

/-- Registration ends in a failure of the node, or has to wait. -/
def State.regFail (s0 s : State) (gid n : Nat) : Err → State
  | .stop st de => s.refuseNode gid n st de
  | _ => s0

/-- Register the next node of a graph (R75 to R80). A TIMED node is registered by its own step. -/
def State.register (s : State) (gid : Nat) : State :=
  match s.nextNode gid with
  | none => s
  | some (g, n) =>
    let q : Req := { t := g.ctx, unit := 0xD8, who := .node gid n.idx }
    let limit := s.sliceLimit g.ctx
    if n.kind = 6 then s
    else if n.kind = 8 then
      let st := g.stages n
      if st.length ≠ n.field 24 1 then s
      else match (regStages q gid st).on s with
        | (.ok (.ok fs), s1) =>
          (match regChain (s1.handle g.ctx) n fs limit with
            | .ok (ns, rs) =>
              if !s1.sbFits g.ctx rs.length then s
              else
                let s2 := ns.foldl (fun s m => s.putNode gid m) s1
                ((s2.putNode gid { n with ranges := rs, slices := (ns.getLast?.map (·.slices)).getD [] }).warm g.ctx rs).markReady
            | .error (i, e) => s.regFail s1 gid i e)
        | (.ok (.error (i, e)), s1) => s.regFail s1 gid i e
        | (.error e, s1) => s.regFail s1 gid n.idx e
    else match (regPlain q n limit).on s with
      | (.ok (f, m), s1) =>
        let rs := scoreboard f.fp
        if !s1.sbFits g.ctx rs.length then s
        else ((s1.putNode gid { m with ranges := rs, selfRw := selfOverlap f.fp }).warm g.ctx f.fp).markReady
      | (.error e, s1) => s.regFail s1 gid n.idx e

/-- Register a TIMED node (R351, R356): it fails, is released at once, or takes an ephemeris entry. -/
def State.registerTimed (s : State) (gid n : Nat) : State :=
  match s.nextNode gid with
  | some (g, nd) =>
    if nd.idx ≠ n ∨ nd.kind ≠ 6 then s
    else
      let b := bits (nd.field 24 1) 0 2
      let p := BitVec.ofNat 48 (nd.field 28 4 * 65536 + nd.field 32 2)
      if s.fld (F.mbState b) = 0 then s.failNode gid n 0x17 0
      else if posReached (s.mbPos b) p then
        if nd.field 25 1 = 0 then ((s.modNode gid n (fun x => { x with st := .between, slices := [], status := 3 })).countSlice gid n).markReady
        else s.failNode gid n 0x17 0
      else if s.ephFull g.ctx then s
      else
        let e : Eph := { idx := s.ephFree, tenant := g.ctx, base := b, action := 0, late := 0, missFault := false, pos := p, counter := 0,
                         missCounter := 0, value := 0, period := 0, vinc := 0, stBase := 0, stLog2 := 0, node := some (gid, n) }
        ((s.setEph (s.mer.eph ++ [e])).modNode gid n (fun x => { x with st := .registered })).markReady
  | none => s

-- units and grants

/-- A node has units in this slice, or holds them for its chain (R84, R88). -/
def State.unitHeld (s : State) (u : Nat) : Bool :=
  s.graphs.any (fun g => g.nodes.any (fun n => n.units.contains u
    && (n.st == .opened || (n.inChain && n.st != .failed && g.nodes.any (fun c => c.kind == 8 && c.st == .opened && c.idx < n.idx && n.idx ≤ c.idx + c.field 24 1)))))

/-- A DPU column of an engine is being taken out of service: the engine takes no new grant (R391). -/
def State.columnsMove (s : State) (e : Nat) : Bool :=
  s.eclWait.any (fun w => 0x50 + 0x30 * e ≤ w.unit && w.unit < 0x72 + 0x30 * e)

/-- The node of a tenant in the pairing profile that an engine last ran is not complete (R297). -/
def State.draining (s : State) (u : Nat) : Bool :=
  s.graphs.any (fun g => s.fld (F.ordProfile g.ctx) == 1 && g.nodes.any (fun n => n.units.contains u && (n.st == .between || n.st == .failed)))

/-- A unit can take a grant: in service, held by nobody, a channel idle and without a change of owner for a new node (R83, R119). -/
def State.unitFree (s : State) (u : Nat) (bound : Bool) : Bool :=
  !s.eclipsed u && !s.unitHeld u && !s.eclWait.any (fun w => w.unit == u || (0x40 ≤ w.unit && w.unit < 0x44 && u / 16 == w.unit - 0x40))
    && (if u < 64 then s.chSt u == 1 && (bound || s.fld (F.chOwner u) == (s.chan u).owner)
        else if u = 0x48 ∨ u = 0x49 then !s.columnsMove (u - 0x48) && (bound || !s.draining u)
        else if 0xC0 ≤ u ∧ u < 0xD0 then bound || s.fld (F.vsOwner (u - 0xC0)) == s.vsOwn (u - 0xC0)
        else true)

/-- Units of which a node of a tenant takes one (R83, R391); an eclipsed channel that a node names counts as "any". -/
def State.offered (s : State) (t : Nat) (n : Node) : List Nat :=
  match n.kind with
  | 1 =>
    let ch := n.field 25 1
    if ch ≤ 63 ∧ !s.eclipsed ch then (if s.owner ch = t then [ch] else []) else (List.range 64).filter (fun c => s.owner c == t)
  | 2 =>
    let e := bits (n.field 48 1) 0 2
    let mask := s.fld (F.meMask t)
    let allowed (i : Nat) : Bool := bit mask i && (e == 0 || e == 3 || e == i + 1 || s.eclipsed (0x48 + (1 - i)))
    ((List.range 2).filter allowed).map (0x48 + ·)
  | 7 => [0xD0, 0xD1, 0xD2, 0xD3]
  | _ => []

/-- A CONTRACT runs in twin mode: `engine` 3 or twin-all, with both engines in service (R222, R391). -/
def State.twinNode (s : State) (n : Node) : Bool :=
  n.kind == 2 && (bits (n.field 48 1) 0 2 == 3 || s.fld F.splitMode == 1) && !s.eclipsed 0x48 && !s.eclipsed 0x49

/-- A unit that was admitted or changed at an epoch boundary is offered only to nodes whose first slice begins after it (R94). -/
def State.offeredTo (s : State) (n : Node) (u : Nat) : Bool :=
  match n.epoch0 with
  | some e => !s.admitted.any (fun x => x.1 == u && e < x.2)
  | none => true

/-- The units that a node would take, of those not `taken`, with `u` among them if it is given (R83, R86, R226). -/
def State.unitsFor (s : State) (t : Nat) (n : Node) (u : Option Nat) (taken : List Nat) : Option (List Nat) :=
  let has (l : List Nat) : Bool := match u with | some u => l.contains u | none => true
  if !n.units.isEmpty && n.units.all (fun v => !s.eclipsed v && s.offeredTo n v) then
    if n.units.all (fun v => s.unitFree v true && !taken.contains v) && has n.units then some n.units else none
  else
    let free (v : Nat) : Bool := s.unitFree v false && !taken.contains v && s.offeredTo n v
    match n.kind with
    | 3 =>
      let mine := ((List.range 16).filter (fun i => s.vsOwn i == t)).map (0xC0 + ·)
      let fs := mine.filter free
      let want := if n.field 34 1 = 0 then 16 else n.field 34 1
      let l := match u with
        | some u => if fs.contains u then u :: (fs.filter (· != u)).take (want - 1) else []
        | none => fs.take want
      let l := fs.filter (fun v => l.contains v)
      if l.isEmpty then none else some l
    | 2 =>
      if s.twinNode n then
        if bits (s.fld (F.meMask t)) 0 2 = 3 ∧ free 0x48 ∧ free 0x49 ∧ has [0x48, 0x49] then some [0x48, 0x49] else none
      else ((s.offered t n).find? (fun v => free v && has [v])).map (fun v => [v])
    | _ => ((s.offered t n).find? (fun v => free v && has [v])).map (fun v => [v])

/-- The units of every stage of a CHAIN that has work left, all free together (R88); `u` is among them if it is given. -/
def State.chainUnits (s : State) (t : Nat) (u : Option Nat) (taken0 : List Nat) (stages : List Node) : Option (List (Nat × List Nat)) :=
  let r := (stages.filter (fun n => !n.slices.isEmpty)).foldl (fun (acc : Option (List (Nat × List Nat))) n =>
    match acc with
    | some l =>
      let taken := taken0 ++ l.flatMap (·.2)
      let pick := match s.unitsFor t n u taken with
        | some v => some v
        | none => s.unitsFor t n none taken
      pick.map (fun v => l ++ [(n.idx, v)])
    | none => none) (some [])
  match r with
  | some l => if u.all (fun u => (l.flatMap (·.2)).contains u) then some l else none
  | none => none

/-- What a node would be granted, of units not `taken`, with unit `u` if it is given: the units of each node concerned. -/
def State.grantFor (s : State) (u : Option Nat) (taken : List Nat) (g : Graph) (n : Node) : Option (List (Nat × List Nat)) :=
  if n.kind = 8 then s.chainUnits g.ctx u taken (g.stages n)
  else (s.unitsFor g.ctx n u taken).map (fun l => [(n.idx, l)])

/-- A node that competes for units: ready, or between two slices (R79, R84); none of a replicated tenant once this chip is out (R401). -/
def State.competes (s : State) (g : Graph) (n : Node) : Bool :=
  g.fail.isNone && g.stopped.isNone && !n.inChain && (n.kind ≤ 3 || n.kind == 7 || n.kind == 8)
    && ((n.st == .registered && n.age.isSome) || (n.st == .between && !n.slices.isEmpty))
    && !(s.rep.out && s.compares g.ctx)

/-- The first of two nodes by the keys of R83. -/
def State.ranksFirst (s : State) (a b : Graph × Node) : Bool := rankLt (s.rankKeys a.1 a.2) (s.rankKeys b.1 b.2)

/-- Nodes in rank order (R83). -/
def State.rankIns (s : State) (x : Graph × Node) : List (Graph × Node) → List (Graph × Node)
  | [] => [x]
  | y :: l => if s.ranksFirst x y then x :: y :: l else y :: s.rankIns x l

/-- The grant of unit `u`: the first node in rank order that can use it. The units that nodes ranked before it can use are theirs (R83). -/
def State.pickGrant (s : State) (u : Nat) : List (Graph × Node) → (taken : List Nat) → Option ((Graph × Node) × List (Nat × List Nat))
  | [], _ => none
  | (g, n) :: l, taken =>
    match s.grantFor (some u) taken g n with
    | some us => some ((g, n), us)
    | none => s.pickGrant u l (taken ++ ((s.grantFor none taken g n).getD []).flatMap (·.2))

/-- The tenants that have a competing node. -/
def State.readyTenants (s : State) : List Nat := (s.graphs.filter (fun g => g.nodes.any (s.competes g))).map (·.ctx)

/-- First place passes on after as many XCLK with a grant as the tenant's weight (R442). -/
def State.passGrant (s : State) : State :=
  if s.grantUsed < s.fld (F.schedWeight s.grantFirst) then s
  else match ((List.range 7).map (fun i => (s.grantFirst + i + 1) % 8)).find? (fun t => s.readyTenants.contains t) with
    | some t => { s with grantFirst := t, grantUsed := 0 }
    | none => s

/-- The XCLK of a grant of unit `u`: whether it is that of the grants before it is free (log entry 15), unless the unit has been granted in that
one already. -/
def State.grantXclk (s : State) (u : Nat) : State :=
  let (same, s) := s.drawBool
  if same && !s.grantNow.isEmpty && !s.grantNow.any (·.1 == u) then s else State.passGrant { s with grantNow := [] }

/-- A grant is noted: an XCLK counts once for the tenant that stands first (R442). -/
def State.noteGrant (s : State) (u t : Nat) : State :=
  { s with grantNow := s.grantNow ++ [(u, t)]
           grantUsed := if t = s.grantFirst ∧ !s.grantNow.any (·.2 == t) then s.grantUsed + 1 else s.grantUsed }

/-- A replay point moves with a program to the channel that runs it now (R86, R389). -/
def State.moveIdle (s : State) (g n ch : Nat) : State :=
  match s.chans.findSome? (fun c => if c.1 = ch then none else (c.2.idle.find? (fun p => p.g == g && p.n == n)).map (fun p => (c.1, p))) with
  | some (from_, p) =>
    (s.modChan from_ (fun c => { c with idle := c.idle.filter (fun x => !(x.g == g && x.n == n)) })).modChan ch (fun c => { c with idle := c.idle ++ [p] })
  | none => s

/-- A slice of a node opens on its units (R84); a node's first grant is an acquire (R286). -/
def State.openSlice (s : State) (g : Nat) (x : Nat × List Nat) : State :=
  let s := match x.2.find? (· < 64) with | some ch => s.moveIdle g x.1 ch | none => s
  let s := if ((s.node g x.1).map (·.run)).getD 0 = 0 then s.acquires g x.1 else s
  s.modNode g x.1 (fun n => { n with
    st := .opened, units := x.2, twin := x.2.contains 0x48 && x.2.contains 0x49, pos := 0, pos0 := 0,
    endSlice := false, atomic := false, crc0 := n.crc, digSum0 := n.digSum, digCnt0 := n.digCnt, stall := false, began := s.aon,
    epoch0 := some (n.epoch0.getD s.epochNo),
    grave := if n.run = 0 then s.coll.grave else n.grave })

/-- Grant a unit to the first-ranked node that can use it (R83): a CHAIN's stages all together (R88). -/
def State.grant (s : State) (u : Nat) : State :=
  if !s.granting then s
  else
    let s1 := s.grantXclk u
    let cands := (s1.graphs.flatMap (fun g => (g.nodes.filter (s1.competes g)).map (fun n => (g, n)))).foldr s1.rankIns []
    match s1.pickGrant u cands [] with
    | none => s
    | some ((g, n), us) =>
      let s := us.foldl (fun s x => s.openSlice g.id x) s1
      let s := if n.kind = 8 then s.openSlice g.id (n.idx, []) else s
      s.noteGrant u g.ctx

-- chains

/-- The granules that a producer has written whole: the address below which it writes nothing any more (R88). -/
def Node.handed (n : Node) : Nat := if n.slices.isEmpty then 67108864 else n.gates.getD n.total 67108864

/-- CHAIN: the granules that the stages have written are passed to their consumers (R88). -/
def State.chainStep (s : State) (gid n : Nat) : State :=
  match s.graph gid, s.node gid n with
  | some g, some c =>
    if s.engines && c.kind == 8 && c.st == .opened then
      let st := g.stages c
      (st.zip (st.drop 1)).foldl (fun s x => s.modNode gid x.2.idx (fun y => { y with hw := x.1.handed })) s
    else s
  | _, _ => s

-- slices

/-- The present slice of a node has reached its end: its last cut point, or after its time the next one; a stall holds it open (R80, R82,
R331). -/
def State.sliceEnds (s : State) (gid : Nat) (n : Node) : Bool :=
  n.st == .opened && !n.stall && !s.walking (.node gid n.idx) &&
  (n.slices.isEmpty
    || (if n.kind = 1 then
          (match n.units.find? (· < 64) with
            | some ch => (match (s.chan ch).prog with
              | some p => (n.sliceOver && s.chSt ch == 2 && !s.walking (.chan ch) && !s.held (.node gid n.idx)) || (p.ended && s.compares p.ctx && !n.cmp)
              | none => false)
            | none => false)
        else n.slices.headD 0 ≤ n.pos || (n.endSlice && n.vec.op == 0 && n.sub == 0 && n.reads.isEmpty && n.outq.isEmpty)))

/-- The slices left after a cut: a slice that its time limit ended goes on with what is left of it (R82, R395); a program that has not ended
needs a further slice for its last slots. -/
def Node.slicesLeft (n : Node) : List Nat :=
  match n.slices with
  | [] => []
  | k :: l => if n.pos < k then (k - n.pos) :: l else if n.kind = 1 ∧ l.isEmpty then [1] else l

/-- Park the program of a node that waits for its next slice; what was prefetched for it stays (R86, R172). -/
def State.unbind (s : State) (ch : Nat) : State :=
  match (s.chan ch).prog with
  | some p =>
    (s.modChan ch (fun c => { c with prog := none, mark := none, back := none, idle := c.idle ++ [p], last := some (p.g, p.n) })).chTo ch 1
  | none => s

/-- A slice of a node that is no CHAIN ends (R84): its units are free, and in a replica group its interval ends unless only its time was
up (R395). A program that has ended in a replica group ends its last interval first and keeps its channel until it has drained. -/
def State.closeSlice (s : State) (gid : Nat) (t : Nat) (n : Node) : State :=
  let ch := n.units.find? (· < 64)
  let whole := n.slices.isEmpty || n.slices.headD 0 ≤ n.pos || s.halfLog t gid n.idx
  let ended := match ch with | some c => n.kind == 1 && (match (s.chan c).prog with | some p => p.ended | none => false) | none => false
  let cmp := s.compares t && !n.cmp && (whole || ended)
  let last := ended || n.slicesLeft.isEmpty
  let s1 := if ended then s
    else
      let s := match ch with | some c => if n.kind = 1 then s.unbind c else s | none => s
      (s.modNode gid n.idx (fun x => { x with st := .between, slices := n.slicesLeft, pos := 0, endSlice := false })).countSlice gid n.idx
  if cmp then (s1.applyVs.modNode gid n.idx (fun x => { x with cmp := last })).intervalEnd gid n.idx false else s1.applyVs

/-- An earlier stage of a CHAIN can stop with its chain's slice: it holds nothing open (R82). -/
def State.stageRests (s : State) (gid : Nat) (n : Node) : Bool :=
  n.st != .opened || n.slices.isEmpty
    || (!n.stall && !s.walking (.node gid n.idx) && n.sub == 0 && n.vec.op == 0 && n.outq.isEmpty
        && (match n.units.find? (· < 64) with
          | some ch => n.kind != 1 || (match (s.chan ch).prog with
            | some p => !p.ended && s.chSt ch == 2 && !s.walking (.chan ch) && !s.held (.node gid n.idx)
            | none => true)
          | none => true))

/-- An earlier stage stops with its chain's slice: what is left of it goes on in the next. -/
def State.stopStage (s : State) (gid : Nat) (n : Node) : State :=
  if n.st = .opened then
    let s := match n.units.find? (· < 64) with | some ch => if n.kind = 1 then s.unbind ch else s | none => s
    s.modNode gid n.idx (fun y => { y with
      st := .between, slices := n.slicesLeft, pos := 0, endSlice := false, reads := [], again := [], digSum := 0, digCnt := 0, run := n.run + 1 })
  else s

/-- The slice of a CHAIN ends with that of its last stage (R80, R88). DESIGN CHOICE: R91 does not say how the slices of the earlier stages count;
each counts the slices that it ran in for its own record, and the graph counts those of the last stage (log entry 64). -/
def State.closeChain (s : State) (g : Graph) (c : Node) : State :=
  match (g.stages c).getLast? with
  | some m =>
    let others := (g.stages c).filter (·.idx != m.idx)
    if s.sliceEnds g.id m && others.all (s.stageRests g.id) then
      -- the digest of the chain's interval covers every stage
      let m := { m with digSum := others.foldl (fun a x => a + x.digSum) m.digSum, digCnt := others.foldl (fun a x => a + x.digCnt) m.digCnt }
      let s := others.foldl (fun s x => s.modNode g.id x.idx (fun y => { y with digSum := 0, digCnt := 0 })) (s.modNode g.id m.idx (fun _ => m))
      let s := s.closeSlice g.id g.ctx m
      match s.node g.id m.idx with
      | some y =>
        -- a program that has ended keeps its channel until it has drained
        if y.st = .opened then s
        else (others.foldl (fun s x => s.stopStage g.id x) s).modNode g.id c.idx (fun x => { x with st := .between, slices := y.slices, run := x.run + 1 })
      | none => s
    else s
  | none => s

/-- End the slice of a node that has reached its end (R80, R84). -/
def State.endSlices (s : State) (gid n : Nat) : State :=
  match s.graph gid, s.node gid n with
  | some g, some nd =>
    if !s.engines then s
    else if nd.kind = 8 then (if nd.st = .opened then s.closeChain g nd else s)
    else if nd.inChain then s
    else if s.sliceEnds gid nd then s.closeSlice gid g.ctx nd else s
  | _, _ => s

/-- The time of a slice is up: it ends at its next cut point (R82). -/
def State.sliceTime (s : State) (gid n : Nat) : State :=
  match s.graph gid, s.node gid n with
  | some g, some nd =>
    if nd.st = .opened then
      let s := s.advanceTo (nd.began + 100000)
      let idx := match (g.stages nd).getLast? with | some m => m.idx | none => n
      s.modNode gid idx (fun x => { x with endSlice := true })
    else s
  | _, _ => s

/-- A node can complete: its slices are over, it is ready, its writes have returned (R79, R89). -/
def State.canComplete (s : State) (g : Graph) (n : Node) : Bool :=
  n.st == .between && n.slices.isEmpty && !n.inChain && g.ready n
    && ((n :: g.stages n).all (fun m => s.nodeQuiet g.id m.idx && (m.st == .between)))

-- abandoning

/-- A node leaves the window without completing: its ephemeris entry, its wait, its parked program and what was prefetched for it go with it
(R90, R172). -/
def State.dropNode (s : State) (gid n : Nat) : State :=
  let s := s.modGraph gid (fun g => { g with nodes := g.nodes.filter (·.idx != n) })
  let s := if s.mer.eph.any (fun e => e.node == some (gid, n)) then s.setEph (s.mer.eph.filter (fun e => e.node != some (gid, n))) else s
  let s : State := { s with waits := s.waits.filter (fun w => w.who != .node gid n) }
  let s := s.chans.foldl (fun s c => s.modChan c.1 (fun c => { c with idle := c.idle.filter (fun p => !(p.g == gid && p.n == n)) })) s
  let s := (s.chans.filter (fun c => c.2.last == some (gid, n))).foldl (fun s c => s.discard c.1) s
  -- a change of owner that waited for this program takes effect
  (s.chans.foldl (fun s c => if s.eclipsed c.1 then s else s.applyOwner c.1) s).applyVs

/-- Nodes that are dropped or stopped at once when their graph is abandoned (R90): those not granted, those that wait, those whose
slice has ended with work left; a CHAIN of which a stage has failed; a stage goes with its CHAIN. -/
def Graph.droppable (g : Graph) (n : Node) : Bool :=
  let alone (n : Node) : Bool :=
    n.st == .fetched || n.st == .registered || n.st == .waiting || (n.st == .between && !(n.slices.isEmpty && g.ready n))
      || (n.st == .opened && n.kind == 8 && (g.stages n).any (·.st == .failed) && (g.stages n).all (·.st != .opened))
  if n.inChain && n.st != .failed then
    (match g.nodes.find? (fun c => c.kind == 8 && c.idx < n.idx && n.idx ≤ c.idx + c.field 24 1) with
      | some c => c.st == .failed || alone c
      | none => true)
  else alone n

/-- Abandon a graph (R90): failed nodes write their records once their writes have returned, the others are dropped as they stop, and then
the graph's record is written. -/
def State.abandon (s : State) (gid : Nat) : State :=
  match s.graph gid with
  | some g =>
    if s.coll.fatal ∨ (g.fail.isNone ∧ g.stopped.isNone) then s
    else
      let s := s.failedIntervals
      let s := (g.nodes.filter g.droppable).foldl (fun s n => s.dropNode gid n.idx) s
      let s := g.nodes.foldl (fun s n =>
        if n.st = .failed ∧ s.nodeQuiet gid n.idx then
          if g.entryOnly then s.endEntryGraph g n else (s.nodeRec g n).dropNode gid n.idx
        else s) s
      match s.graph gid with
      | some g => if g.nodes.isEmpty then s.endGraph { g with doneIdx := g.doneIdx } else s
      | none => s
  | none => s

end Sys2Proof.Machine
end

