-- ==== Sys2Proof/Machine/Entries.lean ====
section
/-! DEFINITION. The tenant commands (R57) and the fetching and admission of ring entries (R56, R67): what each opcode's own step does;
and the walks, faults and timers of translation (R264 to R278). A step whose condition does not hold leaves the state as it is (log
entry 12). -/

namespace Sys2Proof.Machine

/-- Run the step of the oldest admitted entry of an opcode (log entry 12). -/
def State.take (s : State) (c op : Nat) (f : Entry → State) : State :=
  if !s.engines then s
  else match s.oldest c op with
    | some e => f e
    | none => s

/-- An entry's access ended in an error: its record, or its step waits for room in the fault queue. -/
def State.entryErr (s0 s : State) (c : Nat) (e : Entry) : Err → State
  | .stop st de => s.finish c e st de
  | _ => s0

/-- The request of an entry's structure reads. -/
def entryReq (t : Nat) (e : Entry) : Req := { t := t, unit := 0xD8, who := .entry e.id }

-- graphs and one-node entries

/-- SUBMIT_GRAPH (R57, R68): the graph exists from now on; its nodes are fetched by NODE_FETCH. -/
def State.submitGraph (s : State) (t : Nat) : State :=
  s.take t 0x01 (fun e =>
    let g : Graph := { id := e.id, ctx := t, sq := e.sq, tag := e.tag, irq := e.irq, quiet := e.quiet, xva := e.field 8 8,
                       count := e.field 16 4, prio := e.field 20 1 }
    let s := s.start t e
    { s with graphs := s.graphs ++ [g] })

/-- An entry that runs as a one-node graph with the `prio` of 0 (R122, R367); its age is its admission's. -/
def State.oneNode (s : State) (t : Nat) (e : Entry) (n : Node) : State :=
  let n := { n with st := .registered, age := some e.age }
  let g : Graph := { id := e.id, ctx := t, sq := e.sq, tag := e.tag, irq := e.irq, quiet := e.quiet, xva := 0, count := 1, prio := 0,
                     entryOnly := true, nodes := [n], fetchedN := 1 }
  let s := s.start t e
  { s with graphs := s.graphs ++ [g] }

/-- The body of a TRANSIT node that runs a program as RUN_PROGRAM asks (R57, R72). -/
def runBytes (e : Entry) : List Byte :=
  leBytes 1 1 ++ leBytes 1 0 ++ leBytes 2 e.tag ++ leBytes 20 0 ++ leBytes 1 0 ++ leBytes 1 (e.field 18 1) ++ leBytes 1 (e.field 19 1)
    ++ leBytes 1 0 ++ leBytes 2 (e.field 16 2) ++ leBytes 2 0 ++ leBytes 8 (e.field 8 8) ++ leBytes 24 0

/-- RUN_PROGRAM (R122, R123): the scan, then a one-node graph without footprint. -/
def State.runProgram (s : State) (t : Nat) : State :=
  s.take t 0x02 (fun e =>
    match (progScan (entryReq t e) (e.field 8 8) (e.field 16 2)).on s with
    | (.error x, s1) => s.entryErr s1 t e x
    | (.ok slots, s1) =>
      match fillSlices (256 * s.sliceLimit t) (progCosts (s1.handle t) slots) 0 0 with
      | none => s1.finish t e 0x1B 8
      | some l => s1.oneNode t e { idx := 0, bytes := runBytes e, seq := 0, prog := slots, slices := l })

/-- SCAN_CHECK (R367): a one-node graph with a CHECK node. -/
def State.scanEntry (s : State) (t : Nat) : State :=
  s.take t 0x07 (fun e =>
    let n : Node := { idx := 0, bytes := scanBytes e, seq := 0 }
    match fillSlices (256 * s.sliceLimit t) ((List.range n.ckCount).map (fun i => 256 * checkCost n.ckStart n.ckLen i)) 0 0 with
    | none => s.finish t e 0x1B 8
    | some l => s.oneNode t e { n with slices := l })

-- descriptors

/-- The oldest CREATE_TENSOR or DESTROY_TENSOR that has not run: they run in order of admission (R97). -/
def State.oldestDesc (s : State) (t : Nat) : Option Entry :=
  -- a handle is in use from the write of its record on, which may wait for a slot of its ring (R65, R96)
  if ((s.ctx t).holdQ ++ (s.ctx t).held).any (fun r => match r.after with | .handle _ => true | _ => false) then none
  else ((s.ctx t).entries.find? (fun e => e.opcode == 3 || (e.opcode == 4 && !e.started))).filter (fun e => !e.started)

/-- Run a descriptor command if it is the next one. -/
def State.takeDesc (s : State) (t op : Nat) (f : Entry → State) : State :=
  if !s.engines then s
  else match s.oldestDesc t with
    | some e => if e.opcode = op then f e else s
    | none => s

/-- Write a validated image into its table entry; the entry's other half holds derived state (R95, R96). -/
def State.putDesc (s : State) (t h : Nat) (e : Entry) (image : List Byte) : State :=
  let pa := page4k (s.fld (F.dtBase t)) + 256 * h
  let s := s.physWrite (entryReq t e) (cellsAt pa image)
  { s with derived := (pa + 128, s.free) :: s.derived.filter (·.1 != pa + 128), free := s.free + 128 }

/-- CREATE_TENSOR (R96): the image is on its way into its table entry; the response completes the command (R62). -/
def State.createTensor (s : State) (t : Nat) : State :=
  s.takeDesc t 0x03 (fun e =>
    match (structRead (entryReq t e) (e.field 8 8) 128).on s with
    | (.error x, s1) => s.entryErr s1 t e x
    | (.ok b, s1) =>
      let h := e.field 16 4
      match s1.descCheck t h b with
      | some code => (s1.sat (F.descRef t)).finish t e 0x1A code
      | none =>
        let d := descOf b
        (s1.putDesc t h e b).dueEntry t e d.passes (.handle { h := h, d := d }))

/-- DESTROY_TENSOR (R110): its handle retires; HANDLE_FREE completes the entry. A handle that an earlier command took away meanwhile is
out of range (R97). -/
def State.destroyTensor (s : State) (t : Nat) : State :=
  s.takeDesc t 0x04 (fun e =>
    let h := e.field 16 4
    if (s.ctx t).handles.any (fun x => x.h == h && x.retiring.isNone) then
      (s.start t e).modCtx t (fun x => { x with
        handles := x.handles.map (fun y => if y.h == h then { y with retiring := some e.id } else y) })
    else s.finish t e 0x13 16)

/-- A node or a MOVET in progress uses the descriptor (R110, R111). -/
def State.bound (s : State) (t h : Nat) : Bool :=
  s.graphs.any (fun g => g.ctx == t && g.nodes.any (fun n => n.handles.contains h))
    || s.chans.any (fun c =>
      (match c.2.prog with | some p => p.ctx == t && p.begun.contains h | none => false)
        || c.2.idle.any (fun p => p.ctx == t && p.begun.contains h))

/-- The last binder of a retiring handle has completed: the handle is free, its DESTROY_TENSOR completes (R110). -/
def State.handleFree (s : State) (t h : Nat) : State :=
  if !s.engines ∨ s.bound t h then s
  else match (s.ctx t).handles.find? (fun x => x.h == h && x.retiring.isSome) with
    | some x =>
      let s := s.modCtx t (fun c => { c with handles := c.handles.filter (·.h != h) })
      match (s.ctx t).entries.find? (fun e => some e.id == x.retiring) with
      | some e => s.finish t e 1
      | none => s
    | none => s

-- counters

/-- The rank keys of a SIGNAL entry: those of a one-node graph of priority 0, behind every node (R283). -/
def State.entryRank (s : State) (t : Nat) (e : Entry) : List Nat := [7, s.rrPos t, e.age, 2 ^ 32, 2, e.sq]

/-- SIGNAL (R57, R282). -/
def State.signalEntry (s : State) (t : Nat) : State :=
  s.take t 0x05 (fun e =>
    let c := e.field 8 2
    let v := BitVec.ofNat 32 (e.field 12 4)
    (if e.field 10 1 = 0 then s.addCounter c v else s.setCounter c v (s.entryRank t e)).finish t e 1)

/-- A wait's condition holds, or has held at the end of some XCLK (R284). -/
def State.waitMet (s : State) (w : Wait) : Bool := w.met || condHolds w.cond (s.counter w.counter) w.value

/-- WAIT (R57, R440): its wait is pending since its admission; it is over at once if its condition has been found true. -/
def State.waitEntry (s : State) (t : Nat) : State :=
  s.take t 0x06 (fun e =>
    let s := s.ctrSettle (e.field 8 2)
    if s.waits.any (fun w => w.who == .entry e.id && s.waitMet w) then
      State.finish { s with waits := s.waits.filter (fun w => w.who != .entry e.id) } t e 1
    else s.start t e)

/-- A pending wait is over: the entry, the node or the program that waits goes on, or fails with 0x17 (R440). -/
def State.endWait (s : State) (w : Wait) (ok : Bool) : State :=
  match w.who with
  | .entry id =>
    (match (s.ctx w.t).entries.find? (·.id == id) with
      | some e => s.finish w.t e (if ok then 1 else 0x17)
      | none => s)
  | .node g n =>
    (match s.graph g, s.node g n with
      | some gr, some nd =>
        let s := if nd.st = .registered then s.countSlice g n else s
        if gr.fail.isSome ∨ gr.stopped.isSome ∨ !(nd.st == .registered || nd.st == .waiting) then s
        else if ok then s.modNode g n (fun x => { x with st := .between, slices := [] })
        else s.failNode g n 0x17 0
      | _, _ => s)
  | .chan ch =>
    (match (s.chan ch).prog with
      | some p =>
        if p.ended ∨ s.chSt ch ≠ 3 then s
        else if ok then (s.acquires p.g p.n).goSlot ch (p.pc + 1) else s.endProg ch 0x17 0
      | none => s)

/-- WAIT_SATISFIED: a pending wait finds its condition true (R284). -/
def State.waitGoes (s : State) (i : Nat) : State :=
  match s.waits[i]? with
  | some w =>
    let s1 := s.ctrSettle w.counter
    if s.engines && ((s1.waits[i]?).map s1.waitMet).getD false then
      State.endWait { s1 with waits := s1.waits.eraseIdx i } w true
    else s
  | none => s

/-- WAIT_TIMEOUT: the time of a wait passes without its condition (R440). -/
def State.waitEnds (s : State) (i : Nat) : State :=
  match s.waits[i]? with
  | some w =>
    let s1 := s.ctrSettle w.counter
    if s.engines && !((s1.waits[i]?).map s1.waitMet).getD true && w.timeoutUs != 0 then
      let s1 := s1.advanceTo (w.start + 1000 * w.timeoutUs)
      State.endWait { s1 with waits := s1.waits.eraseIdx i } w false
    else s
  | none => s

-- resumable faults

/-- The outstanding faults of a tenant and their count in XH_XLAT_OUTn. -/
def State.setFaults (s : State) (t : Nat) (l : List PFault) : State :=
  let s : State := { s with pfaults := l }
  s.setFld (F.xlatOut t) ((l.filter (fun (x : PFault) => x.t == t)).length)

/-- A unit that was attached to a fault replays (R143, R145, R266) or ends with 0x19 (R272). -/
def State.resolveOne (s : State) (id : W32) (abort : Bool) (w : Who) : State :=
  match w with
  | .chan ch =>
    let live := (s.chSt ch == 5 || s.chSt ch == 6) && !((s.chan ch).prog.map (·.ended)).getD true
    if !live then s
    else if abort then (s.discard ch).endProg ch 0x19 (id.toNat % 65536) else s.chTo ch 2
  | .node g n =>
    if abort then s.failNode g n 0x19 (id.toNat % 65536) else s.modNode g n (fun x => { x with stall := false })
  | .entry _ => s

/-- Resolve an outstanding fault: its identifier is free; its units walk again from the root, or end (R271, R272). -/
def State.resolve (s : State) (f : PFault) (abort : Bool) : State :=
  let s := s.setFaults f.t (s.pfaults.filter (·.id != f.id))
  let r : Nat × Nat := (4096 * f.page, 4096 * f.page + 4096)
  let stale (x : Xl) : Bool := x.t == f.t && overlaps (x.xva, x.xva + x.len) r
  let s : State := if abort ∨ f.cause = 0x17 then s
    else State.eachChan { s.wcDrop (s.tlb.filter stale) with
      tlb := s.tlb.filter (fun x => !stale x)
      ptrs := s.ptrs.filter (fun (p : Ptr) => !(p.t == f.t && overlaps p.range r)) }
      (fun c => { c with pre := c.pre.filter (fun x => !stale x) })
  f.who.foldl (fun s w => s.resolveOne f.id abort w) s

/-- RESUME_FAULT (R272). -/
def State.resumeFault (s : State) (t : Nat) : State :=
  s.take t 0x08 (fun e =>
    match s.pfaults.find? (fun f => f.t == t && f.id.toNat == e.field 8 4) with
    | some f => (s.resolve f (e.field 12 1 == 1)).finish t e 1
    | none => s.finish t e 0x13 8)

/-- PF_TIMEOUT: `pf_timeout_ms` after its record was written a fault is aborted, and cause 0x0007 is recorded (R271). While the record
stands in the internal queue the timer does not run (log entry 33). -/
def State.pfTimeout (s : State) (t : Nat) (id : W32) : State :=
  match s.pfaults.find? (fun f => f.t == t && f.id == id) with
  | some f =>
    let ms := s.fld (F.pfTimeout t)
    if !s.engines ∨ s.powerTo.isSome ∨ ms = 0 ∨ s.coll.iq.any (·.id == id) then s
    else
      let s := s.advanceTo (f.start + 1000000 * ms)
      let (sq, ep) := s.whoSeq (match f.who.head? with
        | some (.chan ch) => (match (s.chan ch).prog with | some p => .node p.g p.n | none => .chan ch)
        | some w => w
        | none => .entry 0)
      (s.resolve f true).raise { unit := f.unit, cause := 0x07, ctx := t, write := f.write, nodeSeq := sq, epoch := ep,
                                 xva := f.xva, pte := f.pte, level := f.level }
  | none => s

-- invalidation

/-- The range of an INVALIDATE_XLAT (R276). -/
def invalRange (e : Entry) : Nat × Nat :=
  if e.field 16 4 = 0 then (0, 2 ^ 48) else (e.field 8 8, e.field 8 8 + 4096 * e.field 16 4)

/-- Prefetched translations of the range, and staged data from the range on, are discarded; bytes are counted (R172, R276). -/
def State.cutStaged (s : State) (t ch : Nat) (r : Nat × Nat) : State :=
  let s := s.modChan ch (fun c => { c with pre := c.pre.filter (fun x => !(x.t == t && overlaps (x.xva, x.xva + x.len) r)) })
  let keep := (s.chan ch).staged.takeWhile (fun x => !(x.sp == 0 && overlaps (x.xva, x.xva + x.bytes.length) r))
  let gone := (s.chan ch).staged.drop keep.length
  if gone.isEmpty then s
  else (s.modChan ch (fun c => { c with staged := keep })).wrap (F.radisc ch) (gone.foldl (fun a x => a + x.bytes.length) 0)

/-- The tenant whose work issued a write. -/
def State.txnOf (s : State) (x : Txn) : Option Nat :=
  match x.who with
  | some (.node g _) => (s.graph g).map (·.ctx)
  | _ => none

/-- INVALIDATE_XLAT (R276 to R278): every cached translation of the tenant that overlaps the range goes, whole, with the staged data and
the weight-cache lines behind it; the entry waits for the tenant's writes on their way (log entry 34). -/
def State.invalidate (s : State) (t : Nat) : State :=
  s.take t 0x09 (fun e =>
    let r := invalRange e
    let gone := s.tlb.filter (fun x => x.t == t && overlaps (x.xva, x.xva + x.len) r)
    let s := (s.start t e).wcDrop gone
    let s : State := { s with
      tlb := s.tlb.filter (fun x => !gone.contains x)
      ptrs := s.ptrs.filter (fun p => !(p.t == t && overlaps p.range r))
      walks := s.walks.map (fun w => if w.t = t then { w with inval := r :: w.inval } else w)
      txns := s.txns.map (fun x => if !x.isRec && s.txnOf x == some t then { x with inval := e.id :: x.inval } else x) }
    -- stamps in release queues hold translated addresses
    let s := s.eachChan (fun c => { c with relq := c.relq.map (fun o =>
      if o.op = 2 ∧ o.space = 0 ∧ (s.graph o.g).any (·.ctx == t) then { o with inval := e.id :: o.inval } else o) })
    (s.chans.filter (fun c => c.2.owner == t || (match c.2.prog with | some p => p.ctx == t | none => false))).foldl
      (fun s c => s.cutStaged t c.1 r) s)

/-- INVALIDATE_XLAT_DONE: the accesses that were under way have finished (R277). -/
def State.invalidateDone (s : State) (t : Nat) : State :=
  match (s.ctx t).entries.find? (fun e => e.opcode == 0x09 && e.started) with
  | some e => if s.engines && s.txns.all (fun x => !x.inval.contains e.id)
      && s.chans.all (fun c => c.2.relq.all (fun o => !o.inval.contains e.id)) then s.finish t e 1 else s
  | none => s

-- epochs

/-- SET_EPOCH (R93): while it is admitted and not complete nothing else of the tenant is admitted. -/
def State.setEpoch (s : State) (t : Nat) : State := s.take t 0x0A (fun e => s.start t e)

/-- SET_EPOCH_DONE: every entry admitted before it has completed (R93). -/
def State.setEpochDone (s : State) (t : Nat) : State :=
  match (s.ctx t).entries.head? with
  | some e =>
    if s.engines && e.opcode == 0x0A && e.started then
      (s.modCtx t (fun x => { x with runEpoch := BitVec.ofNat 32 (e.field 8 4), nodeSeq := 0 })).finish t e 1
    else s
  | none => s

-- mailboxes

/-- Reserved bits of byte `o` of a mailbox registration (R325). -/
def mbxReserved (o : Nat) : Nat :=
  if o = 0 then 0xF8
  else if o ≤ 3 then 0xFF
  else if o = 7 then 0xFC
  else if o = 10 then 0xE0
  else if o = 11 then 0xFF
  else if o = 15 then 0x80
  else if o = 19 then 0xFC
  else if o = 20 then 0xF0
  else if 21 ≤ o then 0xFF
  else 0

/-- A registration's fields (R325). -/
def mailboxOf (idx : Nat) (b : List Byte) : Mailbox :=
  let f (o n : Nat) : Nat := fieldAt b o n
  { idx := idx, srcAny := bit (f 0 1) 1, slogEn := bit (f 0 1) 2, winBase := bits (f 4 4) 0 26, winLen := bits (f 8 4) 0 21,
    counter := f 12 2, srcGroup := bits (f 14 2) 0 12, srcTenant := bits (f 14 2) 12 3, slogBase := bits (f 16 4) 0 26,
    slogLog2 := bits (f 20 1) 0 4 }

/-- A range lies wholly inside the tenant's own partition. -/
def State.insideOwn (s : State) (t a n : Nat) : Bool := s.inOwn t a && s.inOwn t (a + n - 1)

/-- A range meets the shared partition (R198). -/
def State.meetsShared (s : State) (a n : Nat) : Bool :=
  s.fld F.shrEn == 1 && overlaps (a, a + n) (s.fld F.shrBase * 1048576, (s.fld F.shrLimit + 1) * 1048576)

/-- The first field of a registration that breaks R198 or R325, with its status: the byte offset of the field (R326). DESIGN CHOICE: for a
reserved bit in a later byte of a field it is the offset of the byte that holds the bit (log entry 64). -/
def State.mbxBad (s : State) (t : Nat) (b : List Byte) : Option (Nat × Nat) :=
  let m := mailboxOf 0 b
  match (List.range 64).find? (fun o => fieldAt b o 1 &&& mbxReserved o != 0) with
  | some o => some (0x11, o)
  | none =>
    let checks : List (Nat × Bool) :=
      if bit (fieldAt b 0 1) 0 then [
        (4, m.winBase % 256 == 0 && s.inOwn t m.winBase),
        (8, 256 ≤ m.winLen && m.winLen ≤ 1048576 && m.winLen % 256 == 0 && s.insideOwn t m.winBase m.winLen
          && !s.meetsShared m.winBase m.winLen),
        (12, s.ctrOk t m.counter),
        (16, if m.slogEn then m.slogBase % 32 == 0 && s.inOwn t m.slogBase else m.slogBase == 0),
        (20, if m.slogEn then 4 ≤ m.slogLog2 && m.slogLog2 ≤ 12 && s.insideOwn t m.slogBase (32 * 2 ^ m.slogLog2) else m.slogLog2 == 0)]
      else [
        (0, !m.srcAny && !m.slogEn), (4, m.winBase == 0), (8, m.winLen == 0), (12, m.counter == 0),
        (14, m.srcGroup == 0 && m.srcTenant == 0), (16, m.slogBase == 0), (20, m.slogLog2 == 0)]
    (checks.find? (fun x => !x.2)).map (fun x => (0x13, x.1))

/-- REGISTER_MAILBOX (R325, R326): a replacement keeps the mailbox's pairs, a deregistration frees them. -/
def State.registerMailbox (s : State) (t : Nat) : State :=
  s.take t 0x0B (fun e =>
    match (structRead (entryReq t e) (e.field 8 8) 64).on s with
    | (.error x, s1) => s.entryErr s1 t e x
    | (.ok b, s1) =>
      let i := e.field 16 2
      match s1.mbxBad t b with
      | some (st, o) => s1.finish t e st (0x100 + o)
      | none =>
        let others := (s1.ctx t).mailboxes.filter (·.idx != i)
        if bit (fieldAt b 0 1) 0 then
          (s1.modCtx t (fun x => { x with mailboxes := others ++ [mailboxOf i b] })).finish t e 1
        else
          let s1 := s1.modCtx t (fun x => { x with mailboxes := others })
          (s1.setRelay { s1.relay with rx := s1.relay.rx.filter (fun p => !(p.dstTenant == t && p.mailbox == i)) }).finish t e 1)

-- walks

/-- The work that a stalled access belongs to. -/
def State.workOf (s : State) : Who → Who
  | .chan ch => match (s.chan ch).prog with | some p => .node p.g p.n | none => .chan ch
  | w => w

/-- The unit whose access a fault concerns (R267, R376). -/
def State.unitOf (s : State) : Who → Nat
  | .chan ch => ch
  | .node g n => match s.node g n with
    | some x => if x.twin then 0x4A else if x.kind = 3 then x.stageOf (x.vec.row.getD 0) else x.units.headD 0xD8
    | none => 0xD8
  | .entry _ => 0xD8

/-- A stalled unit goes on, and makes its access again. -/
def State.unstall (s : State) : Who → State
  | .chan ch => if s.chSt ch = 4 then s.chTo ch 2 else s
  | .node g n => s.modNode g n (fun x => { x with stall := false })
  | .entry _ => s

/-- A stalled unit's work fails. -/
def State.workFails (s : State) (st de : Nat) : Who → State
  | .chan ch => s.endProg ch st de
  | .node g n => s.failNode g n st de
  | .entry _ => s

/-- The unit waits with its fault outstanding: a channel enters FAULT (R143), another unit stays stalled (R266). -/
def State.faulted (s : State) : Who → State
  | .chan ch => s.chTo ch 5
  | _ => s

/-- The size of the page at whose entry a walk has stopped (R261). DESIGN CHOICE: above level 0 an entry that maps no page is taken for a page
of 4 KiB (log entry 64). -/
def State.pageSize (s : State) (t xva level : Nat) (pte : W64) : Nat :=
  if level ≠ 0 then (if bit pte.toNat 0 ∧ bit pte.toNat 1 then 2 ^ (12 + 9 * level) else 4096)
  else if (s.pointers t xva 3 (page4k (s.fld (F.ptRoot t))) false).any (fun p => p.level == 1 && p.g64) then 65536 else 4096

/-- A confirmed translation failure (R269 to R271): refused at once with `pf_mode` 1; attached to an outstanding fault of the page; or a
record of its own, for which the tenant's 64 identifiers and the queue must have room. -/
def State.xlatFail (s0 s : State) (w : Walk) (cause level : Nat) (pte : W64) : State :=
  let (sq, ep) := s.whoSeq (s.workOf w.who)
  let f : FaultReq := { unit := s.unitOf w.who, cause := cause, ctx := w.t, write := w.write, nodeSeq := sq, epoch := ep,
                        xva := w.xva, pte := pte, level := level }
  let count (s : State) : State := if cause = 1 then s else s.sat (F.xlatViol w.t)
  if s.fld (F.pfMode w.t) = 1 then
    if s.iqFull then s0
    else
      let (id, s) := s.request f
      (count s).workFails (if cause = 1 ∨ cause = 4 then 0x14 else 0x15) (id.toNat % 65536) w.who
  else
    let z := s.pageSize w.t w.xva level pte
    let same (x : PFault) : Bool := x.t == w.t && x.cause == cause && x.page * 4096 / z == w.xva / z && x.level == level && x.write == w.write
    if s.pfaults.any same then
      { s with pfaults := updFirst same (fun x => { x with who := x.who ++ [w.who] }) s.pfaults }.faulted w.who
    else if 64 ≤ (s.pfaults.filter (·.t == w.t)).length ∨ s.iqFull then s0
    else
      let (id, s) := s.request { f with res := true }
      let s := (count s).setFaults w.t
        (s.pfaults ++ [⟨w.t, id, cause, w.xva / 4096, w.write, [w.who], s.aon, f.unit, w.xva, pte, level⟩])
      s.faulted w.who

/-- WALK_COMPLETE: a walk returns (R264, R268, R278). -/
def State.walkDone (s : State) (i : Nat) (resp : WalkResp) : State :=
  match s.walks[i]? with
  | none => s
  | some w =>
    if !s.engines then s
    else
      let s1 : State := { s.walkPaid w.t w.xva w.write with walks := s.walks.eraseIdx i }
      let root := page4k (s.fld (F.ptRoot w.t))
      let (sq, ep) := s.whoSeq (s.workOf w.who)
      let f : FaultReq := { unit := s.unitOf w.who, cause := 5, ctx := w.t, write := w.write, nodeSeq := sq, epoch := ep, xva := w.xva }
      match resp with
      | .data =>
        (match s.walk w.t w.xva w.write with
          | .ok x =>
            if w.inval.any (fun r => overlaps (x.xva, x.xva + x.len) r) then s1.unstall w.who
            else (s1.walked w.t w.xva w.write x w.inval).unstall w.who
          | .fail cause level pte => s.xlatFail s1 w cause level pte)
      | .busError =>
        let l := (match s.ptrAt w.t w.xva with
          | some p => s.walkAddrs w.t w.xva (p.level - 1) p.table p.g64
          | none => []) ++ s.walkAddrs w.t w.xva 3 root false
        let (level, a) := (l.find? (fun x => s.badRd.contains (x.2 / 64))).getD (3, root + 8 * bits w.xva 39 9)
        let (pte, s1) := s1.drawBelow (2 ^ 64)
        (s1.raise { f with level := level, pte := BitVec.ofNat 64 pte }).workFails 0x16 (portOf a) w.who
      | .uncorrectable =>
        let (level, s1) := s1.drawBelow 4
        let (pte, s1) := s1.drawBelow (2 ^ 64)
        (s1.raise { f with cause := 6, level := level, pte := BitVec.ofNat 64 pte }).workFails 0x1E 0xD9 w.who

-- the rows

/-- FETCH_TURN (R67). -/
def execFetchTurn (s : State) : Out := .next (if s.granting then s.fetchTurn else s)
/-- ENTRY_ADMIT (R56, R59): the entry that ring `k` of context `c` may admit now, if there is one. -/
def execEntryAdmit (c : Fin 9) (k : Fin 16) (s : State) : Out :=
  .next (if s.engines then (match s.admissible c k with | some e => s.admitEntry c e | none => s) else s)
/-- SUBMIT_GRAPH (R68). -/
def execSubmitGraph (t : Fin 8) (s : State) : Out := .next (s.submitGraph t)
/-- RUN_PROGRAM (R122). -/
def execRunProgram (t : Fin 8) (s : State) : Out := .next (s.runProgram t)
/-- CREATE_TENSOR (R96). -/
def execCreateTensor (t : Fin 8) (s : State) : Out := .next (s.createTensor t)
/-- DESTROY_TENSOR (R110). -/
def execDestroyTensor (t : Fin 8) (s : State) : Out := .next (s.destroyTensor t)
/-- HANDLE_FREE (R110). -/
def execHandleFree (t : Fin 8) (h : Nat) (s : State) : Out := .next (s.handleFree t h)
/-- SIGNAL (R282). -/
def execSignal (t : Fin 8) (s : State) : Out := .next (s.signalEntry t)
/-- WAIT (R440). -/
def execWait (t : Fin 8) (s : State) : Out := .next (s.waitEntry t)
/-- WAIT_SATISFIED (R284). -/
def execWaitSatisfied (i : Nat) (s : State) : Out := .next (s.waitGoes i)
/-- WAIT_TIMEOUT (R440). -/
def execWaitTimeout (i : Nat) (s : State) : Out := .next (s.waitEnds i)
/-- SCAN_CHECK (R367). -/
def execScanCheck (t : Fin 8) (s : State) : Out := .next (s.scanEntry t)
/-- RESUME_FAULT (R272). -/
def execResumeFault (t : Fin 8) (s : State) : Out := .next (s.resumeFault t)
/-- INVALIDATE_XLAT (R276). -/
def execInvalidateXlat (t : Fin 8) (s : State) : Out := .next (s.invalidate t)
/-- INVALIDATE_XLAT_DONE (R277). -/
def execInvalidateXlatDone (t : Fin 8) (s : State) : Out := .next (s.invalidateDone t)
/-- SET_EPOCH (R93). -/
def execSetEpoch (t : Fin 8) (s : State) : Out := .next (s.setEpoch t)
/-- SET_EPOCH_DONE (R93). -/
def execSetEpochDone (t : Fin 8) (s : State) : Out := .next (s.setEpochDone t)
/-- REGISTER_MAILBOX (R326). -/
def execRegisterMailbox (t : Fin 8) (s : State) : Out := .next (s.registerMailbox t)
/-- NOP (R57): it does nothing and succeeds. -/
def execNop (t : Fin 9) (s : State) : Out := .next (s.take t 0x0C (fun e => s.finish t e 1))
/-- WALK_COMPLETE (R264, R268). -/
def execWalkComplete (i : Nat) (resp : WalkResp) (s : State) : Out := .next (s.walkDone i resp)
/-- PF_TIMEOUT (R271). -/
def execPfTimeout (t : Fin 8) (id : W32) (s : State) : Out := .next (s.pfTimeout t id)

end Sys2Proof.Machine
end

