-- ==== Sys2Proof/Machine/Links.lean ====
section
/-! DEFINITION. The relay domain's links: the module identity (R36, R37, R315, R432), training and link states (R314 to R317), keys and
authentication (R334 to R336, R431), frames leaving and arriving at a port (R309 to R313, R318 to R323), and the reset of the domain. -/

namespace Sys2Proof.Machine

-- ports

def State.linkTo (s : State) (p st : Nat) : State := s.setFld (F.linkState p) st
def State.linkIs (s : State) (p st : Nat) : Bool := s.pins.aonRstN && s.fld (F.linkState p) == st

/-- A port may train: coordinates known, a neighbour cabled (R307, R37), not in eclipse (R391). -/
def State.mayTrain (s : State) (p : Nat) : Bool :=
  s.pins.aonRstN && s.fld F.fabValid == 1 && dimSize s.fabDims (p / 2) != 1 && !s.eclipsed (0xE8 + p)

/-- DOWN: training starts at once (R314) unless the port may not train. -/
def State.linkStart (s : State) (p : Nat) : State :=
  (s.modPort p (fun x => { x with since := s.aon })).linkTo p (if s.mayTrain p then 1 else 0)

/-- An attempt fails; the third in a row takes the port to FAILED (R314). -/
def State.linkFails (s : State) (p : Nat) : State :=
  let n := (s.port p).attempts + 1
  if 3 ≤ n then
    ((s.modPort p (fun x => { x with attempts := n, since := s.aon, retrained := false })).linkTo p 5).raise
      { unit := 0xE8 + p, cause := 0x40, line := true }
  else (s.modPort p (fun x => { x with attempts := n })).linkStart p

/-- The port carries frames; a return within one attempt is recorded (R317). -/
def State.linkUp (s : State) (p : Nat) : State :=
  let x := s.port p
  -- frames that still wait hold buffers of the link that was
  let s := (List.range 6).foldl (fun s k => s.modPort k (fun x => { x with
    outQ := x.outQ.map (fun q => if (q.src.map (·.1)) = some p then { q with src := none } else q) })) s
  let s := (s.modPort p (fun x => { x with
    attempts := 0, retrained := false, credits := [], held := [], freed := [], slotNo := 0, lastMaint := s.aon })).linkTo p 4
  if x.retrained && x.attempts == 0 then s.raise { unit := 0xE8 + p, cause := 0x41 } else s

/-- Frames queued for a port that is not UP any more are routed again (R317, R323). -/
def State.reroute (s : State) (p : Nat) : State :=
  let q := (s.port p).outQ
  q.foldl (fun s x => (s.routeOn (if x.f.detour = 1 then some (p ^^^ 1) else none) { x with f := { x.f with hops := x.f.hops - 1 } }).getD s)
    (s.modPort p (fun x => { x with outQ := [] }))

/-- A new row of attempts starts: at `retrain`, at RESTART, and 1 s after the port entered FAILED (R314, R432). Its line shows no fault any
more. -/
def State.linkAgain (s : State) (p : Nat) : State :=
  let st := s.fld (F.linkState p)
  let s := if st = 5 then s.lineClear (0xE8 + p) 0x40 else s
  let s := (s.modPort p (fun x => { x with attempts := 0, retrained := false })).linkStart p
  if st = 4 then s.reroute p else s

/-- An UP port goes DOWN and retrains at once (R317). -/
def State.linkDrop (s : State) (p : Nat) : State :=
  if s.linkIs p 4 then
    ((s.modPort p (fun x => { x with attempts := 0, retrained := true })).linkStart p).reroute p
  else s

/-- Every port that may train starts a row of attempts (R37, R432). -/
def State.linksStart (s : State) : State := (List.range 6).foldl (fun s p => s.linkAgain p) s

-- the module identity

/-- An attempt to read the identity record: a read request of its 64 bytes, at the place that XH_MODID_CFG gives, goes out on xh_mgmt
(R36, R37). -/
def State.modidAsk (s : State) (attempt : Nat) : State :=
  s.setRelay { s.relay with modid := .reading attempt s.aon, mgmt := some (s.fld F.modidBus, s.fld F.modidOff, 64) }

/-- The identity record is valid (R315). -/
def modidOk (b : List Byte) : Bool :=
  let f (o n : Nat) : Nat := fieldAt b o n
  let dims := bits (f 5 2) 0 12
  b.length == 64 && f 0 4 == 0xC0A57E11 && f 4 1 == 1 && f 60 4 == crc32c (b.take 60)
    && bits (f 6 1) 4 4 == 0 && bits (f 8 2) 12 4 == 0 && zeroAt b 26 34 && f 7 1 ≤ 1
    && withinFabric dims (bits (f 8 2) 0 12) && bits (f 10 2) 14 2 ≤ 2 && bits (f 10 2) 12 2 ≤ bits (f 10 2) 14 2

/-- The relay knows its coordinates, dimensions and configuration epoch; its ports train. -/
def State.setIdentity (s : State) (chip dims role groupRaw : Nat) (epoch : W32) (serial : W64) : State :=
  let s := s.setRelay { s.relay with modid := .valid, role := role, groupRaw := groupRaw, cfgEpoch := epoch, serial := serial }
  (((s.setFld F.chipId chip).setFld F.dims dims).setFld F.fabValid 1).linksStart

/-- Every port stays untrained and nothing is forwarded (R37): the identity could not be read, or is invalid. -/
def State.noIdentity (s : State) : State :=
  let s := s.setRelay { s.relay with modid := .failed, mgmt := none }
  (List.range 6).foldl (fun s p => (s.linkTo p 0).modPort p (fun x => { x with outQ := [] })) (s.setFld F.fabValid 0)

/-- A read of the identity record returns (R37, R315). -/
def State.modidRead (s : State) (b : List Byte) : State :=
  match s.relay.modid with
  | .reading _ _ =>
    let b := slice b 0 64
    let s := s.setRelay { s.relay with record := b, mgmt := none }
    let f (o n : Nat) : Nat := fieldAt b o n
    if modidOk b then
      s.setIdentity (bits (f 8 2) 0 12) (bits (f 5 2) 0 12) (f 7 1) (f 10 2) (BitVec.ofNat 32 (f 12 4)) (BitVec.ofNat 64 (f 16 8))
    else s.noIdentity
  | _ => s

/-- An attempt times out after 5 ms; three are made (R37). -/
def State.modidTimeout (s : State) : State :=
  match s.relay.modid with
  | .reading n t =>
    let s := s.advanceTo (t + 5000000)
    if n < 3 then s.modidAsk (n + 1) else s.noIdentity
  | _ => s

/-- `restart` (R432). -/
def State.restart (s : State) : State :=
  if s.fld F.ovrEn = 1 then
    let v := (s.reg Reg.modidOvr).toNat
    s.setIdentity (bits v 0 12) (bits v 12 12) 0 0 (BitVec.ofNat 32 (bits v 32 32)) s.relay.serial
  else s.modidAsk 1

-- identity of the partner

/-- The first failed check of a partner's identity record, 0 for none (R316); `b` begins at offset 20 of the frame. -/
def State.identCheck (s : State) (p : Nat) (b : List Byte) : Nat :=
  let f (o n : Nat) : Nat := fieldAt b o n
  if f 0 2 ≠ 0xCA4E ∨ f 2 2 ≠ 0x0A21 then 1
  else if bits (f 6 2) 12 3 ≠ p ^^^ 1 then 2
  else if bits (f 6 2) 0 12 ≠ neighbour s.fabDims s.self p then 3
  else if bits (f 8 2) 0 12 ≠ s.fabDims then 4
  else if f 12 4 ≠ s.relay.cfgEpoch.toNat then 5
  else if bits (f 8 2) 12 1 ≠ s.fld (F.encEn p) then 6
  else 0

/-- A link identity record arrives in IDENT (R314, R316). -/
def State.linkIdent (s : State) (p : Nat) (b : List Byte) : State :=
  if s.linkIs p 2 then
    let s := (s.setFld (F.partnerChip p) (bits (fieldAt b 6 2) 0 12)).setFld (F.partnerSerial p) (fieldAt b 16 8)
    let c := s.identCheck p b
    let s := s.setFld (F.identFail p) c
    if c ≠ 0 then s.linkFails p
    else if s.fld (F.encEn p) = 1 then s.linkTo p 3
    else s.linkUp p
  else s

-- keys

def State.keySlot (s : State) (p sl : Nat) : KeySlot := Sparse.get (fun _ => {}) (s.port p).keys sl
def State.modKey (s : State) (p sl : Nat) (f : KeySlot → KeySlot) : State :=
  s.modPort p (fun x => { x with keys := Sparse.set (fun _ => {}) x.keys sl (f (Sparse.get (fun _ => {}) x.keys sl)) })

/-- The outcome of AUTH (R335): both tags verify and the key IDs agree. -/
def State.linkAuth (s : State) (p keyId ctr : Nat) (tagsOk : Bool) : State :=
  if s.linkIs p 3 then
    let sl := s.fld (F.txKeySel p)
    let k := s.keySlot p sl
    if tagsOk && k.loaded && k.keyId == keyId then (s.modKey p sl (fun k => { k with ctr := Nat.max k.ctr ctr + 1 })).linkUp p
    else (s.sat (F.authFail p)).linkFails p
  else s

/-- A load of a key slot (R431), unless it is the slot that `tx_key_sel` names. Key words that have not been written since the last load
are zero. -/
def State.keyLoad (s : State) (p sl : Nat) : State :=
  if s.fld (F.txKeySel p) = sl then s.sat F.badAcc
  else s.modKey p sl (fun k =>
    { words := [], saltW := 0, loaded := true, key := (List.range 4).map (Sparse.get (fun _ => 0) k.words), salt := k.saltW,
      keyId := s.fld (F.keyId p sl), ctr := 0, told := false })

/-- A clear of a key slot (R431). -/
def State.keyClear (s : State) (p sl : Nat) : State :=
  if s.fld (F.txKeySel p) = sl then s.sat F.badAcc
  else s.modKey p sl (fun k => { words := k.words, saltW := k.saltW })

/-- The counter of the transmit slot of an encrypting port has reached 2^48 (R336). -/
def State.keyDead (s : State) (p : Nat) : Bool :=
  s.fld (F.encEn p) == 1 && 2 ^ 48 ≤ (s.keySlot p (s.fld (F.txKeySel p))).ctr

/-- The fault of a spent key counter (R336). -/
def State.keyLimit (s : State) (p : Nat) : State :=
  let sl := s.fld (F.txKeySel p)
  if s.keyDead p && !(s.keySlot p sl).told then
    (s.modKey p sl (fun k => { k with told := true })).raise { unit := 0xE8 + p, cause := 0x42 }
  else s

-- frames leaving

/-- Buffers of the neighbour in use on a lane and class, and a credit for one more (R319). -/
def Port.used (x : Port) (v k : Nat) : Nat := Sparse.get (fun _ => 0) x.credits (2 * v + k)
def Port.credit (x : Port) (v k : Nat) : Bool := x.used v k + x.used v (1 - k) < 128 && x.used v k < 120

/-- The rank keys of a waiting frame that this chip injects: those of its node (R83, R320). -/
def State.frameRank (s : State) (q : Queued) : List Nat := match q.who with | some (g, n) => s.nodeRank g n none | none => []

/-- The frame of a lane that leaves next, of those for which the port holds a credit: the oldest of the forwarded ones, the first in rank of this
chip's own, and of these two either one, as `fwd` says (R320, log entry 15). -/
def State.laneNext (s : State) (x : Port) (fwd : Bool) (v : Nat) : Option Queued :=
  let l := x.outQ.filter (fun q => q.f.vl == v && x.credit v q.f.dl)
  let own := (l.filter (·.own)).foldl (fun (a : Option Queued) q => match a with
    | some b => if rankLt (s.frameRank q) (s.frameRank b) then some q else a
    | none => some q) none
  match l.find? (fun q => !q.own), own with
  | some a, some b => some (if fwd then a else b)
  | some a, none => some a
  | none, b => b

/-- The frame that the next frame slot carries, and the count of streaming frames in a row beside bulk ones (R320). -/
def State.pick (s : State) (x : Port) (fwd : Bool) : Option Queued × Nat :=
  match s.laneNext x fwd 0, s.laneNext x fwd 3, s.laneNext x fwd 1, s.laneNext x fwd 2 with
  | some f, _, _, _ => (some f, x.strTurn)
  | none, some f, _, _ => (some f, x.strTurn)
  | none, none, some a, some b => if x.strTurn < 3 then (some a, x.strTurn + 1) else (some b, 0)
  | none, none, some a, none => (some a, x.strTurn)
  | none, none, none, r => (r, x.strTurn)

/-- The 20 bytes of a frame's header (R310). -/
def frameHeader (f : Frame) : List Byte :=
  leBytes 1 (f.typ + 16 * f.vl + 64 * f.dl + (if f.enc then 128 else 0)) ++ leBytes 1 f.alive
    ++ leBytes 2 (f.dstChip + 4096 * f.dstTenant) ++ leBytes 2 (f.srcChip + 4096 * f.srcTenant) ++ leBytes 2 f.mailbox
    ++ leBytes 4 (f.offset + 2 ^ 20 * f.lenM1 + 2 ^ 28 * f.keySel) ++ leBytes 3 f.pairSeq ++ leBytes 1 (f.hops + 64 * f.detour) ++ leBytes 4 f.word

/-- The payload as it is sent: 256 bytes, the unused ones zero (R310). -/
def frameBody (f : Frame) : List Byte := slice f.payload 0 256

/-- A frame as a port puts it on the wire, with its trailer: the CRC-32C of bytes 0 to 275, or encrypted under a slot with the tag (R310, R334). The
IV is the salt, with bit 0 as the direction, and the slot's counter. -/
def sealed (f : Frame) (up : Bool) (k : KeySlot) : Frame × Nat :=
  if f.enc then
    let iv := (k.salt.toNat / 2 * 2 + (if up then 0 else 1)) + k.ctr * 2 ^ 32
    ({ f with payload := Config.gcmText k.key iv (frameHeader f) (frameBody f) }, Config.gcmTag k.key iv (frameHeader f) (frameBody f))
  else (f, crc32c (frameHeader f ++ frameBody f))

/-- A maintenance frame of a port (R313): credits by lane and class, the last alive value of each lane, the slot counter, the transmit key and
whether the core is ready. -/
def State.maintFrame (s : State) (p : Nat) : Frame :=
  let x := s.port p
  let sl := s.fld (F.txKeySel p)
  let ctr := if s.fld (F.encEn p) = 1 then (s.keySlot p sl).ctr else 0
  { s.mkFrame 8 0 0 0 0 0 0 0 with
    srcChip := 0
    payload := (List.range 8).flatMap (fun k => leBytes 1 (Sparse.get (fun _ => 0) x.freed k))
      ++ (List.range 4).flatMap (fun v => leBytes 1 (Sparse.get (fun _ => 0) x.aliveTx v))
      ++ leBytes 8 ctr ++ leBytes 1 (sl + (if s.relay.coreReady then 4 else 0)) }

/-- The link identity record that a port sends in IDENT, as the payload of a LINK frame (R316). -/
def State.identFrame (s : State) (p : Nat) : Frame :=
  { s.mkFrame 8 0 0 0 0 0 0 0 with
    srcChip := 0
    payload := leBytes 2 0xCA4E ++ leBytes 2 0x0A21 ++ leBytes 1 0xB0 ++ leBytes 1 s.relay.role ++ leBytes 2 (s.self + 4096 * p)
      ++ leBytes 2 (s.fabDims + 4096 * s.fld (F.encEn p)) ++ leBytes 2 s.relay.groupRaw ++ leBytes 4 s.relay.cfgEpoch.toNat
      ++ leBytes 8 s.relay.serial.toNat }

/-- A frame goes out in a slot. -/
def State.onWire (s : State) (p : Nat) (f : Frame) : State :=
  let up : Bool := s.self < neighbour s.fabDims s.self p
  s.modPort p (fun x => { x with wire := some (sealed f up (s.keySlot p f.keySel)) })

/-- A frame that leaves gives its input buffer back (R319). -/
def State.bufFreed (s : State) (src : Option (Nat × Nat × Nat)) : State :=
  match src with
  | some (p, v, k) => s.modPort p (fun x => { x with
      held := Sparse.set (fun _ => 0) x.held (2 * v + k) (Sparse.get (fun _ => 0) x.held (2 * v + k) - 1)
      freed := Sparse.set (fun _ => 0) x.freed (2 * v + k) (Sparse.get (fun _ => 0) x.freed (2 * v + k) + 1) })
  | none => s

/-- A port's next slot carries a frame: its alive counter, its key and its trailer are those of this hop (R310, R312, R334). -/
def State.frameLeaves (s : State) (p : Nat) (q : Queued) (turn : Nat) : State :=
  let sl := s.fld (F.txKeySel p)
  let enc := s.fld (F.encEn p) == 1
  let alive := (Sparse.get (fun _ => 0) (s.port p).aliveTx q.f.vl + 1) % 256
  let s := s.modPort p (fun x => { x with
    outQ := x.outQ.erase q, strTurn := turn, slotNo := x.slotNo + 1
    aliveTx := Sparse.set (fun _ => 0) x.aliveTx q.f.vl alive
    credits := Sparse.set (fun _ => 0) x.credits (2 * q.f.vl + q.f.dl) (x.used q.f.vl q.f.dl + 1) })
  let s := (s.onWire p { q.f with alive := alive, enc := enc, keySel := if enc then sl else 0 }).bufFreed q.src
  if enc then s.modKey p sl (fun k => { k with ctr := k.ctr + 1 }) else s

/-- One slot of an UP port (R309): every 64th carries a maintenance frame; another one the frame that is next (R320), or an idle frame. A port
that encrypts without a usable key sends maintenance frames only (R336). -/
def State.slotSend (s : State) (p : Nat) : State :=
  let x := s.port p
  let mute := s.fld (F.encEn p) == 1 && (!(s.keySlot p (s.fld (F.txKeySel p))).loaded || s.keyDead p)
  if !s.linkIs p 4 then s
  else if 63 ≤ x.slotNo then (s.onWire p (s.maintFrame p)).modPort p (fun x => { x with slotNo := 0, freed := [] })
  else
    let (fwd, s1) := if x.outQ.any (·.own) && x.outQ.any (fun q => !q.own) then s.drawBool else (true, s)
    match (if mute then (none, x.strTurn) else s1.pick x fwd) with
    | (some q, turn) => s1.frameLeaves p q turn
    | (none, _) => (s1.onWire p { s1.mkFrame 0 0 0 0 0 0 0 0 with srcChip := 0 }).modPort p (fun x => { x with slotNo := x.slotNo + 1 })

-- frames arriving

/-- A frame at its hop limit is dropped; its source hears of it unless it is an answer itself (R323 step 5). -/
def State.hopLimit (s : State) (f : Frame) : State :=
  if 3 ≤ f.typ ∧ f.typ ≤ 6 then s
  else s.inject (s.mkFrame 4 0 f.srcChip f.srcTenant f.dstTenant f.mailbox f.pairSeq 9)

/-- A frame arrives at an UP port (R311, R312, R321, R323, R334). -/
def State.arrive (s : State) (p : Nat) (f : Frame) : State :=
  if !s.linkIs p 4 then s
  else if !f.ok then s.sat (if f.enc then F.authDrop p else F.badFrame p)
  else if 9 ≤ f.typ ∨ f.detour = 3 then s.sat (F.badFrame p)
  else if f.typ = 0 ∨ f.typ = 8 then s
  else if f.enc && !(s.keySlot p f.keySel).loaded then s.sat (F.authDrop p)
  else
    let d := (f.alive + 256 - Sparse.get (fun _ => 0) (s.port p).aliveRx f.vl) % 256
    -- the buffer of a frame that goes no further is free at once (R319)
    let free (s : State) : State := s.modPort p (fun x => { x with
      freed := Sparse.set (fun _ => 0) x.freed (2 * f.vl + f.dl) (Sparse.get (fun _ => 0) x.freed (2 * f.vl + f.dl) + 1) })
    if d = 0 then free (s.sat (F.aliveRep p))
    else
      let s := if d = 1 then s else s.sat (F.aliveLoss p) (d - 1)
      let s := s.modPort p (fun x => { x with aliveRx := Sparse.set (fun _ => 0) x.aliveRx f.vl (f.alive % 256) })
      let s := if f.enc then s.setFld (F.rxLastSel p) f.keySel else s
      if f.dstChip = s.self then (free s).deliver f (some p)
      else match s.routeOn (some p) { f := f, own := false, src := some (p, f.vl, f.dl) } with
        | some s => s.modPort p (fun x => { x with
            held := Sparse.set (fun _ => 0) x.held (2 * f.vl + f.dl) (Sparse.get (fun _ => 0) x.held (2 * f.vl + f.dl) + 1) })
        | none => (free s).hopLimit f

/-- A maintenance frame (R312, R313): buffers freed per lane and class (`credits`, index 2v + k), last alive values per lane, the sender's slot
counter. -/
def State.maintain (s : State) (p : Nat) (credits alive : List Nat) (ctr keySel : Nat) (ready : Bool) : State :=
  if s.linkIs p 4 then
    let lost (v : Nat) : Nat := (alive.getD v 0 + 256 - Sparse.get (fun _ => 0) (s.port p).aliveRx v) % 256
    let n := (List.range 4).foldl (fun a v => a + lost v) 0
    let s := if n = 0 then s else s.sat (F.aliveLoss p) n
    let s := s.modPort p (fun x => { x with
      lastMaint := s.aon, rxCtr := ctr
      credits := (List.range 8).foldl (fun l k => Sparse.set (fun _ => 0) l k (Sparse.get (fun _ => 0) l k - credits.getD k 0)) x.credits
      aliveRx := (List.range 4).foldl (fun l v => Sparse.set (fun _ => 0) l v (alive.getD v 0 % 256)) x.aliveRx })
    (s.setFld (F.rxLastSel p) keySel).setFld (F.partnerReady p) (if ready then 1 else 0)
  else s

-- the rows

/-- AON_RESET_RELEASE (R37): the relay begins to read the identity record. -/
def execAonResetRelease (s : State) : Out :=
  .next (if s.pins.aonRstN then s else
    (s.setPins { s.pins with aonRstN := true }).modidAsk 1)
/-- MODID_READ_DONE (R37, R315). -/
def execModidReadDone (b : List Byte) (s : State) : Out := .next (s.modidRead b)
/-- MODID_READ_TIMEOUT (R37). -/
def execModidReadTimeout (s : State) : Out := .next s.modidTimeout
/-- TRAIN_ALIGNED (R314): the port sends its identity record (R316). -/
def execTrainAligned (p : Fin 6) (s : State) : Out := .next (if s.linkIs p 1 then (s.linkTo p 2).onWire p (s.identFrame p) else s)
/-- TRAIN_TIMEOUT (R314): 15 ms after training began, or 20 ms for an attempt that has come to IDENT or AUTH. -/
def execTrainTimeout (p : Fin 6) (s : State) : Out :=
  .next (if s.linkIs p 1 then (s.advanceTo ((s.port p).since + 15000000)).linkFails p
    else if s.linkIs p 2 || s.linkIs p 3 then (s.advanceTo ((s.port p).since + 20000000)).linkFails p
    else s)
/-- FAILED_RETRY (R314): 1 s after the port entered FAILED. -/
def execFailedRetry (p : Fin 6) (s : State) : Out :=
  .next (if s.linkIs p 5 then (s.advanceTo ((s.port p).since + 1000000000)).linkAgain p else s)
/-- LINK_IDENTITY (R316). -/
def execLinkIdentity (p : Fin 6) (b : List Byte) (s : State) : Out := .next (s.linkIdent p b)
/-- LINK_AUTH (R335). -/
def execLinkAuth (p : Fin 6) (keyId ctr : Nat) (ok : Bool) (s : State) : Out := .next (s.linkAuth p keyId ctr ok)
/-- LANE_LOCK_LOSS (R317). -/
def execLaneLockLoss (p : Fin 6) (s : State) : Out := .next (s.linkDrop p)
/-- UNC_CODEWORD_LIMIT (R317): `n` uncorrectable codewords in 1 ms. -/
def execUncCodewordLimit (p : Fin 6) (n : Nat) (s : State) : Out := .next (if s.fld (F.uncLimit p) < n then s.linkDrop p else s)
/-- AUTH_FAIL_LIMIT (R317): `n` failed tags in 1 ms. -/
def execAuthFailLimit (p : Fin 6) (n : Nat) (s : State) : Out := .next (if s.fld (F.authLimit p) < n then s.linkDrop p else s)
/-- MAINTENANCE_TIMEOUT (R317): 2 µs without a maintenance frame. -/
def execMaintenanceTimeout (p : Fin 6) (s : State) : Out :=
  .next (if s.linkIs p 4 then (s.advanceTo ((s.port p).lastMaint + 2000)).linkDrop p else s)
/-- KEY_COUNTER_LIMIT (R336). -/
def execKeyCounterLimit (p : Fin 6) (s : State) : Out := .next (s.keyLimit p)
/-- MAINTENANCE_FRAME (R313). -/
def execMaintenanceFrame (p : Fin 6) (credits alive : List Nat) (ctr : Nat) (keySel : Nat) (ready : Bool) (s : State) : Out :=
  .next (s.maintain p credits alive ctr keySel ready)
/-- FRAME_SLOT_SEND (R320). -/
def execFrameSlotSend (p : Fin 6) (s : State) : Out := .next (s.slotSend p)
/-- FRAME_FORWARD (R323). -/
def execFrameForward (p : Fin 6) (f : Frame) (s : State) : Out := .next (s.arrive p f)

end Sys2Proof.Machine
end

