-- ==== Sys2Proof/Machine/Sha256.lean ====
section
/-! DEFINITION. The digest of the measured set-up record (R416): SHA-256, its constants computed from the primes they are defined by. -/

namespace Sys2Proof.Machine.Sha

/-- The greatest r below 2^b with r^n at most x, its bits settled from the highest down. -/
def rootBelow (n x : Nat) : Nat → Nat → Nat
  | 0, r => r
  | b + 1, r => rootBelow n x b (if (r + 2 ^ b) ^ n ≤ x then r + 2 ^ b else r)

/-- The primes below 312, the first 64 of them. -/
def primes : List Nat :=
  (List.range 312).filter fun p => 2 ≤ p && (List.range 18).all fun d => d < 2 || d == p || p % d != 0

/-- The first 32 bits of the fraction of the n-th root of p. -/
def rootBits (n p : Nat) : W32 := BitVec.ofNat 32 (rootBelow n (p * 2 ^ (32 * n)) 38 0)

/-- The eight working variables of a block. -/
structure Work where
  a : W32
  b : W32
  c : W32
  d : W32
  e : W32
  f : W32
  g : W32
  h : W32
  deriving DecidableEq, Repr

/-- The value that the first block begins from: the square roots of the first eight primes. -/
def start : Work :=
  ⟨rootBits 2 2, rootBits 2 3, rootBits 2 5, rootBits 2 7, rootBits 2 11, rootBits 2 13, rootBits 2 17, rootBits 2 19⟩

/-- The exclusive or of a word rotated right by each of the amounts. -/
def spun (x : W32) (rots : List Nat) : W32 := rots.foldl (fun t k => t ^^^ x.rotateRight k) 0

/-- Round t: it draws on the oldest word of the window of 16 schedule words and the prime's constant, and moves the window on by one word. -/
def turn (z : Work × List W32) (p : Nat) : Work × List W32 :=
  let v := z.1
  let sched := fun i => z.2.getD i 0
  let drawn := v.h + spun v.e [6, 11, 25] + (v.g ^^^ (v.e &&& (v.f ^^^ v.g))) + rootBits 3 p + sched 0
  let next := sched 0 + (spun (sched 1) [7, 18] ^^^ (sched 1 >>> 3)) + sched 9 + (spun (sched 14) [17, 19] ^^^ (sched 14 >>> 10))
  ({ a := drawn + spun v.a [2, 13, 22] + ((v.a &&& (v.b ||| v.c)) ||| (v.b &&& v.c)), b := v.a, c := v.b, d := v.c,
     e := v.d + drawn, f := v.e, g := v.f, h := v.g }, z.2.drop 1 ++ [next])

/-- One block of 64 bytes taken into the running value. -/
def absorb (v : Work) (block : List Byte) : Work :=
  let w := (primes.foldl turn (v, (List.range 16).map fun i => BitVec.ofNat 32 (le (slice block (4 * i) 4).reverse))).1
  ⟨v.a + w.a, v.b + w.b, v.c + w.c, v.d + w.d, v.e + w.e, v.f + w.f, v.g + w.g, v.h + w.h⟩

/-- The message with a one bit, zeros and its length in bits, a whole number of blocks. -/
def padded (m : List Byte) : List Byte :=
  slice (m ++ [0x80]) 0 ((m.length + 8) / 64 * 64 + 56) ++ (leBytes 8 (8 * m.length)).reverse

/-- The digest of a message, 32 bytes. -/
def sha256 (m : List Byte) : List Byte :=
  let p := padded m
  let v := (List.range (p.length / 64)).foldl (fun v i => absorb v (slice p (64 * i) 64)) start
  [v.a, v.b, v.c, v.d, v.e, v.f, v.g, v.h].flatMap fun w => (leBytes 4 w.toNat).reverse

end Sys2Proof.Machine.Sha
end

