-- ==== Sys2Proof/Machine/Manager.lean ====
section
/-! DEFINITION. The manager commands (R389 to R394, R405 to R408, R412 to R416, R224): eclipse and re-entry of units with the replay of
slices, clearing a tenant, power, replica groups, the engine split, the configuration lock; and the engines that work for them. -/

namespace Sys2Proof.Machine

/-- A refusal with status 0x1F and a code. -/
def State.refuseCmd (s : State) (e : Entry) (code : Nat) : State := s.finish 8 e 0x1F code

/-- The entry behind a manager command under way completes; a command without an entry (R382) just ends. -/
def State.finishCmd (s : State) (id : Option Nat) (status : Nat) (detail result : Nat := 0) : State :=
  match (s.ctx 8).entries.find? (fun e => some e.id == id) with
  | some e => s.finish 8 e status detail result
  | none => s

-- epochs of the scheduler

/-- Unit number of a transit engine, of an engine's column, of a bank. -/
def isTe (u : Nat) : Bool := 0x40 ≤ u && u < 0x44
def isCol (u : Nat) : Bool := (0x50 ≤ u && u < 0x72) || (0x80 ≤ u && u < 0xA2)
def isBank (u : Nat) : Bool := 0x100 ≤ u && u < 0x308
def isPort (u : Nat) : Bool := 0xE8 ≤ u && u < 0xEE
/-- Engine and physical column of a column's unit number. -/
def colOf (u : Nat) : Nat × Nat := if u < 0x80 then (0, u - 0x50) else (1, u - 0x80)

/-- A bank's copy is done: the logical bank is switched to the spare, the old bank is out of service (R203). -/
def State.switchBank (s : State) (c : Copy) : State :=
  let s : State := { s with copies := s.copies.filter (·.from_ != c.from_), eclWait := s.eclWait.filter (·.unit != 0x100 + c.from_) }
  ((s.setFld (F.spare c.logical) c.into).setFld (F.ecl (0x100 + c.from_)) 1).finishCmd (some c.entry) 1

/-- A scheduler epoch boundary (R94): the epoch advances, and banks whose copies are done are switched (R203). -/
def State.epochBoundary (s : State) : State :=
  let s : State := { s.wrap F.schedEpoch with epochNo := s.epochNo + 1 }
  (s.copies.filter (·.done)).foldl (fun s c => s.switchBank c) s

-- replay (R389)

/-- A node's slice may be replayed: no atomic issued, no range both read and written after work was done, its program not ended. -/
def State.mayReplay (s : State) (n : Node) : Bool :=
  let p := (n.units.find? (· < 64)).bind (fun ch => (s.chan ch).prog)
  let worked := n.pos != n.pos0 || n.sub != 0 || !n.outq.isEmpty || (match p with | some p => p.line != 0 || p.item != 0 | none => n.vec.row.isSome)
  !n.atomic && !(n.selfRw && worked) && !n.slices.isEmpty && !((p.map (·.ended)).getD false)

/-- The program on a channel goes back to its replay point, and leaves the channel: operations of its slice that wait are dropped, pairs take up
their numbers again, the frames logged since are dropped (R330, R389). Its batches of writes keep their numbers. -/
def State.rewind (s : State) (ch : Nat) : State :=
  match (s.chan ch).prog with
  | some p =>
    let s := (s.forget [.chan ch]).discard ch
    let s := p.pairs.foldl (fun s x => s.modTx x.1 (fun t => { t with nextSeq := x.2.1, batch := x.2.2 })) s
    let old (l : LogFrame) : Bool := l.g == p.g && l.n == p.n && p.pairs.any (fun x => x.1 == l.pair && seqLater l.frame.pairSeq x.2.1)
    let s := s.setRelay { s.relay with log := s.relay.log.filter (fun l => !old l) }
    let s := s.modChan ch (fun c => { c with
      prog := none, mark := none, back := none
      relq := c.relq.filter (fun o => !(o.g == p.g && o.n == p.n && c.mark.any (fun m => m.issued ≤ o.barrier)))
      idle := c.idle ++ (c.mark.map (fun m => { m with issued := p.issued, ibuf := p.ibuf, kept := if m.pc = p.pc then p.kept else [] })).toList })
    s.chTo ch 1
  | none => s
where
  seqLater (a b : Nat) : Bool := (a + 2 ^ 24 - b % 2 ^ 24) % 2 ^ 24 < 2 ^ 23

/-- A slice stops and will run again, under the next replay epoch, from its replay point on free units of the tenant (R389). -/
def State.replayNode (s : State) (g : Nat) (n : Node) : State :=
  let s := match n.units.find? (· < 64) with | some ch => s.rewind ch | none => s
  (s.forget [.node g n.idx]).modNode g n.idx (fun n => { n with
    st := .between, rep := n.rep + 1, units := [], stall := false, endSlice := false, atomic := false,
    slices := (match n.slices with | k :: l => (k - n.pos0) :: l | [] => []), total := n.total - (n.pos - n.pos0), pos := 0, pos0 := 0,
    crc := n.crc0, digSum := n.digSum0, digCnt := n.digCnt0, vec := { done := n.vec.done.drop (n.pos - n.pos0) }
    reads := [], again := [], outq := [], sub := 0, hw := 0 })

/-- Replay the slice of a CHAIN: every stage with work left starts its part again; what the others have handed over stands (R88, R389). -/
def State.replayChain (s : State) (g : Graph) (c : Node) : State :=
  let s := (g.stages c).foldl (fun s m =>
    if m.st = .opened ∧ !m.slices.isEmpty then s.replayNode g.id m else s.modNode g.id m.idx (fun y => { y with st := .between })) s
  s.modNode g.id c.idx (fun x => { x with st := .between, units := [] })

/-- Stop a unit at its next beat (R390): the slice that holds it is replayed if it can be. -/
def State.stopUnit (s : State) (u : Nat) : State :=
  let us := if isTe u then (List.range 16).map (fun k => 16 * (u - 0x40) + k) else if isCol u then [0x48 + (colOf u).1] else [u]
  s.graphs.foldl (fun s g =>
    g.nodes.foldl (fun s n =>
      if n.st = .opened ∧ n.kind = 8 then
        let st := g.stages n
        if st.any (fun m => m.units.any us.contains) ∧ st.all (fun m => s.mayReplay m || (m.slices.isEmpty && !m.atomic && !m.selfRw)) then s.replayChain g n else s
      else if n.st = .opened ∧ !n.inChain ∧ n.units.any us.contains ∧ s.mayReplay n then s.replayNode g.id n
      else s) s) s

-- eclipse

/-- Physical columns of an engine, and the active column that one serves. -/
def State.colServes (s : State) (e c : Nat) : Option Nat := (List.range 32).find? (fun k => s.fld (F.col e k) == c)
/-- Spare columns of an engine: in service, mapped nowhere. -/
def State.freeCols (s : State) (e : Nat) : List Nat :=
  (List.range 34).filter (fun c => (s.colServes e c).isNone && !s.eclipsed ((if e = 0 then 0x50 else 0x80) + c))
/-- The logical bank that a physical bank serves. -/
def State.bankServes (s : State) (b : Nat) : Option Nat := (List.range 512).find? (fun l => s.fld (F.spare l) == b)
/-- Free spare banks: mapped nowhere, not out of service, not the target of a copy. -/
def State.freeBanks (s : State) : List Nat :=
  (List.range 520).filter (fun b => (s.bankServes b).isNone && !s.eclipsed (0x100 + b) && !s.copies.any (·.into == b))

/-- Why ECLIPSE_UNIT of a unit is refused, 0 for not at all (R390). -/
def State.eclipseCode (s : State) (u : Nat) : Nat :=
  let (e, c) := colOf u
  if !eclipsable u then 1
  else if (s.eclipsed u && !(u < 64 && !(s.chan u).eclOwn && s.eclipsed (0x40 + u / 16))) || s.eclWait.any (·.unit == u) then 2
  else if (isCol u && (s.colServes e c).isSome && (s.freeCols e).isEmpty)
      || (isBank u && (s.bankServes (u - 0x100)).isSome && s.freeBanks.isEmpty) then 3
  else if (u == 0x48 || u == 0x49) && s.fld F.splitMode == 1 then 4
  else if isBank u && s.copies.any (·.into == u - 0x100) then 0xB
  else 0

/-- Begin to take a unit out of service (R390, R391, R203). A channel that its engine keeps in eclipse is marked on its own at once. A bank
in service is copied into a free spare first, whichever one the block chooses; a free spare bank leaves the pool at once. -/
def State.eclipseBegin (s : State) (u : Nat) (immediate : Bool) (entry : Option Nat) : State :=
  if u < 64 ∧ s.eclipsed u then
    (s.modChan u (fun c => { c with eclOwn := true })).epochBoundary.finishCmd entry 1
  else if isBank u ∧ (s.bankServes (u - 0x100)).isNone then ((s.setFld (F.ecl u) 1).epochBoundary).finishCmd entry 1
  else
    let s : State := { s with eclWait := s.eclWait ++ [⟨u, entry⟩] }
    let s := if immediate then s.stopUnit u else s
    if isBank u then
      match s.bankServes (u - 0x100) with
      | some l =>
        let free := s.freeBanks
        let (k, s) := s.drawBelow free.length
        { s with copies := s.copies ++ [{ logical := l, from_ := u - 0x100, into := free.getD k 0, entry := entry.getD s.nextEntry }]
                 nextEntry := if entry.isNone then s.nextEntry + 1 else s.nextEntry }
      | none => s
    else s

/-- ECLIPSE_UNIT (R390). -/
def State.eclipseCmd (s : State) : State :=
  s.take 8 0x40 (fun e =>
    let u := e.field 8 2
    match s.eclipseCode u with
    | 0 => (s.start 8 e).eclipseBegin u (bit (e.field 10 1) 0) (some e.id)
    | c => s.refuseCmd e c)

/-- A unit has stopped: nothing holds it. -/
def State.unitStopped (s : State) (u : Nat) : Bool :=
  let free (v : Nat) : Bool := !s.unitHeld v && (!(v < 64) || (s.chan v).prog.isNone)
  if isTe u then (List.range 16).all (fun k => free (16 * (u - 0x40) + k))
  else if isCol u then free (0x48 + (colOf u).1)
  else if isBank u then s.copies.all (fun c => c.from_ != u - 0x100 || c.done)
  else free u

/-- A channel enters eclipse. -/
def State.eclChan (s : State) (ch : Nat) : State := (s.setFld (F.ecl ch) 1).chTo ch 8

/-- A unit is out of service (R391). -/
def State.applyEclipse (s : State) (u : Nat) : State :=
  if u < 64 then (s.eclChan u).modChan u (fun c => { c with eclOwn := true })
  else if isTe u then (List.range 16).foldl (fun s k => s.eclChan (16 * (u - 0x40) + k)) (s.setFld (F.ecl u) 1)
  else if isCol u then
    let (e, c) := colOf u
    let free := (s.freeCols e).filter (· != c)
    let s := s.setFld (F.ecl u) 1
    match s.colServes e c with
    | some k =>
      let (i, s) := s.drawBelow free.length
      s.setFld (F.col e k) (free.getD i 0)
    | none => s
  else if isPort u then
    let p := u - 0xE8
    let s := (s.lineClear u 0x40).setFld (F.ecl u) 1
    (s.linkTo p 0).reroute p
  else s.setFld (F.ecl u) 1

/-- ECLIPSE_DONE: the unit has stopped; the command completes at an epoch boundary (R94, R390). -/
def State.eclipseDone (s : State) (u : Nat) : State :=
  match s.eclWait.find? (·.unit == u) with
  | some w =>
    if !((s.engines || s.phase == .x1) && s.unitStopped u) then s
    else if isBank u ∧ s.copies.any (·.from_ == u - 0x100) then s.epochBoundary
    else
      let s : State := { s with eclWait := s.eclWait.filter (·.unit != u) }
      ((s.applyEclipse u).epochBoundary).finishCmd w.entry 1
  | none => s

/-- SPARE_COPY_DONE (R203): the logical bank switches at the next epoch boundary. -/
def State.copyDone (s : State) (b : Nat) : State :=
  { s with copies := s.copies.map (fun c => if c.from_ = b then { c with done := true } else c) }

-- re-entry

/-- REENTER_UNIT (R392): the unit's self-test begins. -/
def State.reenterCmd (s : State) : State :=
  s.take 8 0x41 (fun e =>
    let u := e.field 8 2
    if !s.eclipsed u then s.refuseCmd e 5
    else if u < 64 ∧ s.eclipsed (0x40 + u / 16) then s.refuseCmd e 0xA
    else { s.start 8 e with reenter := s.reenter ++ [⟨u, some e.id⟩] })

/-- A channel is in service again, with its own state cleared. -/
def State.admitChan (s : State) (ch : Nat) : State :=
  let s := (s.setFld (F.ecl ch) 0).modChan ch (fun c => { c with eclOwn := false, stampSeq := 0, staged := [], pre := [], last := none })
  (s.chTo ch (if s.owner ch = 15 then 0 else 1)).applyOwner ch

/-- A unit is in service again (R392). -/
def State.admitUnit (s : State) (u : Nat) : State :=
  let s := s.setFld (F.ecl u) 0
  if u < 64 then s.admitChan u
  else if isTe u then
    (List.range 16).foldl (fun s k => let ch := 16 * (u - 0x40) + k; if (s.chan ch).eclOwn then s else s.admitChan ch) s
  else if u = 0xDA then { s with wc := [], wcFills := [] }
  else if isPort u then s.linkAgain (u - 0xE8)
  else s

/-- REENTER_TEST_DONE (R392): admitted at an epoch boundary, or refused with code 0x06. -/
def State.reenterDone (s : State) (u : Nat) (pass : Bool) : State :=
  match s.reenter.find? (·.unit == u) with
  | some w =>
    if !(s.engines || s.phase == .x1) then s
    else
      let s : State := { s with reenter := s.reenter.filter (·.unit != u) }
      if !pass then s.finishCmd w.entry 0x1F 6
      else
        let was := s
        let s := s.epochBoundary.admitUnit u
        let new := ((u :: (List.range 64)).filter (fun v => was.eclipsed v && !s.eclipsed v)).map (fun v => (v, s.epochNo))
        let s : State := { s with admitted := s.admitted.filter (fun x => !new.any (·.1 == x.1)) ++ new }
        s.finishCmd w.entry 1
  | none => s

-- clearing a tenant (R393)

/-- A channel loses a tenant's work: its program, those that wait for their next slice, what is staged (R172). -/
def State.clearChan (s : State) (t ch : Nat) : State :=
  let mine (p : Prog) : Bool := p.ctx == t
  let c := s.chan ch
  let gone (o : RelOp) : Bool := match s.graph o.g with | some g => g.ctx == t | none => false
  let ahead := c.pre.any (·.t == t) || (match c.last with | some (g, _) => (s.graph g).any (·.ctx == t) | none => false)
  let s := (if ahead then s.discard ch else s).modChan ch (fun c => { c with idle := c.idle.filter (!mine ·), relq := c.relq.filter (!gone ·) })
  match c.prog with
  | some p => if mine p then (s.forget [.chan ch]).chIdle ch else s
  | none => if !s.eclipsed ch then s.applyOwner ch else s

/-- Steps 1 and 2 and the wait of step 3 begin: the tenant is disabled, its entries and nodes are cancelled without records, its records
stop, and its writes on their way are marked; those that no port has issued are discarded, its messages stop. -/
def State.clearBegin (s : State) (t id : Nat) : State :=
  let x := s.ctx t
  let s := ((s.setFld (F.enable t) 0).setFld (F.draining t) 0).setFld (F.cfgErr t) (if x.phase = .checking then 0 else s.fld (F.cfgErr t))
  let mark (w : Txn) : Txn :=
    if w.isRec then (if w.ctx = t then { w with isRec := false, ev := [], inval := id :: w.inval } else w)
    else if s.txnOf w == some t || (match w.who with | some (.entry k) => (s.ctx t).entries.any (·.id == k) | _ => false) then
      { w with inval := id :: w.inval }
    else w
  let s := (State.issue { s with txns := (s.txns.map mark).filter (fun w => w.sent || !w.inval.contains id) }).setFld (irqFld Reg.irqPend (64 + t)) 0
  let s := (List.range 64).foldl (fun s ch => s.clearChan t ch) s
  let s := s.setFaults t (s.pfaults.filter (·.t != t))
  let s : State := { s with
    graphs := s.graphs.filter (·.ctx != t), waits := s.waits.filter (·.t != t), walks := s.walks.filter (·.t != t),
    clears := if s.fld (F.tmEn t) = 1 then
        s.clears ++ [⟨s.fld (F.tmBase t) * 1048576, (s.fld (F.tmLimit t) + 1 - s.fld (F.tmBase t)) * 1048576, some t⟩] else s.clears }
  let s := s.setRep { s.rep with intervals := s.rep.intervals.filter (·.t != t) }
  s.applyVs.modCtx t (fun x => { x with
    phase := .disabled, reEnable := false, clearing := some id, cancelled := x.entries.length, ringXl := [], fetched := [], entries := [],
    holdQ := [], held := [], waitAt := none, stallTold := false })

/-- Every write that the tenant had issued has returned (step 3). -/
def State.clearQuiet (s : State) (id : Nat) : Bool := s.txns.all (fun x => !x.inval.contains id)

/-- Step 4: the tenant's tables, counters, translations, handles, epochs, pairs and logged frames. -/
def State.clearState (s : State) (t : Nat) : State :=
  let lo := 64 * s.fld (F.ctrBase t)
  let hi := lo + 64 * s.fld (F.ctrLen t)
  let gone := s.tlb.filter (·.t == t)
  let s := s.setEph (s.mer.eph.filter (·.tenant != t))
  let s := s.setMer { s.mer with due := s.mer.due.filter (·.e.tenant != t) }
  let s : State := { s.wcDrop gone with
    tlb := s.tlb.filter (·.t != t)
    ptrs := s.ptrs.filter (·.t != t)
    counters := s.counters.filter (fun c => c.1 < lo || hi ≤ c.1)
    ctrNow := s.ctrNow.filter (fun c => c.counter < lo || hi ≤ c.counter) }
  let s := s.modCtx t (fun x => { x with handles := [], mailboxes := [], runEpoch := 0 })
  s.setRelay { s.relay with
    rx := s.relay.rx.filter (·.dstTenant != t)
    tx := s.relay.tx.map (fun x => if x.srcTenant = t then { srcTenant := t, dstChip := x.dstChip, dstTenant := x.dstTenant, mailbox := x.mailbox } else x)
    log := s.relay.log.filter (·.t != t) }

/-- CLEAR_TENANT begins (R393), once an earlier one of the tenant is over. -/
def State.clearCmd (s : State) : State :=
  s.take 8 0x42 (fun e =>
    let t := bits (e.field 8 1) 0 3
    if (s.ctx t).clearing.isSome then s else (s.start 8 e).clearBegin t e.id)

/-- PARTITION_CLEAR_DONE: the clear engine has zeroed the oldest range (R196); that of a tenant is cleared after step 4 (R393). -/
def State.partitionCleared (s : State) : State :=
  match s.clears.find? (·.tenant.isSome) with
  | some c =>
    let t := c.tenant.getD 0
    match (s.ctx t).clearing with
    | some id =>
      if s.phase == .x0 && s.clearQuiet id then
        let s := (s.clearState t).tileClear c.base c.len
        { s with clears := rmFirst (fun x => x == c) s.clears }
      else s
    | none => s
  | none => s

/-- CLEAR_TENANT_DONE: everything is cleared, and the record is written (R393). -/
def State.clearDone (s : State) (t : Nat) : State :=
  match (s.ctx t).clearing with
  | some id =>
    if s.phase == .x0 && s.clearQuiet id && !s.clears.any (·.tenant == some t) then
      let n := (s.ctx t).cancelled
      -- a tenant that was enabled meanwhile still owes one (R193)
      ((s.clearState t).modCtx t (fun x => { x with clearing := none, cancelled := 0, owed := x.phase == .enabled })).finishCmd (some id) 1 0 n
    else s
  | none => s

-- power

/-- A tenant's entry or node is in flight. -/
def State.tenantWork (s : State) : Bool :=
  (List.range 8).any (fun t => s.fld (F.enable t) == 1 || !(s.ctx t).entries.isEmpty || !(s.ctx t).fetched.isEmpty
    || !(s.ctx t).holdQ.isEmpty) || s.graphs.any (·.ctx < 8)

/-- Why SET_POWER is refused (R406), 0 for not at all. -/
def State.powerCode (s : State) (st : Nat) : Nat :=
  if 2 ≤ st ∧ s.tenantWork then 0x10
  else if st = 2 ∧ s.fld F.pwrNoRetain = 1 then 0x11
  else if s.powerTo.isSome then 0x12
  else if s.inGroup ∧ !s.partners.isEmpty then 0x13
  else 0

/-- SET_POWER (R405 to R407): steps 1 and 2 begin; open slices run to their next cut point. -/
def State.powerCmd (s : State) : State :=
  s.take 8 0x43 (fun e =>
    let st := bits (e.field 8 1) 0 2
    match s.powerCode st with
    | 0 =>
      let s : State := { s.start 8 e with powerTo := some (st, e.id), heldSince := s.aon }
      { s with graphs := s.graphs.map (fun g => { g with nodes := g.nodes.map (fun n => if n.st = .opened then { n with endSlice := true } else n) }) }
    | c => s.refuseCmd e c)

/-- A unit of a node is held by a stall, a queued fault or a park (R407). -/
def State.heldNode (s : State) (n : Node) : Bool :=
  n.stall || n.units.any (fun u => u < 64 && 3 ≤ s.chSt u && s.chSt u ≤ 6)

/-- Steps 2 and 3 of R407 are over, and no clear is under way, which always runs to its end (R197). -/
def State.quiesced (s : State) (st : Nat) : Bool :=
  s.graphs.all (fun g => g.nodes.all (fun n => n.st != .opened || s.heldNode n || (n.kind == 8 && (g.stages n).all (fun m => m.st != .opened || s.heldNode m))))
    && s.txns.isEmpty && s.clears.isEmpty && (st == 1 || s.relay.log.isEmpty)

/-- The record of SET_POWER waits for a slot of its ring. -/
def State.powerWaits (s : State) : Bool := ((s.ctx 8).holdQ ++ (s.ctx 8).held).any (·.opcode == 0x43)

/-- SET_POWER_QUIESCED (R407): step 4 writes the record; once its writes have returned too and, before X2 and X3, no read and no
message is outstanding (R28), step 5 gates the engines. -/
def State.powerStep (s : State) : State :=
  match s.powerTo with
  | some (st, id) =>
    if !(s.engines && s.quiesced st) then s
    else
      let s := if (s.ctx 8).entries.any (·.id == id) then s.finishCmd (some id) 1 else s
      if !s.txns.isEmpty || s.powerWaits || (st != 1 && !(s.msgWait.isEmpty && s.wcFills.isEmpty && s.walks.isEmpty)) then s
      else
        let s : State := { s with powerTo := none, phase := if st = 1 then .x1 else if st = 2 then .quietX2 else .quietX3 }
        let s := (s.setFld F.pwrState st).drive
        if st = 1 then s else s.setPins { s.pins with quiet := true }
  | none => s

-- replica groups

/-- Why REPLICA_CONFIG is refused (R394), 0 for not at all. -/
def State.replicaCode (s : State) (group member size : Nat) (ms : List Nat) (tenants inSvc active gen : Nat) : Nat :=
  let l := ms.take (size + 1)
  if size ≠ 0 ∧ (size < member ∨ l.getD member 0x1000 ≠ s.self ∨ l.any (fun m => !withinFabric s.fabDims m) ∨ l.eraseDups.length ≠ l.length
      ∨ !bit inSvc active ∨ size < active ∨ !bit inSvc member) then 7
  else if s.graphs.any (fun g => g.ctx < 8 && (bit tenants g.ctx || bit s.rep.repTenants.toNat g.ctx) && !g.nodes.isEmpty) then 8
  else if !serialBelow 32 (s.fld (F.fabGen group)) gen then 9
  else 0

/-- REPLICA_CONFIG (R394). -/
def State.replicaCmd (s : State) : State :=
  s.take 8 0x44 (fun e =>
    let w := e.field 8 2
    let group := bits w 0 12
    let member := bits w 12 2
    let size := bits w 14 2
    let ms := [bits (e.field 10 2) 0 12, bits (e.field 12 2) 0 12, bits (e.field 14 2) 0 12]
    let inSvc := bits (e.field 17 1) 0 3
    let active := bits (e.field 17 1) 3 2
    let gen := e.field 20 4
    match s.replicaCode group member size ms (e.field 16 1) inSvc active gen with
    | 0 =>
      let s := s.setReg (Reg.fabGrp s.self) (BitVec.ofNat 64
        (group + member <<< 12 + size <<< 14 + ms.getD 0 0 <<< 16 + ms.getD 1 0 <<< 28 + ms.getD 2 0 <<< 40 + inSvc <<< 52 + active <<< 55))
      let s := s.setFld (F.fabGen group) gen
      let r : Replica := if size = 0 then {} else
        { size := size + 1, groupId := group, member := member, members := ms.take (size + 1), repTenants := BitVec.ofNat 8 (e.field 16 1)
          inService := BitVec.ofNat 3 (inSvc % 2 ^ (size + 1)), active := active, gen := BitVec.ofNat 32 gen
          lastHeard := (List.range (size + 1)).map (fun m => (m, s.aon)) }
      (s.setRep r).finish 8 e 1
    | c => s.refuseCmd e c)

/-- An engine whose mode or tenants change at a boundary is offered only to nodes whose first slice begins after it (R94). -/
def State.enginesChanged (s was : State) : State :=
  let differs (e : Nat) : Bool := s.fld F.splitMode != was.fld F.splitMode
    || (List.range 8).any (fun t => bit (s.fld (F.meMask t)) e != bit (was.fld (F.meMask t)) e)
  let new := ((List.range 2).filter differs).map (fun e => (0x48 + e, s.epochNo))
  { s with admitted := s.admitted.filter (fun x => !new.any (·.1 == x.1)) ++ new }

/-- SET_SPLIT (R224, R225): a boundary of its own, at which it takes effect and completes. -/
def State.splitCmd (s : State) : State :=
  s.take 8 0x45 (fun e =>
    let mode := bits (e.field 8 1) 0 2
    if mode = 1 ∧ (s.eclipsed 0x48 ∨ s.eclipsed 0x49) then s.refuseCmd e 1
    else
      let was := s
      let s := s.setFld F.splitMode mode
      let s := (List.range 8).foldl (fun s t => s.setFld (F.meMask t) (bits (e.field (9 + t) 1) 0 2)) s
      (s.epochBoundary.enginesChanged was).finish 8 e 1)

-- the configuration lock

/-- The RWL registers in ascending offset (R424). -/
def rwlOffsets : List Nat := ((List.range 0x10000).map (8 * ·)).filter (fun o => (Reg.specs o).any (·.t == .rwl))

/-- The image that LOCK_CONFIG measures (R416, R424). -/
def State.lockImage (s : State) (e : Entry) : List Byte :=
  slice s.relay.record 0 60 ++ leBytes 8 (s.reg 0).toNat
    ++ leBytes 8 (s.reg (Reg.pwrStatus 1)).toNat ++ leBytes 8 (s.reg (Reg.pwrStatus 2)).toNat
    ++ rwlOffsets.flatMap (fun o => leBytes 4 o ++ leBytes 8 (s.reg o &&& Reg.mask o (·.t == .rwl)).toNat)
    ++ slice e.bytes 8 8

/-- LOCK_CONFIG (R412 to R416): the digest stands and the record is on its way; the locks come with the completion record. One that
follows another waits for it. -/
def State.lockCmd (s : State) : State :=
  s.take 8 0x46 (fun e =>
    let busy := (s.ctx 8).entries.any (fun x => x.opcode == 0x46 && x.started)
      || ((s.ctx 8).holdQ ++ (s.ctx 8).held).any (fun r => match r.after with | .lock _ => true | _ => false)
    if s.coreLock then s.refuseCmd e 0x18
    else if busy then s
    else if (List.range 8).any (fun t => s.fld (F.enable t) == 1 && s.enableCheck t != 0) then s.refuseCmd e 0x19
    else
      let image := s.lockImage e
      let dig := Sha.sha256 image
      let flags := e.field 8 1
      let valid := s.fld F.fabValid
      let rec_ := leBytes 1 1 ++ leBytes 1 flags ++ leBytes 2 ((if valid = 1 then s.self else 0) + valid <<< 12)
        ++ leBytes 4 (s.relay.lockCount + 1) ++ leBytes 8 s.tc.toNat ++ leBytes 4 image.length ++ leBytes 12 0 ++ slice dig 0 32 ++ leBytes 64 0
      let pa := bits (e.field 16 8) 0 48
      let s := (List.range 4).foldl (fun s w => s.setReg (Reg.digest w) (BitVec.ofNat 64 (fieldAt dig (8 * w) 8))) s
      if pa = 0 then s.finish 8 e 1 0 0 none (.lock flags)
      else
        let s := (blocks pa 128).foldl (fun s x => s.physWrite (entryReq 8 e) (cellsAt x.1 (slice rec_ (x.1 - pa) x.2))) s
        s.dueEntry 8 e 0 (.lock flags))

-- engines that work for everybody

/-- A record has waited longer than `cq_stall_limit`: one event per wait (R65). -/
def State.cqStall (s : State) (c : Nat) : State :=
  let x := s.ctx c
  match x.waitAt with
  | some t =>
    if s.engines && !x.stallTold then
      let s := s.advanceTo (t + 1000000 * s.fld (F.cqStallLimit c))
      (s.modCtx c (fun x => { x with stallTold := true })).event (ctxVector c)
    else s
  | none => s

/-- Credit of one period for a class and for a tenant's share of it, in 1/4096 bytes (R179, R180). -/
def State.classCredit (s : State) (cls : Nat) : Nat :=
  let share := match cls with | 0 => s.fld F.rdShare | 1 => s.fld F.wrShare | 2 => s.fld F.rmShare | _ => 1
  s.fld F.bwTotal * 256 * share * 64
def State.tenantCredit (s : State) (cls t : Nat) : Nat :=
  s.classCredit cls * s.fld (if cls = 0 then F.tRd t else if cls = 1 then F.tWr t else F.tRm t) / 64

/-- A credit period of 256 ns: every balance grows, up to four periods' credit or 256 bytes (R180). -/
def State.creditPeriod (s : State) : State :=
  let give (s : State) (cls t q : Nat) : State :=
    let k := 9 * cls + t
    State.setCredit { s with owed := Sparse.set (fun _ => 0) s.owed k (s.owes k - q) } cls t
      (Nat.min (s.creditOf cls t + (q - s.owes k)) (Nat.max (4 * q) (4096 * 256)))
  let s := (List.range 4).foldl (fun s cls => give s cls 8 (s.classCredit cls)) s
  ((List.range 3).foldl (fun s cls => (List.range 8).foldl (fun s t => give s cls t (s.tenantCredit cls t)) s) s).issue

/-- Set of a line of the weight cache, by its address in units of 256 bytes (R176). -/
def wcSet (k : Nat) : Nat := (k ^^^ (k >>> 12)) % 4096

/-- A fill returns (R176): the line takes a way of its tenant, the one that the pseudo-LRU names (the lowest one when it names none of
them), unless the tenant has none. -/
def State.wcFill (s : State) (i way : Nat) : State :=
  match s.wcFills[i]? with
  | some f =>
    let s : State := { s with wcFills := s.wcFills.eraseIdx i }
    let mask := s.fld (F.wcWays f.t)
    match (way :: List.range 16).find? (fun w => w < 16 && bit mask w) with
    | some w =>
      if s.eclipsed 0xDA then s
      else
        let line : WcLine := { way := w, pa := f.pa, bytes := f.bytes }
        { s with wc := s.wc.filter (fun l => l.pa != f.pa && !(l.way == w && wcSet l.pa == wcSet f.pa)) ++ [line] }
    | none => s
  | none => s

/-- Row of a granule in its bank (R185). -/
def rowOf (g : Nat) : Nat := g / 8 / 512

/-- An upset, with whether it hits two bits (log entry 61): of a granule of tile memory; of the datapath of a unit; of a granule of a line of the
weight cache; of the staging of a channel. -/
def State.upset (s : State) (u : Nat × Bool) : State :=
  if u.1 < 8388608 then
    { s with ecc := Sparse.set (fun _ => 0) s.ecc u.1 (if u.2 || s.ecc.any (fun e => e.1 == u.1) then 2 else 1) }
  else if u.1 < 9437184 then { s with upsets := s.upsets ++ [u.1 - 8388608] }
  else if u.1 < 10485760 then
    let k := u.1 - 9437184
    match s.wc[k / 32]? with
    | some l =>
      let two := u.2 || l.flips.any (·.1 == k % 32)
      { s with wc := s.wc.set (k / 32) { l with flips := (k % 32, two) :: l.flips.filter (·.1 != k % 32) } }
    | none => s
  else if u.1 < 10485824 then
    s.modChan (u.1 - 10485760) (fun c => { c with staged := match c.staged with
      | x :: l => { x with flip := if u.2 || x.flip != 0 then 2 else 1 } :: l
      | [] => [] })
  else s

/-- The patrol scrubber reads one row of every bank (R201): single-bit errors are corrected, every error is recorded against its bank,
tied to no node (R200). `upsets` have struck the block meanwhile. -/
def State.scrub (s : State) (upsets : List (Nat × Bool)) : State :=
  let s := upsets.foldl State.upset s
  if s.phase != .x0 || s.fld F.scrubStep == 0 then s
  else
    let es := s.ecc.filter (fun e => rowOf e.1 == s.scrubRow)
    let s := es.foldl (fun s e =>
      let s : State := if e.2 = 1 then { s with ecc := s.ecc.filter (·.1 != e.1) } else s
      s.raise { unit := s.bankUnit (8 * e.1), cause := if e.2 = 1 then 0x10 else 0x11, xva := 0 }) s
    { s with scrubRow := (s.scrubRow + 1) % 2048 }

-- the rows

/-- ECLIPSE_UNIT (R390). -/
def execEclipseUnit (s : State) : Out := .next s.eclipseCmd
/-- ECLIPSE_DONE (R390). -/
def execEclipseDone (u : Nat) (s : State) : Out := .next (s.eclipseDone u)
/-- REENTER_UNIT (R392). -/
def execReenterUnit (s : State) : Out := .next s.reenterCmd
/-- REENTER_TEST_DONE (R392). -/
def execReenterTestDone (u : Nat) (pass : Bool) (s : State) : Out := .next (s.reenterDone u pass)
/-- CLEAR_TENANT (R393). -/
def execClearTenant (s : State) : Out := .next s.clearCmd
/-- CLEAR_TENANT_DONE (R393). -/
def execClearTenantDone (t : Fin 8) (s : State) : Out := .next (s.clearDone t)
/-- SET_POWER (R407). -/
def execSetPower (s : State) : Out := .next s.powerCmd
/-- SET_POWER_QUIESCED (R407). -/
def execSetPowerQuiesced (s : State) : Out := .next s.powerStep
/-- REPLICA_CONFIG (R394). -/
def execReplicaConfig (s : State) : Out := .next s.replicaCmd
/-- SET_SPLIT (R225). -/
def execSetSplit (s : State) : Out := .next s.splitCmd
/-- LOCK_CONFIG (R413). -/
def execLockConfig (s : State) : Out := .next s.lockCmd
/-- CQ_STALL_LIMIT (R65). -/
def execCqStallLimit (c : Fin 9) (s : State) : Out := .next (s.cqStall c)
/-- CREDIT_PERIOD (R180). -/
def execCreditPeriod (s : State) : Out := .next s.creditPeriod
/-- WC_FILL_RETURN (R176). -/
def execWcFillReturn (i way : Nat) (s : State) : Out := .next (s.wcFill i way)
/-- SCRUB_STEP (R201). -/
def execScrubStep (upsets : List (Nat × Bool)) (s : State) : Out := .next (s.scrub upsets)
/-- PARTITION_CLEAR_DONE (R196). -/
def execPartitionClearDone (s : State) : Out := .next s.partitionCleared
/-- SPARE_COPY_DONE (R203). -/
def execSpareCopyDone (b : Nat) (s : State) : Out := .next (s.copyDone b)

end Sys2Proof.Machine
end

