-- ==== Sys2Proof/Machine/Nodes.lean ====
section
/-! DEFINITION. What the engines do at their steps: the nodes of a graph (R68 to R90), the slots of a move program on a channel
(R125 to R141), a CONTRACT node's slice (R211), a VECTOR node's rows (R228 to R234), scans (R368). A step whose condition does not hold
leaves the state as it is (log entry 12). -/

namespace Sys2Proof.Machine

-- graphs and nodes

/-- A node of a kind that is registered and ready, of a graph that goes on (R79). -/
def State.readyNode (s : State) (g n kind : Nat) : Option (Graph × Node) :=
  match s.graph g, s.node g n with
  | some gr, some nd =>
    if s.engines && gr.fail.isNone && gr.stopped.isNone && nd.kind == kind && nd.st == .registered && nd.age.isSome then some (gr, nd)
    else none
  | _, _ => none

/-- A SIGNAL node performs its counter operation, or joins, and completes (R71, R73, R282). -/
def State.signalNode (s : State) (g n : Nat) : State :=
  match s.readyNode g n 4 with
  | some (_, nd) =>
    let v := BitVec.ofNat 32 (nd.field 28 4)
    let s := match nd.field 26 1 with
      | 0 => s.addCounter (nd.field 24 2) v
      | 1 => s.setCounter (nd.field 24 2) v (s.nodeRank g n none)
      | _ => s
    ((s.modNode g n (fun x => { x with st := .between, slices := [] })).countSlice g n).completeNode g n
  | none => s

/-- A WAIT node waits without a unit from the XCLK in which it is ready, and is satisfied at once if its condition has been found true
(R440). -/
def State.waitNode (s : State) (g n : Nat) : State :=
  match s.readyNode g n 5 with
  | some (_, nd) =>
    let s := (s.countSlice g n).ctrSettle (nd.field 24 2)
    if s.waits.any (fun w => w.who == .node g n && s.waitMet w) then
      State.modNode { s with waits := s.waits.filter (fun w => w.who != .node g n) } g n (fun x => { x with st := .between, slices := [] })
    else s.modNode g n (fun x => { x with st := .waiting })
  | none => s

/-- A node that can complete does (R89). -/
def State.nodeCompletes (s : State) (g n : Nat) : State :=
  match s.graph g, s.node g n with
  | some gr, some nd => if s.engines && s.canComplete gr nd then s.completeNode g n else s
  | _, _ => s

-- channels

/-- The node whose program is on the channel is a descriptor copy: its handles were bound at registration (R111, R133). -/
def State.isCopy (s : State) (ch : Nat) : Bool :=
  match (s.chan ch).prog with
  | some p => (match s.node p.g p.n with | some n => n.kind == 1 && n.field 24 1 == 1 | none => false)
  | none => false

/-- The tenant of a channel's program. -/
def State.progCtx (s : State) (ch : Nat) : Nat := match (s.chan ch).prog with | some p => p.ctx | none => 15

/-- Run the MOVET at the channel's slot. -/
def State.movet (s : State) (ch : Nat) : State :=
  s.slotRun ch 2 (fun s p _ => s.runCh ch p.ctx (movetRun ch (s.isCopy ch)))

/-- A mode-1 TRANSIT node runs as one identity MOVET (R133). -/
def State.copyRun (s : State) (ch : Nat) : State :=
  let s := s.bindProg ch 1
  if s.isCopy ch then s.movet ch else s

/-- Issue lines of the MOVE at the channel's slot, `lines` of them, or all with 0. -/
def State.moveRun (s : State) (ch lines : Nat) : State :=
  s.slotRun ch 1 (fun s p b => s.runCh ch p.ctx (moveLines ch p.pc (if lines = 0 then (mvOf b).lines else lines)))

/-- LOOP (R135): back to its body while iterations are left. -/
def State.loopSlot (s : State) (ch : Nat) : State :=
  s.slotRun ch 3 (fun s p b =>
    let (pc, it) := loopNext b p.pc p.iters
    (s.modProg ch (fun p => { p with iters := it })).goSlot ch pc)

/-- WAIT (R136): the channel enters WAIT unless the condition holds already (R440). -/
def State.waitSlot (s : State) (ch : Nat) : State :=
  s.slotRun ch 5 (fun s p b =>
    let v := BitVec.ofNat 32 (fieldAt b 4 4)
    if condHolds (fieldAt b 1 1) (s.counter (fieldAt b 2 2)) v then (s.acquires p.g p.n).goSlot ch (p.pc + 1)
    else
      (s.chTo ch 3).addWait { t := p.ctx, who := .chan ch, counter := fieldAt b 2 2, cond := fieldAt b 1 1, value := v, start := s.aon
                              timeoutUs := fieldAt b 8 4 })

/-- SIGNAL (R137): its operation enters the release queue; while that is full the channel stalls. In the pairing profile a FENCE of `kind` 1
comes before it (R295). -/
def State.signalSlot (s : State) (ch : Nat) : State :=
  s.slotRun ch 6 (fun s p b =>
    if s.fld (F.ordProfile p.ctx) = 1 ∧ !s.drained p then s
    else
    let s := if s.fld (F.ordProfile p.ctx) = 1 then s.acquires p.g p.n else s
    if 8 ≤ (s.chan ch).relq.length then s.chTo ch 4
    else (s.release ch { g := p.g, n := p.n, op := fieldAt b 1 1, a := fieldAt b 2 2, v := BitVec.ofNat 32 (fieldAt b 4 4), barrier := 0 }).goSlot
      ch (p.pc + 1))

/-- FENCE (R138): it holds the channel until the program's writes have returned and its release queue is empty; with `kind` 1 it is an
acquire (R286). -/
def State.fenceSlot (s : State) (ch : Nat) : State :=
  s.slotRun ch 7 (fun s p b =>
    if s.drained p then (if fieldAt b 1 1 = 1 then s.acquires p.g p.n else s).goSlot ch (p.pc + 1) else s)

/-- STAMP (R139). -/
def State.stampOp (s : State) (ch : Nat) : State :=
  s.slotRun ch 8 (fun s p b => s.runCh ch p.ctx (atomically (.node p.g p.n) (stampSlot ch p b)))

/-- NOP (R140). -/
def State.nopSlot (s : State) (ch : Nat) : State :=
  s.slotRun ch 0 (fun s p _ => s.goSlot ch (p.pc + 1))

/-- HALT (R140, R141). -/
def State.haltSlot (s : State) (ch : Nat) : State :=
  s.slotRun ch 0xF (fun s _ _ => s.endProg ch 1 0)

/-- Prefetch one further line ahead of the channel's position (R169 to R173). -/
def State.runAhead (s : State) (ch : Nat) : State :=
  match (s.chan ch).prog with
  | some p =>
    if s.engines && !p.ended && !s.eclipsed ch && s.chSt ch ≤ 4 then s.prefetch ch (s.isCopy ch) p else s
  | none => s

/-- A channel without credit of a port or a link for `bp_timeout_us` parks (R144), unless the tenant has 64 outstanding faults already
(R271). -/
def State.bpTimeout (s : State) (ch : Nat) : State :=
  match (s.chan ch).prog with
  | some p =>
    if s.engines && s.powerTo.isNone && s.pressed ch p && !s.eclipsed ch && (s.pfaults.filter (·.t == p.ctx)).length < 64 then
      (s.advance (1000 * s.fld (F.bpTimeout p.ctx))).park ch
    else s
  | none => s

-- matrix engines

/-- A port or a vector stage prefetches the translations of its next 16 pages in stream order (R265); `l` are addresses in that order, each with
whether it is written. -/
def State.portAhead (s : State) (t : Nat) (l : List (Nat × Bool)) : State :=
  (((l.map (fun x => (x.1 / 4096 * 4096, x.2))).eraseDups).take 16).foldl (fun s x => s.warmPage t x) s

/-- Addresses in space 0 of the next 128 operand words of a port of a CONTRACT, from tile group `i` on (R206, R211). -/
def Contr.stream (x : Contr) (t i : Nat) (second : Bool) : List (Nat × Bool) :=
  let d := if second then x.b else x.a
  let gs := x.groupsOf t
  let word (b p kc : Nat) : Nat :=
    let bi := if d.rank = 3 then b else 0
    d.allocBase + d.origin + 1024 * (if d.layout = 1 then (bi * d.pt + p) * d.kc + kc else (bi * d.kc + kc) * d.pt + p)
  if d.space ≠ 0 then []
  else
    List.take 128 (((List.range 64).filter (fun k => i + k < gs * x.mt * x.bt)).flatMap (fun k =>
      let b := (i + k) / (gs * x.mt)
      let g := (i + k) % gs
      (List.range (Nat.min 64 x.kc)).flatMap (fun c =>
        if second then ((List.range (Nat.min t (x.nt - g * t))).map (fun n => (word b (g * t + n) c, false)))
        else [(word b ((i + k) / gs % x.mt) c, false)])))

/-- Addresses in space 0 of the tensor rows that the stages of a VECTOR node come to next (R228). -/
def State.vecStream (s : State) (g : Graph) (n : Node) : List (Nat × Bool) :=
  match s.vecNode g n with
  | some (ts, t0) =>
    let left := (((List.range (rowCount t0)).zip (rowsOf t0)).filter (fun r => !n.vec.done.contains r.1)).take 16
    left.flatMap (fun r => (n.ops.flatMap vopUses).flatMap (fun u => match ts.getD u.1 none with
      | some d => if d.space ≠ 0 then [] else (match d.locate (addrAt d r.2) with | some o => [(o / 8, u.2)] | none => [])
      | none => []))
  | none => []

/-- Run the rest of the slice of the CONTRACT node on an engine (R211, R222). -/
def State.contractRun (s : State) (e : Nat) : State :=
  match s.onUnit (0x48 + e) 2 with
  | some (g, n) =>
    match contrOf (s.boundDesc g.ctx) n with
    | some x =>
      let unit := if n.twin then 0x4A else 0x48 + e
      let q : Req := { t := g.ctx, unit := unit, who := .node g.id n.idx, wc := true }
      ((s.portAhead g.ctx (x.stream n.tmax n.total false)).portAhead g.ctx (x.stream n.tmax n.total true)).runNode g.id n.idx g.ctx (contrGroups q x unit (if n.twin then 2 else e) (n.field 52 4) (n.field 56 4) g.id n.idx (n.slices.headD 0 + 1))
    | none => s
  | none => s

-- vector stages

/-- Run the rest of the slice of the VECTOR node that holds a stage (R228). -/
def State.vectorRun (s : State) (i : Nat) : State :=
  match s.onUnit (0xC0 + i) 3 with
  | some (g, n) => (s.portAhead g.ctx (s.vecStream g n)).runNode g.id n.idx g.ctx (vecSlice g.id n.idx ((n.slices.headD 0 + 1) * (n.ops.length + 1)))
  | none => s

/-- Run one entry of the list on the present row, if it has the opcode and the row runs on stage `i` (R228, R230). -/
def State.vectorOp (s : State) (i op : Nat) : State :=
  match s.onUnit (0xC0 + i) 3 with
  | some (g, n) =>
    match s.vecNode g n with
    | some (_, t0) =>
      let (r, _) := s.pickRow n (rowCount t0)
      let full := n.slices.headD 0 ≤ n.pos || (n.endSlice && n.vec.op == 0)
      if !full && VOp.op (n.ops.getD n.vec.op []) == op && n.stageOf r == 0xC0 + i then s.runNode g.id n.idx g.ctx (vecStep g.id n.idx)
      else s
    | none => s
  | none => s

-- check-value units

/-- Run the rest of the slice of the scan on a check-value unit (R368). -/
def State.checkRun (s : State) (u : Nat) : State :=
  match s.onUnit (0xD0 + u) 7 with
  | some (g, n) => s.runNode g.id n.idx g.ctx (checkSlice g.id n.idx (0xD0 + u) (1026 * (n.slices.headD 0 + 1)))
  | none => s

-- the rows of graphs

/-- NODE_FETCH (R68). -/
def execNodeFetch (g : Nat) (s : State) : Out := .next (s.fetchNodes g)
/-- NODE_REGISTER (R77). -/
def execNodeRegister (g : Nat) (s : State) : Out := .next (s.register g)
/-- NODE_GRANT (R83). -/
def execNodeGrant (u : Nat) (s : State) : Out := .next (s.grant u)
/-- TRANSIT (R122): a program node's slice begins on its channel. -/
def execTransit (ch : Fin 64) (s : State) : Out := .next (s.bindProg ch 0)
/-- DESCRIPTOR_COPY (R133). -/
def execDescriptorCopy (ch : Fin 64) (s : State) : Out := .next (s.copyRun ch)
/-- CONTRACT (R211). -/
def execContract (e : Fin 2) (s : State) : Out := .next (s.contractRun e)
/-- VECTOR (R228). -/
def execVector (i : Fin 16) (s : State) : Out := .next (s.vectorRun i)
/-- SIGNAL_NODE (R282). -/
def execSignalNode (g n : Nat) (s : State) : Out := .next (s.signalNode g n)
/-- WAIT_NODE (R440). -/
def execWaitNode (g n : Nat) (s : State) : Out := .next (s.waitNode g n)
/-- TIMED_NODE (R356). -/
def execTimedNode (g n : Nat) (s : State) : Out := .next (s.registerTimed g n)
/-- CHECK (R368). -/
def execCheck (u : Fin 4) (s : State) : Out := .next (s.checkRun u)
/-- CHAIN (R88). -/
def execChain (g n : Nat) (s : State) : Out := .next (s.chainStep g n)
/-- SLICE_END (R84). -/
def execSliceEnd (g n : Nat) (s : State) : Out := .next (s.endSlices g n)
/-- SLICE_TIME_LIMIT (R82). -/
def execSliceTimeLimit (g n : Nat) (s : State) : Out := .next (s.sliceTime g n)
/-- NODE_COMPLETE (R89). -/
def execNodeComplete (g n : Nat) (s : State) : Out := .next (s.nodeCompletes g n)
/-- GRAPH_ABANDON (R90). -/
def execGraphAbandon (g : Nat) (s : State) : Out := .next (s.abandon g)

-- the rows of slots

/-- MOVE (R127). -/
def execMove (ch : Fin 64) (lines : Nat) (s : State) : Out := .next (s.moveRun ch lines)
/-- MOVET (R133). -/
def execMovet (ch : Fin 64) (s : State) : Out := .next (s.movet ch)
/-- LOOP (R135). -/
def execLoop (ch : Fin 64) (s : State) : Out := .next (s.loopSlot ch)
/-- WAIT_SLOT (R136). -/
def execWaitSlot (ch : Fin 64) (s : State) : Out := .next (s.waitSlot ch)
/-- SIGNAL_SLOT (R137). -/
def execSignalSlot (ch : Fin 64) (s : State) : Out := .next (s.signalSlot ch)
/-- RELEASE_PERFORM (R137). -/
def execReleasePerform (ch : Fin 64) (s : State) : Out := .next (s.releaseHead ch)
/-- FENCE (R138). -/
def execFence (ch : Fin 64) (s : State) : Out := .next (s.fenceSlot ch)
/-- STAMP (R139). -/
def execStamp (ch : Fin 64) (s : State) : Out := .next (s.stampOp ch)
/-- NOP_SLOT (R140). -/
def execNopSlot (ch : Fin 64) (s : State) : Out := .next (s.nopSlot ch)
/-- HALT (R140). -/
def execHalt (ch : Fin 64) (s : State) : Out := .next (s.haltSlot ch)
/-- PROGRAM_COMPLETE (R141). -/
def execProgramComplete (ch : Fin 64) (s : State) : Out := .next (s.progDone ch)
/-- RUNAHEAD_PREFETCH (R169). -/
def execRunaheadPrefetch (ch : Fin 64) (s : State) : Out := .next (s.runAhead ch)
/-- BP_TIMEOUT (R144). -/
def execBpTimeout (ch : Fin 64) (s : State) : Out := .next (s.bpTimeout ch)

-- the rows of the vector operations

/-- ADD (R230). -/
def execAdd (i : Fin 16) (s : State) : Out := .next (s.vectorOp i 0x01)
/-- SUB (R230). -/
def execSub (i : Fin 16) (s : State) : Out := .next (s.vectorOp i 0x02)
/-- MUL (R230). -/
def execMul (i : Fin 16) (s : State) : Out := .next (s.vectorOp i 0x03)
/-- FMA (R230). -/
def execFma (i : Fin 16) (s : State) : Out := .next (s.vectorOp i 0x04)
/-- MIN (R230). -/
def execMin (i : Fin 16) (s : State) : Out := .next (s.vectorOp i 0x05)
/-- MAX (R230). -/
def execMax (i : Fin 16) (s : State) : Out := .next (s.vectorOp i 0x06)
/-- ABS (R230). -/
def execAbs (i : Fin 16) (s : State) : Out := .next (s.vectorOp i 0x07)
/-- RSHIFT (R230). -/
def execRshift (i : Fin 16) (s : State) : Out := .next (s.vectorOp i 0x08)
/-- CVT (R230). -/
def execCvt (i : Fin 16) (s : State) : Out := .next (s.vectorOp i 0x09)
/-- CMPLT (R230). -/
def execCmplt (i : Fin 16) (s : State) : Out := .next (s.vectorOp i 0x0A)
/-- CMPEQ (R230). -/
def execCmpeq (i : Fin 16) (s : State) : Out := .next (s.vectorOp i 0x0B)
/-- SELECT (R230). -/
def execSelect (i : Fin 16) (s : State) : Out := .next (s.vectorOp i 0x0C)
/-- EXP (R230). -/
def execExp (i : Fin 16) (s : State) : Out := .next (s.vectorOp i 0x0D)
/-- LOG (R230). -/
def execLog (i : Fin 16) (s : State) : Out := .next (s.vectorOp i 0x0E)
/-- RSQRT (R230). -/
def execRsqrt (i : Fin 16) (s : State) : Out := .next (s.vectorOp i 0x0F)
/-- RECIP (R230). -/
def execRecip (i : Fin 16) (s : State) : Out := .next (s.vectorOp i 0x10)
/-- RSUM (R231). -/
def execRsum (i : Fin 16) (s : State) : Out := .next (s.vectorOp i 0x11)
/-- RMAX (R231). -/
def execRmax (i : Fin 16) (s : State) : Out := .next (s.vectorOp i 0x12)
/-- RMIN (R231). -/
def execRmin (i : Fin 16) (s : State) : Out := .next (s.vectorOp i 0x13)
/-- SOFTMAX (R232). -/
def execSoftmax (i : Fin 16) (s : State) : Out := .next (s.vectorOp i 0x14)
/-- LAYERNORM (R232). -/
def execLayernorm (i : Fin 16) (s : State) : Out := .next (s.vectorOp i 0x15)
/-- GROUPNORM (R232). -/
def execGroupnorm (i : Fin 16) (s : State) : Out := .next (s.vectorOp i 0x16)
/-- ARGMAX (R230). -/
def execArgmax (i : Fin 16) (s : State) : Out := .next (s.vectorOp i 0x17)
/-- TOPK (R230). -/
def execTopk (i : Fin 16) (s : State) : Out := .next (s.vectorOp i 0x18)
/-- SCAN (R230). -/
def execScan (i : Fin 16) (s : State) : Out := .next (s.vectorOp i 0x19)
/-- SCANMAX (R230). -/
def execScanmax (i : Fin 16) (s : State) : Out := .next (s.vectorOp i 0x1A)
/-- ATOMADD (R234). -/
def execAtomadd (i : Fin 16) (s : State) : Out := .next (s.vectorOp i 0x1B)
/-- XCHG (R234). -/
def execXchg (i : Fin 16) (s : State) : Out := .next (s.vectorOp i 0x1C)

end Sys2Proof.Machine
end

