-- ==== Sys2Proof/Machine/Window.lean ====
section
/-! DEFINITION. The register window and the doorbell window (R6, R16 to R19, R48 to R50, R420, R421, R443): what a write of the host does,
the checks of `enable` (R439), and the return from X1 (R409). -/

namespace Sys2Proof.Machine

-- enable and disable (R44, R439)

/-- A write of `enable` or `mc_enable`. DESIGN CHOICE: the checks begin at once also while a CLEAR_TENANT of the tenant is under way, on
which R439 is silent (log entry 64). -/
def State.enableWrite (s : State) (c : Nat) (one : Bool) : State :=
  match (s.ctx c).phase, one with
  | .disabled, true => (s.modCtx c (fun x => { x with phase := .checking })).setFld (F.cfgErr c) 0
  | .draining, true => (s.modCtx c (fun x => { x with reEnable := true })).setFld (F.cfgErr c) 0
  | .enabled, false => ((s.modCtx c (fun x => { x with phase := .draining })).setFld (F.enable c) 0).setFld (F.draining c) 1
  | _, _ => s

/-- Every count of a context's rings becomes zero (R47). -/
def State.zeroRings (s : State) (c : Nat) : State :=
  (ringsOf c).foldl (fun s k => (s.setReg (F.sqHeadReg c k) 0).setReg (F.cqTailReg c k) 0) s

/-- The checks of `enable` end (R439). -/
def State.enableChecked (s : State) (c : Nat) : State :=
  if s.phase == .x0 && s.pins.clkRun && (s.ctx c).phase == .checking then
    match s.enableCheck c with
    | 0 =>
      let xl := if c < 8 then (s.ringWalks c).getD [] else []
      let s := (xl.flatMap (fun x => s.rootReads c x.xva)).foldl (fun s _ => s.debit 3 8 64) s
      ((s.zeroRings c).setFld (F.enable c) 1).modCtx c (fun x => { x with phase := .enabled, ringXl := xl, owed := true })
    | k => (s.modCtx c (fun x => { x with phase := .disabled })).setFld (F.cfgErr c) k
  else s

/-- Every entry that was admitted before the context was disabled has completed and written its record (R44). -/
def State.ctxDrained (s : State) (c : Nat) : Bool :=
  let x := s.ctx c
  x.entries.isEmpty && x.holdQ.isEmpty && x.held.isEmpty && !s.txns.any (fun w => w.isRec && w.ctx == c)

/-- The drain of a context ends, and what it had fetched and not admitted is gone (log entry 65); the checks of a later write of `enable` 1
begin (R44, R439). -/
def State.drainEnds (s : State) (c : Nat) : State :=
  if s.phase == .x0 && s.pins.clkRun && (s.ctx c).phase == .draining && s.ctxDrained c then
    (s.modCtx c (fun x => { x with phase := if x.reEnable then .checking else .disabled, reEnable := false, ringXl := [], fetched := [] })).setFld
      (F.draining c) 0
  else s

-- return from X1 (R409)

/-- The timers of R144, R271 and R338, and those of resending, have stood still since SET_POWER (R407). -/
def State.timersShift (s : State) : State :=
  let d := s.aon - s.heldSince
  let s : State := { s with pfaults := s.pfaults.map (fun f => { f with start := f.start + d }) }
  s.setRelay { s.relay with tx := s.relay.tx.map (fun x =>
    { x with nrSince := x.nrSince.map (· + d), waitUntil := x.waitUntil.map (· + d), adv := x.adv + d }) }

/-- `wake` (R409): held frames reach the core (R324), ephemeris actions that came due are performed (R358), waiting records and messages
leave. -/
def State.wakeUp (s : State) : State :=
  if s.phase == .x1 then
    let s := ({ s with phase := .x0 }.setFld F.pwrState 0).timersShift
    let s := s.setRelay { s.relay with inbox := s.relay.inbox ++ s.relay.holdQ, holdQ := [] }
    ((List.range 9).foldl (fun s c => s.flushRecs c) s.ephWaited).sendMsgs
  else s.sat F.wakeErr

-- effects of single registers

/-- A write of XH_FAULT_ACK (R381). In Vesper mode it has no effect. -/
def State.faultAcked (s : State) (id : W32) : State :=
  if s.vesper then s
  else if s.coll.faults.any (fun f => f.id == id && !f.acked) then s.ack id
  else s.sat F.ackErr

/-- Writing 1 to `pend` of a unit in Vesper mode (R380). -/
def State.vspAcked (s : State) (u : Nat) : State :=
  if s.vesper then
    ((s.coll.faults.filter (fun f => f.unit == u && !f.acked)).foldl (fun s f => s.ack f.id) s).vspShow u
  else s

/-- The rule of R50: `v` lies between the head and the tail. -/
def headOk (tail head v : Nat) : Bool := (tail + 2 ^ 32 - v % 2 ^ 32) % 2 ^ 32 ≤ (tail + 2 ^ 32 - head) % 2 ^ 32

/-- A write of XH_FQ_HEAD (R386). -/
def State.fqHeadWrite (s : State) (v : Nat) : State :=
  if headOk (s.fld F.fqTail) (s.fld F.fqHead) v then s.setFld F.fqHead v else s.sat F.badAcc

/-- A peek at a tile word (R415). -/
def State.peekWord (s : State) : State :=
  let a := 64 * s.fld F.peekAddr
  let closed := s.inShared a || (List.range 8).any (fun t => s.fld (F.enable t) == 1 && s.inOwn t a)
  let off := s.fld F.peekEn == 0
  let es := s.eccIn a 64
  let ue := !off && !closed && es.any (·.2 == 2)
  let ce := !off && !closed && !ue && es.any (·.2 == 1)
  let s := (s.setFld F.peekUe (if ue then 1 else 0)).setFld F.peekCe (if ce then 1 else 0)
  (List.range 8).foldl (fun s w =>
    s.setReg (Reg.dbgData w) (if off || closed || ue then 0 else BitVec.ofNat 64 (le (s.tileRd (a + 8 * w) 8)))) s

/-- `shr_en` goes to 0: the clear of the shared partition begins (R195). -/
def State.sharedOff (s : State) : State :=
  if s.fld F.shrEn = 1 ∧ !s.clears.any (·.tenant.isNone) then
    let lo := s.fld F.shrBase
    { s with clears := s.clears ++ [⟨lo * 1048576, (s.fld F.shrLimit + 1 - lo) * 1048576, none⟩] }
  else s

/-- A new owner of a channel takes effect in IDLE or UNASSIGNED (R119). -/
def State.ownerWrite (s : State) (ch : Nat) : State := if s.chSt ch ≤ 1 then s.applyOwner ch else s

/-- A write of key words, salt or `op` of a key slot (R431). -/
def State.keyWrite (s : State) (p sl o : Nat) (m v : W64) : State :=
  if o = 0x28 then
    match bits (v &&& m).toNat 0 2 with
    | 1 => s.keyLoad p sl
    | 2 => s.keyClear p sl
    | _ => s
  else if o = 0x20 then
    s.modKey p sl (fun k => { k with saltW := (k.saltW &&& ~~~(m.truncate 32)) ||| ((v &&& m).truncate 32) })
  else if o ≤ 0x18 then
    s.modKey p sl (fun k => { k with
      words := Sparse.set (fun _ => 0) k.words (o / 8) ((Sparse.get (fun _ => 0) k.words (o / 8) &&& ~~~m) ||| (v &&& m)) })
  else s

-- a write

/-- The bits of a register whose value the block sets itself when they are written: `enable`, `shr_en`, the queue's head. -/
def Reg.own (off : Nat) : W64 :=
  if off = Reg.mcCtrl ∨ (0x10000 ≤ off ∧ off < 0x18000 ∧ off % 0x1000 = 0) then 1
  else if off = Reg.fqHead then 0xFFFFFFFF
  else 0

/-- What follows a write of `v` under the bit mask `m` that was not discarded; `was` is the register's value before. -/
def State.wrote (s : State) (off : Nat) (m v was : W64) : State :=
  let hit (lo w : Nat) : Bool := bits m.toNat lo w != 0
  let val (lo w : Nat) : Nat := bits (v &&& m).toNat lo w
  if off = Reg.mcCtrl then (if hit 0 1 then s.enableWrite 8 (val 0 1 == 1) else s)
  else if 0x90 ≤ off ∧ off ≤ 0xB8 then s.sendMsgs
  else if 0x10000 ≤ off ∧ off < 0x18000 then
    if off % 0x1000 = 0 ∧ hit 0 1 then s.enableWrite ((off - 0x10000) / 0x1000) (val 0 1 == 1) else s
  else if 0x20000 ≤ off ∧ off < 0x20800 then
    if off % 0x20 = 0 ∧ hit 0 4 then s.ownerWrite ((off - 0x20000) / 0x20) else s
  else if 0x30400 ≤ off ∧ off < 0x30480 then (if hit 0 4 then s.applyVs else s)
  else if off = Reg.modidCmd then (if val 0 1 = 1 ∧ s.pins.aonRstN then s.restart else s)
  else if 0x50100 ≤ off ∧ off < 0x50280 then
    if off % 0x40 = 8 ∧ val 0 1 = 1 then s.linkAgain ((off - 0x50100) / 0x40) else s
  else if 0x50400 ≤ off ∧ off < 0x50A00 then
    let i := (off - 0x50400) / 0x40
    s.keyWrite (i / 4) (i % 4) (off % 0x40) m v
  else if 0x60000 ≤ off ∧ off < 0x60400 then
    let b := (off - 0x60000) / 0x100
    if off % 0x100 ≠ 0 ∨ bits was.toNat 0 1 = s.fld (F.mbEn b) then s
    else if s.fld (F.mbEn b) = 1 then s.mbStart b else s.mbOff b
  else if off = Reg.ephCmd then
    (if val 0 2 = 1 ∨ val 0 2 = 2 then s.ephCommand (val 0 2) (val 16 10) else s)
  else if off = Reg.faultCfg then s.drive
  else if off = Reg.faultAck then (if hit 0 32 then s.faultAcked (BitVec.ofNat 32 (val 0 32)) else s)
  else if off = Reg.fqBase then ((s.setReg Reg.fqTail 0).setReg Reg.fqHead 0).setColl { s.coll with seq := 0 }
  else if off = Reg.fqHead then (if hit 0 32 then s.fqHeadWrite (val 0 32) else s)
  else if 0x72000 ≤ off ∧ off < 0x73840 then (if val 48 1 = 1 then s.vspAcked ((off - 0x72000) / 8) else s)
  else if off = Reg.pwrCtrl then (if val 0 1 = 1 then s.wakeUp else s)
  else if off = Reg.dbgPeek then (if hit 6 20 then s.peekWord else s)
  else s

/-- The debug registers (R415). -/
def Reg.debug (off : Nat) : Bool := off == Reg.dbgCtrl || off == Reg.dbgPeek || (0x90080 ≤ off && off ≤ 0x900B8)

/-- A write would change an E-marked field whose context is not disabled (R420), or a field of the partition or of the counter range
before the CLEAR_TENANT that R193 asks for. -/
def State.eMarked (s : State) (off : Nat) (ch : W64) : Bool :=
  match Reg.ctxOf off with
  | some c => ch &&& Reg.mask off (·.e) != 0
      && ((s.ctx c).phase != .disabled || (c < 8 && (s.ctx c).owed && (off == Reg.ten c 0x30 || off == Reg.ten c 0x38)))
  | none => false

/-- A field of a base other than `en` would change while `en` is 1 (R341). -/
def State.baseLive (s : State) (off : Nat) (ch : W64) : Bool :=
  0x60000 ≤ off && off < 0x60400 && off % 0x100 ≤ 0x10 && s.fld (F.mbEn ((off - 0x60000) / 0x100)) == 1
    && ch &&& Reg.mask off (·.t == .rwl) &&& (if off % 0x100 = 0 then ~~~1 else ~~~0) != 0

/-- A write of `v` under the bit mask `m` to the register at `off`: the debug lock (R415), the E marks, legality (R421, R341), the mode of
R380, the locks (R443), in this order. -/
def State.regWrite (s : State) (off : Nat) (m v : W64) : State :=
  let old := s.reg off
  let new := (old &&& ~~~m) ||| (v &&& m)
  let ch := old ^^^ new
  let locked := if Reg.relayDomain off then s.relay.locked else s.coreLock
  if Reg.debug off && s.relay.dbgLock then s.sat F.lockViol
  else if s.eMarked off ch then s
  else if s.baseLive off ch || !Reg.legal off old new then s.sat F.badAcc
  else if off == Reg.faultCfg && bit ch.toNat 1 && !locked && !s.coll.faults.isEmpty then s
  else
    let s := if locked && ch &&& Reg.mask off (·.t == .rwl) != 0 then s.sat F.lockViol else s
    let off0 := off == Reg.tmShared && !locked && bit old.toNat 16 && !bit new.toNat 16
    let s := if off0 then s.sharedOff else s
    let keep : W64 := if off0 then 0x10000 else 0
    let s := s.setReg off (Reg.written off old v (m &&& ~~~(Reg.own off) &&& ~~~keep) locked)
    if off = Reg.fqBase ∧ locked then s else s.wrote off m v old

/-- Writes to the windows take effect (R19, R411). -/
def State.windowOpen (s : State) : Bool := s.phase == .bringup || s.phase == .x0 || s.phase == .x1

/-- A write of the host in the register window (R6, R16, R19); it is held while xh_clk is stopped (R408). -/
def State.hostWrite (s : State) (off width : Nat) (v : W64) : State :=
  if !s.windowOpen then s
  else if !s.pins.clkRun then { s with heldAcc := s.heldAcc ++ [(off, width, v)] }
  else if !((width == 8 && off % 8 == 0) || (width == 4 && off % 4 == 0)) || 0x100000 ≤ off then s.sat F.badAcc
  else
    let sh := 8 * (off % 8)
    let m : W64 := if width = 8 then ~~~0 else BitVec.ofNat 64 (0xFFFFFFFF <<< sh)
    s.regWrite (off / 8 * 8) m (v <<< sh)

-- doorbells

/-- The context of a doorbell page (R18). -/
def pageCtx (page : Nat) : Nat := if page = 0 then 8 else page - 1

/-- A tail doorbell (R49). -/
def State.tailBell (s : State) (c k v : Nat) : State :=
  let t := s.fld (F.sqTail c k)
  let h := s.fld (F.sqHead c k)
  let d := (v + 2 ^ 32 - h) % 2 ^ 32
  if (s.ctx c).phase != .enabled || !s.sqUsed c k then s.sat (F.dbErr c)
  else if v = t then s
  else if d ≤ 2 ^ s.fld (F.sqLog2 c k) ∧ (v + 2 ^ 32 - t) % 2 ^ 32 ≤ d then s.setFld (F.sqTail c k) v
  else s.sat (F.dbErr c)

/-- A head doorbell (R50): records that wait for slots are written. -/
def State.headBell (s : State) (c k v : Nat) : State :=
  let up := (s.ctx c).phase == .enabled || (s.ctx c).phase == .draining
  if up && s.cqUsed c k && headOk (s.fld (F.cqTail c k)) (s.fld (F.cqHead c k)) v then
    let s := s.setFld (F.cqHead c k) v
    if s.phase == .x0 then s.flushRecs c else s
  else s.sat (F.dbErr c)

/-- A write in the doorbell window (R17, R19, R48). While xh_clk is stopped it is held, at an offset behind the register window. -/
def State.doorbell (s : State) (page off width v : Nat) : State :=
  let c := pageCtx page
  if !s.windowOpen then s
  else if !((width == 8 && off % 8 == 0) || (width == 4 && off % 4 == 0)) || 0x1000 ≤ off then s
  else if !s.pins.clkRun then { s with heldAcc := s.heldAcc ++ [(0x100000 + 0x1000 * page + off, width, BitVec.ofNat 64 v)] }
  else
    let k := off % 0x100 / 8
    if off % 8 = 0 ∧ off < 0x200 ∧ k < (if c = 8 then 1 else 16) then
      if off < 0x100 then s.tailBell c k (v % 2 ^ 32) else s.headBell c k (v % 2 ^ 32)
    else s.sat (F.dbErr c)

-- reads

/-- Reads of the register window are answered with values (R19): in bring-up, X0 and X1, and after step 5 of SET_POWER until xh_rst_n
falls. -/
def State.answers (s : State) : Bool := s.windowOpen || s.phase == .quietX2 || s.phase == .quietX3

/-- The bits of a register that count XCLK or codewords, which the model does not: they read as free values (R65, R77, R182, R191, R308,
log entry 16). -/
def Reg.timed (off : Nat) : W64 :=
  if off = Reg.mcCnt ∨ (0x10000 ≤ off ∧ off < 0x18000 ∧ (off % 0x1000 = 0x308 ∨ off % 0x1000 = 0x310)) then ~~~0
  else if (0xA0000 ≤ off ∧ off < 0xA1000 ∧ off % 0x40 < 0x38) ∨ (0xA1000 ≤ off ∧ off < 0xA1080 ∧ off % 0x40 < 0x38)
      ∨ (0xA2000 ≤ off ∧ off < 0xA2118) then ~~~0
  else if 0x50100 ≤ off ∧ off < 0x50280 ∧ off % 0x40 = 0x28 then 0xFFFFFFFF00000000
  else 0

/-- The value of a register now, as a read returns it (R6): positions of bases run on (R345), counts of XCLK are free values. -/
def State.readReg (s : State) (off : Nat) : W64 × State :=
  if 0x60000 ≤ off ∧ off < 0x60400 ∧ off % 0x100 = 0x28 then ((s.mbPos ((off - 0x60000) / 0x100)).zeroExtend 64, s)
  else if Reg.timed off = 0 then (s.reg off, s)
  else
    let (v, s) := s.drawBelow (2 ^ 64)
    ((s.reg off &&& ~~~(Reg.timed off)) ||| (BitVec.ofNat 64 v &&& Reg.timed off), s)

/-- A read of the host in the register window (R6, R16, R19). Another width or alignment reads as zero and is counted. The read of the word
of XH_FQ_STICKY at 0x7_0040 re-arms it (R423). -/
def State.hostRead (s : State) (off width : Nat) : W64 × State :=
  if !s.answers then (0, s)
  else if !((width == 8 && off % 8 == 0) || (width == 4 && off % 4 == 0)) || 0x100000 ≤ off then
    (0, if s.windowOpen then s.sat F.badAcc else s)
  else
    let (v, s) := s.readReg (off / 8 * 8)
    let s := if off / 8 * 8 = Reg.fqSticky 0 then s.setColl { s.coll with stickyRead := true } else s
    ((v >>> (8 * (off % 8))) &&& (if width = 8 then ~~~0 else 0xFFFFFFFF), s)

/-- A read of the doorbell window returns zero (R17). -/
def State.doorbellRead (_s : State) (_page _off _width : Nat) : W64 := 0

/-- What a read of the register window does; while xh_clk is stopped it is held (R408), with 16 added to its width. -/
def State.readAccess (s : State) (off width : Nat) : State :=
  if s.answers && !s.pins.clkRun then { s with heldAcc := s.heldAcc ++ [(off, 16 + width, 0)] }
  else (s.hostRead off width).2

/-- A held access is performed (R408). -/
def State.heldAccess (s : State) (x : Nat × Nat × W64) : State :=
  if 16 ≤ x.2.1 then s.readAccess x.1 (x.2.1 - 16)
  else if 0x100000 ≤ x.1 then s.doorbell ((x.1 - 0x100000) / 0x1000) (x.1 % 0x1000) x.2.1 x.2.2.toNat else s.hostWrite x.1 x.2.1 x.2.2

-- the rows

/-- REGISTER_WRITE (R6, R16). The host's stores carried by the row are visible before it (R52). -/
def execRegisterWrite (off width : Nat) (v : W64) (st : List HostStore) (s : State) : Out :=
  .next ((s.hostStores st).hostWrite off width v)
/-- TAIL_DOORBELL (R49, R52). -/
def execTailDoorbell (page : Fin 9) (off width : Nat) (v : W64) (st : List HostStore) (s : State) : Out :=
  .next ((s.hostStores st).doorbell page off width v.toNat)
/-- HEAD_DOORBELL (R50). -/
def execHeadDoorbell (page : Fin 9) (off width : Nat) (v : W64) (s : State) : Out := .next (s.doorbell page off width v.toNat)
/-- ENABLE (R439). -/
def execEnable (t : Fin 8) (s : State) : Out := .next (s.hostWrite (Reg.ten t 0) 8 1)
/-- ENABLE_CHECK_COMPLETE (R43, R439). -/
def execEnableCheckComplete (c : Fin 9) (s : State) : Out := .next (s.enableChecked c)
/-- DISABLE (R44). -/
def execDisable (t : Fin 8) (s : State) : Out := .next (s.hostWrite (Reg.ten t 0) 8 0)
/-- DRAIN_END (R44). -/
def execDrainEnd (c : Fin 9) (s : State) : Out := .next (s.drainEnds c)
/-- MC_ENABLE (R439): the other fields of XH_MC_CTRL as they stand. -/
def execMcEnable (s : State) : Out := .next (s.hostWrite Reg.mcCtrl 4 (s.reg Reg.mcCtrl ||| 1))
/-- OWNER_WRITE (R119). -/
def execOwnerWrite (ch : Fin 64) (o : BitVec 4) (s : State) : Out := .next (s.hostWrite (Reg.chCfg ch) 8 (o.zeroExtend 64))
/-- VS_OWNER_WRITE (R226). -/
def execVsOwnerWrite (i : Fin 16) (o : BitVec 4) (s : State) : Out := .next (s.hostWrite (Reg.vsCfg i) 8 (o.zeroExtend 64))
/-- FQ_BASE_WRITE (R47, R386). -/
def execFqBaseWrite (v : W64) (s : State) : Out := .next (s.hostWrite Reg.fqBase 8 v)
/-- FQ_HEAD_WRITE (R386). -/
def execFqHeadWrite (v : W32) (s : State) : Out := .next (s.hostWrite Reg.fqHead 4 (v.zeroExtend 64))
/-- FQ_STICKY_READ (R423): the host reads the first word of XH_FQ_STICKY, which re-arms the record; with another offset or width
the same command is the host's read of that place of the register window (R16, log entry 60). -/
def execFqStickyRead (s : State) (off : Nat := Reg.fqSticky 0) (width : Nat := 8) : Out := .next (s.readAccess off width)
/-- FAULT_ACK (R381). -/
def execFaultAck (id : W32) (s : State) : Out := .next (s.hostWrite Reg.faultAck 4 (id.zeroExtend 64))
/-- VESPER_PEND_CLEAR (R380): `ien` as it stands. -/
def execVesperPendClear (u : Fin 0x308) (s : State) : Out :=
  .next (s.hostWrite (Reg.vsp u) 8 (BitVec.ofNat 64 (2 ^ 48 + 2 ^ 49 * s.fld (F.vspIen u))))
/-- RESTART (R432). -/
def execRestart (s : State) : Out := .next (s.hostWrite Reg.modidCmd 8 1)
/-- RETRAIN (R314). -/
def execRetrain (p : Fin 6) (s : State) : Out := .next (s.hostWrite (Reg.port p 8) 8 1)
/-- KEY_LOAD (R431). -/
def execKeyLoad (p : Fin 6) (sl : Fin 4) (s : State) : Out := .next (s.hostWrite (Reg.key p sl 0x28) 8 1)
/-- KEY_CLEAR (R431). -/
def execKeyClear (p : Fin 6) (sl : Fin 4) (s : State) : Out := .next (s.hostWrite (Reg.key p sl 0x28) 8 2)
/-- EPH_INSERT (R352, R434). -/
def execEphInsert (s : State) : Out := .next (s.hostWrite Reg.ephCmd 8 1)
/-- EPH_REMOVE (R352, R434). -/
def execEphRemove (idx : BitVec 10) (s : State) : Out := .next (s.hostWrite Reg.ephCmd 8 (BitVec.ofNat 64 (2 + idx.toNat * 65536)))
/-- WAKE (R409). -/
def execWake (s : State) : Out := .next (s.hostWrite Reg.pwrCtrl 8 1)
/-- PEEK (R415). -/
def execPeek (w : BitVec 20) (s : State) : Out := .next (s.hostWrite Reg.dbgPeek 8 (BitVec.ofNat 64 (w.toNat * 64)))
/-- SHARED_DISABLE (R195): the other fields of XH_TM_SHARED as they stand. -/
def execSharedDisable (s : State) : Out := .next (s.hostWrite Reg.tmShared 8 (s.reg Reg.tmShared &&& ~~~0x10000))
/-- SHARED_CLEAR_DONE (R195, R196). -/
def execSharedClearDone (s : State) : Out :=
  .next (match s.clears.find? (·.tenant.isNone) with
    | some c =>
      if s.phase == .x0 then
        { (s.tileClear c.base c.len).setFld F.shrEn 0 with clears := rmFirst (fun x => x == c) s.clears }
      else s
    | none => s)
/-- MB_ENABLE (R341). -/
def execMbEnable (b : Fin 4) (s : State) : Out := .next (s.hostWrite (Reg.mb b 0) 4 (s.reg (Reg.mb b 0) ||| 1))
/-- MB_DISABLE (R341). -/
def execMbDisable (b : Fin 4) (s : State) : Out := .next (s.hostWrite (Reg.mb b 0) 4 (s.reg (Reg.mb b 0) &&& ~~~1))

end Sys2Proof.Machine
end

