-- ==== Sys2Proof/Machine/Power.lean ====
section
/-! DEFINITION. Resets, power and clocks at the boundary (R10, R19, R25 to R27, R32, R34, R37 to R39, R404 to R411), the responses of the
system ports (R12, R15) and of the message port (R22). -/

namespace Sys2Proof.Machine

-- core reset (R25, R26, R31)

/-- Registers that a core reset leaves: the relay domain's (R419) and the spare map, which bring-up judges (R410). -/
def Reg.survives (off : Nat) : Bool := Reg.relayDomain off || (0x1000 ≤ off && off < 0x1400)

/-- The relay keeps its own; what it holds for the core is gone, and the not-ready log begins anew (R337). -/
def Relay.coreLost (r : Relay) : Relay :=
  { r with coreReady := false, holdQ := [], inbox := [], tx := [], log := [], rx := [], nrLog := [] }

/-- The core is in reset: every core-domain part is at its reset value, outstanding responses are dropped (R26), the fault state is
lost (R31). -/
def State.coreReset (s : State) : State :=
  let t : State :=
    { phase := .inReset, pins := { s.pins with quiet := true, fltCor := false, fltCon := false, fltFat := false, errN := true },
      aon := s.aon, tc := s.tc, retained := s.retained, tmLost := s.tmLost, regs := s.regs.filter (fun r => Reg.survives r.1),
      sys := s.sys, cpu := s.cpu, badRd := s.badRd, poison := s.poison, derived := s.derived, tile := s.tile, ecc := s.ecc, relay := s.relay.coreLost,
      free := s.free, pending := s.pending }
  t.setFld F.nrLogCount 0

/-- The core is out of reset. -/
def State.coreRuns (s : State) : Bool := s.collUp

-- bring-up (R411)

/-- The place of a unit in `bist_fail_map` (R437): word and bit. -/
def bistBit (u : Nat) : Option Fld :=
  if u < 64 then some ⟨Reg.pwrStatus 1, u, 1⟩
  else if u < 0x44 then some ⟨Reg.pwrStatus 2, u - 0x40, 1⟩
  else if u = 0x48 ∨ u = 0x49 then some ⟨Reg.pwrStatus 2, u - 0x48 + 4, 1⟩
  else if 0xC0 ≤ u ∧ u < 0xD0 then some ⟨Reg.pwrStatus 2, u - 0xC0 + 6, 1⟩
  else if 0xD0 ≤ u ∧ u < 0xD4 then some ⟨Reg.pwrStatus 2, u - 0xD0 + 22, 1⟩
  else if u = 0xDA then some ⟨Reg.pwrStatus 2, 26, 1⟩
  else if 0xE8 ≤ u ∧ u < 0xEE then some ⟨Reg.pwrStatus 2, u - 0xE8 + 27, 1⟩
  else none

/-- Replace a failed bank by a free spare, whichever the block chooses (R202). -/
def State.spareBank (s : State) (b : Nat) : State :=
  match s.bankServes b with
  | some l =>
    match s.freeBanks with
    | [] => s
    | f =>
      let (i, s) := s.drawBelow f.length
      (s.setFld (F.spare l) (f.getD i 0)).sat F.banksSpared
  | none => s

/-- Banks that failed self-test (R202): more than eight end bring-up with a fatal fault, recorded at the ninth. -/
def State.testBanks (s : State) (bs : List Nat) : State :=
  let s := match bs.drop 8 with
    | b :: _ => s.raise { unit := 0x100 + b, cause := 0x1B }
    | [] => s
  let s := bs.foldl (fun s b => s.setFld (F.ecl (0x100 + b)) 1) s
  bs.foldl (fun s b => s.spareBank b) s

/-- Replace a failed column by a spare one (R207). -/
def State.spareCol (s : State) (e c : Nat) : State :=
  match s.colServes e c with
  | some k =>
    match s.freeCols e with
    | [] => s
    | f =>
      let (i, s) := s.drawBelow f.length
      (s.setFld (F.col e k) (f.getD i 0)).sat (F.colsSpared e)
  | none => s

/-- An eclipsable unit that failed starts in eclipse and shows in `bist_fail_map` (R411). -/
def State.failUnit (s : State) (u : Nat) : State :=
  let s := s.applyEclipse u
  match bistBit u with | some f => s.setFld f 1 | none => s

/-- Columns of an engine that failed: more than its two spares fail the engine (R207, R411). -/
def State.testCols (s : State) (e : Nat) (cs : List Nat) : State :=
  let s := cs.foldl (fun s c => s.setFld (F.ecl ((if e = 0 then 0x50 else 0x80) + c)) 1) s
  let s := cs.foldl (fun s c => s.spareCol e c) s
  if 2 < cs.length then s.failUnit (0x48 + e) else s

/-- The result of self-test (R411 step 2): `failed` lists the units that failed; the banks are not tested after X2 (R410). -/
def State.selfTest (s : State) (failed : List Nat) (keep : Bool) : State :=
  let us := (failed.filter unitAssigned).eraseDups
  let s := if keep then s else s.testBanks ((us.filter isBank).map (· - 0x100))
  let s := (s.testCols 0 ((us.filter (fun u => isCol u && u < 0x80)).map (· - 0x50))).testCols 1
    ((us.filter (fun u => isCol u && 0x80 ≤ u)).map (· - 0x80))
  let s := (us.filter (fun u => eclipsable u && !isBank u && !isCol u && !s.eclipsed u)).foldl (fun s u => s.failUnit u) s
  match us.find? (fun u => !eclipsable u) with
  | some u => s.setFld F.bringupErr u
  | none => s

/-- Bring-up, steps 1 to 4 (R411): identity, self-test, clear of tile memory unless the array was retained (R410), the relay's state. -/
def State.bringUp (s : State) (failed : List Nat) : State :=
  let keep := s.retained && !s.tmLost
  let s : State := { s with
    phase := .bringup, bringAt := s.aon, retained := false, tmLost := false, pins := { s.pins with quiet := false }
    regs := if keep then s.regs else s.regs.filter (fun r => !(0x1000 ≤ r.1 && r.1 < 0x1400))
    tile := if keep then s.tile else [], ecc := if keep then s.ecc else [] }
  let s := s.setReg 0 0xB00A21CA4E
  let one (b : Bool) : Nat := if b then 1 else 0
  let s := ((s.setFld F.pwrRetained (one keep)).setFld F.pwrLockRelay (one s.relay.locked)).setFld F.pwrDbgLocked (one s.relay.dbgLock)
  let s := s.selfTest failed keep
  let s := if s.relay.modid == .failed then s.raise { unit := 0xEE, cause := 0x43 } else s
  ((List.range 6).foldl (fun s p => if s.linkIs p 5 then s.raise { unit := 0xE8 + p, cause := 0x40, line := true } else s) s).drive

-- the power-domain inputs (R27)

/-- The tile-memory array when a combination is judged: kept or lost (R27, R404). -/
def State.array (s : State) (kept : Bool) : State :=
  if kept then { s with retained := !s.tmLost } else { s with retained := false, tmLost := true, tile := [], ecc := [] }

/-- The combination of the five power-domain inputs that stands now is judged (R27): the core runs with X0's combination alone; `failed` is
what self-test would find. -/
def State.powerJudge (s : State) (failed : List Nat) : State :=
  let p := s.pins
  let s := s.setPins { p with coreAck := p.coreReq, tmAck := p.tmReq || p.tmRet }
  match p.coreReq, p.tmReq, p.tmRet, p.isoN, p.rstN with
  | true, true, false, true, true => if s.coreRuns then s.drive else s.coreReset.bringUp failed
  | false, false, true, false, false => { s.coreReset.array true with phase := .x2 }
  | false, false, false, false, false => { s.coreReset.array false with phase := .x3 }
  | true, true, false, _, false => s.coreReset
  | true, true, true, false, false => s.coreReset
  | _, _, r, _, _ => s.coreReset.array r

-- ready (R339, R411 step 5)

/-- The other members of this chip's replica group, by the relay's group table (R339, R394). -/
def State.groupPeers (s : State) : List Nat :=
  ((s.regs.map (·.1)).filter (fun o => 0x58000 ≤ o && o < 0x60000)).flatMap (fun o =>
    let n := (o - 0x58000) / 8
    let ms := (List.range (s.fld (F.grpSize n))).map (fun i => s.fld (F.grpM n i))
    if ms.contains s.self then ms.filter (· != s.self) else [])

/-- READY to every chip in the not-ready log and to the group's members (R339). -/
def State.sendReady (s : State) : State :=
  (s.relay.nrLog ++ s.groupPeers).eraseDups.foldl (fun s c => s.inject (s.mkFrame 6 0 c 0 0 0 0 0)) s

/-- Bring-up ends (R411 step 5), unless a unit that cannot be eclipsed failed or a fatal fault stands. -/
def State.bringReady (s : State) : State :=
  if s.phase == .bringup && s.pins.clkRun && s.fld F.bringupErr == 0xFFFF && !s.coll.fatal then
    let s := ({ s with phase := .x0 }.setFld F.pwrReady 1)
    ((s.setRelay { s.relay with coreReady := true }).sendReady).sendMsgs
  else s

-- clocks and time

/-- xh_clk runs again after `ns` (R408, R39): captured faults are recorded, held accesses performed. A clock stopped for longer than 1 ms
leaves it open which of them take effect (log entry 2). -/
def State.clkRestart (s : State) (ns : Nat) : State :=
  if s.pins.clkRun then s
  else
    let s := s.advance ns
    let faults := s.captured
    let accs := s.heldAcc
    let s : State := { s with pins := { s.pins with clkRun := true }, captured := [], heldAcc := [] }
    let s := faults.foldl (fun s (u, c, x, l) => s.raise { unit := u, cause := c, ctx := x, line := l }) s
    let s := accs.foldl (fun s a =>
      if ns ≤ 1000000 then s.heldAccess a
      else
        let (b, s) := s.drawBool
        if b then s.heldAccess a else s) s
    s.sendMsgs

/-- xh_aon_rst_n falls: the relay domain takes its reset values (R10, R414, R419); what belongs to the core stays. -/
def State.aonReset (s : State) : State :=
  let r := s.relay
  let s : State := { s with
    pins := { s.pins with aonRstN := false }, regs := s.regs.filter (fun x => !Reg.relayDomain x.1)
    relay := { coreReady := r.coreReady, inbox := r.inbox, tx := r.tx, log := r.log, rx := r.rx } }
  let s := (s.setFld F.pwrLockRelay 0).setFld F.pwrDbgLocked 0
  (List.range 6).foldl (fun s p => s.lineClear (0xE8 + p) 0x40) s

-- responses (R12, R15)

/-- A write of a unit answered with an error: recorded, and its work ends with 0x16 and the port (R15). -/
def State.writeFails (s : State) (x : Txn) : State :=
  let t := match x.who with
    | some (.entry id) => ((s.entryAt id).map (·.1)).getD 15
    | _ => (s.txnOf x).getD 15
  let (sq, ep) := match x.who with | some w => s.whoSeq w | none => (0, 0)
  let s := s.raise { unit := x.unit, cause := 0x14, ctx := t, write := true, nodeSeq := sq, epoch := ep }
  match x.who with
  | some (.node g n) =>
    let mine : Bool := match (s.chan x.unit).prog with | some p => p.g == g && p.n == n | none => false
    if x.unit < 64 ∧ mine then s.endProg x.unit 0x16 x.port else s.failNode g n 0x16 x.port
  | some (.chan ch) => s.endProg ch 0x16 x.port
  | some (.entry id) =>
    match s.entryAt id with
    | some (c, e) => s.modCtx c (fun y => { y with entries := y.entries.map (fun z =>
        if z.id == e.id then { z with bad := some (z.bad.getD (0x16, x.port)) } else z) })
    | none => s
  | none => s

/-- A write of an entry has returned: with its last one the entry completes, with the first failure among them (R62). -/
def State.entryWritten (s : State) (w : Option Who) : State :=
  match w with
  | some (.entry id) =>
    if s.txns.any (fun y => !y.isRec && y.who == some (.entry id)) then s
    else match s.entryAt id with
      | some (c, e) => (match e.bad, e.due with
        | some (st, d), _ => s.finish c e st d
        | none, some (r, a) => s.finish c e 1 0 r none a
        | none, none => s)
      | none => s
  | _ => s

/-- A record's write is answered (R15, R62): its first byte follows the others; then its events arise. An error is recorded against the
port, and the record is written once more; a second one is a fatal fault of the record path. -/
def State.recAnswer (s : State) (i : Nat) (x : Txn) (err : Bool) : State :=
  if err then
    if x.again then State.raise { s with txns := s.txns.eraseIdx i } { unit := 0xDD, cause := 0x13, ctx := x.ctx, write := true }
    else State.issue (State.raise { s with txns := s.txns.set i { x with stage := 1, sent := false, again := true } }
      { unit := 0xE0 + x.port, cause := 0x14, ctx := x.ctx, write := true })
  else if x.stage = 1 then
    State.issue { s.putCells x.nc ((cellsAt x.pa x.bytes).drop 1) with txns := s.txns.set i { x with stage := 2, sent := false } }
  else x.ev.foldl (fun s v => s.event v) (State.issue { s.putCells x.nc ((cellsAt x.pa x.bytes).take 1) with txns := s.txns.eraseIdx i })

/-- The response to the `i`th write, if the port has issued it: its bytes stand in memory, visible to every observer (R290), and the port can
issue the next. -/
def State.writeAnswer (s : State) (i : Nat) (err : Bool) : State :=
  match s.txns[i]? with
  | some x =>
    if !(s.coreRuns && s.pins.clkRun && x.sent) then s
    else if x.isRec then s.recAnswer i x err
    else
      let s : State := { s with txns := s.txns.eraseIdx i }
      if err then (s.issue.writeFails x).entryWritten x.who else (State.issue (s.putCells x.nc x.cells)).entryWritten x.who
  | none => s

/-- From now on reads of a 64-byte block are answered with an error, or no longer (R15). -/
def State.readsAnswer (s : State) (pa : Nat) (err : Bool) : State :=
  let l := s.badRd.filter (· != pa / 64)
  { s with badRd := if err then pa / 64 :: l else l }

/-- From now on the data of a 64-byte block are uncorrectable, or no longer (R146, R174). -/
def State.poisons (s : State) (pa : Nat) (on : Bool) : State :=
  let l := s.poison.filter (· != pa / 64)
  { s with poison := if on then pa / 64 :: l else l }

-- the rows

/-- CORE_RESET_ASSERT (R25, R26, R31). -/
def execCoreResetAssert (s : State) : Out := .next ((s.setPins { s.pins with rstN := false }).powerJudge [])
/-- CORE_RESET_RELEASE (R25, R411): bring-up begins when the core is powered and not isolated. -/
def execCoreResetRelease (failed : List Nat) (s : State) : Out :=
  .next ((s.setPins { s.pins with rstN := true }).powerJudge failed)
/-- BRINGUP_READY (R411 step 5). -/
def execBringupReady (s : State) : Out := .next s.bringReady
/-- POWER_INPUT_CHANGE (R27). -/
def execPowerInputChange (coreReq tmReq tmRet isoN rstN : Bool) (s : State) : Out :=
  .next ((s.setPins { s.pins with coreReq := coreReq, tmReq := tmReq, tmRet := tmRet, isoN := isoN, rstN := rstN }).powerJudge [])
/-- THERM_TRIP (R32): a rising edge of xh_therm_trip. -/
def execThermTrip (s : State) : Out :=
  .next (if s.pins.therm then s
    else (s.setPins { s.pins with therm := true }).raise { unit := 0xDE, cause := 0x50, line := true })
/-- XH_CLK_STOP (R408): in X1, or while the core is in reset or off (R23). -/
def execXhClkStop (s : State) : Out :=
  if s.phase == .x1 || !s.coreRuns then .next (s.setPins { s.pins with clkRun := false })
  else .fault (.hostRuleBroken 23)
/-- XH_CLK_RESTART (R408). -/
def execXhClkRestart (ns : Nat) (s : State) : Out := .next (s.clkRestart ns)
/-- TIME_COUNTER_DECREASE (R34). -/
def execTimeCounterDecrease (tc : W64) (s : State) : Out :=
  .next (if tc.toNat < s.tc.toNat then { s with tc := tc }.merFault 0x33 else s)
/-- PORT_RESPONSE (R12, R15). -/
def execPortResponse (a : PortAnswer) (s : State) : Out :=
  .next (match a with | .write i err => s.writeAnswer i err | .reads pa err => s.readsAnswer pa err | .poison pa on => s.poisons pa on)
/-- MESSAGE_ACCEPT (R22): the message that waits for a vector is accepted; a pending event sends the next. -/
def execMessageAccept (v : Nat) (s : State) : Out :=
  .next (if s.msgWait.contains v then { s with msgWait := s.msgWait.filter (· != v) }.sendMsg v else s)
/-- AON_RESET_ASSERT (R10, R419). -/
def execAonResetAssert (s : State) : Out := .next s.aonReset

end Sys2Proof.Machine
end

