-- ==== Sys2Proof/Machine/Receive.lean ====
section
/-! DEFINITION. The core's side of the fabric: DATA and BATCH frames at their receiver (R327, R328, R330, R333), the answers at the sender
(R327, R329, R337 to R339) with their timers, and the frames of the replica protocol (R396 to R401). -/

namespace Sys2Proof.Machine

-- the head of the core's queue of frames

/-- Take the oldest frame for the core if it satisfies `p`. -/
def State.takeFrame (s : State) (p : Frame → Bool) (f : Frame → State → State) : State :=
  match s.relay.inbox with
  | x :: l => if s.engines && p x then f x (s.setRelay { s.relay with inbox := l }) else s
  | [] => s

/-- Answer a frame's source on the control lane (R327, R329). -/
def State.answer (s : State) (typ : Nat) (f : Frame) (seq word : Nat) : State :=
  s.inject (s.mkFrame typ 0 f.srcChip f.srcTenant f.dstTenant f.mailbox seq word)

/-- Serial order of pair sequences, modulo 2^24: `a` is `b` or later. -/
def seqReached (a b : Nat) : Bool := (a + 2 ^ 24 - b % 2 ^ 24) % 2 ^ 24 < 2 ^ 23

-- the receiver

/-- The source that a chip belongs to: its group, or itself (R331). -/
def State.sourceOf (s : State) (chip : Nat) : Nat := if s.fld (F.grpSize chip) = 0 then chip else s.fld (F.grpId chip)
/-- The fabric group table marks a chip as out of service (R401). -/
def State.markedOut (s : State) (chip : Nat) : Bool :=
  s.fld (F.grpSize chip) != 0 && !bit (s.fld (F.grpIn chip)) (s.fld (F.grpMember chip))

def State.rxIdx (s : State) (f : Frame) : Option Nat :=
  s.relay.rx.findIdx? (fun x => x.srcGroup == s.sourceOf f.srcChip && x.srcTenant == f.srcTenant && x.dstTenant == f.dstTenant && x.mailbox == f.mailbox)

def State.modRx (s : State) (i : Nat) (f : RxPair → RxPair) : State :=
  s.setRelay { s.relay with rx := s.relay.rx.modify i f }

/-- NACK 0x01, at most one per pair and microsecond (R327). -/
def State.nackSeq (s : State) (i : Nat) (x : RxPair) (f : Frame) : State :=
  match x.nackedAt with
  | some t => if s.aon < t + 1000 then s else go
  | none => go
where
  go : State :=
    (s.modRx i (fun x => { x with nackedAt := some s.aon })).answer 4 f (if x.synced then x.expected else f.pairSeq) 1

/-- A BATCH frame is stale (R330): a pair that has accepted none keeps no epochs yet. -/
def RxPair.stale (x : RxPair) (run seq : W32) (rep : BitVec 8) : Bool :=
  x.synced && (serialBelow 32 run.toNat x.runEpoch.toNat
    || (run == x.runEpoch && seq == x.nodeSeq && serialBelow 8 rep.toNat x.repEpoch.toNat))

/-- ACK of the highest sequence accepted (R329). -/
def State.ackPair (s : State) (i : Nat) (f : Frame) : State :=
  match s.relay.rx[i]? with
  | some x => (s.modRx i (fun x => { x with unacked := 0 })).answer 3 f ((x.expected + 2 ^ 24 - 1) % 2 ^ 24) 0
  | none => s

/-- Steps 8 and 9 of R327 and what follows: the window, the write, the arrival, the acknowledgement (R198, R199, R329, R333). The frame
is consumed in every case. -/
def State.acceptFrame (s : State) (i : Nat) (m : Mailbox) (f : Frame) : State :=
  let batch := f.typ == 2
  let q : Req := { t := f.dstTenant, unit := 0xDF, who := .chan 0xDF }
  let s := s.modRx i (fun x => { x with expected := (f.pairSeq + 1) % 2 ^ 24, synced := true, srcChip := f.srcChip
                                        left := if batch then fieldAt f.payload 24 1 else x.left - 1 })
  if !batch && m.winLen < f.offset + f.lenM1 + 1 then (s.sat (F.mbxViol f.dstTenant)).answer 4 f f.pairSeq 7
  else
    let write : M Unit :=
      if batch then
        (if m.slogEn then tileWrite q (m.slogBase + 32 * (fieldAt f.payload 12 2 % 2 ^ m.slogLog2)) (slice f.payload 0 32) else return ())
      else tileWrite q (m.winBase + f.offset) (slice f.payload 0 (f.lenM1 + 1))
    match write.on s with
    | (.error _, s) => s.answer 4 f f.pairSeq 8
    | (.ok _, s) =>
      let s := if batch then s.modRx i (fun x => { x with
          nodeSeq := batchSeq f, runEpoch := BitVec.ofNat 32 (fieldAt f.payload 20 4), repEpoch := BitVec.ofNat 8 (fieldAt f.payload 15 1) })
        else s.addCounter m.counter 1
      let s := s.modRx i (fun x => { x with unacked := x.unacked + 1, accAt := if x.unacked = 0 then s.aon else x.accAt })
      match s.relay.rx[i]? with
      | some x => if (!batch && x.left == 0) || 16 ≤ x.unacked then s.ackPair i f else s
      | none => s

/-- Steps 5 to 7 of R327, for a pair that has its entry. -/
def State.checkFrame (s : State) (i : Nat) (m : Mailbox) (f : Frame) : State :=
  match s.relay.rx[i]? with
  | none => s
  | some x =>
    let batch := f.typ == 2
    let seq : W32 := if batch then batchSeq f else x.nodeSeq
    if !x.synced && !batch then s.answer 4 f f.pairSeq 5
    else if x.synced && f.pairSeq % 2 ^ 24 != x.expected then
      if seqReached f.pairSeq x.expected then s.nackSeq i x f else s.answer 3 f ((x.expected + 2 ^ 24 - 1) % 2 ^ 24) 0
    else if batch && x.stale (BitVec.ofNat 32 (fieldAt f.payload 20 4)) seq (BitVec.ofNat 8 (fieldAt f.payload 15 1)) then
      (s.sat (F.stale f.dstTenant)).nackSeq i x f
    else if f.word != crc32c (frameMsg f seq) then s.nackSeq i x f
    else s.acceptFrame i m f

/-- A DATA or BATCH frame at its receiver, step by step (R327). -/
def State.receiveFrame (s : State) (f : Frame) : State :=
  let t := f.dstTenant
  match s.fld (F.enable t), (s.ctx t).mailboxes.find? (·.idx == f.mailbox) with
  | 1, some m =>
    if s.markedOut f.srcChip || !(m.srcAny || (m.srcGroup == s.sourceOf f.srcChip && m.srcTenant == f.srcTenant)) then
      (s.sat (F.mbxViol t)).answer 4 f f.pairSeq 3
    else match s.rxIdx f with
      | some i => s.checkFrame i m f
      | none =>
        if 8192 ≤ s.relay.rx.length then s.answer 4 f f.pairSeq 4
        else
          let x : RxPair := { srcGroup := s.sourceOf f.srcChip, srcTenant := f.srcTenant, dstTenant := t, mailbox := f.mailbox, srcChip := f.srcChip }
          (s.setRelay { s.relay with rx := s.relay.rx ++ [x] }).checkFrame s.relay.rx.length m f
  | _, _ => s.answer 4 f f.pairSeq 2

/-- 1 µs after an acceptance that is not acknowledged yet (R329). -/
def State.ackDelay (s : State) (i : Nat) : State :=
  match s.relay.rx[i]? with
  | some x =>
    if s.engines && 0 < x.unacked then
      let s := s.advanceTo (x.accAt + 1000)
      (s.modRx i (fun x => { x with unacked := 0 })).inject
        (s.mkFrame 3 0 x.srcChip x.srcTenant x.dstTenant x.mailbox ((x.expected + 2 ^ 24 - 1) % 2 ^ 24) 0)
    else s
  | none => s

-- the sender

/-- The pair that an answer concerns. -/
def State.txOf (s : State) (f : Frame) : Option Nat := s.txIdx f.dstTenant f.srcChip f.srcTenant f.mailbox

/-- The logged frame that a NACK names. A NACK of a relay at the hop limit comes from another chip than the pair's (R323). -/
def State.nacked (s : State) (f : Frame) : Option LogFrame :=
  s.relay.log.find? (fun l => l.sent && l.frame.pairSeq == f.pairSeq && (match s.relay.tx[l.pair]? with
    | some x => x.srcTenant == f.dstTenant && x.dstTenant == f.srcTenant && x.mailbox == f.mailbox && (bits f.word 0 8 == 9 || x.dstChip == f.srcChip)
    | none => false))

/-- Channels that wait for room in the log go on (R329). -/
def State.wakeChans (s : State) : State :=
  (List.range 64).foldl (fun s ch =>
    match (s.chan ch).prog with
    | some p => if s.chSt ch = 4 && !s.walking (.chan ch) && !p.ended then s.chTo ch 2 else s
    | none => s) s

/-- Frames of a pair up to a sequence leave the log (R329). -/
def State.freeLog (s : State) (i seq : Nat) : State :=
  (s.setRelay { s.relay with log := s.relay.log.filter (fun l => !(l.pair == i && seqReached seq l.frame.pairSeq)) }).wakeChans

/-- Send the pair's transmitted frames again that `p` selects, unless the pair waits (R327, R329). -/
def State.resend (s : State) (i : Nat) (p : Frame → Bool) : State :=
  let l := s.relay.log.filter (fun l => l.pair == i && l.sent && p l.frame)
  let waits := match s.relay.tx[i]? with | some x => x.waitUntil.isSome | none => true
  if !s.transmits || l.isEmpty || waits then s
  else l.foldl (fun s l => s.inject l.frame (some (l.g, l.n))) ((s.sat F.resendCnt l.length).modTx i (fun x => { x with adv := s.aon }))

/-- An ACK frees the logged frames up to its sequence; the active member of a group reports it (R329, R331). -/
def State.acked (s : State) (f : Frame) : State :=
  match s.txOf f with
  | some i =>
    if s.relay.log.any (fun l => l.pair == i && l.sent && seqReached f.pairSeq l.frame.pairSeq) then
      let s := (s.freeLog i f.pairSeq).modTx i (fun x => { x with adv := s.aon, nrSince := none, synced := true })
      if s.inGroup && s.rep.active == s.rep.member then
        let e := f.srcChip + f.srcTenant <<< 12 + f.dstTenant <<< 15 + f.mailbox <<< 18 + f.pairSeq <<< 34
        s.sendRep 4 (List.replicate 28 0 ++ leBytes 1 1 ++ List.replicate 7 0 ++ leBytes 8 e)
      else s
    else s
  | none => s

/-- The program that produced a logged frame ends with a failure; between two slices its node fails (R327). -/
def State.endSender (s : State) (l : LogFrame) (status detail : Nat) : State :=
  if ((s.chan l.chan).prog.map (fun p => p.g == l.g && p.n == l.n)).getD false then s.endProg l.chan status detail
  else match s.node l.g l.n with
    | some _ => (s.failNode l.g l.n status detail).modChan l.chan (fun c => { c with idle := c.idle.filter (fun p => !(p.g == l.g && p.n == l.n)) })
    | none => s

/-- A batch count of a list of frames up to the next BATCH frame. -/
def batchLeft : List LogFrame → Nat
  | [] => 0
  | l :: r => if l.frame.typ = 2 then 0 else batchLeft r + 1

/-- The frames of a pair under new numbers, a BATCH frame first (R327, NACK 0x05). -/
def State.renumber (s : State) (i : Nat) : State :=
  match s.relay.tx[i]?, s.relay.log.filter (·.pair == i) with
  | some x, l :: r =>
    let (sq, rep) := s.whoSeq (.node l.g l.n)
    let open_ : List LogFrame := if l.frame.typ = 2 then [] else
      [{ l with frame := { l.frame with typ := 2, offset := 0, lenM1 := 31
                                        payload := batchPayload ⟨0, 0, 0, false⟩ x.batch rep.toNat sq (s.ctx l.t).runEpoch (batchLeft (l :: r)) } }]
    let new := (open_ ++ l :: r).mapIdx (fun k l => { l with sent := false, frame := { l.frame with pairSeq := (x.nextSeq + k) % 2 ^ 24 } })
    let s := s.setRelay { s.relay with log := s.relay.log.filter (·.pair != i) ++ new }
    let s := s.sat F.resendCnt (l :: r).length
    (s.modTx i (fun x => { x with nextSeq := (x.nextSeq + new.length) % 2 ^ 24, batch := (x.batch + open_.length) % 65536 })).transmit
  | _, _ => s

/-- What a sender does on a NACK, by its reason (R327). -/
def State.nackTaken (s : State) (f : Frame) : State :=
  match bits f.word 0 8 with
  | 1 => (match s.txOf f with
    | some i => s.resend i (fun x => seqReached x.pairSeq f.pairSeq)
    | none => s)
  | 4 => (match s.nacked f with
    | some l => s.modTx l.pair (fun x => { x with waitUntil := some (s.aon + 1000000), nack4 := true, back := f.pairSeq, nrSince := some (x.nrSince.getD s.aon) })
    | none => s)
  | 5 => (match s.nacked f with
    | some l => s.renumber l.pair
    | none => s)
  | r =>
    match s.nacked f with
    | some l =>
      if r = 2 ∨ r = 3 ∨ r = 9 then
        let s := s.endSender l 0x1C 0x0B
        ((s.setRelay { s.relay with log := s.relay.log.filter (·.pair != l.pair) }).modTx l.pair (fun x => { x with synced := false })).wakeChans
      else if r = 7 ∨ r = 8 then
        let (d, s) := s.drawBelow 65536
        s.endSender l 0x15 d
      else s
    | none => s

/-- A member is lost: it is out, and this chip records it (R398, R399). -/
def State.memberLost (s : State) (m : Nat) : State :=
  if s.inGroup && s.partners.contains m then
    (s.raise { unit := 0xEF, cause := 0x71 }).decide { t := 0, own := none, seq := 0, num := 0, digests := [] } (2 ^ m) false
  else s

/-- The member of this chip's group that is a chip. -/
def State.memberOf (s : State) (chip : Nat) : Option Nat := s.partners.find? (fun m => s.rep.members.getD m 0 == chip)

/-- NOT_READY (R338, R398): the pair waits the retry-after time and a random part of it again. A pair that waits already keeps its wait
and goes back to the earliest frame refused. -/
def State.notReadyTaken (s : State) (f : Frame) : State :=
  let s := match s.memberOf f.srcChip with | some m => s.memberLost m | none => s
  match s.txOf f with
  | some i =>
    if s.relay.log.any (fun l => l.pair == i && l.sent && l.frame.pairSeq == f.pairSeq) then
      let (d, s) := s.drawBelow (1000 * f.word + 1)
      s.modTx i (fun x =>
        if x.waitUntil.isSome then { x with back := if seqReached f.pairSeq x.back then x.back else f.pairSeq }
        else { x with waitUntil := some (s.aon + 1000 * f.word + d), nack4 := false, back := f.pairSeq, nrSince := some (x.nrSince.getD s.aon) })
    else s
  | none => s

/-- A wait of a pair is over: it resends from the refused frame (R327, R338). -/
def State.retryPair (s : State) (i : Nat) (nack4 : Bool) : State :=
  match s.relay.tx[i]? with
  | some x =>
    match x.waitUntil with
    | some t =>
      if s.engines && x.nack4 == nack4 then
        let s := (s.advanceTo t).modTx i (fun x => { x with waitUntil := none, nack4 := false })
        (s.resend i (fun f => seqReached f.pairSeq x.back)).transmit
      else s
    | none => s
  | none => s

/-- READY ends the waits for its sender: they resend within 64 µs (R338, R339). -/
def State.readyTaken (s : State) (f : Frame) : State :=
  (List.range s.relay.tx.length).foldl (fun s i =>
    match s.relay.tx[i]? with
    | some x =>
      if x.dstChip = f.srcChip ∧ x.waitUntil.isSome ∧ !x.nack4 then
        let (d, s) := s.drawBelow 64001
        s.modTx i (fun x => { x with waitUntil := some (s.aon + d), nrSince := none })
      else s
    | none => s) s

/-- No acknowledgement for `ack_timeout_us` while frames are outstanding (R329). -/
def State.ackLate (s : State) (i : Nat) : State :=
  match s.relay.tx[i]? with
  | some x =>
    if s.engines && x.waitUntil.isNone && s.relay.log.any (fun l => l.pair == i && l.sent) then
      (s.advanceTo (x.adv + 1000 * s.fld F.ackTimeout)).resend i (fun _ => true)
    else s
  | none => s

/-- A destination has stayed not ready for `nr_limit_ms`: the channels whose frames wait park (R338, R144). -/
def State.nrLimit (s : State) (i : Nat) : State :=
  match s.relay.tx[i]? with
  | some x =>
    match x.nrSince with
    | some t =>
      if s.engines && s.powerTo.isNone then
        let s := (s.advanceTo (t + 1000000 * s.fld (F.nrLimit x.srcTenant))).modTx i (fun x => { x with nrSince := none })
        (List.range 64).foldl (fun s ch =>
          match (s.chan ch).prog with
          | some p =>
            if (s.chSt ch = 2 ∨ s.chSt ch = 4 ∨ s.chSt ch = 7) ∧ !s.walking (.chan ch) ∧ (s.pfaults.filter (·.t == p.ctx)).length < 64
                ∧ s.relay.log.any (fun l => l.pair == i && l.chan == ch && l.g == p.g && l.n == p.n) then s.park ch
            else s
          | none => s) s
      else s
    | none => s
  | none => s

-- the replica protocol

/-- A REPLICA frame of a type from a partner of this chip's group; it keeps its member from being lost (R398). -/
def State.takeReplica (s : State) (rtype : Nat) (f : Nat → List Byte → State → State) : State :=
  s.takeFrame (fun x => x.typ == 7 && bits (fieldAt x.payload 0 1) 0 4 == rtype) (fun x s =>
    let m := bits (fieldAt x.payload 0 1) 4 2
    if s.inGroup && fieldAt x.payload 2 2 == s.rep.groupId && s.partners.contains m then
      f m x.payload (s.setRep { s.rep with lastHeard := (m, s.aon) :: s.rep.lastHeard.filter (·.1 != m) })
    else s)

/-- A DIGEST frame (R396, R397, R399). -/
def State.digestTaken (s : State) : State :=
  s.takeReplica 0 (fun m b s =>
    let fl := fieldAt b 34 1
    let d : Digest := ⟨BitVec.ofNat 64 (fieldAt b 22 8), BitVec.ofNat 32 (fieldAt b 30 4), bit fl 0, bit fl 1⟩
    (s.putDigest (bits (fieldAt b 8 1) 0 3) (BitVec.ofNat 32 (fieldAt b 12 4)) (fieldAt b 20 2) m none d).settle)

/-- A HEARTBEAT frame (R397, R398). -/
def State.heartbeatTaken (s : State) : State :=
  s.takeReplica 1 (fun m b s =>
    s.setRep { s.rep with stalled := (m, bit (fieldAt b 34 1) 2) :: s.rep.stalled.filter (·.1 != m) })

/-- Every partner hears a heartbeat (R397). -/
def State.heartbeatSend (s : State) : State :=
  if s.engines && s.inGroup then s.sendRep 1 (List.replicate 26 0 ++ leBytes 1 (if s.repStalled then 4 else 0)) else s

/-- 30 µs without a frame from a member (R398). -/
def State.memberSilent (s : State) (m : Nat) : State :=
  match s.rep.lastHeard.find? (·.1 == m) with
  | some (_, t) => if s.engines && s.inGroup && s.partners.contains m then (s.advanceTo (t + 30000)).memberLost m else s
  | none => s

/-- A VERDICT frame (R399). -/
def State.verdictTaken (s : State) : State :=
  s.takeReplica 2 (fun m b s =>
    let out := bits (fieldAt b 35 1) 0 3
    let s := s.setRep { s.rep with verdicts := (m, out) :: s.rep.verdicts.filter (·.1 != m) }
    s.agree out (s.rep.intervals.any (fun i => s.judge i == .out out true)))

/-- An ACK_REPORT frame frees what the active member has had acknowledged (R331). -/
def State.ackReportTaken (s : State) : State :=
  s.takeReplica 4 (fun _ b s =>
    (List.range (Nat.min 26 (fieldAt b 36 1))).foldl (fun s k =>
      let e := fieldAt b (44 + 8 * k) 8
      match s.txIdx (bits e 15 3) (bits e 0 12) (bits e 12 3) (bits e 18 16) with
      | some i => s.freeLog i (bits e 34 24)
      | none => s) s)

/-- The next MEMBER_OUT notice (R401): the first of its group and generation updates the table and is passed on; a notice about this
chip's own group changes its membership. -/
def State.noticeTaken (s : State) : State :=
  match s.relay.notices with
  | [] => s
  | (arr, f) :: l =>
    let s := s.setRelay { s.relay with notices := l }
    let b := f.payload
    let member := bits (fieldAt b 0 1) 4 2
    let group := bits (fieldAt b 2 2) 0 12
    let gen := fieldAt b 4 4
    let out := bits (fieldAt b 35 1) 0 3
    if serialBelow 32 (s.fld (F.fabGen group)) gen then
      let s := ((s.setFld (F.fabGen group) gen).grpOut group out).floodOut b arr
      let r := s.rep
      if r.size ≠ 0 ∧ !r.out ∧ r.groupId = group then
        let left := r.inService.toNat &&& (7 ^^^ out)
        if bit out r.member then
          let s := s.setRep { r with out := true, gen := BitVec.ofNat 32 gen, inService := BitVec.ofNat 3 left }
          s.raise { unit := 0xEF, cause := 0x73 }
        else
          -- a member that names itself is lost (R398)
          let s := if bit out member && bit r.inService.toNat member then s.raise { unit := 0xEF, cause := 0x71 } else s
          let low := ((List.range 3).find? (fun m => bit left m)).getD r.member
          let s := s.setRep { s.rep with inService := BitVec.ofNat 3 left, gen := BitVec.ofNat 32 gen, verdicts := []
                                         active := if bit left r.active then r.active else low }
          s.passAll.transmit
      else s
    else s

/-- The audit of the oldest disputed interval ends (R400): `ours` and `others` are the audit's digests, with the members' evidence. -/
def State.auditEnds (s : State) (ours : List Byte) (evidence : Bool) (others : List (Nat × List Byte × Bool)) : State :=
  match s.rep.intervals.find? (·.audit) with
  | some i =>
    if !(s.engines && s.inGroup) then s
    else
      let nd := match i.own with | some (g, n) => s.node g n | none => none
      let replayable := match nd with | some n => !n.atomic && !n.selfRw | none => false
      let all := (s.rep.member, ours, evidence) :: others.filter (fun o => s.partners.contains o.1)
      if !replayable then s.raise { unit := 0xEF, cause := 0x72 }
      else
        let s := match i.own with | some (g, n) => s.modNode g n (fun x => { x with rep := x.rep + 1 }) | none => s
        if all.all (fun o => slice o.2.1 0 12 == slice ours 0 12) then
          let first := (i.digests.find? (·.1 == s.rep.member)).map (fun d => leBytes 8 d.2.sum.toNat ++ leBytes 4 d.2.cnt.toNat)
          let s := if first == some (slice ours 0 12) then s
            else (((nd.map (·.units)).getD []).foldl (fun s u => s.raise { unit := u, cause := 0x74 }) (s.raise { unit := 0xEF, cause := 0x70 }))
          s.passInterval i
        else match all.filter (·.2.2) with
          | [o] => s.decide i (2 ^ o.1) false
          | _ => s.raise { unit := 0xEF, cause := 0x72 }
  | none => s

-- the rows

/-- DATA (R327). -/
def execData (s : State) : Out := .next (s.takeFrame (·.typ == 1) (fun f s => s.receiveFrame f))
/-- BATCH (R327, R330). -/
def execBatch (s : State) : Out := .next (s.takeFrame (·.typ == 2) (fun f s => s.receiveFrame f))
/-- ACK (R329). -/
def execAck (s : State) : Out := .next (s.takeFrame (·.typ == 3) (fun f s => s.acked f))
/-- ACK_DELAY_TIMEOUT (R329). -/
def execAckDelayTimeout (i : Nat) (s : State) : Out := .next (s.ackDelay i)
/-- ACK_TIMEOUT (R329). -/
def execAckTimeout (i : Nat) (s : State) : Out := .next (s.ackLate i)
/-- NACK (R327). -/
def execNack (s : State) : Out := .next (s.takeFrame (·.typ == 4) (fun f s => s.nackTaken f))
/-- NACK_RETRY_TIMEOUT (R327). -/
def execNackRetryTimeout (i : Nat) (s : State) : Out := .next (s.retryPair i true)
/-- NOT_READY (R338). -/
def execNotReady (s : State) : Out := .next (s.takeFrame (·.typ == 5) (fun f s => s.notReadyTaken f))
/-- RETRY_AFTER_EXPIRY (R338). -/
def execRetryAfterExpiry (i : Nat) (s : State) : Out := .next (s.retryPair i false)
/-- NR_LIMIT_TIMEOUT (R338). -/
def execNrLimitTimeout (i : Nat) (s : State) : Out := .next (s.nrLimit i)
/-- READY (R338, R339). -/
def execReady (s : State) : Out := .next (s.takeFrame (·.typ == 6) (fun f s => s.readyTaken f))
/-- DIGEST (R399). -/
def execDigest (s : State) : Out := .next s.digestTaken
/-- AUDIT_COMPLETE (R400). -/
def execAuditComplete (ours : List Byte) (evidence : Bool) (others : List (Nat × List Byte × Bool)) (s : State) : Out :=
  .next (s.auditEnds ours evidence others)
/-- HEARTBEAT (R398). -/
def execHeartbeat (s : State) : Out := .next s.heartbeatTaken
/-- HEARTBEAT_PERIOD (R397). -/
def execHeartbeatPeriod (s : State) : Out := .next s.heartbeatSend
/-- MEMBER_LOST_TIMEOUT (R398). -/
def execMemberLostTimeout (m : Fin 3) (s : State) : Out := .next (s.memberSilent m)
/-- VERDICT (R399). -/
def execVerdict (s : State) : Out := .next s.verdictTaken
/-- MEMBER_OUT (R401): the relay's own business, whatever the core does. -/
def execMemberOut (s : State) : Out := .next (if s.pins.aonRstN then s.noticeTaken else s)
/-- ACK_REPORT (R331). -/
def execAckReport (s : State) : Out := .next s.ackReportTaken

end Sys2Proof.Machine
end

