-- ==== Sys2Proof/Machine/Times.lean ====
section
/-! DEFINITION. What time and the units' own lines bring: Meridian's rows (R340 to R359), the ephemeris as entries fall due (R354), the
fault collector's rows (R378 to R388), the power estimate (R410). -/

namespace Sys2Proof.Machine

-- Meridian

/-- An input has been active for longer than `stuck_us` (R344). -/
def State.stuckExpire (s : State) (b : Nat) : State :=
  let us := s.fld (F.mbStuckUs b)
  let x := s.base b
  let mode := s.fld (F.mbMode b)
  let since : Option Nat := if mode = 1 then x.zAt else if (mode = 2 ∨ mode = 3) ∧ x.a then some x.activeAt else none
  match since with
  | some t =>
    if s.merUp && us != 0 && s.fld (F.mbState b) != 0 && !x.stuck then
      (((s.advanceTo (t + 1000 * us)).modBase b (fun x => { x with stuck := true })).merFault 0x30 true)
    else s
  | none => s

/-- No counted edge within 1.5 times the tracked interval (R348). -/
def State.silence (s : State) (b : Nat) : State :=
  if s.merUp && s.fld (F.mbState b) == 2 && s.fld (F.mbHoldUs b) != 0 then (s.advanceTo (s.silenceAt b)).holdEnter b 1 else s

/-- Holdover has lasted `hold_us` (R348). -/
def State.holdExpire (s : State) (b : Nat) : State :=
  if s.merUp && s.fld (F.mbState b) == 3 then
    (s.advanceTo ((s.base b).holdAt + 1000 * s.fld (F.mbHoldUs b))).mbLost b
  else s

/-- A release entry that is due (R354): in X1 it waits (R358); else its node is released and completes once its edges have arrived. -/
def State.releaseDue (s : State) (e : Eph) : State :=
  let st := s.stampOf e.base
  let s := s.ephNext e
  if s.phase == .x1 || !s.pins.clkRun then s.setMer { s.mer with due := s.mer.due ++ [⟨e, st.ns, st.pos, st.hold⟩] }
  else match e.node with
    | some (g, n) => (s.timedRelease g n).nodeCompletes g n
    | none => s

/-- An entry with an action fires when it is due (R354). -/
def State.ephRow (s : State) (idx action : Nat) : State :=
  match s.ephDue idx action with
  | some (e, s) => if action = 0 then s.releaseDue e else s.ephFire e
  | none => s

-- the fault collector

/-- The work that a check found wrong fails with 0x1D and the number of the finding unit (R223, R254, R373); which unit found a check word
wrong is a free value (log entry 2). -/
def State.checkFails (s : State) (u cause : Nat) : State :=
  if cause = 0x12 ∨ cause = 0x18 ∨ cause = 0x19 then
    let (d, s) := if cause = 0x12 then s.drawBelow 0x308 else (u, s)
    if u < 64 ∧ (s.chan u).prog.isSome then s.endProg u 0x1D d
    else match s.holder (if u = 0x4A then 0x48 else u) with
      | some (g, n) => s.failNode g.id n.idx 0x1D d
      | none => s
  else s

/-- A unit's line shows a fault (R378); `merged` more faults of the class at the unit in the same XCLK are counted only (R385). -/
def State.faultRaise (s : State) (u cause ctx : Nat) (hold : Bool) (merged : Nat) : State :=
  if unitAssigned u && causeClass cause != 0 && s.coreRuns && !s.eclipsed u then
    let s := s.raise { unit := u, cause := cause, ctx := if ctx ≤ 8 then ctx else 15, line := hold }
    (if merged = 0 then s else s.sat F.mergeCnt merged).checkFails u cause
  else s

/-- What `react_act` does about a fault (R382). -/
def State.react (s : State) (f : FaultSt) : State :=
  let ecl := if s.eclipseCode f.unit = 0 then s.eclipseBegin f.unit true none else s
  match s.fld (F.reactAct f.unit) with
  | 0 => s
  | 2 =>
    if f.ctx < 8 then
      if (s.ctx f.ctx).clearing.isSome then s
      else { s with nextEntry := s.nextEntry + 1 }.clearBegin f.ctx s.nextEntry
    else ecl
  | 3 => if s.inGroup ∧ !s.partners.isEmpty then s.nameSelfOut.raise { unit := 0xEF, cause := 0x73 } else ecl
  | _ => ecl

/-- The report of a reaction (R382): a record of its own that sets no output and takes no part in escalation or in the fault state. -/
def State.report (s : State) (f : FaultSt) : State :=
  if s.vesper then s.vspShow f.unit
  else
    let (r, s) := s.mkRec { unit := f.unit, cause := 0x21, ctx := f.ctx } f.cls
    if s.iqFull then (s.overflow r).overflowed else s.iqPush r

/-- A reaction timer expires (R382). -/
def State.reactExpire (s : State) (id : W32) : State :=
  match s.coll.faults.find? (fun f => f.id == id && f.timer) with
  | some f =>
    if s.coreRuns && s.pins.clkRun then
      let s := s.advanceTo (f.since + 1000 * s.fld (F.reactUs f.unit))
      ((s.react f).ack id).report f
    else s
  | none => s

/-- The fault state ends if it can (R388). -/
def State.twilight (s : State) : State :=
  if s.fld F.faultState = 1 ∧ s.twilightOver then s.endTwilight else s

/-- The condition behind a fault ends (R378, R388). -/
def State.condEnds (s : State) (u cause : Nat) : State :=
  let s := s.lineClear u cause
  let s := if u = 0xDE ∧ cause = 0x50 then s.setPins { s.pins with therm := false } else s
  let s := if u = 0xDC ∧ cause = 0x30 then
      (List.range 4).foldl (fun s b => if s.fld (F.mbMode b) = 1 then s.modBase b (fun x => { x with zAt := none, stuck := false }) else s) s
    else s
  if s.coreRuns && s.pins.clkRun then s.twilight else s

-- the rows

/-- MERIDIAN_EDGE (R342, R343): new filtered levels, `dt` ns after the last event. -/
def execMeridianEdge (b : Fin 4) (dt : Nat) (a bLine : Bool) (s : State) : Out :=
  .next (let s := s.advance dt; if s.merUp then s.merLevels b a bLine else s)
/-- Z_INDEX_EDGE (R347). -/
def execZIndexEdge (b : Fin 4) (dt : Nat) (s : State) : Out :=
  .next (let s := s.advance dt; if s.merUp then s.zEdge b else s)
/-- STUCK_TIMEOUT (R344). -/
def execStuckTimeout (b : Fin 4) (s : State) : Out := .next (s.stuckExpire b)
/-- HOLDOVER_ENTER (R348). -/
def execHoldoverEnter (b : Fin 4) (s : State) : Out := .next (s.silence b)
/-- HOLD_LIMIT (R348). -/
def execHoldLimit (b : Fin 4) (s : State) : Out := .next (s.holdExpire b)
/-- MERIDIAN_GLITCH (R342). -/
def execMeridianGlitch (b : Fin 4) (s : State) : Out := .next (if s.merUp then s.sat (F.mbGlitch b) else s)
/-- EPH_RELEASE (R354). -/
def execEphRelease (idx : Nat) (s : State) : Out := .next (s.ephRow idx 0)
/-- EPH_ADD (R354). -/
def execEphAdd (idx : Nat) (s : State) : Out := .next (s.ephRow idx 1)
/-- EPH_STAMP (R354). -/
def execEphStamp (idx : Nat) (s : State) : Out := .next (s.ephRow idx 2)
/-- EPH_DEADLINE (R354). -/
def execEphDeadline (idx : Nat) (s : State) : Out := .next (s.ephRow idx 3)
/-- EPH_CMD_DONE (R434). -/
def execEphCmdDone (s : State) : Out := .next (if s.windowOpen && s.pins.clkRun then s.ephResult else s)
/-- FAULT_RAISE (R378). -/
def execFaultRaise (u cause ctx : Nat) (hold : Bool) (merged : Nat) (s : State) : Out := .next (s.faultRaise u cause ctx hold merged)
/-- FAULT_LINE_TEST (R379): the pairs of the units `broken` do not show their test pulse. -/
def execFaultLineTest (broken : List Nat) (s : State) : Out :=
  .next (if s.coreRuns && s.pins.clkRun then
      (broken.filter unitAssigned).foldl (fun s u => s.raise { unit := u, cause := 0x1A }) s
    else s)
/-- REACTION_TIMEOUT (R382). -/
def execReactionTimeout (id : W32) (s : State) : Out := .next (s.reactExpire id)
/-- FAULT_SPILL (R386, R387). -/
def execFaultSpill (s : State) : Out := .next (if s.phase == .x0 && s.pins.clkRun then s.spill else s)
/-- TWILIGHT_END (R388): `twilight_ms` after the last corrected or contained fault. -/
def execTwilightEnd (s : State) : Out :=
  .next (if s.coreRuns && s.pins.clkRun && s.fld F.faultState == 1 then
      (s.advanceTo (s.coll.lastNs + 1000000 * s.fld F.twilightMs)).twilight
    else s)
/-- FAULT_LINE_CLEAR (R378, R388). -/
def execFaultLineClear (u cause : Nat) (s : State) : Out := .next (s.condEnds u cause)
/-- PWR_EST_UPDATE (R410): the estimate is a free value (log entry 2). -/
def execPwrEstUpdate (s : State) : Out :=
  .next (if s.windowOpen && s.pins.clkRun then
      let (v, s) := s.drawBelow 65536
      s.setFld F.pwrEst v
    else s)

end Sys2Proof.Machine
end

