-- ==== Sys2Proof/Machine/Dispatch.lean ====
section
/-! DEFINITION. One arm for each constructor of `Instr`: the meaning of its row of spec/opcode_table.json. -/

namespace Sys2Proof.Machine

def exec (i : Instr) (s : State) : Host.Outcome State Fault Refusal :=
  match i with
  | .coreResetAssert => Sys2Proof.Machine.execCoreResetAssert s
  | .coreResetRelease failed => Sys2Proof.Machine.execCoreResetRelease failed s
  | .bringupReady => Sys2Proof.Machine.execBringupReady s
  | .aonResetRelease => Sys2Proof.Machine.execAonResetRelease s
  | .modidReadDone rec => Sys2Proof.Machine.execModidReadDone rec s
  | .modidReadTimeout => Sys2Proof.Machine.execModidReadTimeout s
  | .powerInputChange coreReq tmReq tmRet isoN rstN => Sys2Proof.Machine.execPowerInputChange coreReq tmReq tmRet isoN rstN s
  | .thermTrip => Sys2Proof.Machine.execThermTrip s
  | .xhClkStop => Sys2Proof.Machine.execXhClkStop s
  | .xhClkRestart ns => Sys2Proof.Machine.execXhClkRestart ns s
  | .timeCounterDecrease tc => Sys2Proof.Machine.execTimeCounterDecrease tc s
  | .portResponse a => Sys2Proof.Machine.execPortResponse a s
  | .messageAccept v => Sys2Proof.Machine.execMessageAccept v s
  | .registerWrite off width v stores => Sys2Proof.Machine.execRegisterWrite off width v stores s
  | .tailDoorbell page off width v stores => Sys2Proof.Machine.execTailDoorbell page off width v stores s
  | .headDoorbell page off width v => Sys2Proof.Machine.execHeadDoorbell page off width v s
  | .enable t => Sys2Proof.Machine.execEnable t s
  | .enableCheckComplete c => Sys2Proof.Machine.execEnableCheckComplete c s
  | .disable t => Sys2Proof.Machine.execDisable t s
  | .drainEnd c => Sys2Proof.Machine.execDrainEnd c s
  | .mcEnable => Sys2Proof.Machine.execMcEnable s
  | .ownerWrite ch owner => Sys2Proof.Machine.execOwnerWrite ch owner s
  | .vsOwnerWrite k owner => Sys2Proof.Machine.execVsOwnerWrite k owner s
  | .fqBaseWrite v => Sys2Proof.Machine.execFqBaseWrite v s
  | .fqHeadWrite v => Sys2Proof.Machine.execFqHeadWrite v s
  | .fqStickyRead off width => Sys2Proof.Machine.execFqStickyRead s off width
  | .faultAck id => Sys2Proof.Machine.execFaultAck id s
  | .vesperPendClear u => Sys2Proof.Machine.execVesperPendClear u s
  | .restart => Sys2Proof.Machine.execRestart s
  | .retrain p => Sys2Proof.Machine.execRetrain p s
  | .keyLoad p slot => Sys2Proof.Machine.execKeyLoad p slot s
  | .keyClear p slot => Sys2Proof.Machine.execKeyClear p slot s
  | .ephInsert => Sys2Proof.Machine.execEphInsert s
  | .ephRemove idx => Sys2Proof.Machine.execEphRemove idx s
  | .wake => Sys2Proof.Machine.execWake s
  | .peek word => Sys2Proof.Machine.execPeek word s
  | .sharedDisable => Sys2Proof.Machine.execSharedDisable s
  | .sharedClearDone => Sys2Proof.Machine.execSharedClearDone s
  | .mbEnable b => Sys2Proof.Machine.execMbEnable b s
  | .mbDisable b => Sys2Proof.Machine.execMbDisable b s
  | .fetchTurn => Sys2Proof.Machine.execFetchTurn s
  | .entryAdmit c k => Sys2Proof.Machine.execEntryAdmit c k s
  | .submitGraph t => Sys2Proof.Machine.execSubmitGraph t s
  | .runProgram t => Sys2Proof.Machine.execRunProgram t s
  | .createTensor t => Sys2Proof.Machine.execCreateTensor t s
  | .destroyTensor t => Sys2Proof.Machine.execDestroyTensor t s
  | .handleFree t h => Sys2Proof.Machine.execHandleFree t h s
  | .signal t => Sys2Proof.Machine.execSignal t s
  | .wait t => Sys2Proof.Machine.execWait t s
  | .waitSatisfied k => Sys2Proof.Machine.execWaitSatisfied k s
  | .waitTimeout k => Sys2Proof.Machine.execWaitTimeout k s
  | .scanCheck t => Sys2Proof.Machine.execScanCheck t s
  | .resumeFault t => Sys2Proof.Machine.execResumeFault t s
  | .invalidateXlat t => Sys2Proof.Machine.execInvalidateXlat t s
  | .invalidateXlatDone t => Sys2Proof.Machine.execInvalidateXlatDone t s
  | .setEpoch t => Sys2Proof.Machine.execSetEpoch t s
  | .setEpochDone t => Sys2Proof.Machine.execSetEpochDone t s
  | .registerMailbox t => Sys2Proof.Machine.execRegisterMailbox t s
  | .nop t => Sys2Proof.Machine.execNop t s
  | .eclipseUnit => Sys2Proof.Machine.execEclipseUnit s
  | .eclipseDone u => Sys2Proof.Machine.execEclipseDone u s
  | .reenterUnit => Sys2Proof.Machine.execReenterUnit s
  | .reenterTestDone u pass => Sys2Proof.Machine.execReenterTestDone u pass s
  | .clearTenant => Sys2Proof.Machine.execClearTenant s
  | .clearTenantDone t => Sys2Proof.Machine.execClearTenantDone t s
  | .setPower => Sys2Proof.Machine.execSetPower s
  | .setPowerQuiesced => Sys2Proof.Machine.execSetPowerQuiesced s
  | .replicaConfig => Sys2Proof.Machine.execReplicaConfig s
  | .setSplit => Sys2Proof.Machine.execSetSplit s
  | .lockConfig => Sys2Proof.Machine.execLockConfig s
  | .cqStallLimit c => Sys2Proof.Machine.execCqStallLimit c s
  | .nodeFetch g => Sys2Proof.Machine.execNodeFetch g s
  | .nodeRegister g => Sys2Proof.Machine.execNodeRegister g s
  | .nodeGrant u => Sys2Proof.Machine.execNodeGrant u s
  | .transit ch => Sys2Proof.Machine.execTransit ch s
  | .descriptorCopy ch => Sys2Proof.Machine.execDescriptorCopy ch s
  | .contract e => Sys2Proof.Machine.execContract e s
  | .vector k => Sys2Proof.Machine.execVector k s
  | .signalNode g n => Sys2Proof.Machine.execSignalNode g n s
  | .waitNode g n => Sys2Proof.Machine.execWaitNode g n s
  | .timedNode g n => Sys2Proof.Machine.execTimedNode g n s
  | .check u => Sys2Proof.Machine.execCheck u s
  | .chain g n => Sys2Proof.Machine.execChain g n s
  | .sliceEnd g n => Sys2Proof.Machine.execSliceEnd g n s
  | .sliceTimeLimit g n => Sys2Proof.Machine.execSliceTimeLimit g n s
  | .nodeComplete g n => Sys2Proof.Machine.execNodeComplete g n s
  | .graphAbandon g => Sys2Proof.Machine.execGraphAbandon g s
  | .move ch lines => Sys2Proof.Machine.execMove ch lines s
  | .movet ch => Sys2Proof.Machine.execMovet ch s
  | .loop ch => Sys2Proof.Machine.execLoop ch s
  | .waitSlot ch => Sys2Proof.Machine.execWaitSlot ch s
  | .signalSlot ch => Sys2Proof.Machine.execSignalSlot ch s
  | .releasePerform ch => Sys2Proof.Machine.execReleasePerform ch s
  | .fence ch => Sys2Proof.Machine.execFence ch s
  | .stamp ch => Sys2Proof.Machine.execStamp ch s
  | .nopSlot ch => Sys2Proof.Machine.execNopSlot ch s
  | .halt ch => Sys2Proof.Machine.execHalt ch s
  | .programComplete ch => Sys2Proof.Machine.execProgramComplete ch s
  | .runaheadPrefetch ch => Sys2Proof.Machine.execRunaheadPrefetch ch s
  | .walkComplete k resp => Sys2Proof.Machine.execWalkComplete k resp s
  | .pfTimeout t id => Sys2Proof.Machine.execPfTimeout t id s
  | .bpTimeout ch => Sys2Proof.Machine.execBpTimeout ch s
  | .creditPeriod => Sys2Proof.Machine.execCreditPeriod s
  | .wcFillReturn k way => Sys2Proof.Machine.execWcFillReturn k way s
  | .scrubStep upsets => Sys2Proof.Machine.execScrubStep upsets s
  | .partitionClearDone => Sys2Proof.Machine.execPartitionClearDone s
  | .spareCopyDone bank => Sys2Proof.Machine.execSpareCopyDone bank s
  | .add k => Sys2Proof.Machine.execAdd k s
  | .sub k => Sys2Proof.Machine.execSub k s
  | .mul k => Sys2Proof.Machine.execMul k s
  | .fma k => Sys2Proof.Machine.execFma k s
  | .min k => Sys2Proof.Machine.execMin k s
  | .max k => Sys2Proof.Machine.execMax k s
  | .abs k => Sys2Proof.Machine.execAbs k s
  | .rshift k => Sys2Proof.Machine.execRshift k s
  | .cvt k => Sys2Proof.Machine.execCvt k s
  | .cmplt k => Sys2Proof.Machine.execCmplt k s
  | .cmpeq k => Sys2Proof.Machine.execCmpeq k s
  | .select k => Sys2Proof.Machine.execSelect k s
  | .exp k => Sys2Proof.Machine.execExp k s
  | .log k => Sys2Proof.Machine.execLog k s
  | .rsqrt k => Sys2Proof.Machine.execRsqrt k s
  | .recip k => Sys2Proof.Machine.execRecip k s
  | .rsum k => Sys2Proof.Machine.execRsum k s
  | .rmax k => Sys2Proof.Machine.execRmax k s
  | .rmin k => Sys2Proof.Machine.execRmin k s
  | .softmax k => Sys2Proof.Machine.execSoftmax k s
  | .layernorm k => Sys2Proof.Machine.execLayernorm k s
  | .groupnorm k => Sys2Proof.Machine.execGroupnorm k s
  | .argmax k => Sys2Proof.Machine.execArgmax k s
  | .topk k => Sys2Proof.Machine.execTopk k s
  | .scan k => Sys2Proof.Machine.execScan k s
  | .scanmax k => Sys2Proof.Machine.execScanmax k s
  | .atomadd k => Sys2Proof.Machine.execAtomadd k s
  | .xchg k => Sys2Proof.Machine.execXchg k s
  | .frameSlotSend p => Sys2Proof.Machine.execFrameSlotSend p s
  | .frameForward p f => Sys2Proof.Machine.execFrameForward p f s
  | .data => Sys2Proof.Machine.execData s
  | .batch => Sys2Proof.Machine.execBatch s
  | .ack => Sys2Proof.Machine.execAck s
  | .ackDelayTimeout k => Sys2Proof.Machine.execAckDelayTimeout k s
  | .ackTimeout k => Sys2Proof.Machine.execAckTimeout k s
  | .nack => Sys2Proof.Machine.execNack s
  | .nackRetryTimeout k => Sys2Proof.Machine.execNackRetryTimeout k s
  | .notReady => Sys2Proof.Machine.execNotReady s
  | .retryAfterExpiry k => Sys2Proof.Machine.execRetryAfterExpiry k s
  | .nrLimitTimeout k => Sys2Proof.Machine.execNrLimitTimeout k s
  | .ready => Sys2Proof.Machine.execReady s
  | .maintenanceFrame p credits alive slotCtr keySel coreReady => Sys2Proof.Machine.execMaintenanceFrame p credits alive slotCtr keySel coreReady s
  | .maintenanceTimeout p => Sys2Proof.Machine.execMaintenanceTimeout p s
  | .laneLockLoss p => Sys2Proof.Machine.execLaneLockLoss p s
  | .uncCodewordLimit p n => Sys2Proof.Machine.execUncCodewordLimit p n s
  | .authFailLimit p n => Sys2Proof.Machine.execAuthFailLimit p n s
  | .trainAligned p => Sys2Proof.Machine.execTrainAligned p s
  | .trainTimeout p => Sys2Proof.Machine.execTrainTimeout p s
  | .failedRetry p => Sys2Proof.Machine.execFailedRetry p s
  | .linkIdentity p rec => Sys2Proof.Machine.execLinkIdentity p rec s
  | .linkAuth p partnerKeyId partnerCtr tagsOk => Sys2Proof.Machine.execLinkAuth p partnerKeyId partnerCtr tagsOk s
  | .keyCounterLimit p => Sys2Proof.Machine.execKeyCounterLimit p s
  | .digest => Sys2Proof.Machine.execDigest s
  | .auditComplete ours evidence others => Sys2Proof.Machine.execAuditComplete ours evidence others s
  | .heartbeat => Sys2Proof.Machine.execHeartbeat s
  | .heartbeatPeriod => Sys2Proof.Machine.execHeartbeatPeriod s
  | .memberLostTimeout m => Sys2Proof.Machine.execMemberLostTimeout m s
  | .verdict => Sys2Proof.Machine.execVerdict s
  | .memberOut => Sys2Proof.Machine.execMemberOut s
  | .ackReport => Sys2Proof.Machine.execAckReport s
  | .meridianEdge b dt a bLine => Sys2Proof.Machine.execMeridianEdge b dt a bLine s
  | .zIndexEdge b dt => Sys2Proof.Machine.execZIndexEdge b dt s
  | .stuckTimeout b => Sys2Proof.Machine.execStuckTimeout b s
  | .holdoverEnter b => Sys2Proof.Machine.execHoldoverEnter b s
  | .holdLimit b => Sys2Proof.Machine.execHoldLimit b s
  | .ephRelease idx => Sys2Proof.Machine.execEphRelease idx s
  | .ephAdd idx => Sys2Proof.Machine.execEphAdd idx s
  | .ephStamp idx => Sys2Proof.Machine.execEphStamp idx s
  | .ephDeadline idx => Sys2Proof.Machine.execEphDeadline idx s
  | .faultRaise u cause ctx hold merged => Sys2Proof.Machine.execFaultRaise u cause ctx hold merged s
  | .faultLineTest broken => Sys2Proof.Machine.execFaultLineTest broken s
  | .reactionTimeout id => Sys2Proof.Machine.execReactionTimeout id s
  | .faultSpill => Sys2Proof.Machine.execFaultSpill s
  | .twilightEnd => Sys2Proof.Machine.execTwilightEnd s
  | .pwrEstUpdate => Sys2Proof.Machine.execPwrEstUpdate s
  | .aonResetAssert => Sys2Proof.Machine.execAonResetAssert s
  | .faultLineClear u cause => Sys2Proof.Machine.execFaultLineClear u cause s
  | .ephCmdDone => Sys2Proof.Machine.execEphCmdDone s
  | .meridianGlitch b => Sys2Proof.Machine.execMeridianGlitch b s

end Sys2Proof.Machine
end

