-- ==== Sys2Proof/Machine/Step.lean ====
section
/-! DEFINITION. One step of the block: the command at the front of the queue takes effect; with no command waiting one
cycle of xh_aon_clk passes. -/

namespace Sys2Proof.Machine

/-- The block takes the command at the front of its queue; `exec` gives its effect on the rest of the state. On an empty
queue one nanosecond passes: the always-on clock and the time counter advance (R24, R34, log entry 4). -/
def step (s : State) : Host.Outcome State Fault Refusal :=
  match s.pending with
  | [] => .next (s.advance 1)
  | c :: rest => exec c { s with pending := rest }

/-- The state with the command that a table word spells put at the front of the queue. The table gives its rows no bits, so
no word spells a command and the state stays as it is. -/
def State.withFetchWord (s : State) (nbits w : Nat) : State :=
  match decodeTableWord nbits w with
  | some c => { s with pending := c :: s.pending }
  | none => s

end Sys2Proof.Machine
end

