-- ==== Sys2Proof/Safety.lean ====
section
/-! DEFINITION. What every state of a run has: the stores of the block in their one canonical form, so that equal contents are equal
data, and the three fault outputs as the uncleared faults say (R11, R29). -/

namespace Sys2Proof.Machine

/-- Memory in its canonical form: addresses strictly rise and no byte is listed that an unlisted address reads as anyway. -/
def Memory.wf (m : List Host.Cell) : Bool := Sparse.wf (fun _ => 0) m

/-- Both memories are in canonical form. -/
def State.memOk (s : State) : Bool := Memory.wf s.sys && Memory.wf s.tile

/-- The numbered stores of the core are in canonical form: the register file, the counters, the errors held in tile memory, the
credit balances and what they owe, the copies in CPU caches, the contexts, the channels, the vector stages' owners in effect, the fabric ports
and the bases. -/
def State.storesOk (s : State) : Bool :=
  Sparse.wf Reg.resetValue s.regs && Sparse.wf (fun _ => 0) s.counters && Sparse.wf (fun _ => 0) s.ecc
    && Sparse.wf (fun _ => 0) s.credit && Sparse.wf (fun _ => 0) s.owed && Sparse.wf (fun _ => 0) s.cpu && Sparse.wf (fun _ => {}) s.ctxs
    && Sparse.wf (fun _ => {}) s.chans && Sparse.wf (fun _ => 15) s.vsOwners && Sparse.wf (fun _ => {}) s.relay.ports
    && Sparse.wf (fun _ => {}) s.mer.bases

/-- A fault of class `c` is uncleared and its output is not held by the clamps or by reset (R11, R29). -/
def State.showsClass (s : State) (c : Nat) : Bool :=
  s.collUp && s.pins.isoN && s.pins.rstN && s.coll.faults.any (·.cls == c)

/-- The three dual-rail fault outputs show exactly the classes of the uncleared faults (R29). -/
def State.linesOk (s : State) : Bool :=
  s.pins.fltCor == s.showsClass 2 && s.pins.fltCon == s.showsClass 3 && s.pins.fltFat == s.showsClass 4

/-- What every state of a run has, and every step keeps: canonical stores, and fault outputs that show the uncleared faults. -/
def State.ok (s : State) : Bool := s.memOk && s.storesOk && s.linesOk

/-- A channel's program stands at a slot; one behind its last slot has ended it as a HALT does (R125, R141). -/
def State.standsAt (s : State) (ch k : Nat) : Bool :=
  match (s.chan ch).prog with
  | some p => p.pc == k && (if p.slots.length ≤ k then p.ended && p.status == 1 && s.chSt ch == 7 else !p.ended && s.chSt ch == 2)
  | none => false

/-- The slots of a program's next instruction stand in the instruction buffer, or need no fetch (R123, R133). -/
def Prog.inHand (p : Prog) : Bool :=
  p.xva.isNone || (List.range (instrLen (instrAt p.slots p.pc))).all (fun j => p.ibuf.contains (p.pc + j))

/-- An operand of a vector operation that is no tensor (R230): a row buffer, the immediate, or none. -/
def VecSt.operand (v : VecSt) (len : Nat) (e : List Byte) (c : Nat) : List Nat :=
  if c = 15 then [] else if c = 12 then List.replicate len (VOp.imm e) else (v.bufs.getD (c - 8) []).map (·.toNat)

end Sys2Proof.Machine
end

