-- ==== Sys2Proof/Certificates/Slice0/Obligations.lean ====
section
/-! DEFINITION. What is claimed of the block. Each statement names the commands that it covers; the rules that it rests on stand in its docstring.
The operands of a command are the model's choice (log entry 3). Addresses, indices and identifiers range over all values unless a premise
bounds them. -/

open Sys2Proof Sys2Proof.Machine

/-- With `c` at the front of the queue, `step` is `exec c` on the state with the queue's rest (the row's frame: the queue is the model's
own, log entry 1) (95_what_each_step_holds.md). With command c at the front of the queue, step is exec of c on the state with the queue's
rest. -/
def Obligations.StepRunsTheFrontCommand : Prop :=
  ∀ (c : Instr) (rest : List Instr) (s : State), s.pending = c :: rest → step s = exec c { s with pending := rest }

/-- With no command waiting one nanosecond passes and nothing else changes: the model's own choice for the idle step (log entry 4) (R24,
R34). With no command waiting, step changes only the two clocks: the always-on time and the time counter go on by one. -/
def Obligations.IdleStepLetsTimePass : Prop :=
  ∀ s : State, s.pending = [] → step s = .next { s with aon := s.aon + 1, tc := s.tc + 1 }

/-- The reset state: X3, the outputs and the register fields at the values that the register tables give, nothing in flight; and the
invariant `State.ok` holds of it. That a run begins in X3 is the model's choice (log entry 7) (R10, R27, R418, R426, R427). The reset state
is X3: quiet, its fault outputs at no fault; tenant weights, priority caps and quotas, channel and vector-stage owners, the slice limit and
the self-test field hold the manual's reset values; nothing runs, no fault is held, no command waits, and the invariant State.ok holds. -/
def Obligations.ResetHoldsTheSpecsValues : Prop :=
  State.reset.phase = .x3 ∧ State.reset.pins.quiet = true ∧ State.reset.pins.errN = true
    ∧ State.reset.pins.fltCor = false ∧ State.reset.pins.fltCon = false ∧ State.reset.pins.fltFat = false
    ∧ (∀ t < 8, State.reset.fld (F.schedWeight t) = 1 ∧ State.reset.fld (F.prioCap t) = 7 ∧ State.reset.fld (F.winQuota t) = 16384
        ∧ State.reset.fld (F.sbQuota t) = 512)
    ∧ (∀ ch < 64, State.reset.fld (F.chOwner ch) = 15) ∧ (∀ i < 16, State.reset.fld (F.vsOwner i) = 15)
    ∧ State.reset.fld F.sliceXclk = 200000 ∧ State.reset.fld F.bringupErr = 0xFFFF
    ∧ State.reset.graphs = [] ∧ State.reset.coll.faults = [] ∧ State.reset.pending = [] ∧ State.reset.ok = true

/-- Every command but XH_CLK_STOP answers a next state, in every state: ordinary data never end a run. XH_CLK_STOP outside X1 and reset
breaks R23 (R23, R408). For every state and every command other than XH_CLK_STOP, exec answers a next state. -/
def Obligations.EveryCommandCompletes : Prop :=
  ∀ (c : Instr) (s : State), c ≠ .xhClkStop → ∃ t, exec c s = .next t

/-- Every step keeps `State.ok`: the stores of the block keep their one canonical form, and the dual-rail fault outputs show exactly the
classes of the uncleared faults, through the isolation clamps (R11, R29), whatever the command was (R11, R29, R30, R418). For every state
with State.ok, a step that answers a next state answers one with State.ok: system and tile memory, the register file and the numbered
stores stay in canonical form, and the three fault outputs show exactly the classes of the uncleared faults, through the clamps. -/
def Obligations.StepKeepsOk : Prop :=
  ∀ s t : State, s.ok = true → step s = .next t → t.ok = true

/-- A step takes one command, and no command changes the queue behind it (95_what_each_step_holds.md). A step that answers a next state
leaves exactly the rest of the queue: no command adds to it, drops from it or reorders it. -/
def Obligations.StepTakesOneCommand : Prop :=
  ∀ (c : Instr) (rest : List Instr) (s t : State), s.pending = c :: rest → step s = .next t → t.pending = rest

/-- No step sets the always-on clock back: timed events move it to their expiry or leave it (log entry 4) (R24, R34). For every state, a
step that answers a next state leaves the always-on time at the same value or a later one. -/
def Obligations.TimeNeverGoesBack : Prop :=
  ∀ s t : State, step s = .next t → s.aon ≤ t.aon

/-- CORE_RESET_ASSERT: everything of the core's is gone, the relay domain, system memory and time stay (R31, R39, R410, R418).
CORE_RESET_ASSERT answers a next state in which the fault outputs show no fault, the block is quiet, no graph, context, channel, write,
message, counter or fault exists, every register outside the relay domain has its reset value, and system memory, the clocks and the
relay's registers (but the not-ready log's) are as before. -/
def Obligations.CoreResetEndsTheWork : Prop :=
  ∀ s : State, ∃ t, exec .coreResetAssert s = .next t
    ∧ t.pins = { s.pins with rstN := false, coreAck := s.pins.coreReq, tmAck := s.pins.tmReq || s.pins.tmRet, quiet := true,
                             fltCor := false, fltCon := false, fltFat := false, errN := true }
    ∧ t.collUp = false ∧ t.coll = {} ∧ t.graphs = [] ∧ t.ctxs = [] ∧ t.chans = [] ∧ t.txns = [] ∧ t.msgWait = [] ∧ t.counters = []
    ∧ t.sys = s.sys ∧ t.aon = s.aon ∧ t.tc = s.tc
    ∧ (∀ off, Reg.relayDomain off = false → ¬(0x1000 ≤ off ∧ off < 0x1400) → t.reg off = Reg.resetValue off)
    ∧ (∀ off, Reg.relayDomain off = true → off ≠ Reg.relayStat → t.reg off = s.reg off)

/-- POWER_INPUT_CHANGE to X2 (tile memory retained) and to X3 (tile memory lost) (R27, R404, R410). With the core supply gone, xh_tm_ret
the one supply input high and the clamps and the reset low the block is in X2 and keeps tile memory (if it had not been lost); with every
supply gone it is in X3 and tile memory is lost. System memory is untouched in both. -/
def Obligations.PowerInputsLeadToX2AndX3 : Prop :=
  ∀ s : State,
    (∃ t, exec (.powerInputChange false false true false false) s = .next t ∧ t.phase = .x2 ∧ t.pins.coreAck = false
      ∧ t.pins.tmAck = true ∧ t.sys = s.sys
      ∧ (s.tmLost = false → t.retained = true ∧ ∀ a, t.tileByte a = s.tileByte a))
    ∧ (∃ t, exec (.powerInputChange false false false false false) s = .next t ∧ t.phase = .x3 ∧ t.pins.coreAck = false
      ∧ t.pins.tmAck = false ∧ t.sys = s.sys ∧ t.retained = false ∧ ∀ a, t.tileByte a = 0)

/-- CORE_RESET_RELEASE and BRINGUP_READY (R38, R410, R411). With the supplies on and the clamps released CORE_RESET_RELEASE begins
bring-up: tile memory keeps its bytes if it was retained and reads zero otherwise. BRINGUP_READY without a failure reported ends it in X0
and changes no memory and no work. -/
def Obligations.CoreReleaseBringsUp : Prop :=
  ∀ s : State,
    (∀ failed : List Nat, s.pins.coreReq = true → s.pins.tmReq = true → s.pins.tmRet = false → s.pins.isoN = true → s.coreRuns = false →
      ∃ t, exec (.coreResetRelease failed) s = .next t ∧ t.phase = .bringup ∧ t.bringAt = s.aon ∧ t.pins.rstN = true
        ∧ t.pins.quiet = false ∧ t.sys = s.sys
        ∧ (s.retained = true → s.tmLost = false → ∀ a, t.tileByte a = s.tileByte a)
        ∧ (s.retained = false ∨ s.tmLost = true → ∀ a, t.tileByte a = 0))
    ∧ (s.phase = .bringup → s.pins.clkRun = true → s.fld F.bringupErr = 0xFFFF → s.coll.fatal = false →
      ∃ t, exec .bringupReady s = .next t ∧ t.phase = .x0 ∧ t.tile = s.tile ∧ t.sys = s.sys ∧ t.ctxs = s.ctxs ∧ t.graphs = s.graphs)

/-- THERM_TRIP: recorded as a contained fault of the power unit; no power state, clock or workload changes (R32). THERM_TRIP on a rising
edge records a contained fault (class 3, cause 0x0050) of the power unit 0x0DE; no power state, clock or workload changes. While xh_clk
stands the fault is kept for its restart. A level that is high already records nothing. -/
def Obligations.ThermalTripIsRecorded : Prop :=
  ∀ s : State, s.collUp = true → s.eclipsed 0xDE = false → (∀ f ∈ s.coll.faults, f.unit ≠ 0xDE) →
    ∃ t, exec .thermTrip s = .next t ∧ t.pins.therm = true ∧ t.phase = s.phase ∧ t.pins.clkRun = s.pins.clkRun ∧ t.powerTo = s.powerTo
      ∧ t.aon = s.aon ∧ t.tc = s.tc ∧ t.graphs = s.graphs ∧ t.ctxs = s.ctxs ∧ t.chans = s.chans ∧ t.waits = s.waits ∧ t.tile = s.tile
      ∧ t.sys = s.sys
      ∧ (s.pins.therm = false → s.pins.clkRun = true →
          ∃ f ∈ t.coll.faults, f.id = s.coll.nextId ∧ f.unit = 0xDE ∧ f.cause = 0x50 ∧ f.cls = 3 ∧ f.line = true)
      -- the clock stands: the fault waits for it
      ∧ (s.pins.therm = false → s.pins.clkRun = false → t.captured = s.captured ++ [(0xDE, 0x50, 15, true)])
      ∧ (s.pins.therm = true → t = s)

/-- The collector is empty and the outputs show no fault after CORE_RESET_ASSERT and after the loss of the core's supply (R31). When
xh_rst_n is asserted, or the core's supply is removed, no fault state is left and all fault outputs show no fault. -/
def Obligations.FaultStateIsLostAtReset : Prop :=
  ∀ s : State,
    (∃ t, exec .coreResetAssert s = .next t ∧ t.coll = {} ∧ t.pins.fltCor = false ∧ t.pins.fltCon = false ∧ t.pins.fltFat = false
      ∧ t.pins.errN = true)
    ∧ (∀ tmReq tmRet isoN : Bool, ∃ t, exec (.powerInputChange false tmReq tmRet isoN false) s = .next t ∧ t.coll = {}
      ∧ t.pins.fltCor = false ∧ t.pins.fltCon = false ∧ t.pins.fltFat = false ∧ t.pins.errN = true)

/-- XH_CLK_STOP and XH_CLK_RESTART. Outside X1 and reset the manual forbids the stop and gives it no effect (R23) (R23, R39, R408).
XH_CLK_STOP in X1, or while the core does not run, only stops the clock. Elsewhere it is the fault hostRuleBroken 23. XH_CLK_RESTART starts
the clock again after the given time. -/
def Obligations.ClockStopsInIdleAlone : Prop :=
  ∀ s : State,
    (s.phase = .x1 ∨ s.coreRuns = false →
      exec .xhClkStop s = .next { s with pins := { s.pins with clkRun := false } })
    ∧ (s.phase ≠ .x1 → s.coreRuns = true → exec .xhClkStop s = .fault (.hostRuleBroken 23))
    ∧ (∀ ns, s.pins.clkRun = false → s.heldAcc = [] →
      ∃ t, exec (.xhClkRestart ns) s = .next t ∧ t.pins.clkRun = true ∧ t.aon = s.aon + ns
        ∧ t.tc = s.tc + BitVec.ofNat 64 ns)

/-- MESSAGE_ACCEPT (R22) and PORT_RESPONSE: to a record's two writes (R62), to a node's write (R290), and how the port answers reads from
now on (log entries 2 and 63) (R21, R22, R62, R290). MESSAGE_ACCEPT of a waiting vector with no further event pending takes it from the
waiting messages and changes nothing else. The response to the first write of a record puts its bytes from the second on into memory and
issues the second write; the response to the second puts byte 0 there and the record has left. The response to a node's write puts its
bytes into memory. PORT_RESPONSE for reads of a block notes only whether its reads are answered with an error or with poisoned data. -/
def Obligations.MessagesAndRecordsLeave : Prop :=
  ∀ s : State,
    (∀ v : Nat, v ∈ s.msgWait → s.fld (irqFld Reg.irqPend v) = 0 →
      exec (.messageAccept v) s = .next { s with msgWait := s.msgWait.filter (· != v) })
    -- the first write of a record: its bytes from the second on stand in memory, the second write follows
    ∧ (∀ (i : Nat) (x : Txn), s.txns[i]? = some x → s.coreRuns = true → s.pins.clkRun = true → x.sent = true → x.isRec = true → x.stage = 1 →
      ∃ t, exec (.portResponse (.write i false)) s = .next t ∧ t.txns.length = s.txns.length
        ∧ (t.txns[i]?).map (fun y => (y.isRec, y.pa, y.bytes, y.stage, y.ev)) = some (true, x.pa, x.bytes, 2, x.ev)
        ∧ (∀ k, 1 ≤ k → k < x.bytes.length → Sparse.get (fun _ => 0) t.sys (x.pa + k) = x.bytes.getD k 0)
        ∧ (∀ a, a ≤ x.pa ∨ x.pa + x.bytes.length ≤ a → Sparse.get (fun _ => 0) t.sys a = Sparse.get (fun _ => 0) s.sys a)
        ∧ t.tile = s.tile ∧ t.msgWait = s.msgWait)
    -- its second: byte 0 stands in memory too, and the record has left
    ∧ (∀ (i : Nat) (x : Txn), s.txns[i]? = some x → s.coreRuns = true → s.pins.clkRun = true → x.sent = true → x.isRec = true → x.stage = 2 →
      x.bytes ≠ [] →
      ∃ t, exec (.portResponse (.write i false)) s = .next t ∧ t.txns.length = (s.txns.eraseIdx i).length
        ∧ Sparse.get (fun _ => 0) t.sys x.pa = x.bytes.getD 0 0
        ∧ (∀ a, a ≠ x.pa → Sparse.get (fun _ => 0) t.sys a = Sparse.get (fun _ => 0) s.sys a) ∧ t.tile = s.tile)
    -- the write of a node: its bytes stand in memory from now on
    ∧ (∀ (i g n : Nat) (x : Txn), s.txns[i]? = some x → s.coreRuns = true → s.pins.clkRun = true → x.sent = true → x.isRec = false →
      x.who = some (.node g n) →
      ∃ t, exec (.portResponse (.write i false)) s = .next t ∧ t.sys = (s.putCells x.nc x.cells).sys
        ∧ t.txns.length = (s.txns.eraseIdx i).length ∧ t.tile = s.tile ∧ t.graphs = s.graphs)
    -- how the port answers reads of a block from now on
    ∧ (∀ pa : Nat, exec (.portResponse (.reads pa true)) s = .next { s with badRd := pa / 64 :: s.badRd.filter (· != pa / 64) }
        ∧ exec (.portResponse (.reads pa false)) s = .next { s with badRd := s.badRd.filter (· != pa / 64) }
        ∧ exec (.portResponse (.poison pa true)) s = .next { s with poison := pa / 64 :: s.poison.filter (· != pa / 64) }
        ∧ exec (.portResponse (.poison pa false)) s = .next { s with poison := s.poison.filter (· != pa / 64) })

/-- MERIDIAN_EDGE: the count moves by one; nothing of another base moves. Edge times are operands of the row (log entry 3) (R340, R343,
R345). MERIDIAN_EDGE on a base in SYNC or LOCKED, with no excess edge: a rising edge of A counts a line trigger up by one; in an encoder at
four edges per line an edge of A counts up when A leads B and down when B leads. Other bases, memory and counters are unchanged. -/
def Obligations.CountedEdgeMovesItsBase : Prop :=
  ∀ (s : State) (b : Fin 4) (dt : Nat) (pa pb : Bool),
    s.merUp = true → (s.fld (F.mbState b) = 1 ∨ s.fld (F.mbState b) = 2) → s.fld (F.mbInvA b) = 0 → s.fld (F.mbInvB b) = 0 →
    (s.base b).stuck = false → ((s.base b).edges = 0 ∨ (s.base b).lastEdge + 40 ≤ s.aon + dt) →
    -- a line trigger at a rising edge of A
    (s.fld (F.mbMode b) = 2 → (s.base b).a = false → pa = true →
      ∃ t, exec (.meridianEdge b dt pa pb) s = .next t ∧ t.aon = s.aon + dt ∧ (t.base b).count = (s.base b).count + 1
        ∧ (t.base b).edgeCount = (s.base b).edgeCount + 1 ∧ (t.base b).lastEdge = s.aon + dt ∧ (t.base b).a = true
        ∧ (∀ k, k ≠ b.val → t.base k = s.base k) ∧ t.tile = s.tile ∧ t.sys = s.sys ∧ t.counters = s.counters)
    -- an encoder, every edge counted, one channel changes: A leading B counts up, B leading A counts down
    ∧ (s.fld (F.mbMode b) = 1 → s.fld (F.mbQmul b) = 4 → s.fld (F.mbDir b) = 0 → pa ≠ (s.base b).a → pb = (s.base b).b →
      ∃ t, exec (.meridianEdge b dt pa pb) s = .next t ∧ t.aon = s.aon + dt
        ∧ (t.base b).count = (if pa = pb then (s.base b).count - 1 else (s.base b).count + 1)
        ∧ (∀ k, k ≠ b.val → t.base k = s.base k) ∧ t.tile = s.tile ∧ t.sys = s.sys ∧ t.counters = s.counters)

/-- MERIDIAN_GLITCH, an excess MERIDIAN_EDGE and Z_INDEX_EDGE (R342, R343, R347). MERIDIAN_GLITCH counts one and changes no base. A
line-trigger edge less than 40 ns after the last is counted as excess and leaves the count. Z_INDEX_EDGE latches the position that the base
has at the edge. -/
def Obligations.GlitchesAndIndexEdges : Prop :=
  ∀ (s : State) (b : Fin 4), s.merUp = true →
    -- a pulse that the filter takes out
    (∃ t, exec (.meridianGlitch b) s = .next t ∧ t.fld (F.mbGlitch b) = Nat.min 65535 (s.fld (F.mbGlitch b) + 1)
      ∧ (∀ f : Fld, f.off ≠ (F.mbGlitch b).off → t.fld f = s.fld f) ∧ t.mer = s.mer)
    -- an edge of a line trigger less than 40 ns after the last counted one is not counted
    ∧ (∀ (dt : Nat) (pb : Bool), s.fld (F.mbState b) = 1 → s.fld (F.mbMode b) = 2 → s.fld (F.mbInvA b) = 0 → (s.base b).a = false →
      0 < (s.base b).edges → s.aon + dt < (s.base b).lastEdge + 40 →
      ∃ t, exec (.meridianEdge b dt true pb) s = .next t ∧ t.fld (F.mbExcess b) = Nat.min 65535 (s.fld (F.mbExcess b) + 1)
        ∧ (t.base b).count = (s.base b).count ∧ t.fld (F.mbState b) = 1)
    -- an index edge latches the position
    ∧ (∀ dt : Nat, s.fld (F.mbState b) ≠ 0 → s.fld (F.mbMode b) = 1 → s.fld (F.mbZMode b) ≠ 0 →
      ∃ t, exec (.zIndexEdge b dt) s = .next t ∧ t.aon = s.aon + dt ∧ t.fld (F.mbZLatch b) = ((s.advance dt).mbPos b).toNat
        ∧ (t.base b).lastZ = some (BitVec.ofNat 32 (((s.advance dt).mbPos b).toNat / 65536)) ∧ (t.base b).count = (s.base b).count)

/-- HOLDOVER_ENTER and HOLD_LIMIT: the rows are the expiries themselves (log entry 4) (R344, R348, R349). HOLDOVER_ENTER takes a LOCKED
base to HOLDOVER at the time its inputs have been silent, with its count kept; HOLD_LIMIT freezes the position at holdover begin plus
hold_us and records contained cause 0x0031 of unit 0x0DC. -/
def Obligations.SilenceHoldsThenFreezes : Prop :=
  ∀ (s : State) (b : Fin 4), s.merUp = true →
    (s.fld (F.mbState b) = 2 → s.fld (F.mbHoldUs b) ≠ 0 →
      ∃ t, exec (.holdoverEnter b) s = .next t ∧ t.aon = Nat.max s.aon (s.silenceAt b) ∧ t.fld (F.mbState b) = 3
        ∧ t.fld (F.mbCause b) = 1 ∧ (t.base b).holdAt = t.aon ∧ (t.base b).count = (s.base b).count)
    ∧ (s.fld (F.mbState b) = 3 → s.pins.clkRun = true → s.eclipsed 0xDC = false → (∀ f ∈ s.coll.faults, f.unit ≠ 0xDC) →
      ∃ t, exec (.holdLimit b) s = .next t ∧ t.aon = Nat.max s.aon ((s.base b).holdAt + 1000 * s.fld (F.mbHoldUs b))
        ∧ (t.base b).frozen = (s.advanceTo ((s.base b).holdAt + 1000 * s.fld (F.mbHoldUs b))).mbPos b
        ∧ (∃ f ∈ t.coll.faults, f.unit = 0xDC ∧ f.cause = 0x31 ∧ f.cls = 3))

/-- STUCK_TIMEOUT and TIME_COUNTER_DECREASE (R34, R344, R376). STUCK_TIMEOUT records cause 0x0030 and TIME_COUNTER_DECREASE cause 0x0033,
each a contained fault of unit 0x0DC, at the time given. -/
def Obligations.StuckInputAndClockFaults : Prop :=
  ∀ s : State, s.pins.clkRun = true → s.eclipsed 0xDC = false → (∀ f ∈ s.coll.faults, f.unit ≠ 0xDC) →
    (∀ b : Fin 4, s.merUp = true → s.fld (F.mbState b) ≠ 0 → s.fld (F.mbStuckUs b) ≠ 0 → s.fld (F.mbMode b) = 2 → (s.base b).a = true →
      (s.base b).stuck = false →
      ∃ t, exec (.stuckTimeout b) s = .next t ∧ t.aon = Nat.max s.aon ((s.base b).activeAt + 1000 * s.fld (F.mbStuckUs b))
        ∧ (t.base b).stuck = true ∧ (∃ f ∈ t.coll.faults, f.unit = 0xDC ∧ f.cause = 0x30 ∧ f.cls = 3 ∧ f.line = true))
    ∧ (∀ tc : W64, s.collUp = true → tc.toNat < s.tc.toNat →
      ∃ t, exec (.timeCounterDecrease tc) s = .next t ∧ t.tc = tc ∧ t.aon = s.aon
        ∧ (∃ f ∈ t.coll.faults, f.unit = 0xDC ∧ f.cause = 0x33 ∧ f.cls = 3))

/-- ENABLE, MC_ENABLE, DISABLE, ENABLE_CHECK_COMPLETE, DRAIN_END (R44, R46, R47, R193, R439). ENABLE and MC_ENABLE put a disabled context
into its check with cfg_err 0; ENABLE_CHECK_COMPLETE enables it when the check passes and leaves cfg_err otherwise; DISABLE begins the
drain; DRAIN_END disables it, or begins the check again. No other context changes. -/
def Obligations.EnableChecksAndDrains : Prop :=
  ∀ s : State, s.pins.clkRun = true →
    (∀ t : Fin 8, s.windowOpen = true → (s.ctx t).phase = .disabled →
      ∃ u, exec (.enable t) s = .next u ∧ (u.ctx t).phase = .checking ∧ u.fld (F.cfgErr t) = 0
        ∧ ∀ k, k ≠ t.val → u.ctx k = s.ctx k)
    ∧ (s.windowOpen = true → (s.ctx 8).phase = .disabled →
      ∃ u, exec .mcEnable s = .next u ∧ (u.ctx 8).phase = .checking ∧ u.fld (F.cfgErr 8) = 0 ∧ ∀ k, k ≠ 8 → u.ctx k = s.ctx k)
    ∧ (∀ t : Fin 8, s.windowOpen = true → (s.ctx t).phase = .enabled →
      ∃ u, exec (.disable t) s = .next u ∧ (u.ctx t).phase = .draining ∧ u.fld (F.enable t) = 0 ∧ u.fld (F.draining t) = 1
        ∧ ∀ k, k ≠ t.val → u.ctx k = s.ctx k)
    ∧ (∀ c : Fin 9, s.phase = .x0 → (s.ctx c).phase = .checking →
      ∃ u, exec (.enableCheckComplete c) s = .next u
        ∧ (s.enableCheck c = 0 → (u.ctx c).phase = .enabled ∧ u.fld (F.enable c) = 1)
        ∧ (s.enableCheck c ≠ 0 → (u.ctx c).phase = .disabled ∧ u.fld (F.cfgErr c) = s.enableCheck c % 16)
        ∧ ∀ k, k ≠ c.val → u.ctx k = s.ctx k)
    ∧ (∀ c : Fin 9, s.phase = .x0 → (s.ctx c).phase = .draining → s.ctxDrained c = true →
      ∃ u, exec (.drainEnd c) s = .next u ∧ (u.ctx c).phase = (if (s.ctx c).reEnable then .checking else .disabled)
        ∧ u.fld (F.draining c) = 0 ∧ ∀ k, k ≠ c.val → u.ctx k = s.ctx k)

/-- OWNER_WRITE, VS_OWNER_WRITE (R119, R226, R427, R428). OWNER_WRITE and VS_OWNER_WRITE with a legal owner: the register takes the value
at once. A channel that is unassigned or idle, with no program left on it, changes its owner in effect, with its stamp sequence at 0 when
the owner differs, and shows UNASSIGNED or IDLE; a busy one, and one that has that owner already, keeps its channel state. A vector stage
changes its owner in effect when it is not busy. An owner of 8 to 14 is counted and discarded, the register keeps its value. -/
def Obligations.OwnerChangesWhenFree : Prop :=
  ∀ s : State, s.windowOpen = true → s.pins.clkRun = true →
    -- the register takes the owner at once; in effect it is in IDLE or UNASSIGNED, with no program left on the channel
    (∀ (ch : Fin 64) (o : BitVec 4), (o.toNat < 8 ∨ o = 15) →
      ∃ t, exec (.ownerWrite ch o) s = .next t ∧ t.fld (F.chOwner ch) = o.toNat
        ∧ ((s.chan ch).owner ≠ o.toNat → s.chSt ch ≤ 1 → (s.chan ch).prog = none → (s.chan ch).idle = [] →
            (t.chan ch).owner = o.toNat ∧ (t.chan ch).stampSeq = 0
            ∧ (s.eclipsed ch = false → t.fld (F.chState ch) = if o = 15 then 0 else 1))
        ∧ (((s.chan ch).owner = o.toNat ∨ 1 < s.chSt ch ∨ (s.chan ch).prog.isSome = true ∨ (s.chan ch).idle ≠ []) →
            t.chans = s.chans ∧ t.chSt ch = s.chSt ch)
        ∧ ∀ k, k ≠ ch.val → t.chan k = s.chan k)
    -- an illegal one is discarded and counted
    ∧ (∀ (ch : Fin 64) (o : BitVec 4), 8 ≤ o.toNat → o ≠ 15 → s.fld (F.chOwner ch) ≠ o.toNat →
      ∃ t, exec (.ownerWrite ch o) s = .next t ∧ t.fld F.badAcc = Nat.min (2 ^ 32 - 1) (s.fld F.badAcc + 1) ∧ t.chans = s.chans
        ∧ t.fld (F.chOwner ch) = s.fld (F.chOwner ch))
    -- vector stages, by the same rules
    ∧ (∀ (i : Fin 16) (o : BitVec 4), (o.toNat < 8 ∨ o = 15) →
      ∃ t, exec (.vsOwnerWrite i o) s = .next t ∧ t.fld (F.vsOwner i) = o.toNat
        ∧ (s.vsBusy i = false → t.vsOwn i = o.toNat) ∧ (s.vsBusy i = true → t.vsOwn i = s.vsOwn i)
        ∧ t.chans = s.chans ∧ t.graphs = s.graphs)
    ∧ (∀ (i : Fin 16) (o : BitVec 4), 8 ≤ o.toNat → o ≠ 15 → s.fld (F.vsOwner i) ≠ o.toNat →
      ∃ t, exec (.vsOwnerWrite i o) s = .next t ∧ t.fld F.badAcc = Nat.min (2 ^ 32 - 1) (s.fld F.badAcc + 1)
        ∧ t.fld (F.vsOwner i) = s.fld (F.vsOwner i) ∧ t.vsOwners = s.vsOwners)

/-- FQ_BASE_WRITE, FQ_HEAD_WRITE, FQ_STICKY_READ. That the last row stands for any read of the window is the model's choice (log entry 60)
(R16, R47, R386, R387, R423). FQ_BASE_WRITE with a legal size takes base and size and zeroes the indices and the record sequence;
FQ_HEAD_WRITE takes a legal head and counts an illegal one. FQ_STICKY_READ of XH_FQ_STICKY re-arms the sticky record, of another register
that time does not move it changes nothing, and a read of an illegal width or alignment counts in XH_BAD_ACC_CNT and changes no other
register. -/
def Obligations.FaultQueueRegisters : Prop :=
  ∀ s : State, s.windowOpen = true → s.pins.clkRun = true →
    (∀ v : W64, s.coreLock = false → (bits v.toNat 0 5 = 0 ∨ (6 ≤ bits v.toNat 0 5 ∧ bits v.toNat 0 5 ≤ 16)) →
      ∃ t, exec (.fqBaseWrite v) s = .next t ∧ t.fld F.fqLog2 = bits v.toNat 0 5 ∧ t.fld F.fqAddr = bits v.toNat 12 36
        ∧ t.fld F.fqTail = 0 ∧ t.fld F.fqHead = 0 ∧ t.coll.seq = 0 ∧ t.coll.iq = s.coll.iq ∧ t.coll.faults = s.coll.faults)
    ∧ (∀ v : W32, headOk (s.fld F.fqTail) (s.fld F.fqHead) v.toNat = true →
      ∃ t, exec (.fqHeadWrite v) s = .next t ∧ t.fld F.fqHead = v.toNat ∧ t.fld F.badAcc = s.fld F.badAcc ∧ t.coll = s.coll)
    ∧ (∀ v : W32, headOk (s.fld F.fqTail) (s.fld F.fqHead) v.toNat = false →
      ∃ t, exec (.fqHeadWrite v) s = .next t ∧ t.fld F.fqHead = s.fld F.fqHead
        ∧ t.fld F.badAcc = Nat.min (2 ^ 32 - 1) (s.fld F.badAcc + 1) ∧ t.coll = s.coll)
    -- a read of the host: the one of XH_FQ_STICKY re-arms it, one of another register changes nothing, an ill-formed one is counted
    ∧ (∀ width : Nat, (width = 4 ∨ width = 8) →
      exec (.fqStickyRead (Reg.fqSticky 0) width) s = .next { s with coll := { s.coll with stickyRead := true } })
    ∧ (∀ off width : Nat, (width = 4 ∧ off % 4 = 0 ∨ width = 8 ∧ off % 8 = 0) → off < 0x100000 → off / 8 * 8 ≠ Reg.fqSticky 0 →
      Reg.timed (off / 8 * 8) = 0 → exec (.fqStickyRead off width) s = .next s)
    ∧ (∀ off width : Nat, ¬(width = 4 ∧ off % 4 = 0) → ¬(width = 8 ∧ off % 8 = 0) →
      ∃ t, exec (.fqStickyRead off width) s = .next t ∧ t.fld F.badAcc = Nat.min (2 ^ 32 - 1) (s.fld F.badAcc + 1) ∧ t.coll = s.coll
        ∧ ∀ o, o ≠ Reg.badAcc → t.reg o = s.reg o)

/-- FAULT_ACK, VESPER_PEND_CLEAR (R380, R381, R382). FAULT_ACK of an unacknowledged fault's identifier marks it acknowledged and stops its
timer, and changes no output; an identifier of no unacknowledged fault counts in ack_err. With the Vesper personality VESPER_PEND_CLEAR
clears the pending bit of its unit, keeps its interrupt enable, and leaves every fault of the unit acknowledged. -/
def Obligations.FaultsAreAcknowledged : Prop :=
  ∀ s : State, s.windowOpen = true → s.pins.clkRun = true →
    (∀ id : W32, s.vesper = false → (∃ f ∈ s.coll.faults, f.id = id ∧ f.acked = false) →
      ∃ t, exec (.faultAck id) s = .next t
        ∧ t.coll.faults = s.coll.faults.map (fun f => if f.id = id then { f with acked := true, timer := false } else f)
        ∧ t.pins = s.pins ∧ t.fld F.ackErr = s.fld F.ackErr)
    ∧ (∀ id : W32, s.vesper = false → (∀ f ∈ s.coll.faults, f.id = id → f.acked = true) →
      ∃ t, exec (.faultAck id) s = .next t ∧ t.coll = s.coll ∧ t.fld F.ackErr = Nat.min 65535 (s.fld F.ackErr + 1))
    ∧ (∀ u : Fin 0x308, s.vesper = true →
      ∃ t, exec (.vesperPendClear u) s = .next t ∧ t.fld (F.vspPend u) = 0 ∧ t.fld (F.vspIen u) = s.fld (F.vspIen u)
        ∧ ∀ f ∈ t.coll.faults, f.unit = u.val → f.acked = true)

/-- KEY_LOAD, KEY_CLEAR. What a slot's unwritten words hold is the model's choice (log entry 55) (R334, R335, R431). KEY_LOAD makes the
words and the salt written since the last load the slot's key, with its frame counter at 0; KEY_CLEAR empties the key and keeps the words;
other slots, other ports and every register stay. For the slot that the port transmits with both are discarded and counted. -/
def Obligations.KeySlotsLoadAndClear : Prop :=
  -- the slot takes the words and the salt written since its last load, with its frame counter at 0
  (∀ (s : State) (p : Fin 6) (sl : Fin 4), s.windowOpen = true → s.pins.clkRun = true → s.fld (F.txKeySel p) ≠ sl →
    ∃ t, exec (.keyLoad p sl) s = .next t
      ∧ t.keySlot p sl = { words := [], saltW := 0, loaded := true, salt := (s.keySlot p sl).saltW, keyId := s.fld (F.keyId p sl), ctr := 0,
                           key := (List.range 4).map (fun w => Sparse.get (fun _ => 0) (s.keySlot p sl).words w), told := false }
      ∧ (∀ k : Fin 4, k ≠ sl → t.keySlot p k = s.keySlot p k) ∧ (∀ q, q ≠ p.val → t.port q = s.port q) ∧ (∀ o, t.reg o = s.reg o))
  -- the slot holds no key any more
  ∧ (∀ (s : State) (p : Fin 6) (sl : Fin 4), s.windowOpen = true → s.pins.clkRun = true → s.fld (F.txKeySel p) ≠ sl →
    ∃ t, exec (.keyClear p sl) s = .next t ∧ (t.keySlot p sl).loaded = false ∧ (t.keySlot p sl).key = [] ∧ (t.keySlot p sl).ctr = 0
      ∧ (t.keySlot p sl).words = (s.keySlot p sl).words
      ∧ (∀ k : Fin 4, k ≠ sl → t.keySlot p k = s.keySlot p k) ∧ (∀ q, q ≠ p.val → t.port q = s.port q) ∧ (∀ o, t.reg o = s.reg o))
  -- the slot that the port transmits with: discarded and counted
  ∧ (∀ (s : State) (p : Fin 6) (sl : Fin 4), s.windowOpen = true → s.pins.clkRun = true → s.fld (F.txKeySel p) = sl →
    (∃ t, exec (.keyLoad p sl) s = .next t ∧ t.relay = s.relay ∧ t.fld F.badAcc = Nat.min (2 ^ 32 - 1) (s.fld F.badAcc + 1))
    ∧ (∃ t, exec (.keyClear p sl) s = .next t ∧ t.relay = s.relay ∧ t.fld F.badAcc = Nat.min (2 ^ 32 - 1) (s.fld F.badAcc + 1)))

/-- EPH_INSERT, EPH_REMOVE, EPH_CMD_DONE (R352, R353, R434). EPH_INSERT and EPH_REMOVE start a command when none is under way; a command
meanwhile is lost and flagged. EPH_CMD_DONE removes the entry, refuses an insertion with its code, or, when its checks pass and its
position lies ahead, inserts it at the lowest free index and reports that index. -/
def Obligations.EphemerisCommands : Prop :=
  ∀ s : State, s.windowOpen = true → s.pins.clkRun = true →
    (s.mer.cmd = none →
      (∃ t, exec .ephInsert s = .next t ∧ t.mer.cmd = some (1, 0, s.ephStaged) ∧ t.mer.eph = s.mer.eph ∧ t.fld F.ephBusy = 1
        ∧ t.fld F.ephLost = 0)
      ∧ (∀ idx : BitVec 10, ∃ t, exec (.ephRemove idx) s = .next t ∧ t.mer.cmd = some (2, idx.toNat, s.ephStaged)
        ∧ t.mer.eph = s.mer.eph ∧ t.fld F.ephBusy = 1))
    ∧ (s.mer.cmd ≠ none → ∃ t, exec .ephInsert s = .next t ∧ t.mer = s.mer ∧ t.fld F.ephLost = 1)
    ∧ (∀ idx b, s.mer.cmd = some (2, idx, b) →
      ∃ t, exec .ephCmdDone s = .next t ∧ t.mer.cmd = none ∧ t.fld F.ephBusy = 0
        ∧ t.mer.eph = s.mer.eph.filter (fun e => !(e.idx == idx && e.node.isNone)))
    ∧ (∀ idx b, s.mer.cmd = some (1, idx, b) → s.ephCheck b ≠ 0 →
      ∃ t, exec .ephCmdDone s = .next t ∧ t.mer.cmd = none ∧ t.mer.eph = s.mer.eph ∧ t.fld F.ephErr = s.ephCheck b
        ∧ t.fld F.ephBusy = 0)
    -- an insertion that passes its checks takes the lowest free index
    ∧ (∀ idx b, s.mer.cmd = some (1, idx, b) → s.ephCheck b = 0 → (ephOf b s.ephFree).late = 0 →
      ∃ t, exec .ephCmdDone s = .next t ∧ t.mer.cmd = none ∧ t.mer.eph = s.mer.eph ++ [ephOf b s.ephFree] ∧ t.fld F.ephIdx = s.ephFree
        ∧ t.fld F.ephErr = 0 ∧ t.fld F.ephBusy = 0 ∧ t.mer.bases = s.mer.bases)

/-- WAKE, PEEK, SHARED_DISABLE, SHARED_CLEAR_DONE (R197, R409, R415). WAKE in X0 is counted as an error, in X1 it returns to X0. PEEK shows
64 bytes of tile memory outside the enabled partitions. SHARED_DISABLE begins a clear, SHARED_CLEAR_DONE leaves zeros in the range and the
partition disabled. -/
def Obligations.WakePeekAndSharedPartition : Prop :=
  ∀ s : State, s.pins.clkRun = true →
    (s.phase = .x0 → ∃ t, exec .wake s = .next t ∧ t.phase = .x0 ∧ t.fld F.wakeErr = Nat.min 65535 (s.fld F.wakeErr + 1)
      ∧ t.graphs = s.graphs ∧ t.ctxs = s.ctxs)
    ∧ (s.phase = .x1 → ∃ t, exec .wake s = .next t ∧ t.phase = .x0 ∧ t.aon = s.aon)
    ∧ (∀ w : BitVec 20, s.windowOpen = true → s.relay.dbgLock = false → s.fld F.peekEn = 1 → s.inShared (64 * w.toNat) = false →
      (∀ t : Fin 8, s.fld (F.enable t) = 1 → s.inOwn t (64 * w.toNat) = false) → s.eccIn (64 * w.toNat) 64 = [] →
      ∃ t, exec (.peek w) s = .next t ∧ t.fld F.peekAddr = w.toNat ∧ t.fld F.peekUe = 0 ∧ t.fld F.peekCe = 0
        ∧ (∀ k : Fin 8, t.reg (Reg.dbgData k) = BitVec.ofNat 64 (le (s.tileRd (64 * w.toNat + 8 * k) 8))) ∧ t.tile = s.tile)
    ∧ (s.windowOpen = true → s.coreLock = false → s.fld F.shrEn = 1 → s.clears.any (·.tenant.isNone) = false →
      ∃ t, exec .sharedDisable s = .next t ∧ t.fld F.shrEn = 1 ∧ t.tile = s.tile
        ∧ t.clears = s.clears ++ [({ base := s.fld F.shrBase * 1048576, len := (s.fld F.shrLimit + 1 - s.fld F.shrBase) * 1048576, tenant := none } : Clear)])
    ∧ (∀ c, s.phase = .x0 → s.clears.find? (·.tenant.isNone) = some c →
      ∃ t, exec .sharedClearDone s = .next t ∧ t.fld F.shrEn = 0 ∧ t.clears = rmFirst (fun x => x == c) s.clears
        ∧ (∀ a, c.base ≤ a → a < c.base + c.len → t.tileByte a = 0)
        ∧ (∀ a, a < c.base ∨ c.base + c.len ≤ a → t.tileByte a = s.tileByte a))

/-- MB_ENABLE, MB_DISABLE (R341, R348, R433). MB_ENABLE of a base that is off starts it in SYNC at pos_init with no edges counted;
MB_DISABLE of one that is on stops it, its position reads 0 and its ephemeris entries are gone. One that is so already stays. Under the
configuration lock the field keeps its value and the write counts in XH_LOCK_VIOL. Other bases, tile memory, and graphs that have no TIMED
node in an entry of the base, are unchanged. -/
def Obligations.BasesStartAndStop : Prop :=
  -- a base that is off starts in SYNC at its first position
  (∀ (s : State) (b : Fin 4), s.windowOpen = true → s.pins.clkRun = true → s.coreLock = false → s.fld (F.mbEn b) = 0 →
    ∃ t, exec (.mbEnable b) s = .next t ∧ t.fld (F.mbEn b) = 1 ∧ t.fld (F.mbState b) = 1
      ∧ (t.base b).count = BitVec.ofNat 32 (s.fld (F.mbPosInit b)) ∧ (t.base b).edgeCount = BitVec.ofNat 32 (s.fld (F.mbPosInit b))
      ∧ (t.base b).edges = 0 ∧ (∀ k, k ≠ b.val → t.base k = s.base k) ∧ t.mer.eph = s.mer.eph ∧ t.tile = s.tile ∧ t.graphs = s.graphs)
  -- a base that is on stops: its position reads 0, its ephemeris entries are gone
  ∧ (∀ (s : State) (b : Fin 4), s.windowOpen = true → s.pins.clkRun = true → s.coreLock = false → s.fld (F.mbEn b) = 1 →
    ∃ t, exec (.mbDisable b) s = .next t ∧ t.fld (F.mbEn b) = 0 ∧ t.fld (F.mbState b) = 0 ∧ t.mbPos b = 0
      ∧ (∀ e ∈ t.mer.eph, e.base ≠ b.val) ∧ (∀ k, k ≠ b.val → t.base k = s.base k) ∧ t.tile = s.tile ∧ t.sys = s.sys
      ∧ (s.mer.eph.all (fun e => e.base != b || e.node.isNone) = true → t.graphs = s.graphs))
  -- one that is so already stays as it is
  ∧ (∀ (s : State) (b : Fin 4), s.windowOpen = true → s.pins.clkRun = true →
    (s.fld (F.mbEn b) = 1 → ∃ t, exec (.mbEnable b) s = .next t ∧ (∀ o, t.reg o = s.reg o) ∧ t.mer = s.mer)
    ∧ (s.fld (F.mbEn b) = 0 → ∃ t, exec (.mbDisable b) s = .next t ∧ (∀ o, t.reg o = s.reg o) ∧ t.mer = s.mer))
  -- under the lock the field keeps its value and the write is counted
  ∧ (∀ (s : State) (b : Fin 4), s.windowOpen = true → s.pins.clkRun = true → s.coreLock = true →
    (s.fld (F.mbEn b) = 0 → ∃ t, exec (.mbEnable b) s = .next t ∧ t.fld (F.mbEn b) = 0 ∧ t.mer = s.mer
      ∧ t.fld F.lockViol = Nat.min (2 ^ 32 - 1) (s.fld F.lockViol + 1))
    ∧ (s.fld (F.mbEn b) = 1 → ∃ t, exec (.mbDisable b) s = .next t ∧ t.fld (F.mbEn b) = 1 ∧ t.mer = s.mer
      ∧ t.fld F.lockViol = Nat.min (2 ^ 32 - 1) (s.fld F.lockViol + 1)))

/-- REGISTER_WRITE, TAIL_DOORBELL, HEAD_DOORBELL. That the rows carry the host's stores is the model's choice (log entry 5) (R6, R7, R16,
R48, R49, R50, R418, R421). A 64-bit write to one of the configuration registers named leaves each read-write field with the value written,
no other register changed, and the host's earlier stores visible; a 32-bit write changes its half alone; a write that would change an RWL
field under the lock leaves it and is counted; a misaligned access is counted and discarded. A tail doorbell inside the ring moves the tail
and another is counted; a legal head doorbell moves the head, also in X1; a doorbell of a context or ring that is not enabled, of another
offset, or with a head outside the ring's records is counted. -/
def Obligations.HostStoresAndDoorbells : Prop :=
  -- REGISTER_WRITE to a configuration register: every field takes its value, no other register changes, the host's earlier stores are visible
  (∀ (s : State) (off : Nat) (v : W64) (st : List HostStore), s.windowOpen = true → s.pins.clkRun = true → s.coreLock = false → off % 8 = 0 →
    (off ∈ [Reg.msgAddr, Reg.msgData, Reg.schedCfg, Reg.bwCfg, Reg.tmCfg] ∨ (0x10000 ≤ off ∧ off < 0x18000 ∧ off % 0x1000 ≠ 0)
      ∨ (0x60400 ≤ off ∧ off < 0x60420) ∨ (0x71000 ≤ off ∧ off ≤ 0x71800)) →
    s.eMarked off (s.reg off ^^^ v) = false → Reg.legal off (s.reg off) v = true →
    ∃ t, exec (.registerWrite off 8 v st) s = .next t
      ∧ t.reg off = (s.reg off &&& ~~~(Reg.mask off (fun f => f.t == .rw) ||| Reg.mask off (fun f => f.t == .rwl)))
          ||| (v &&& (Reg.mask off (fun f => f.t == .rw) ||| Reg.mask off (fun f => f.t == .rwl)))
      ∧ (∀ o, o ≠ off → t.reg o = s.reg o) ∧ t.sys = (s.hostStores st).sys ∧ t.tile = s.tile ∧ t.graphs = s.graphs)
  -- a 32-bit write changes its half alone
  ∧ (∀ (s : State) (i : Fin 8) (v : W64) (st : List HostStore), s.windowOpen = true → s.pins.clkRun = true →
    ∃ t, exec (.registerWrite (0x60400 + 4 * i) 4 v st) s = .next t
      ∧ t.reg (Reg.ephStage i) = (if i.val % 2 = 0 then (s.reg (Reg.ephStage i) &&& 0xFFFFFFFF00000000) ||| (v &&& 0xFFFFFFFF)
          else (s.reg (Reg.ephStage i) &&& 0xFFFFFFFF) ||| (v <<< 32))
      ∧ (∀ o, o ≠ Reg.ephStage i → t.reg o = s.reg o) ∧ t.sys = (s.hostStores st).sys ∧ t.tile = s.tile)
  -- a write that would change a register's field marked RWL under the lock leaves it and is counted
  ∧ (∀ (s : State) (v : W64), s.windowOpen = true → s.pins.clkRun = true → s.coreLock = true → (s.reg Reg.msgData ^^^ v) &&& 0xFFFFFFFF ≠ 0 →
    ∃ t, exec (.registerWrite Reg.msgData 8 v []) s = .next t ∧ t.reg Reg.msgData = s.reg Reg.msgData
      ∧ t.fld F.lockViol = Nat.min (2 ^ 32 - 1) (s.fld F.lockViol + 1))
  -- an access that is not aligned to its width, or has another, is counted and discarded
  ∧ (∀ (s : State) (off width : Nat) (v : W64), s.windowOpen = true → s.pins.clkRun = true → ¬(width = 4 ∧ off % 4 = 0) →
    ¬(width = 8 ∧ off % 8 = 0) →
    ∃ t, exec (.registerWrite off width v []) s = .next t ∧ t.fld F.badAcc = Nat.min (2 ^ 32 - 1) (s.fld F.badAcc + 1)
      ∧ ∀ o, o ≠ Reg.badAcc → t.reg o = s.reg o)
  -- TAIL_DOORBELL of any context, by R49
  ∧ (∀ (s : State) (page : Fin 9) (k : Fin 16) (width : Nat) (v : W64) (st : List HostStore), s.windowOpen = true → s.pins.clkRun = true →
    (width = 4 ∨ width = 8) → (page.val = 0 → k.val = 0) → (s.ctx (pageCtx page)).phase = .enabled → s.sqUsed (pageCtx page) k = true →
    ∃ t, exec (.tailDoorbell page (8 * k) width v st) s = .next t ∧ t.sys = (s.hostStores st).sys ∧ t.ctxs = s.ctxs
      ∧ (if v.toNat % 2 ^ 32 = s.fld (F.sqTail (pageCtx page) k)
            ∨ ((v.toNat % 2 ^ 32 + 2 ^ 32 - s.fld (F.sqHead (pageCtx page) k)) % 2 ^ 32 ≤ 2 ^ s.fld (F.sqLog2 (pageCtx page) k)
              ∧ (v.toNat % 2 ^ 32 + 2 ^ 32 - s.fld (F.sqTail (pageCtx page) k)) % 2 ^ 32
                  ≤ (v.toNat % 2 ^ 32 + 2 ^ 32 - s.fld (F.sqHead (pageCtx page) k)) % 2 ^ 32)
         then t.fld (F.sqTail (pageCtx page) k) = v.toNat % 2 ^ 32 ∧ t.fld (F.dbErr (pageCtx page)) = s.fld (F.dbErr (pageCtx page))
         else t.fld (F.sqTail (pageCtx page) k) = s.fld (F.sqTail (pageCtx page) k)
           ∧ t.fld (F.dbErr (pageCtx page)) = Nat.min (2 ^ (F.dbErr (pageCtx page)).w - 1) (s.fld (F.dbErr (pageCtx page)) + 1)))
  -- HEAD_DOORBELL of any context, by R50: the slots are free; in X1 the records that wait for them are written after `wake`
  ∧ (∀ (s : State) (page : Fin 9) (k : Fin 16) (width : Nat) (v : W64), s.windowOpen = true → s.pins.clkRun = true →
    (width = 4 ∨ width = 8) → (page.val = 0 → k.val = 0) →
    ((s.ctx (pageCtx page)).phase = .enabled ∨ (s.ctx (pageCtx page)).phase = .draining) → s.cqUsed (pageCtx page) k = true →
    headOk (s.fld (F.cqTail (pageCtx page) k)) (s.fld (F.cqHead (pageCtx page) k)) (v.toNat % 2 ^ 32) = true →
    ∃ t, exec (.headDoorbell page (0x100 + 8 * k) width v) s = .next t ∧ t.fld (F.cqHead (pageCtx page) k) = v.toNat % 2 ^ 32
      ∧ t.fld (F.dbErr (pageCtx page)) = s.fld (F.dbErr (pageCtx page)) ∧ t.graphs = s.graphs ∧ t.tile = s.tile
      ∧ ((s.phase ≠ .x0 ∨ ((s.ctx (pageCtx page)).holdQ = [] ∧ (s.ctx (pageCtx page)).held = [])) →
          t.fld (F.cqTail (pageCtx page) k) = s.fld (F.cqTail (pageCtx page) k) ∧ t.txns = s.txns))
  -- a doorbell of a context or a ring that is not enabled, a head outside its ring's records, and another offset: counted
  ∧ (∀ (s : State) (page : Fin 9) (off width : Nat) (v : W64), s.windowOpen = true → s.pins.clkRun = true →
    (width = 4 ∧ off % 4 = 0 ∨ width = 8 ∧ off % 8 = 0) → off < 0x1000 →
    (off % 8 ≠ 0 ∨ 0x200 ≤ off ∨ (if page.val = 0 then 1 else 16) ≤ off % 0x100 / 8
      ∨ (off < 0x100 ∧ ((s.ctx (pageCtx page)).phase ≠ .enabled ∨ s.sqUsed (pageCtx page) (off % 0x100 / 8) = false))
      ∨ (0x100 ≤ off ∧ (s.cqUsed (pageCtx page) (off % 0x100 / 8) = false
          ∨ headOk (s.fld (F.cqTail (pageCtx page) (off % 0x100 / 8))) (s.fld (F.cqHead (pageCtx page) (off % 0x100 / 8))) (v.toNat % 2 ^ 32) = false))) →
    (∃ t, exec (.tailDoorbell page off width v []) s = .next t
      ∧ t.fld (F.dbErr (pageCtx page)) = Nat.min (2 ^ (F.dbErr (pageCtx page)).w - 1) (s.fld (F.dbErr (pageCtx page)) + 1)
      ∧ ∀ o, o ≠ (F.dbErr (pageCtx page)).off → t.reg o = s.reg o)
    ∧ (∃ t, exec (.headDoorbell page off width v) s = .next t
      ∧ t.fld (F.dbErr (pageCtx page)) = Nat.min (2 ^ (F.dbErr (pageCtx page)).w - 1) (s.fld (F.dbErr (pageCtx page)) + 1)))

/-- AON_RESET_RELEASE, MODID_READ_DONE, MODID_READ_TIMEOUT, RESTART, AON_RESET_ASSERT (R36, R37, R315, R432). AON_RESET_RELEASE begins the
first read, a 64-byte request on xh_mgmt at the configured bus address and offset; MODID_READ_TIMEOUT begins the next or, after three,
fails and takes every port down; MODID_READ_DONE takes a valid record and refuses another; RESTART reads again or takes the override.
AON_RESET_ASSERT resets the relay's state and registers and no state of the core but its view of them. -/
def Obligations.RelayReadsItsIdentity : Prop :=
  ∀ s : State,
    (s.pins.aonRstN = false →
      exec .aonResetRelease s = .next ({ s with pins := { s.pins with aonRstN := true }, relay := { s.relay with
        modid := .reading 1 s.aon, mgmt := some (s.fld F.modidBus, s.fld F.modidOff, 64) } }))
    ∧ (∀ n t0, s.relay.modid = .reading n t0 → n < 3 →
      ∃ t, exec .modidReadTimeout s = .next t ∧ t.aon = Nat.max s.aon (t0 + 5000000) ∧ t.relay.modid = .reading (n + 1) t.aon
        ∧ t.relay.mgmt = some (s.fld F.modidBus, s.fld F.modidOff, 64) ∧ t.regs = s.regs)
    ∧ (∀ n t0, s.relay.modid = .reading n t0 → 3 ≤ n →
      ∃ t, exec .modidReadTimeout s = .next t ∧ t.relay.modid = .failed ∧ t.relay.mgmt = none ∧ t.fld F.fabValid = 0
        ∧ ∀ p : Fin 6, t.fld (F.linkState p) = 0 ∧ (t.port p).outQ = [])
    ∧ (∀ n t0 rec, s.relay.modid = .reading n t0 → modidOk (slice rec 0 64) = true →
      ∃ t, exec (.modidReadDone rec) s = .next t ∧ t.relay.modid = .valid ∧ t.relay.record = slice rec 0 64 ∧ t.fld F.fabValid = 1
        ∧ t.fld F.chipId = bits (fieldAt (slice rec 0 64) 8 2) 0 12 ∧ t.fld F.dims = bits (fieldAt (slice rec 0 64) 5 2) 0 12)
    ∧ (∀ n t0 rec, s.relay.modid = .reading n t0 → modidOk (slice rec 0 64) = false →
      ∃ t, exec (.modidReadDone rec) s = .next t ∧ t.relay.modid = .failed ∧ t.fld F.fabValid = 0)
    ∧ (s.windowOpen = true → s.pins.clkRun = true → s.pins.aonRstN = true → s.fld F.ovrEn = 0 →
      ∃ t, exec .restart s = .next t ∧ t.relay.modid = .reading 1 s.aon ∧ t.relay.ports = s.relay.ports
        ∧ t.relay.mgmt = some (s.fld F.modidBus, s.fld F.modidOff, 64))
    ∧ (s.windowOpen = true → s.pins.clkRun = true → s.pins.aonRstN = true → s.fld F.ovrEn = 1 →
      ∃ t, exec .restart s = .next t ∧ t.relay.modid = .valid ∧ t.fld F.fabValid = 1
        ∧ t.fld F.chipId = bits (s.reg Reg.modidOvr).toNat 0 12 ∧ t.fld F.dims = bits (s.reg Reg.modidOvr).toNat 12 12)
    -- the relay's own reset
    ∧ (∃ t, exec .aonResetAssert s = .next t ∧ t.pins.aonRstN = false ∧ t.phase = s.phase ∧ t.ctxs = s.ctxs
      ∧ t.graphs = s.graphs ∧ t.tile = s.tile ∧ t.relay.ports = [] ∧ t.relay.modid = .idle ∧ t.relay.locked = false
      ∧ (∀ off : Nat, Reg.relayDomain off = true → t.reg off = Reg.resetValue off)
      ∧ (∀ off : Nat, Reg.relayDomain off = false → off ≠ Reg.pwrStatus 0 → t.reg off = s.reg off))

/-- TRAIN_ALIGNED, TRAIN_TIMEOUT, FAILED_RETRY, RETRAIN, KEY_COUNTER_LIMIT (R314, R336). TRAIN_ALIGNED takes a training port to IDENT and
puts its link identity record on the wire; TRAIN_TIMEOUT ends an attempt in TRAIN after 15 ms and one in IDENT or AUTH 20 ms after its
begin, counts it and begins another, or after three fails the port with contained cause 0x0040; FAILED_RETRY after one second and RETRAIN
begin a new row of attempts. A transmit key whose counter has run out is recorded as cause 0x0042 once. -/
def Obligations.PortsTrain : Prop :=
  ∀ (s : State) (p : Fin 6), s.pins.aonRstN = true →
    (s.fld (F.linkState p) = 1 →
      (∃ t, exec (.trainAligned p) s = .next t ∧ t.fld (F.linkState p) = 2 ∧ t.coll = s.coll
        ∧ (t.port p).wire.map (fun w => (w.1.typ, w.1.payload.take 8, w.2))
          = some (8, leBytes 2 0xCA4E ++ leBytes 2 0x0A21 ++ leBytes 1 0xB0 ++ leBytes 1 s.relay.role ++ leBytes 2 (s.self + 4096 * p),
              crc32c (frameHeader (s.identFrame p) ++ frameBody (s.identFrame p)))
        ∧ (t.port p).outQ = (s.port p).outQ ∧ ∀ k, k ≠ p.val → t.port k = s.port k)
      ∧ ((s.port p).attempts < 2 →
        ∃ t, exec (.trainTimeout p) s = .next t ∧ t.aon = Nat.max s.aon ((s.port p).since + 15000000)
          ∧ (t.port p).attempts = (s.port p).attempts + 1 ∧ t.fld (F.linkState p) = (if s.mayTrain p then 1 else 0)
          ∧ t.coll = s.coll)
      ∧ (2 ≤ (s.port p).attempts → s.collUp = true → s.pins.clkRun = true → s.eclipsed (0xE8 + p) = false →
          (∀ f ∈ s.coll.faults, f.unit ≠ 0xE8 + p.val) →
        ∃ t, exec (.trainTimeout p) s = .next t ∧ t.fld (F.linkState p) = 5
          ∧ ∃ f ∈ t.coll.faults, f.unit = 0xE8 + p.val ∧ f.cause = 0x40 ∧ f.cls = 3 ∧ f.line = true))
    -- an attempt that has come to IDENT or AUTH ends after 20 ms
    ∧ ((s.fld (F.linkState p) = 2 ∨ s.fld (F.linkState p) = 3) → (s.port p).attempts < 2 →
      ∃ t, exec (.trainTimeout p) s = .next t ∧ t.aon = Nat.max s.aon ((s.port p).since + 20000000)
        ∧ (t.port p).attempts = (s.port p).attempts + 1 ∧ t.fld (F.linkState p) = (if s.mayTrain p then 1 else 0) ∧ t.coll = s.coll)
    ∧ (s.fld (F.linkState p) = 5 →
      ∃ t, exec (.failedRetry p) s = .next t ∧ t.aon = Nat.max s.aon ((s.port p).since + 1000000000)
        ∧ t.fld (F.linkState p) = (if s.mayTrain p then 1 else 0) ∧ (t.port p).attempts = 0
        ∧ ∀ f ∈ t.coll.faults, f.unit = 0xE8 + p.val → f.cause = 0x40 → f.line = false)
    ∧ (s.windowOpen = true → s.pins.clkRun = true →
      ∃ t, exec (.retrain p) s = .next t ∧ t.fld (F.linkState p) = (if s.mayTrain p then 1 else 0) ∧ (t.port p).attempts = 0)
    -- the transmit key's frame counter has run out
    ∧ (s.keyDead p = true → (s.keySlot p (s.fld (F.txKeySel p))).told = false → s.collUp = true →
      s.pins.clkRun = true → s.eclipsed (0xE8 + p) = false → (∀ f ∈ s.coll.faults, f.unit ≠ 0xE8 + p.val) →
      ∃ t, exec (.keyCounterLimit p) s = .next t ∧ (∃ f ∈ t.coll.faults, f.unit = 0xE8 + p.val ∧ f.cause = 0x42 ∧ f.cls = 3))

/-- LINK_IDENTITY, LINK_AUTH (R314, R316, R335). LINK_IDENTITY with a record that passes its checks takes the port to AUTH, or without
encryption to UP; with one that fails the attempt fails. LINK_AUTH with the loaded key brings the port up, a failed exchange fails the
attempt. -/
def Obligations.LinkIdentityDecides : Prop :=
  ∀ (s : State) (p : Fin 6), s.pins.aonRstN = true →
    (∀ rec, s.fld (F.linkState p) = 2 →
      s.identCheck p rec = 0 →
      s.fld (F.encEn p) = 1 →
      ∃ t, exec (.linkIdentity p rec) s = .next t ∧ t.fld (F.linkState p) = 3 ∧ t.fld (F.identFail p) = 0
        ∧ t.fld (F.partnerChip p) = bits (fieldAt rec 6 2) 0 12)
    ∧ (∀ rec, s.fld (F.linkState p) = 2 →
      s.identCheck p rec = 0 →
      s.fld (F.encEn p) = 0 →
      ∃ t, exec (.linkIdentity p rec) s = .next t ∧ t.fld (F.linkState p) = 4 ∧ (t.port p).attempts = 0 ∧ (t.port p).credits = []
        ∧ (t.port p).lastMaint = s.aon)
    ∧ (∀ rec, s.fld (F.linkState p) = 2 →
      s.identCheck p rec ≠ 0 →
      ∃ t, exec (.linkIdentity p rec) s = .next t ∧ t.fld (F.linkState p) ≠ 4 ∧ t.fld (F.linkState p) ≠ 3
        ∧ (t.port p).attempts = (s.port p).attempts + 1)
    ∧ (∀ keyId ctr : Nat, s.fld (F.linkState p) = 3 → (s.keySlot p (s.fld (F.txKeySel p))).loaded = true →
      (s.keySlot p (s.fld (F.txKeySel p))).keyId = keyId →
      ∃ t, exec (.linkAuth p keyId ctr true) s = .next t ∧ t.fld (F.linkState p) = 4
        ∧ (t.keySlot p (s.fld (F.txKeySel p))).ctr = Nat.max (s.keySlot p (s.fld (F.txKeySel p))).ctr ctr + 1)
    ∧ (∀ keyId ctr : Nat, s.fld (F.linkState p) = 3 →
      ∃ t, exec (.linkAuth p keyId ctr false) s = .next t ∧ t.fld (F.linkState p) ≠ 4 ∧ t.fld (F.linkState p) ≠ 3
        ∧ (t.port p).attempts = (s.port p).attempts + 1)

/-- LANE_LOCK_LOSS, UNC_CODEWORD_LIMIT, AUTH_FAIL_LIMIT, MAINTENANCE_TIMEOUT (R314, R317). LANE_LOCK_LOSS, UNC_CODEWORD_LIMIT,
AUTH_FAIL_LIMIT above their limits and MAINTENANCE_TIMEOUT take an UP port down and let it train again; no fault is recorded. -/
def Obligations.LinkLossRetrains : Prop :=
  ∀ (s : State) (p : Fin 6), s.pins.aonRstN = true → s.fld (F.linkState p) = 4 →
    (∃ t, exec (.laneLockLoss p) s = .next t ∧ t.fld (F.linkState p) = (if s.mayTrain p then 1 else 0)
      ∧ (t.port p).retrained = true ∧ (t.port p).attempts = 0 ∧ t.aon = s.aon ∧ t.coll = s.coll)
    ∧ (∀ n : Nat, s.fld (F.uncLimit p) < n →
      ∃ t, exec (.uncCodewordLimit p n) s = .next t ∧ t.fld (F.linkState p) = (if s.mayTrain p then 1 else 0)
        ∧ (t.port p).retrained = true ∧ t.coll = s.coll)
    ∧ (∀ n : Nat, s.fld (F.authLimit p) < n →
      ∃ t, exec (.authFailLimit p n) s = .next t ∧ t.fld (F.linkState p) = (if s.mayTrain p then 1 else 0)
        ∧ (t.port p).retrained = true ∧ t.coll = s.coll)
    ∧ (∃ t, exec (.maintenanceTimeout p) s = .next t ∧ t.aon = Nat.max s.aon ((s.port p).lastMaint + 2000)
      ∧ t.fld (F.linkState p) = (if s.mayTrain p then 1 else 0) ∧ (t.port p).retrained = true ∧ t.coll = s.coll)

/-- FRAME_SLOT_SEND, FRAME_FORWARD, MAINTENANCE_FRAME. Whether a received trailer verifies comes with the frame (log entry 44); which of a
forwarded and an own frame goes first is free (log entry 15) (R309, R310, R311, R312, R313, R318, R319, R320, R321, R322, R323, R324).
FRAME_SLOT_SEND sends the frame that the lanes' order picks with this hop's alive value and trailer, takes a buffer of the neighbour and
frees the one the frame held here; an encrypting port counts the frames of its key; every 64th slot carries a maintenance frame, a slot
with nothing to send an idle one. FRAME_FORWARD drops a damaged frame, delivers a frame for this chip (in X1 into the relay's buffer) and
queues another at the port that R323 chooses; MAINTENANCE_FRAME returns credits and notes what the partner says of itself. -/
def Obligations.PortsCarryFrames : Prop :=
  ∀ (s : State) (p : Fin 6), s.pins.aonRstN = true → s.fld (F.linkState p) = 4 →
    -- a slot carries the frame that the lanes' order picks, with this hop's alive value and trailer; it takes a buffer of the neighbour
    (∀ (q : Queued) (turn : Nat), s.fld (F.encEn p) = 0 → (s.port p).slotNo < 63 →
      ((s.port p).outQ.any (·.own) && (s.port p).outQ.any (fun q => !q.own)) = false → s.pick (s.port p) true = (some q, turn) →
      ∃ t, exec (.frameSlotSend p) s = .next t ∧ (t.port p).outQ = (s.port p).outQ.erase q
        ∧ (t.port p).used q.f.vl q.f.dl = (s.port p).used q.f.vl q.f.dl + 1 ∧ (t.port p).slotNo = (s.port p).slotNo + 1
        ∧ (∀ f : Frame, f = { q.f with alive := (Sparse.get (fun _ => 0) (s.port p).aliveTx q.f.vl + 1) % 256, enc := false, keySel := 0 } →
            (t.port p).wire = some (f, crc32c (frameHeader f ++ frameBody f)))
        ∧ t.regs = s.regs ∧ (q.src = none → ∀ k, k ≠ p.val → t.port k = s.port k)
        ∧ (∀ a v k, q.src = some (a, v, k) → Sparse.get (fun _ => 0) (t.port a).held (2 * v + k)
            = Sparse.get (fun _ => 0) (s.port a).held (2 * v + k) - 1))
    -- of a forwarded and an own frame that could both go, either one
    ∧ ((s.port p).slotNo < 63 → s.fld (F.encEn p) = 0 → (∀ fwd : Bool, (s.pick (s.port p) fwd).1.isSome = true) →
      ∃ t q, exec (.frameSlotSend p) s = .next t ∧ q ∈ (s.port p).outQ ∧ (t.port p).outQ = (s.port p).outQ.erase q ∧ t.regs = s.regs)
    -- an encrypting port counts the frames of its key
    ∧ (∀ (q : Queued) (turn : Nat), s.fld (F.encEn p) = 1 → (s.keySlot p (s.fld (F.txKeySel p))).loaded = true → s.keyDead p = false →
      (s.port p).slotNo < 63 → ((s.port p).outQ.any (·.own) && (s.port p).outQ.any (fun q => !q.own)) = false →
      s.pick (s.port p) true = (some q, turn) →
      ∃ t, exec (.frameSlotSend p) s = .next t ∧ (t.port p).outQ = (s.port p).outQ.erase q
        ∧ (t.keySlot p (s.fld (F.txKeySel p))).ctr = (s.keySlot p (s.fld (F.txKeySel p))).ctr + 1
        ∧ (t.port p).wire.map (fun w => (w.1.enc, w.1.keySel)) = some (true, s.fld (F.txKeySel p)) ∧ t.regs = s.regs)
    -- the 64th slot carries a maintenance frame, a slot without a frame an idle one
    ∧ (63 ≤ (s.port p).slotNo →
      ∃ t, exec (.frameSlotSend p) s = .next t ∧ (t.port p).wire.map (fun w => (w.1.typ, w.1.payload)) = some (8, (s.maintFrame p).payload)
        ∧ (t.port p).slotNo = 0 ∧ (t.port p).freed = [] ∧ (t.port p).outQ = (s.port p).outQ ∧ t.regs = s.regs)
    ∧ ((s.port p).slotNo < 63 → (s.port p).outQ = [] →
      ∃ t, exec (.frameSlotSend p) s = .next t ∧ (t.port p).wire.map (fun w => w.1.typ) = some 0
        ∧ (t.port p).slotNo = (s.port p).slotNo + 1 ∧ (t.port p).outQ = [] ∧ t.regs = s.regs)
    -- frames that come in: a damaged one is dropped, one for this chip is delivered, another goes on by R323
    ∧ (∀ f : Frame, f.ok = false → f.enc = false →
      ∃ t, exec (.frameForward p f) s = .next t ∧ t.relay = s.relay
        ∧ t.fld (F.badFrame p) = Nat.min 65535 (s.fld (F.badFrame p) + 1))
    ∧ (∀ f : Frame, f.ok = true → f.enc = false → 1 ≤ f.typ → f.typ ≤ 6 → f.detour ≠ 3 → f.dstChip = s.self →
      (f.alive + 256 - Sparse.get (fun _ => 0) (s.port p).aliveRx f.vl) % 256 = 1 → s.relay.coreReady = true →
      (s.phase = .x0 →
        ∃ t, exec (.frameForward p f) s = .next t ∧ t.relay.inbox = s.relay.inbox ++ [f] ∧ t.relay.holdQ = s.relay.holdQ ∧ t.regs = s.regs)
      ∧ (s.phase = .x1 → s.relay.holdQ.length < 256 →
        ∃ t, exec (.frameForward p f) s = .next t ∧ t.relay.inbox = s.relay.inbox ∧ t.relay.holdQ = s.relay.holdQ ++ [f] ∧ t.regs = s.regs))
    ∧ (∀ f : Frame, f.ok = true → f.enc = false → 1 ≤ f.typ → f.typ ≤ 6 → f.detour ≠ 3 → f.dstChip ≠ s.self → f.hops < 48 →
      (f.alive + 256 - Sparse.get (fun _ => 0) (s.port p).aliveRx f.vl) % 256 = 1 →
      ∃ t, exec (.frameForward p f) s = .next t ∧ t.regs = s.regs ∧ t.relay.inbox = s.relay.inbox
        ∧ (t.port (s.choosePort (some p) f.dstChip f.detour).1).outQ
          = (s.port (s.choosePort (some p) f.dstChip f.detour).1).outQ
            ++ [{ f := s.onto (some p) (s.choosePort (some p) f.dstChip f.detour).1 (s.choosePort (some p) f.dstChip f.detour).2 f,
                  own := false, src := some (p.val, f.vl, f.dl) }]
        ∧ Sparse.get (fun _ => 0) (t.port p).held (2 * f.vl + f.dl) = Sparse.get (fun _ => 0) (s.port p).held (2 * f.vl + f.dl) + 1)
    ∧ (∀ (credits alive : List Nat) (ctr sel : Nat) (ready : Bool),
      ∃ t, exec (.maintenanceFrame p credits alive ctr sel ready) s = .next t ∧ (t.port p).lastMaint = s.aon ∧ (t.port p).rxCtr = ctr
        ∧ t.fld (F.partnerReady p) = (if ready then 1 else 0) ∧ t.fld (F.rxLastSel p) = sel % 4
        ∧ (∀ v k : Fin 2, (t.port p).used v k = (s.port p).used v k - credits.getD (2 * v + k) 0)
        ∧ ∀ k, k ≠ p.val → t.port k = s.port k)

/-- NOP: the entry leaves, its record is written, nothing else changes (R57, R60, R62). NOP of a context removes the entry, writes its
completion record (status 1, the phase and sequence of its ring) and moves the ring's tail; memory, graphs, counters and other contexts are
unchanged. -/
def Obligations.NopCompletesWithItsRecord : Prop :=
  ∀ (s : State) (c : Fin 9) (e : Entry), s.engines = true → s.oldest c 0x0C = some e →
    (s.ctx c).entries.find? (·.id == e.id) = some e → e.corr = 0 → e.quiet = false →
    (s.ctx c).holdQ = [] → (s.ctx c).held = [] → s.cqFree c (s.cqOf c e.sq) = true →
    ∃ t, exec (.nop c) s = .next t ∧ (∀ x ∈ (t.ctx c).entries, x.id ≠ e.id)
      ∧ t.fld (F.cqTail c (s.cqOf c e.sq)) = (s.fld (F.cqTail c (s.cqOf c e.sq)) + 1) % 2 ^ 32
      ∧ (t.txns.getLast?).map (fun x => (x.isRec, x.ctx, x.stage, x.bytes))
        = some (true, c.val, 1,
            Rec.bytes { ctx := c, cq := s.cqOf c e.sq, sq := e.sq, status := 1, tag := e.tag, opcode := e.opcode, detail := 0,
                        result := 0, irq := e.irq }
              (if s.fld (F.cqTail c (s.cqOf c e.sq)) / 2 ^ s.fld (F.cqLog2 c (s.cqOf c e.sq)) % 2 = 0 then 1 else 0)
              (s.stampFor c) (s.fld (F.cqTail c (s.cqOf c e.sq)) % 65536))
      ∧ t.tile = s.tile ∧ t.graphs = s.graphs ∧ t.counters = s.counters ∧ ∀ k, k ≠ c.val → t.ctx k = s.ctx k

/-- FETCH_TURN, ENTRY_ADMIT (R51, R56, R59, R67). FETCH_TURN reads up to four entries of one aligned block, moves the head past them and
counts the turn; ENTRY_ADMIT admits the entry that may be admitted when its checks pass, a WAIT with its wait pending from now on, and
completes it with its failure otherwise, counting a privilege violation. -/
def Obligations.EntriesAreFetchedAndAdmitted : Prop :=
  ∀ s : State,
    (∀ k, s.granting = true → (s.ctx s.fetchTenant).turns < s.turnsOf s.fetchTenant → s.nextRing s.fetchTenant = some k → s.badRd = [] → s.poison = [] →
      s.fetchTenant < 9 →
      ∃ t, exec .fetchTurn s = .next t
        ∧ t.fld (F.sqHead s.fetchTenant k) = (s.fld (F.sqHead s.fetchTenant k)
            + Nat.min (s.fetchable s.fetchTenant k) (4 - s.fld (F.sqHead s.fetchTenant k) % 2 ^ s.fld (F.sqLog2 s.fetchTenant k) % 4)) % 2 ^ 32
        ∧ (t.ctx s.fetchTenant).fetched.length = (s.ctx s.fetchTenant).fetched.length
            + Nat.min (s.fetchable s.fetchTenant k) (4 - s.fld (F.sqHead s.fetchTenant k) % 2 ^ s.fld (F.sqLog2 s.fetchTenant k) % 4)
        ∧ (t.ctx s.fetchTenant).fetched.take (s.ctx s.fetchTenant).fetched.length = (s.ctx s.fetchTenant).fetched
        ∧ (t.ctx s.fetchTenant).turns = (s.ctx s.fetchTenant).turns + 1 ∧ (s.cpu = [] → t.sys = s.sys) ∧ t.graphs = s.graphs)
    ∧ (∀ (c : Fin 9) (k : Fin 16) (e : Entry), s.engines = true → s.admissible c k = some e → s.entryCheck c e = none →
      ∃ t, exec (.entryAdmit c k) s = .next t ∧ (t.ctx c).entries = (s.ctx c).entries ++ [{ e with age := s.readyNo }]
        ∧ (t.ctx c).fetched = (s.ctx c).fetched.filter (·.id != e.id) ∧ t.regs = s.regs ∧ (∀ j, j ≠ c.val → t.ctx j = s.ctx j)
        ∧ (e.opcode ≠ 6 → t.waits = s.waits)
        ∧ (e.opcode = 6 → t.waits.length = s.waits.length + 1
            ∧ (t.waits.getLast?).map (fun w => (w.t, w.who, w.counter, w.cond, w.value, w.start, w.timeoutUs))
              = some (c.val, .entry e.id, e.field 8 2, e.field 10 1, BitVec.ofNat 32 (e.field 12 4), s.aon, e.field 16 4)))
    ∧ (∀ (c : Fin 9) (k : Fin 16) (e : Entry) (st de : Nat), s.engines = true → s.admissible c k = some e →
      s.entryCheck c e = some (st, de) →
      ∃ t, exec (.entryAdmit c k) s = .next t ∧ (∀ x ∈ (t.ctx c).entries, x.id ≠ e.id)
        ∧ (t.ctx c).fetched = (s.ctx c).fetched.filter (·.id != e.id)
        ∧ (c.val < 8 → (s.ctx c).holdQ = [] → (s.ctx c).held = [] → t.fld (F.privViol c) = if st = 0x12 then Nat.min (2 ^ 32 - 1) (s.fld (F.privViol c) + 1) else s.fld (F.privViol c))
        ∧ t.graphs = s.graphs ∧ ∀ j, j ≠ c.val → t.ctx j = s.ctx j)

/-- SUBMIT_GRAPH, RUN_PROGRAM, SCAN_CHECK (R57, R68, R122, R123, R367). SUBMIT_GRAPH adds a graph with the entry's address, count and
priority; RUN_PROGRAM and SCAN_CHECK that pass their checks add a one-node graph with its slices. -/
def Obligations.GraphEntriesStartGraphs : Prop :=
  ∀ (s : State) (t : Fin 8) (e : Entry), s.engines = true →
    (s.oldest t 0x01 = some e →
      ∃ u, exec (.submitGraph t) s = .next u ∧ u.graphs.dropLast = s.graphs
        ∧ (u.graphs.getLast?).map (fun g => (g.id, g.ctx, g.xva, g.count, g.prio, g.nodes))
          = some (e.id, t.val, e.field 8 8, e.field 16 4, e.field 20 1, [])
        ∧ (u.ctx t).entries = (s.ctx t).entries.map (fun y => if y.id == e.id then { y with started := true } else y))
    ∧ (∀ (s1 : State) (slots : List (List Byte)) (l : List Nat), s.oldest t 0x02 = some e →
      (progScan (entryReq t e) (e.field 8 8) (e.field 16 2)).on s = (.ok slots, s1) →
      fillSlices (256 * s.sliceLimit t) (progCosts (s1.handle t) slots) 0 0 = some l →
      ∃ u, exec (.runProgram t) s = .next u ∧ u.graphs.dropLast = s1.graphs
        ∧ (u.graphs.getLast?).map (fun g => (g.id, g.ctx, g.count, g.prio, g.entryOnly))
          = some (e.id, t.val, 1, 0, true)
        ∧ (u.graphs.getLast?).map (fun g => g.nodes.map (fun n => (n.idx, n.kind, n.prog, n.slices))) = some [(0, 1, slots, l)])
    ∧ (∀ l : List Nat, s.oldest t 0x07 = some e →
      fillSlices (256 * s.sliceLimit t) ((List.range ({ idx := 0, bytes := scanBytes e, seq := 0 } : Node).ckCount).map (fun i =>
        256 * checkCost ({ idx := 0, bytes := scanBytes e, seq := 0 } : Node).ckStart ({ idx := 0, bytes := scanBytes e, seq := 0 } : Node).ckLen i)) 0 0
        = some l →
      ∃ u, exec (.scanCheck t) s = .next u ∧ u.graphs.dropLast = s.graphs
        ∧ (u.graphs.getLast?).map (fun g => (g.id, g.ctx, g.count, g.prio, g.entryOnly)) = some (e.id, t.val, 1, 0, true)
        ∧ (u.graphs.getLast?).map (fun g => g.nodes.map (fun n => (n.idx, n.slices))) = some [(0, l)])

/-- CREATE_TENSOR, DESTROY_TENSOR, HANDLE_FREE (R96, R97, R109, R110). CREATE_TENSOR writes an image that passes R109 to its table entry
and counts a refusal otherwise; when the write has returned the handle is in use and the command leaves with its record; DESTROY_TENSOR,
judged when it runs, marks its handle retiring or fails for a handle not in use; HANDLE_FREE with no user left frees it and completes the
command. -/
def Obligations.DescriptorsComeAndGo : Prop :=
  ∀ (s : State) (t : Fin 8) (e : Entry), s.engines = true →
    (∀ (s1 : State) (b : List Byte), s.oldestDesc t = some e → e.opcode = 3 →
      (structRead (entryReq t e) (e.field 8 8) 128).on s = (.ok b, s1) → b.length = 128 → s1.descCheck t (e.field 16 4) b = none →
      ∃ u, exec (.createTensor t) s = .next u ∧ (u.ctx t).handles = (s1.ctx t).handles
        ∧ (u.ctx t).entries = (s1.ctx t).entries.map (fun y => if y.id == e.id then { y with
            started := true, due := some ((descOf b).passes, .handle { h := e.field 16 4, d := descOf b }) } else y)
        ∧ (u.txns.getLast?).map (fun x => (x.isRec, x.who, x.cells))
          = some (false, some (.entry e.id), cellsAt (page4k (s1.fld (F.dtBase t)) + 256 * e.field 16 4) b)
        ∧ u.txns.length = s1.txns.length + 1 ∧ u.sys = s1.sys ∧ u.graphs = s1.graphs)
    ∧ (∀ (i : Nat) (x : Txn) (r : Nat) (h : Handle), s.txns[i]? = some x → s.coreRuns = true → s.pins.clkRun = true → s.coll.fatal = false →
      x.sent = true → x.isRec = false → x.who = some (.entry e.id) → (∀ (j : Nat) (y : Txn), s.txns[j]? = some y → j ≠ i → y.who ≠ some (.entry e.id)) →
      s.entryAt e.id = some (t.val, e) → e.bad = none → e.due = some (r, .handle h) →
      (e.quiet = true ∨ (s.cqFree t (s.cqOf t e.sq) = true ∧ (s.ctx t).holdQ = [] ∧ (s.ctx t).held = [])) →
      ∃ u, exec (.portResponse (.write i false)) s = .next u ∧ (u.ctx t).handles = (s.ctx t).handles ++ [h] ∧ u.sys = (s.putCells x.nc x.cells).sys
        ∧ (∀ y ∈ (u.ctx t).entries, y.id ≠ e.id) ∧ u.graphs = s.graphs)
    ∧ (∀ (s1 : State) (b : List Byte) (code : Nat), s.oldestDesc t = some e → e.opcode = 3 →
      (structRead (entryReq t e) (e.field 8 8) 128).on s = (.ok b, s1) → s1.descCheck t (e.field 16 4) b = some code →
      ∃ u, exec (.createTensor t) s = .next u ∧ (u.ctx t).handles = (s1.ctx t).handles
        ∧ ((s1.ctx t).holdQ = [] → (s1.ctx t).held = [] → u.fld (F.descRef t) = Nat.min (2 ^ 64 - 1) (s1.fld (F.descRef t) + 1)) ∧ (∀ x ∈ (u.ctx t).entries, x.id ≠ e.id))
    ∧ (s.oldestDesc t = some e → e.opcode = 4 → (s.ctx t).handles.any (fun x => x.h == e.field 16 4 && x.retiring.isNone) = true →
      ∃ u, exec (.destroyTensor t) s = .next u
        ∧ (u.ctx t).handles = (s.ctx t).handles.map (fun y => if y.h == e.field 16 4 then { y with retiring := some e.id } else y)
        ∧ (u.ctx t).entries = (s.ctx t).entries.map (fun y => if y.id == e.id then { y with started := true } else y)
        ∧ u.sys = s.sys ∧ u.graphs = s.graphs)
    ∧ (s.oldestDesc t = some e → e.opcode = 4 → (s.ctx t).handles.any (fun x => x.h == e.field 16 4 && x.retiring.isNone) = false →
      ∃ u, exec (.destroyTensor t) s = .next u ∧ (u.ctx t).handles = (s.ctx t).handles ∧ (∀ x ∈ (u.ctx t).entries, x.id ≠ e.id)
        ∧ u.graphs = s.graphs)
    ∧ (∀ (h : Nat) (x : Handle), s.bound t h = false → (s.ctx t).handles.find? (fun x => x.h == h && x.retiring.isSome) = some x →
      ∃ u, exec (.handleFree t h) s = .next u ∧ (u.ctx t).handles = (s.ctx t).handles.filter (·.h != h)
        ∧ (∀ y ∈ (u.ctx t).entries, some y.id ≠ x.retiring) ∧ u.graphs = s.graphs)

/-- SIGNAL, WAIT, WAIT_SATISFIED, WAIT_TIMEOUT. Whether two operations share an XCLK is free (log entry 15) (R57, R282, R283, R284, R440).
SIGNAL adds to or sets its counter and no other: alone in its XCLK as the rule says, with others there as R283 orders them or in a later
XCLK. A WAIT entry's wait is pending since its admission: WAIT completes the entry when its condition has been found true and otherwise
leaves it waiting. WAIT_SATISFIED and WAIT_TIMEOUT end a pending wait and complete its entry, the latter at the wait's time. -/
def Obligations.CountersAndWaits : Prop :=
  ∀ (s : State) (e : Entry), s.engines = true →
    -- SIGNAL: no operation has reached the counter in this XCLK
    (∀ t : Fin 8, s.oldest t 0x05 = some e →
      ∃ u, exec (.signal t) s = .next u
        ∧ (s.ctrNow.find? (·.counter == e.field 8 2) = none →
            u.counter (e.field 8 2) = (if e.field 10 1 = 0 then s.counter (e.field 8 2) + BitVec.ofNat 32 (e.field 12 4)
                                        else BitVec.ofNat 32 (e.field 12 4)))
        -- one has: the operation falls into its XCLK, or into a later one
        ∧ (∀ x : CtrNow, s.ctrNow.find? (·.counter == e.field 8 2) = some x →
            u.counter (e.field 8 2)
                = ((x.push (if e.field 10 1 = 0 then none else some (s.entryRank t e)) (BitVec.ofNat 32 (e.field 12 4))).stands.getLastD 0)
              ∨ u.counter (e.field 8 2) = (if e.field 10 1 = 0 then s.counter (e.field 8 2) + BitVec.ofNat 32 (e.field 12 4)
                                            else BitVec.ofNat 32 (e.field 12 4)))
        ∧ (∀ c, c ≠ e.field 8 2 → u.counter c = s.counter c) ∧ (∀ x ∈ (u.ctx t).entries, x.id ≠ e.id) ∧ u.tile = s.tile
        ∧ u.graphs = s.graphs)
    -- WAIT: its wait has been pending since the entry's admission
    ∧ (∀ (t : Fin 8) (s1 : State), s.oldest t 0x06 = some e → s1 = s.ctrSettle (e.field 8 2) →
      (s1.waits.any (fun w => w.who == .entry e.id && s1.waitMet w) = true →
        ∃ u, exec (.wait t) s = .next u ∧ u.counters = s.counters ∧ u.waits = s1.waits.filter (fun w => w.who != .entry e.id)
          ∧ (∀ x ∈ (u.ctx t).entries, x.id ≠ e.id) ∧ u.graphs = s.graphs ∧ u.tile = s.tile)
      ∧ (s1.waits.any (fun w => w.who == .entry e.id && s1.waitMet w) = false → exec (.wait t) s = .next (s1.start t e)))
    -- a pending wait ends when its condition has been true, or at its time
    ∧ (∀ (i : Nat) (w : Wait) (s1 : State), s.waits[i]? = some w → s1 = s.ctrSettle w.counter → (s1.waits[i]?).map s1.waitMet = some true →
      exec (.waitSatisfied i) s = .next (({ s1 with waits := s1.waits.eraseIdx i }).endWait w true))
    ∧ (∀ (i : Nat) (w : Wait) (s1 : State), s.waits[i]? = some w → s1 = s.ctrSettle w.counter → (s1.waits[i]?).map s1.waitMet = some false →
      w.timeoutUs ≠ 0 →
      exec (.waitTimeout i) s
        = .next (({ s1.advanceTo (w.start + 1000 * w.timeoutUs) with waits := s1.waits.eraseIdx i }).endWait w false))
    ∧ (∀ (i : Nat) (w : Wait) (s1 : State) (id : Nat), s.waits[i]? = some w → s1 = s.ctrSettle w.counter → w.who = .entry id →
      (s.ctx w.t).entries.find? (·.id == id) = some e →
      ((s1.waits[i]?).map s1.waitMet = some true →
        ∃ u, exec (.waitSatisfied i) s = .next u ∧ u.waits = s1.waits.eraseIdx i ∧ (∀ x ∈ (u.ctx w.t).entries, x.id ≠ id) ∧ u.aon = s.aon)
      ∧ ((s1.waits[i]?).map s1.waitMet = some false → w.timeoutUs ≠ 0 →
        ∃ u, exec (.waitTimeout i) s = .next u ∧ u.waits = s1.waits.eraseIdx i ∧ (∀ x ∈ (u.ctx w.t).entries, x.id ≠ id)
          ∧ u.aon = Nat.max s.aon (w.start + 1000 * w.timeoutUs)))

/-- RESUME_FAULT, PF_TIMEOUT. From when the timer runs is the model's reading (log entry 33) (R271, R272). RESUME_FAULT of an outstanding
identifier frees it and completes; PF_TIMEOUT frees it at its time. -/
def Obligations.FaultsOfPagesResolve : Prop :=
  ∀ (s : State) (t : Fin 8) (f : PFault), s.engines = true →
    (∀ e : Entry, s.oldest t 0x08 = some e → s.pfaults.find? (fun f => f.t == t.val && f.id.toNat == e.field 8 4) = some f →
      ∃ u, exec (.resumeFault t) s = .next u ∧ (∀ x ∈ u.pfaults, x.id ≠ f.id) ∧ (∀ x ∈ (u.ctx t).entries, x.id ≠ e.id) ∧ u.aon = s.aon)
    ∧ (∀ id : W32, s.pfaults.find? (fun f => f.t == t.val && f.id == id) = some f → s.powerTo = none → s.fld (F.pfTimeout t) ≠ 0 →
      (∀ r ∈ s.coll.iq, r.id ≠ id) →
      ∃ u, exec (.pfTimeout t id) s = .next u ∧ (∀ x ∈ u.pfaults, x.id ≠ id)
        ∧ u.aon = Nat.max s.aon (f.start + 1000000 * s.fld (F.pfTimeout t)))

/-- INVALIDATE_XLAT, INVALIDATE_XLAT_DONE (R276, R277). After INVALIDATE_XLAT no held translation and no table pointer of the tenant
overlaps the range, every translation of another tenant is held as before, memory is unchanged; INVALIDATE_XLAT_DONE completes it once no
write and no queued operation waits for it. -/
def Obligations.TranslationsAreInvalidated : Prop :=
  ∀ (s : State) (t : Fin 8) (e : Entry), s.engines = true →
    (s.oldest t 0x09 = some e →
      ∃ u, exec (.invalidateXlat t) s = .next u
        ∧ (∀ x ∈ u.tlb, x ∈ s.tlb ∧ (x.t = t.val → overlaps (x.xva, x.xva + x.len) (invalRange e) = false))
        ∧ (∀ x ∈ s.tlb, x.t ≠ t.val → x ∈ u.tlb)
        ∧ (∀ p ∈ u.ptrs, p ∈ s.ptrs ∧ (p.t = t.val → overlaps p.range (invalRange e) = false))
        ∧ (u.ctx t).entries = (s.ctx t).entries.map (fun y => if y.id == e.id then { y with started := true } else y)
        ∧ u.sys = s.sys ∧ u.tile = s.tile)
    ∧ ((s.ctx t).entries.find? (fun e => e.opcode == 0x09 && e.started) = some e → (∀ x ∈ s.txns, e.id ∉ x.inval) →
      (∀ c ∈ s.chans, ∀ o ∈ c.2.relq, e.id ∉ o.inval) →
      ∃ u, exec (.invalidateXlatDone t) s = .next u ∧ (∀ x ∈ (u.ctx t).entries, x.id ≠ e.id) ∧ u.tlb = s.tlb)

/-- SET_EPOCH, SET_EPOCH_DONE, REGISTER_MAILBOX (R93, R325, R326). SET_EPOCH waits; as the context's oldest entry it sets the run epoch and
restarts the node sequence. REGISTER_MAILBOX with a valid registration replaces the mailbox or removes it. -/
def Obligations.EpochsAndMailboxes : Prop :=
  ∀ (s : State) (t : Fin 8) (e : Entry), s.engines = true →
    (s.oldest t 0x0A = some e →
      exec (.setEpoch t) s = .next (s.start t e))
    ∧ ((s.ctx t).entries.head? = some e → e.opcode = 0x0A → e.started = true →
      ∃ u, exec (.setEpochDone t) s = .next u ∧ (u.ctx t).runEpoch = BitVec.ofNat 32 (e.field 8 4) ∧ (u.ctx t).nodeSeq = 0
        ∧ (∀ x ∈ (u.ctx t).entries, x.id ≠ e.id) ∧ ∀ k, k ≠ t.val → u.ctx k = s.ctx k)
    ∧ (∀ (s1 : State) (b : List Byte), s.oldest t 0x0B = some e → (structRead (entryReq t e) (e.field 8 8) 64).on s = (.ok b, s1) →
      s1.mbxBad t b = none →
      ∃ u, exec (.registerMailbox t) s = .next u
        ∧ (u.ctx t).mailboxes = (s1.ctx t).mailboxes.filter (·.idx != e.field 16 2)
            ++ (if bit (fieldAt b 0 1) 0 then [mailboxOf (e.field 16 2) b] else [])
        ∧ (∀ x ∈ (u.ctx t).entries, x.id ≠ e.id))

/-- WALK_COMPLETE (R264, R266, R268). WALK_COMPLETE with a translation that is permitted installs it and the stalled channel runs again; an
error response or uncorrectable data leave the translations and end the program. -/
def Obligations.WalksReturn : Prop :=
  ∀ (s : State) (i : Nat) (w : Walk) (ch : Nat), s.engines = true → s.walks[i]? = some w → w.who = .chan ch → ch < 64 → s.chSt ch = 4 →
    (∀ x : Xl, s.walk w.t w.xva w.write = .ok x → w.inval = [] →
      ∃ t, exec (.walkComplete i .data) s = .next t ∧ t.walks = s.walks.eraseIdx i ∧ x ∈ t.tlb ∧ t.fld (F.chState ch) = 2
        ∧ t.sys = s.sys ∧ t.tile = s.tile ∧ t.chans = s.chans)
    ∧ (∃ t, exec (.walkComplete i .busError) s = .next t ∧ (∀ x ∈ t.walks, x ∈ s.walks.eraseIdx i) ∧ t.tlb = s.tlb
        ∧ t.fld (F.chState ch) = 7)
    ∧ (∃ t, exec (.walkComplete i .uncorrectable) s = .next t ∧ (∀ x ∈ t.walks, x ∈ s.walks.eraseIdx i) ∧ t.tlb = s.tlb
        ∧ t.fld (F.chState ch) = 7)

/-- INVALIDATE_XLAT and WALK_COMPLETE: a walk begun before an overlapping invalidation installs nothing; its access walks again (R278).
INVALIDATE_XLAT marks every walk of its tenant with its range; a marked walk whose translation overlaps the range installs nothing when it
returns, and its channel or unit goes on to make its access again. -/
def Obligations.StaleWalksInstallNothing : Prop :=
  ∀ s : State, s.engines = true →
    (∀ (t : Fin 8) (e : Entry), s.oldest t 0x09 = some e →
      ∃ u, exec (.invalidateXlat t) s = .next u
        ∧ u.walks = s.walks.map (fun w => if w.t = t.val then { w with inval := invalRange e :: w.inval } else w))
    ∧ (∀ (i : Nat) (w : Walk) (x : Xl), s.walks[i]? = some w → s.walk w.t w.xva w.write = .ok x →
      (∃ r ∈ w.inval, overlaps (x.xva, x.xva + x.len) r = true) →
      ∃ t, exec (.walkComplete i .data) s = .next t ∧ t.tlb = s.tlb ∧ t.walks = s.walks.eraseIdx i
        ∧ (∀ ch : Fin 64, w.who = .chan ch → s.chSt ch = 4 → t.fld (F.chState ch) = 2)
        ∧ (∀ g n : Nat, w.who = .node g n → (t.node g n).all (fun x => !x.stall) = true))

/-- EPH_ADD, EPH_STAMP, EPH_DEADLINE, EPH_RELEASE (R283, R352, R354, R355, R356, R358). When the base reaches the entry's position EPH_ADD
adds to its counter (with other operations of the XCLK as R283 orders them, or later), EPH_STAMP writes its 16-byte record into its ring in
tile memory and nowhere else, EPH_DEADLINE counts a miss when its counter has not reached its value, EPH_RELEASE releases its TIMED node;
in X1 the action waits with the time and position of the edge. -/
def Obligations.EphemerisEntriesFire : Prop :=
  ∀ (s : State) (idx m : Nat) (e : Eph), s.merUp = true → s.reachAt e.base e.pos = some m → s.ephFirst e = true →
    e.tenant < 8 →
    -- in X1 the action waits
    (s.mer.eph.find? (fun x => x.idx == idx && x.action == 1) = some e → s.phase = .x1 →
      ∃ t, exec (.ephAdd idx) s = .next t ∧ t.aon = Nat.max s.aon m ∧ t.counters = s.counters ∧ t.tile = s.tile
        ∧ t.mer.due = s.mer.due ++ [⟨e, ((s.advanceTo m).stampOf e.base).ns, ((s.advanceTo m).stampOf e.base).pos,
                                      ((s.advanceTo m).stampOf e.base).hold⟩])
    ∧ (s.phase = .x0 → s.pins.clkRun = true →
      (s.mer.eph.find? (fun x => x.idx == idx && x.action == 1) = some e →
        ∃ t, exec (.ephAdd idx) s = .next t ∧ t.aon = Nat.max s.aon m
          ∧ (s.ctrNow.find? (·.counter == e.counter) = none → t.counter e.counter = s.counter e.counter + e.value)
          -- operations have reached the counter in this XCLK: the add falls into it, or into a later one
          ∧ (∀ x : CtrNow, s.ctrNow.find? (·.counter == e.counter) = some x →
              t.counter e.counter = (x.push none e.value).stands.getLastD 0 ∨ t.counter e.counter = s.counter e.counter + e.value)
          ∧ (∀ c, c ≠ e.counter → t.counter c = s.counter c) ∧ t.tile = s.tile ∧ t.graphs = s.graphs
          ∧ (e.period = 0 → t.mer.eph = s.mer.eph.filter (·.idx != e.idx)))
      ∧ (s.mer.eph.find? (fun x => x.idx == idx && x.action == 2) = some e →
        s.tileOkRange e.tenant true (e.stBase + 16 * (e.fires % 2 ^ e.stLog2)) 16 = true →
        s.eccIn (e.stBase + 16 * (e.fires % 2 ^ e.stLog2)) 16 = [] → s.upsets.contains 0xDC = false →
        ∃ t, exec (.ephStamp idx) s = .next t ∧ t.aon = Nat.max s.aon m
          ∧ t.tileRd (e.stBase + 16 * (e.fires % 2 ^ e.stLog2)) 16
            = ephRecord ⟨e, ((s.advanceTo m).stampOf e.base).ns, ((s.advanceTo m).stampOf e.base).pos,
                          ((s.advanceTo m).stampOf e.base).hold⟩
          ∧ (∀ a, a < e.stBase + 16 * (e.fires % 2 ^ e.stLog2) ∨ e.stBase + 16 * (e.fires % 2 ^ e.stLog2) + 16 ≤ a →
              t.tileByte a = s.tileByte a)
          ∧ t.counters = s.counters ∧ t.graphs = s.graphs)
      ∧ (s.mer.eph.find? (fun x => x.idx == idx && x.action == 3) = some e →
        ∃ t, exec (.ephDeadline idx) s = .next t ∧ t.aon = Nat.max s.aon m ∧ t.tile = s.tile
          ∧ (reached (s.counter e.counter) e.value = true → t.counters = s.counters)
          ∧ (reached (s.counter e.counter) e.value = false →
              (s.ctrNow.find? (·.counter == e.missCounter) = none → t.counter e.missCounter = s.counter e.missCounter + 1)
              ∧ (∀ x : CtrNow, s.ctrNow.find? (·.counter == e.missCounter) = some x →
                  t.counter e.missCounter = (x.push none 1).stands.getLastD 0 ∨ t.counter e.missCounter = s.counter e.missCounter + 1)
              ∧ (∀ c, c ≠ e.missCounter → t.counter c = s.counter c)
              ∧ t.fld (F.dlMiss e.tenant) = Nat.min (2 ^ 64 - 1) (s.fld (F.dlMiss e.tenant) + 1)))
      ∧ (∀ (g n : Nat), s.mer.eph.find? (fun x => x.idx == idx && x.action == 0) = some e → e.node = some (g, n) → e.period = 0 →
        (s.graph g).any (fun x => x.fail.isNone && x.stopped.isNone) = true →
        ∃ t, exec (.ephRelease idx) s = .next t ∧ t.aon = Nat.max s.aon m ∧ (∀ x ∈ t.mer.eph, x.idx ≠ e.idx) ∧ t.tile = s.tile
          ∧ ∀ x : Node, t.node g n = some x → x.st = .between ∧ x.slices = [] ∧ x.status = 1))

/-- FAULT_RAISE, FAULT_LINE_TEST, FAULT_LINE_CLEAR (R29, R376, R378, R379, R383, R384). FAULT_RAISE records a fault of its unit, cause and
class and keeps the others; a corrected or contained fault on top of an unacknowledged one of its class is one class higher; a fatal one
drops core_ready. FAULT_LINE_TEST records a fatal fault of each broken unit; FAULT_LINE_CLEAR lowers a line. -/
def Obligations.FaultsAreRaised : Prop :=
  ∀ s : State, s.collUp = true → s.pins.clkRun = true →
    (∀ (u cause ctx merged : Nat) (hold : Bool), unitAssigned u = true → causeClass cause ≠ 0 → s.eclipsed u = false →
      (∀ f ∈ s.coll.faults, f.unit ≠ u) →
      ∃ t, exec (.faultRaise u cause ctx hold merged) s = .next t
        ∧ (∃ f ∈ t.coll.faults, f.id = s.coll.nextId ∧ f.unit = u ∧ f.cause = cause ∧ f.cls = causeClass cause ∧ f.line = hold
            ∧ f.ctx = (if ctx ≤ 8 then ctx else 15) ∧ f.acked = false)
        ∧ (∀ f ∈ s.coll.faults, f ∈ t.coll.faults)
        ∧ (causeClass cause = 3 → s.pins.isoN = true → s.pins.rstN = true → t.pins.fltCon = true ∧ t.pins.errN = false)
        ∧ (causeClass cause = 4 → t.coll.fatal = true ∧ (s.coll.fatal = false → t.relay.coreReady = false)))
    -- escalation: an unacknowledged fault of the class is there already
    ∧ (∀ (u cause ctx : Nat) (x : FaultSt), unitAssigned u = true → causeClass cause ≠ 0 → causeClass cause < 4 →
      (cause < 0x70 ∨ 0x73 < cause) → s.eclipsed u = false →
      x ∈ s.coll.faults → x.unit = u → x.cls = causeClass cause → x.acked = false →
      (∀ f ∈ s.coll.faults, f.unit = u → f.line = false) →
      ∃ t, exec (.faultRaise u cause ctx false 0) s = .next t
        ∧ (∃ f ∈ t.coll.faults, f.id = s.coll.nextId ∧ f.unit = u ∧ f.cause = cause ∧ f.cls = causeClass cause + 1))
    ∧ (∀ (broken : List Nat) (u : Nat), s.rep.groupId < 4096 → u ∈ broken → unitAssigned u = true → s.eclipsed u = false → (∀ f ∈ s.coll.faults, f.unit ≠ u) →
      ∃ t, exec (.faultLineTest broken) s = .next t ∧ (∃ f ∈ t.coll.faults, f.unit = u ∧ f.cause = 0x1A ∧ f.cls = 4) ∧ t.coll.fatal = true)
    ∧ (∀ (u cause : Nat), ∃ t, exec (.faultLineClear u cause) s = .next t
      ∧ (∀ f ∈ t.coll.faults, f.unit = u → f.cause = cause → f.line = false)
      ∧ (s.fld F.faultState = 0 → t.coll.faults
          = s.coll.faults.map (fun f => if f.unit == u && f.cause == cause then { f with line := false } else f)))

/-- REACTION_TIMEOUT, FAULT_SPILL, TWILIGHT_END, PWR_EST_UPDATE. The estimate itself is a free value (log entry 2) (R267, R382, R386, R387,
R388). REACTION_TIMEOUT acknowledges the fault, records cause 0x0021 and eclipses the unit where so configured; FAULT_SPILL writes the
oldest record into the ring; TWILIGHT_END clears the settled faults; PWR_EST_UPDATE changes the estimate alone. -/
def Obligations.FaultTimersAndSpill : Prop :=
  ∀ s : State, s.collUp = true → s.pins.clkRun = true →
    (∀ (id : W32) (f : FaultSt), s.coll.faults.find? (fun f => f.id == id && f.timer) = some f → s.coll.iq.length ≤ 250 →
      s.rep.groupId < 4096 →
      ∃ t, exec (.reactionTimeout id) s = .next t ∧ t.aon = Nat.max s.aon (f.since + 1000 * s.fld (F.reactUs f.unit))
        ∧ (∀ g ∈ t.coll.faults, g.id = id → g.acked = true ∧ g.timer = false)
        ∧ (s.vesper = false →
            (t.coll.iq.getLast?).map (fun r => (r.cause, r.unit, r.ctx, r.cls)) = some (0x21, f.unit, f.ctx, f.cls))
        ∧ (s.fld (F.reactAct f.unit) = 0 → t.graphs = s.graphs ∧ t.ctxs = s.ctxs ∧ t.eclWait = s.eclWait)
        ∧ (s.fld (F.reactAct f.unit) = 1 → s.eclipseCode f.unit = 0 → 0xC0 ≤ f.unit → f.unit < 0xF0 →
            ∃ w ∈ t.eclWait, w.unit = f.unit))
    ∧ (∀ r : FRec, s.phase = .x0 → s.coll.iq.head? = some r → s.coll.ovfPend = none → s.fld F.fqLog2 ≠ 0 →
      (s.fld F.fqTail + 2 ^ 32 - s.fld F.fqHead) % 2 ^ 32 < 2 ^ s.fld F.fqLog2 →
      ∃ t, exec .faultSpill s = .next t ∧ t.fld F.fqTail = (s.fld F.fqTail + 1) % 2 ^ 32 ∧ t.coll.iq = s.coll.iq.drop 1
        ∧ t.coll.seq = s.coll.seq + 1
        ∧ (t.txns.getLast?).map (fun x => (x.isRec, x.pa, x.stage, x.bytes))
          = some (true, page4k (s.fld F.fqAddr) + 64 * (s.fld F.fqTail % 2 ^ s.fld F.fqLog2), 1,
              ({ r with seq := s.coll.seq } : FRec).bytes (if s.fld F.fqTail / 2 ^ s.fld F.fqLog2 % 2 = 0 then 1 else 0)))
    ∧ (s.fld F.faultState = 1 → (∀ f ∈ s.coll.faults, f.cls = 4 ∨ f.settled = true) →
      (∀ f ∈ s.coll.faults, f.unit < 0x308) →
      ∃ t, exec .twilightEnd s = .next t ∧ t.aon = Nat.max s.aon (s.coll.lastNs + 1000000 * s.fld F.twilightMs)
        ∧ t.coll.faults = s.coll.faults.filter (!·.settled) ∧ t.fld F.faultState = 0
        ∧ t.fld F.recovCnt = Nat.min (2 ^ 32 - 1) (s.fld F.recovCnt + 1))
    ∧ (s.windowOpen = true →
      ∃ t, exec .pwrEstUpdate s = .next t ∧ t.free = s.free + 1 ∧ t.fld F.pwrEst < 65536
        ∧ (∀ f : Fld, f.off ≠ F.pwrEst.off → t.fld f = s.fld f) ∧ t.tile = s.tile ∧ t.graphs = s.graphs ∧ t.coll = s.coll)

/-- ECLIPSE_UNIT, SPARE_COPY_DONE, ECLIPSE_DONE, REENTER_UNIT, REENTER_TEST_DONE (R94, R203, R390, R391, R392). ECLIPSE_UNIT is refused or
asks the unit to stop, copying a bank in service into a spare first; ECLIPSE_DONE of a stopped unit sets its eclipse bit with a new epoch;
REENTER_UNIT asks for a test, and REENTER_TEST_DONE clears the bit if it passed. -/
def Obligations.UnitsLeaveAndReturn : Prop :=
  ∀ s : State, s.engines = true → (s.ctx 8).holdQ = [] → (s.ctx 8).held = [] →
    -- ECLIPSE_UNIT: refused, or the unit is asked to stop; a bank in service is copied into a spare first
    (∀ e : Entry, s.oldest 8 0x40 = some e → s.eclipseCode (e.field 8 2) ≠ 0 →
      ∃ t, exec .eclipseUnit s = .next t ∧ t.eclWait = s.eclWait ∧ t.copies = s.copies ∧ t.graphs = s.graphs
        ∧ (∀ x ∈ (t.ctx 8).entries, x.id ≠ e.id) ∧ ∀ u : Fin 0x308, t.eclipsed u = s.eclipsed u)
    ∧ (∀ e : Entry, s.oldest 8 0x40 = some e → s.eclipseCode (e.field 8 2) = 0 → (e.field 8 2 < 64 → s.eclipsed (e.field 8 2) = false) →
      (isBank (e.field 8 2) = true → (s.bankServes (e.field 8 2 - 0x100)).isSome = true) →
      ∃ t, exec .eclipseUnit s = .next t ∧ t.eclWait = s.eclWait ++ [({ unit := e.field 8 2, entry := some e.id } : UnitCmd)]
        ∧ (t.ctx 8).entries = (s.ctx 8).entries.map (fun y => if y.id == e.id then { y with started := true } else y)
        ∧ (isBank (e.field 8 2) = false → t.copies = s.copies)
        ∧ (∀ l : Nat, isBank (e.field 8 2) = true → s.bankServes (e.field 8 2 - 0x100) = some l →
            t.copies.dropLast = s.copies
            ∧ (t.copies.getLast?).map (fun c => (c.logical, c.from_, c.done, s.freeBanks.contains c.into))
              = some (l, e.field 8 2 - 0x100, false, true)))
    ∧ (∀ (u : Fin 0x308) (w : UnitCmd), s.eclWait.find? (·.unit == u.val) = some w → s.unitStopped u = true →
      (∀ c ∈ s.copies, c.done = false ∧ 0x100 + c.from_ ≠ u.val) →
      ∃ t, exec (.eclipseDone u) s = .next t ∧ t.eclipsed u = true ∧ t.epochNo = s.epochNo + 1
        ∧ t.eclWait = s.eclWait.filter (·.unit != u.val) ∧ (∀ x ∈ (t.ctx 8).entries, some x.id ≠ w.entry))
    ∧ (∀ b : Nat, exec (.spareCopyDone b) s
        = .next { s with copies := s.copies.map (fun c => if c.from_ = b then { c with done := true } else c) })
    ∧ (∀ (b : Fin 520) (w : UnitCmd) (c : Copy), s.eclWait.find? (·.unit == 0x100 + b.val) = some w → s.copies = [c] → c.from_ = b.val →
      c.done = true → c.logical < 512 → c.into < 520 →
      ∃ t, exec (.eclipseDone (0x100 + b)) s = .next t ∧ t.fld (F.spare c.logical) = c.into ∧ t.eclipsed (0x100 + b) = true ∧ t.copies = []
        ∧ t.epochNo = s.epochNo + 1 ∧ (∀ x ∈ t.eclWait, x.unit ≠ 0x100 + b.val) ∧ (∀ x ∈ (t.ctx 8).entries, x.id ≠ c.entry))
    -- REENTER_UNIT
    ∧ (∀ e : Entry, s.oldest 8 0x41 = some e → s.eclipsed (e.field 8 2) = true →
      (e.field 8 2 < 64 → s.eclipsed (0x40 + e.field 8 2 / 16) = false) →
      ∃ t, exec .reenterUnit s = .next t ∧ t.reenter = s.reenter ++ [({ unit := e.field 8 2, entry := some e.id } : UnitCmd)]
        ∧ (t.ctx 8).entries = (s.ctx 8).entries.map (fun y => if y.id == e.id then { y with started := true } else y) ∧ t.regs = s.regs)
    ∧ (∀ e : Entry, s.oldest 8 0x41 = some e → s.eclipsed (e.field 8 2) = false →
      ∃ t, exec .reenterUnit s = .next t ∧ t.reenter = s.reenter ∧ (∀ x ∈ (t.ctx 8).entries, x.id ≠ e.id) ∧ t.graphs = s.graphs)
    ∧ (∀ (u : Fin 0x308) (w : UnitCmd), s.reenter.find? (·.unit == u.val) = some w → (∀ c ∈ s.copies, c.done = false) →
      (∃ t, exec (.reenterTestDone u true) s = .next t ∧ t.eclipsed u = false ∧ t.epochNo = s.epochNo + 1
        ∧ t.reenter = s.reenter.filter (·.unit != u.val) ∧ (∀ x ∈ (t.ctx 8).entries, some x.id ≠ w.entry))
      ∧ (∃ t, exec (.reenterTestDone u false) s = .next t ∧ (∀ v : Fin 0x308, t.eclipsed v = s.eclipsed v) ∧ t.epochNo = s.epochNo
        ∧ t.reenter = s.reenter.filter (·.unit != u.val) ∧ (∀ x ∈ (t.ctx 8).entries, some x.id ≠ w.entry)))

/-- CLEAR_TENANT, PARTITION_CLEAR_DONE, CLEAR_TENANT_DONE (R196, R393). CLEAR_TENANT disables the tenant and removes its entries, graphs
and waits, no other tenant's; PARTITION_CLEAR_DONE zeroes its partition and no byte outside; CLEAR_TENANT_DONE completes the command. -/
def Obligations.TenantsAreCleared : Prop :=
  ∀ s : State, s.engines = true →
    (∀ e : Entry, s.oldest 8 0x42 = some e → (s.ctx (bits (e.field 8 1) 0 3)).clearing = none →
      ∃ t, exec .clearTenant s = .next t ∧ (t.ctx (bits (e.field 8 1) 0 3)).phase = .disabled
        ∧ t.fld (F.enable (bits (e.field 8 1) 0 3)) = 0
        ∧ (t.ctx (bits (e.field 8 1) 0 3)).entries = [] ∧ (t.ctx (bits (e.field 8 1) 0 3)).fetched = []
        ∧ (t.ctx (bits (e.field 8 1) 0 3)).holdQ = [] ∧ (t.ctx (bits (e.field 8 1) 0 3)).held = []
        ∧ (t.ctx (bits (e.field 8 1) 0 3)).clearing = some e.id
        ∧ (t.ctx (bits (e.field 8 1) 0 3)).cancelled = (s.ctx (bits (e.field 8 1) 0 3)).entries.length
        ∧ (∀ g ∈ t.graphs, g.ctx ≠ bits (e.field 8 1) 0 3) ∧ (∀ w ∈ t.waits, w.t ≠ bits (e.field 8 1) 0 3)
        ∧ (∀ g ∈ s.graphs, g.ctx ≠ bits (e.field 8 1) 0 3 → g ∈ t.graphs) ∧ t.tile = s.tile ∧ t.sys = s.sys
        ∧ (t.ctx 8).entries = (s.ctx 8).entries.map (fun y => if y.id == e.id then { y with started := true } else y)
        ∧ (∀ k, k ≠ 8 → k ≠ bits (e.field 8 1) 0 3 → t.ctx k = s.ctx k))
    ∧ (∀ (c : Clear) (v id : Nat), s.clears.find? (·.tenant.isSome) = some c → c.tenant = some v → (s.ctx v).clearing = some id →
      s.clearQuiet id = true →
      ∃ t, exec .partitionClearDone s = .next t ∧ (∀ a, c.base ≤ a → a < c.base + c.len → t.tileByte a = 0)
        ∧ (∀ a, a < c.base ∨ c.base + c.len ≤ a → t.tileByte a = s.tileByte a)
        ∧ (t.ctx v).handles = [] ∧ (t.ctx v).mailboxes = [] ∧ (t.ctx v).runEpoch = 0 ∧ (∀ x ∈ t.tlb, x.t ≠ v) ∧ (∀ p ∈ t.ptrs, p.t ≠ v)
        ∧ (∀ k, k ≠ v → t.ctx k = s.ctx k))
    ∧ (∀ (v : Fin 8) (id : Nat), (s.ctx v).clearing = some id → s.clearQuiet id = true → s.clears.any (·.tenant == some v.val) = false →
      ∃ t, exec (.clearTenantDone v) s = .next t ∧ (t.ctx v).clearing = none ∧ (t.ctx v).handles = [] ∧ (t.ctx v).mailboxes = []
        ∧ (∀ x ∈ t.tlb, x.t ≠ v.val) ∧ (∀ p ∈ t.ptrs, p.t ≠ v.val)
        ∧ (∀ x ∈ (t.ctx 8).entries, x.id ≠ id) ∧ t.tile = s.tile ∧ t.graphs = s.graphs
        ∧ ∀ k, k ≠ 8 → k ≠ v.val → t.ctx k = s.ctx k)

/-- SET_POWER, SET_POWER_QUIESCED (R28, R405, R406, R407). SET_POWER to a permitted state ends the open slices at their cut points and
stops granting; a refused one completes. SET_POWER_QUIESCED writes its record first; with that gone it enters X1, or raises quiet for X2 or
X3 once no interrupt message, weight-cache fill or walk is outstanding, and waits while one is. -/
def Obligations.PowerIsLowered : Prop :=
  ∀ s : State, s.engines = true →
    (∀ e : Entry, s.oldest 8 0x43 = some e → s.powerCode (bits (e.field 8 1) 0 2) = 0 →
      ∃ t, exec .setPower s = .next t ∧ t.powerTo = some (bits (e.field 8 1) 0 2, e.id) ∧ t.phase = s.phase
        ∧ (∀ g ∈ t.graphs, ∀ n ∈ g.nodes, n.st = .opened → n.endSlice = true) ∧ t.granting = false ∧ t.txns = s.txns)
    ∧ (∀ e : Entry, s.oldest 8 0x43 = some e → s.powerCode (bits (e.field 8 1) 0 2) ≠ 0 →
      ∃ t, exec .setPower s = .next t ∧ t.powerTo = s.powerTo ∧ t.graphs = s.graphs ∧ (∀ x ∈ (t.ctx 8).entries, x.id ≠ e.id))
    ∧ (∀ (st : Fin 4) (id : Nat), s.powerTo = some (st.val, id) → s.quiesced st = true → st ≠ 0 →
      (s.ctx 8).entries.any (·.id == id) = false → s.powerWaits = false →
      (st ≠ 1 → s.msgWait = [] ∧ s.wcFills = [] ∧ s.walks = []) →
      ∃ t, exec .setPowerQuiesced s = .next t ∧ t.powerTo = none ∧ t.fld F.pwrState = st
        ∧ t.phase = (if st = 1 then .x1 else if st = 2 then .quietX2 else .quietX3)
        ∧ t.pins.quiet = (if st = 1 then s.pins.quiet else true) ∧ t.tile = s.tile ∧ t.sys = s.sys ∧ t.graphs = s.graphs)
    -- before X2 and X3 a message, a fill or a walk that is outstanding holds step 5 back
    ∧ (∀ st id : Nat, s.powerTo = some (st, id) → st ≠ 1 → (s.ctx 8).entries.any (·.id == id) = false →
      (s.msgWait ≠ [] ∨ s.wcFills ≠ [] ∨ s.walks ≠ []) → exec .setPowerQuiesced s = .next s)
    -- step 4: the record
    ∧ (∀ (st id : Nat) (e : Entry), s.powerTo = some (st, id) → s.quiesced st = true → (s.ctx 8).entries.find? (·.id == id) = some e →
      e.quiet = false → (s.ctx 8).holdQ = [] → (s.ctx 8).held = [] → s.cqFree 8 0 = true →
      ∃ t, exec .setPowerQuiesced s = .next t ∧ t.powerTo = s.powerTo ∧ t.phase = s.phase ∧ (∀ x ∈ (t.ctx 8).entries, x.id ≠ id)
        ∧ (t.txns.map (fun x => (x.isRec, x.ctx))) = [(true, 8)])

/-- REPLICA_CONFIG, SET_SPLIT, LOCK_CONFIG (R224, R394, R412, R413, R416). REPLICA_CONFIG that R394 permits takes its membership and
generation, another changes none; SET_SPLIT sets the mode and the tenants' masks with a new epoch, or changes nothing while an engine it
needs is eclipsed; LOCK_CONFIG sets the digest of its image and, with no record to write, both locks with its completion record; else the
locks come when the record's last write has returned; a second one changes nothing. -/
def Obligations.ManagerSettings : Prop :=
  ∀ (s : State) (e : Entry), s.engines = true → (s.ctx 8).holdQ = [] → (s.ctx 8).held = [] → (∀ c ∈ s.copies, c.done = false) →
    (s.oldest 8 0x44 = some e →
      s.replicaCode (bits (e.field 8 2) 0 12) (bits (e.field 8 2) 12 2) (bits (e.field 8 2) 14 2)
        [bits (e.field 10 2) 0 12, bits (e.field 12 2) 0 12, bits (e.field 14 2) 0 12] (e.field 16 1) (bits (e.field 17 1) 0 3)
        (bits (e.field 17 1) 3 2) (e.field 20 4) = 0 →
      ∃ t, exec .replicaConfig s = .next t ∧ t.fld (F.fabGen (bits (e.field 8 2) 0 12)) = e.field 20 4
        ∧ (∀ x ∈ (t.ctx 8).entries, x.id ≠ e.id) ∧ t.graphs = s.graphs
        ∧ (bits (e.field 8 2) 14 2 = 0 → t.rep = ({} : Replica))
        ∧ (bits (e.field 8 2) 14 2 ≠ 0 → t.rep.size = bits (e.field 8 2) 14 2 + 1 ∧ t.rep.groupId = bits (e.field 8 2) 0 12
            ∧ t.rep.member = bits (e.field 8 2) 12 2 ∧ t.rep.active = bits (e.field 17 1) 3 2 ∧ t.rep.gen.toNat = e.field 20 4
            ∧ t.rep.repTenants.toNat = e.field 16 1 ∧ t.rep.out = false ∧ t.rep.intervals = []))
    ∧ (s.oldest 8 0x44 = some e →
      s.replicaCode (bits (e.field 8 2) 0 12) (bits (e.field 8 2) 12 2) (bits (e.field 8 2) 14 2)
        [bits (e.field 10 2) 0 12, bits (e.field 12 2) 0 12, bits (e.field 14 2) 0 12] (e.field 16 1) (bits (e.field 17 1) 0 3)
        (bits (e.field 17 1) 3 2) (e.field 20 4) ≠ 0 →
      ∃ t, exec .replicaConfig s = .next t ∧ t.rep = s.rep ∧ t.graphs = s.graphs ∧ (∀ x ∈ (t.ctx 8).entries, x.id ≠ e.id))
    ∧ (s.oldest 8 0x45 = some e → ¬(bits (e.field 8 1) 0 2 = 1 ∧ (s.eclipsed 0x48 = true ∨ s.eclipsed 0x49 = true)) →
      ∃ t, exec .setSplit s = .next t ∧ t.fld F.splitMode = bits (e.field 8 1) 0 2 ∧ t.epochNo = s.epochNo + 1
        ∧ (∀ k : Fin 8, t.fld (F.meMask k) = bits (e.field (9 + k) 1) 0 2) ∧ (∀ x ∈ (t.ctx 8).entries, x.id ≠ e.id) ∧ t.graphs = s.graphs)
    ∧ (s.oldest 8 0x45 = some e → bits (e.field 8 1) 0 2 = 1 → (s.eclipsed 0x48 = true ∨ s.eclipsed 0x49 = true) →
      ∃ t, exec .setSplit s = .next t ∧ t.fld F.splitMode = s.fld F.splitMode ∧ (∀ k : Fin 8, t.fld (F.meMask k) = s.fld (F.meMask k))
        ∧ t.epochNo = s.epochNo ∧ (∀ x ∈ (t.ctx 8).entries, x.id ≠ e.id))
    ∧ (s.oldest 8 0x46 = some e → s.coreLock = false → (∀ v : Fin 8, s.fld (F.enable v) = 1 → s.enableCheck v = 0) →
      (∀ x ∈ (s.ctx 8).entries, x.opcode = 0x46 → x.started = false) →
      ∃ t, exec .lockConfig s = .next t
        ∧ (∀ w : Fin 4, t.reg (Reg.digest w) = BitVec.ofNat 64 (fieldAt (Sha.sha256 (s.lockImage e)) (8 * w) 8))
        ∧ t.tile = s.tile ∧ t.graphs = s.graphs
        ∧ (bits (e.field 16 8) 0 48 ≠ 0 → t.coreLock = false ∧ t.relay = s.relay
            ∧ (t.ctx 8).entries = (s.ctx 8).entries.map (fun y => if y.id == e.id then { y with
                started := true, due := some (0, .lock (e.field 8 1)) } else y))
        ∧ (bits (e.field 16 8) 0 48 = 0 → (e.quiet = true ∨ s.cqFree 8 (s.cqOf 8 e.sq) = true) →
            t.coreLock = true ∧ t.relay.locked = true ∧ t.relay.lockCount = s.relay.lockCount + 1
            ∧ (bit (e.field 8 1) 1 = true → t.relay.dbgLock = true ∧ t.fld F.peekEn = 0) ∧ ∀ x ∈ (t.ctx 8).entries, x.id ≠ e.id))
    ∧ (∀ (i : Nat) (x : Txn) (r flags : Nat), s.txns[i]? = some x → x.sent = true → x.isRec = false → e.bad = none →
      x.who = some (.entry e.id) → (∀ (j : Nat) (y : Txn), s.txns[j]? = some y → j ≠ i → y.who ≠ some (.entry e.id)) →
      s.entryAt e.id = some (8, e) → e.due = some (r, .lock flags) → (e.quiet = true ∨ s.cqFree 8 (s.cqOf 8 e.sq) = true) →
      ∃ t, exec (.portResponse (.write i false)) s = .next t ∧ t.coreLock = true ∧ t.relay.locked = true
        ∧ t.relay.lockCount = s.relay.lockCount + 1 ∧ (∀ y ∈ (t.ctx 8).entries, y.id ≠ e.id))
    ∧ (s.oldest 8 0x46 = some e → s.coreLock = true →
      ∃ t, exec .lockConfig s = .next t ∧ t.coreLock = true ∧ t.relay = s.relay ∧ (∀ x ∈ (t.ctx 8).entries, x.id ≠ e.id)
        ∧ ∀ w : Fin 4, t.reg (Reg.digest w) = s.reg (Reg.digest w))

/-- CQ_STALL_LIMIT, CREDIT_PERIOD, WC_FILL_RETURN, SCRUB_STEP, BP_TIMEOUT. A balance that owes is the model's reading (log entry 8) (R65,
R144, R176, R179, R180, R201). CQ_STALL_LIMIT reports a stall once. CREDIT_PERIOD pays what a balance owes and adds the rest up to its
limit; writes that wait for credit are issued as far as the balances go, none of those issued before changes, and memory does not.
WC_FILL_RETURN puts the line's bytes into its way, or drops them for a tenant without ways. SCRUB_STEP corrects and reports the errors of
its row. BP_TIMEOUT parks a channel whose port has held it back with a resumable fault, at the line of its first unissued write. -/
def Obligations.StallsCreditAndCaches : Prop :=
  ∀ s : State,
    (∀ (c : Fin 9) (m : Nat), s.engines = true → (s.ctx c).waitAt = some m → (s.ctx c).stallTold = false →
      ∃ t, exec (.cqStallLimit c) s = .next t ∧ t.aon = Nat.max s.aon (m + 1000000 * s.fld (F.cqStallLimit c))
        ∧ (t.ctx c).stallTold = true ∧ (∀ k, k ≠ c.val → t.ctx k = s.ctx k) ∧ t.graphs = s.graphs
        ∧ (s.fld (irqFld Reg.irqEn (64 + c)) = 1 → 64 + c.val ∈ t.msgWait ∨ t.fld (irqFld Reg.irqPend (64 + c)) = 1))
    -- no write waits for credit: what a balance owes is paid first, the rest is added up to the limit
    ∧ ((∀ x ∈ s.txns, x.sent = true) →
      ∃ t, exec .creditPeriod s = .next t ∧ t.regs = s.regs ∧ t.tile = s.tile ∧ t.sys = s.sys ∧ t.txns = s.txns ∧ t.graphs = s.graphs
        ∧ (∀ cls : Fin 4, t.owes (9 * cls + 8) = s.owes (9 * cls + 8) - s.classCredit cls
            ∧ t.creditOf cls 8 = Nat.min (s.creditOf cls 8 + (s.classCredit cls - s.owes (9 * cls + 8))) (Nat.max (4 * s.classCredit cls) 1048576))
        ∧ (∀ (cls : Fin 3) (v : Fin 8), t.owes (9 * cls + v) = s.owes (9 * cls + v) - s.tenantCredit cls v
            ∧ t.creditOf cls v
              = Nat.min (s.creditOf cls v + (s.tenantCredit cls v - s.owes (9 * cls + v))) (Nat.max (4 * s.tenantCredit cls v) 1048576)))
    -- writes wait: those that the balances hold now are issued, and stand in memory with their responses only
    ∧ (∃ t, exec .creditPeriod s = .next t ∧ t.tile = s.tile ∧ t.sys = s.sys ∧ t.graphs = s.graphs
        ∧ t.txns.map (fun x => { x with sent := true }) = s.txns.map (fun x => { x with sent := true })
        ∧ (∀ (i : Nat) (x : Txn), s.txns[i]? = some x → x.sent = true → t.txns[i]? = some x))
    ∧ (∀ (i way : Nat) (f : WcFill), s.wcFills[i]? = some f →
      (way < 16 → bit (s.fld (F.wcWays f.t)) way = true → s.eclipsed 0xDA = false →
        ∃ t, exec (.wcFillReturn i way) s = .next t ∧ t.wcFills = s.wcFills.eraseIdx i
          ∧ ({ way := way, pa := f.pa, bytes := f.bytes } : WcLine) ∈ t.wc
          ∧ (∀ l ∈ t.wc, l.pa = f.pa → l.way = way) ∧ t.sys = s.sys ∧ t.regs = s.regs)
      ∧ ((∀ w : Fin 16, bit (s.fld (F.wcWays f.t)) w = false) →
        exec (.wcFillReturn i way) s = .next { s with wcFills := s.wcFills.eraseIdx i }))
    ∧ (s.phase = .x0 → s.fld F.scrubStep ≠ 0 →
      (∀ (l : List (Nat × Bool)), ∃ t, exec (.scrubStep l) s = .next t ∧ t.scrubRow = (s.scrubRow + 1) % 2048 ∧ t.tile = s.tile
        ∧ t.graphs = s.graphs ∧ (∀ e ∈ t.ecc, rowOf e.1 = s.scrubRow → e.2 ≠ 1))
      ∧ (∀ e : Nat × Nat, s.ecc.filter (fun x => rowOf x.1 == s.scrubRow) = [e] → s.pins.clkRun = true →
        s.bankUnit (8 * e.1) < 0x308 → s.eclipsed (s.bankUnit (8 * e.1)) = false → (∀ f ∈ s.coll.faults, f.unit ≠ s.bankUnit (8 * e.1)) →
        ∃ t, exec (.scrubStep []) s = .next t
          ∧ (∃ f ∈ t.coll.faults, f.unit = s.bankUnit (8 * e.1) ∧ f.cause = (if e.2 = 1 then 0x10 else 0x11))))
    -- a channel in STALL with a write that its port holds back, or with a remote line, parks
    ∧ (∀ (ch : Fin 64) (p : Prog), s.engines = true → s.powerTo = none → (s.chan ch).prog = some p → p.ended = false → s.chSt ch = 4 →
      s.walking (.chan ch) = false → s.eclipsed ch = false →
      (s.txns.any (fun x => x.who == some (.node p.g p.n) && !x.sent && 64 ≤ (s.txns.filter (fun y => y.sent && y.port == x.port)).length) = true
        ∨ (slotOp (instrAt p.slots p.pc) = 1 ∧ (mvOf (instrAt p.slots p.pc)).dsp = 2)) →
      (s.pfaults.filter (·.t == p.ctx)).length < 64 → (∀ f ∈ s.coll.faults, f.unit ≠ ch.val) → s.coll.iq.length ≤ 250 →
      ∃ t, exec (.bpTimeout ch) s = .next t ∧ t.aon = s.aon + 1000 * s.fld (F.bpTimeout p.ctx) ∧ t.fld (F.chState ch) = 6
        ∧ t.pfaults.dropLast = s.pfaults
        ∧ (t.pfaults.getLast?).map (fun f => (f.t, f.id, f.cause, f.unit)) = some (p.ctx, s.coll.nextId, 0x17, ch.val)
        ∧ (∃ f ∈ t.coll.faults, f.unit = ch.val ∧ f.cause = 0x17 ∧ f.cls = 3) ∧ t.tile = s.tile ∧ t.sys = s.sys
        ∧ (s.held (.node p.g p.n) = false → (t.chan ch).prog = some p)
        -- with writes that no port has issued it goes back to the line of the first of them
        ∧ (∀ (b : Prog) (n : Node), s.held (.node p.g p.n) = true → (s.chan ch).back = some (b, n) →
            ((t.chan ch).prog).map (fun q => (q.pc, q.line, q.item, q.slots)) = some (b.pc, b.line, b.item, b.slots)
            ∧ ∀ x ∈ t.txns, x.who = some (.node p.g p.n) → x.sent = true))

/-- NODE_FETCH, NODE_REGISTER, NODE_GRANT. Which grants share an XCLK is free (log entry 15) (R67, R68, R70, R75, R76, R83, R87, R442).
NODE_FETCH reads up to four nodes of one block within the quotas; a read that fails stops the graph there. NODE_REGISTER takes footprint
and slices of the next node, or of a CHAIN with all its stages, once the scoreboard has room, or refuses it. NODE_GRANT opens a slice of
the first node in rank order that can use the unit and whatever else its grant needs, and of none where none competes. -/
def Obligations.NodesEnterTheWindow : Prop :=
  -- `k` nodes are fetched, up to four of one block and as many as the window has room for
  (∀ (s s1 : State) (g k : Nat) (gr : Graph) (b : List Byte), s.granting = true → s.graph g = some gr → gr.entryOnly = false →
    gr.fail = none → gr.stopped = none →
    k = Nat.min (Nat.min (4 - (gr.xva + 64 * gr.fetchedN) / 64 % 4) (gr.count - gr.fetchedN))
      (Nat.min (s.fld (F.winQuota gr.ctx) - s.inFlight (some gr.ctx)) (131072 - s.inFlight none)) → k ≠ 0 →
    (structRead { t := gr.ctx, unit := 0xD8, who := .entry gr.id } (gr.xva + 64 * gr.fetchedN) (64 * k)).on s = (.ok b, s1) →
    ∃ t, exec (.nodeFetch g) s = .next t ∧ t.tile = s.tile ∧ t.counters = s.counters
      ∧ (t.graph g).any (fun x => gr.fetchedN < x.fetchedN && (x.fail.isSome
          || (x.fetchedN == gr.fetchedN + k && x.nodes.take gr.nodes.length == gr.nodes
            && (x.nodes.drop gr.nodes.length).flatMap (·.bytes) == b && (x.nodes.drop gr.nodes.length).all (·.st == .fetched)))) = true)
  -- the read fails: no node of the graph follows
  ∧ (∀ (s s1 : State) (g k st de : Nat) (gr : Graph), s.granting = true → s.graph g = some gr → gr.entryOnly = false →
    gr.fail = none → gr.stopped = none →
    k = Nat.min (Nat.min (4 - (gr.xva + 64 * gr.fetchedN) / 64 % 4) (gr.count - gr.fetchedN))
      (Nat.min (s.fld (F.winQuota gr.ctx) - s.inFlight (some gr.ctx)) (131072 - s.inFlight none)) → k ≠ 0 →
    (structRead { t := gr.ctx, unit := 0xD8, who := .entry gr.id } (gr.xva + 64 * gr.fetchedN) (64 * k)).on s = (.error (.stop st de), s1) →
    ∃ t, exec (.nodeFetch g) s = .next t
      ∧ (t.graph g).any (fun x => x.stopped == some (st, de) && x.fetchedN == gr.fetchedN) = true)
  -- the next node enters the scoreboard with its footprint and its slices
  ∧ (∀ (s s1 : State) (g : Nat) (gr : Graph) (n m : Node) (f : Found), s.nextNode g = some (gr, n) → n.kind ≠ 6 → n.kind ≠ 8 →
    (regPlain { t := gr.ctx, unit := 0xD8, who := .node g n.idx } n (s.sliceLimit gr.ctx)).on s = (.ok (f, m), s1) →
    (s1.sbFits gr.ctx (scoreboard f.fp).length = true →
      ∃ t, exec (.nodeRegister g) s = .next t
        ∧ t = State.markReady ((s1.putNode g { m with ranges := scoreboard f.fp, selfRw := selfOverlap f.fp }).warm gr.ctx f.fp)
        ∧ t.tile = s1.tile ∧ ((s1.node g m.idx).isSome = true → (t.node g m.idx).any (fun x => x.st == .registered && x.ranges == scoreboard f.fp && x.slices == m.slices && x.bytes == m.bytes) = true))
    ∧ (s1.sbFits gr.ctx (scoreboard f.fp).length = false → exec (.nodeRegister g) s = .next s))
  -- or is refused
  ∧ (∀ (s s1 : State) (g st de : Nat) (gr : Graph) (n : Node), s.nextNode g = some (gr, n) → n.kind ≠ 6 → n.kind ≠ 8 →
    (regPlain { t := gr.ctx, unit := 0xD8, who := .node g n.idx } n (s.sliceLimit gr.ctx)).on s = (.error (.stop st de), s1) →
    exec (.nodeRegister g) s = .next (s1.refuseNode g n.idx st de))
  -- a CHAIN registers with its stages
  ∧ (∀ (s s1 : State) (g : Nat) (gr : Graph) (n : Node) (fs : List Found) (ns : List Node) (rs : List Range),
    s.nextNode g = some (gr, n) → n.kind = 8 → (gr.stages n).length = n.field 24 1 →
    (regStages { t := gr.ctx, unit := 0xD8, who := .node g n.idx } g (gr.stages n)).on s = (.ok (.ok fs), s1) →
    regChain (s1.handle gr.ctx) n fs (s.sliceLimit gr.ctx) = .ok (ns, rs) →
    (s1.sbFits gr.ctx rs.length = true →
      exec (.nodeRegister g) s = .next (State.markReady (((ns.foldl (fun s m => s.putNode g m) s1).putNode g
        { n with ranges := rs, slices := (ns.getLast?.map (·.slices)).getD [] }).warm gr.ctx rs)))
    ∧ (s1.sbFits gr.ctx rs.length = false → exec (.nodeRegister g) s = .next s))
  ∧ (∀ (s : State) (g : Nat) (gr : Graph) (n : Node), s.nextNode g = some (gr, n) → n.kind = 8 →
    (gr.stages n).length ≠ n.field 24 1 → exec (.nodeRegister g) s = .next s)
  -- a unit is granted to the one node that competes, if it can take it
  ∧ (∀ (s : State) (u n : Nat) (gr : Graph) (nd : Node) (us : List Nat), s.granting = true → nd.kind ≠ 8 → nd.idx = n →
    s.graph gr.id = some gr → gr.node n = some nd →
    s.graphs.flatMap (fun g => (g.nodes.filter (s.competes g)).map (fun n => (g, n))) = [(gr, nd)] →
    s.grantFor (some u) [] gr nd = some [(n, us)] →
    ∃ t, exec (.nodeGrant u) s = .next t
      ∧ (t.node gr.id n).any (fun x => x.st == .opened && x.units == us && x.began == s.aon && !x.endSlice && x.pos == 0 && x.bytes == nd.bytes) = true
      ∧ t.tile = s.tile ∧ t.sys = s.sys ∧ t.counters = s.counters ∧ t.regs = s.regs ∧ t.ctxs = s.ctxs)
  -- of several, to the first in rank order that can use it and what the grant needs beside it
  ∧ (∀ (s s1 : State) (u : Nat) (gr : Graph) (nd : Node) (us : List (Nat × List Nat)), s.granting = true → s1 = s.grantXclk u →
    s1.pickGrant u ((s1.graphs.flatMap (fun g => (g.nodes.filter (s1.competes g)).map (fun n => (g, n)))).foldr s1.rankIns []) []
      = some ((gr, nd), us) →
    exec (.nodeGrant u) s = .next (State.noteGrant (if nd.kind = 8 then (us.foldl (fun s x => s.openSlice gr.id x) s1).openSlice gr.id (nd.idx, [])
      else us.foldl (fun s x => s.openSlice gr.id x) s1) u gr.ctx))
  -- none can use it
  ∧ (∀ (s : State) (u : Nat), (∀ g ∈ s.graphs, ∀ n ∈ g.nodes, s.competes g n = false) → exec (.nodeGrant u) s = .next s)
  ∧ (∀ (s : State) (u : Nat), s.granting = false → exec (.nodeGrant u) s = .next s)

/-- SIGNAL_NODE, WAIT_NODE, TIMED_NODE (R71, R72, R282, R283, R284, R356, R440). SIGNAL_NODE performs its operation (with others of the
XCLK as R283 orders them, or later) and completes; WAIT_NODE, whose wait began when the node became ready, goes on when its condition has
been found true and waits on otherwise; TIMED_NODE fails on a base that is off, goes on late or fails by its late policy when its position
has been reached, and else leaves an ephemeris entry once one is free. -/
def Obligations.CounterNodes : Prop :=
  ∀ (s : State) (g n : Nat) (gr : Graph) (nd : Node),
    -- a SIGNAL node performs its operation, or only joins, and completes
    (s.readyNode g n 4 = some (gr, nd) →
      ∃ t, exec (.signalNode g n) s = .next t ∧ t.node g n = none ∧ t.tile = s.tile
        ∧ (nd.field 26 1 = 0 → s.ctrNow.find? (·.counter == nd.field 24 2) = none →
            t.counter (nd.field 24 2) = s.counter (nd.field 24 2) + BitVec.ofNat 32 (nd.field 28 4))
        ∧ (nd.field 26 1 = 1 → s.ctrNow.find? (·.counter == nd.field 24 2) = none →
            t.counter (nd.field 24 2) = BitVec.ofNat 32 (nd.field 28 4))
        -- operations have reached the counter in this XCLK: it falls into it, or into a later one
        ∧ (∀ x : CtrNow, s.ctrNow.find? (·.counter == nd.field 24 2) = some x →
            (nd.field 26 1 = 0 → t.counter (nd.field 24 2) = (x.push none (BitVec.ofNat 32 (nd.field 28 4))).stands.getLastD 0
              ∨ t.counter (nd.field 24 2) = s.counter (nd.field 24 2) + BitVec.ofNat 32 (nd.field 28 4))
            ∧ (nd.field 26 1 = 1 →
              t.counter (nd.field 24 2) = (x.push (some (s.nodeRank g n none)) (BitVec.ofNat 32 (nd.field 28 4))).stands.getLastD 0
              ∨ t.counter (nd.field 24 2) = BitVec.ofNat 32 (nd.field 28 4)))
        ∧ (2 ≤ nd.field 26 1 → t.counters = s.counters)
        ∧ ∀ c, c ≠ nd.field 24 2 → t.counter c = s.counter c)
    -- a WAIT node, whose wait began when it became ready: its condition has been found true, or it waits on
    ∧ (∀ s1 : State, s.readyNode g n 5 = some (gr, nd) → s1 = s.ctrSettle (nd.field 24 2) →
      (s1.waits.any (fun w => w.who == .node g n && s1.waitMet w) = true →
        ∃ t, exec (.waitNode g n) s = .next t ∧ t.counters = s.counters ∧ t.tile = s.tile
          ∧ t.waits = s1.waits.filter (fun w => w.who != .node g n) ∧ (t.node g n).any (fun x => x.st == .between && x.slices.isEmpty) = true)
      ∧ (s1.waits.any (fun w => w.who == .node g n && s1.waitMet w) = false →
        ∃ t, exec (.waitNode g n) s = .next t ∧ t.counters = s.counters ∧ t.tile = s.tile ∧ t.waits = s1.waits
          ∧ (t.node g n).any (·.st == .waiting) = true))
    -- a TIMED node: its base is off
    ∧ (s.nextNode g = some (gr, nd) → nd.idx = n → nd.kind = 6 → s.fld (F.mbState (bits (nd.field 24 1) 0 2)) = 0 →
      ∃ t, exec (.timedNode g n) s = .next t ∧ t.tile = s.tile ∧ t.counters = s.counters ∧ t.mer.bases = s.mer.bases
        ∧ (t.node g n).any (fun x => x.st == .failed && x.status == 0x17) = true)
    -- its position has been reached: it is released at once, late, or fails
    ∧ (s.nextNode g = some (gr, nd) → nd.idx = n → nd.kind = 6 → s.fld (F.mbState (bits (nd.field 24 1) 0 2)) ≠ 0 →
      posReached (s.mbPos (bits (nd.field 24 1) 0 2)) (BitVec.ofNat 48 (nd.field 28 4 * 65536 + nd.field 32 2)) = true →
      (nd.field 25 1 = 0 →
        ∃ t, exec (.timedNode g n) s = .next t ∧ t.tile = s.tile ∧ t.counters = s.counters ∧ t.mer = s.mer
          ∧ (t.node g n).any (fun x => x.st == .between && x.slices.isEmpty && x.status == 3) = true)
      ∧ (nd.field 25 1 ≠ 0 →
        ∃ t, exec (.timedNode g n) s = .next t ∧ t.tile = s.tile ∧ t.counters = s.counters ∧ t.mer.bases = s.mer.bases
          ∧ (t.node g n).any (fun x => x.st == .failed && x.status == 0x17) = true))
    -- it is still to come: the node takes an ephemeris entry, once one is free
    ∧ (s.nextNode g = some (gr, nd) → nd.idx = n → nd.kind = 6 → s.fld (F.mbState (bits (nd.field 24 1) 0 2)) ≠ 0 →
      posReached (s.mbPos (bits (nd.field 24 1) 0 2)) (BitVec.ofNat 48 (nd.field 28 4 * 65536 + nd.field 32 2)) = false →
      (s.ephFull gr.ctx = false →
        ∃ t, exec (.timedNode g n) s = .next t ∧ t.tile = s.tile ∧ t.counters = s.counters
          ∧ (t.node g n).any (·.st == .registered) = true ∧ t.mer.eph.dropLast = s.mer.eph
          ∧ (t.mer.eph.getLast?).map (fun e => (e.tenant, e.base, e.action, e.pos, e.node))
            = some (gr.ctx, bits (nd.field 24 1) 0 2, 0, BitVec.ofNat 48 (nd.field 28 4 * 65536 + nd.field 32 2), some (g, n)))
      ∧ (s.ephFull gr.ctx = true → exec (.timedNode g n) s = .next s))

/-- SLICE_END, SLICE_TIME_LIMIT, NODE_COMPLETE, GRAPH_ABANDON (R80, R82, R84, R86, R90). SLICE_END of a slice that is at its end closes it
and keeps a channel's program for the next, and does nothing before; SLICE_TIME_LIMIT asks for the end at the next cut point; NODE_COMPLETE
removes a node that can complete, notes its index, and does nothing before; GRAPH_ABANDON ends a graph that failed once none of its nodes
runs, and no other graph. -/
def Obligations.SlicesAndNodesEnd : Prop :=
  ∀ (s : State) (g n : Nat) (gr : Graph) (nd : Node), s.graph g = some gr → s.node g n = some nd → nd.idx = n → gr.id = g →
    (s.engines = true → nd.kind ≠ 8 → nd.inChain = false → s.sliceEnds g nd = true → s.compares gr.ctx = false →
      (nd.kind ≠ 1 →
        ∃ t, exec (.sliceEnd g n) s = .next t ∧ t.tile = s.tile ∧ t.counters = s.counters
          ∧ (t.node g n).any (fun x => x.st == .between && x.slices == nd.slicesLeft && x.pos == 0 && x.run == nd.run + 1) = true)
      ∧ (∀ (ch : Fin 64) (p : Prog), nd.kind = 1 → nd.units.find? (· < 64) = some ch.val → (s.chan ch).prog = some p → p.ended = false →
        ∃ t, exec (.sliceEnd g n) s = .next t ∧ (t.chan ch).prog = none ∧ p ∈ (t.chan ch).idle ∧ t.fld (F.chState ch) = 1
          ∧ (t.node g n).any (fun x => x.st == .between && x.slices == nd.slicesLeft && x.pos == 0 && x.run == nd.run + 1) = true))
    ∧ (nd.kind ≠ 8 → s.sliceEnds g nd = false → exec (.sliceEnd g n) s = .next s)
    ∧ (nd.st = .opened → nd.kind ≠ 8 →
      ∃ t, exec (.sliceTimeLimit g n) s = .next t ∧ t.aon = Nat.max s.aon (nd.began + 100000)
        ∧ (t.node g n).any (fun x => x.endSlice && x.pos == nd.pos && x.slices == nd.slices) = true ∧ t.tile = s.tile)
    ∧ (s.engines = true → s.canComplete gr nd = true →
      ∃ t, exec (.nodeComplete g n) s = .next t ∧ t.node g n = none ∧ (t.graph g).all (fun x => x.doneIdx.contains n) = true
        ∧ t.tile = s.tile ∧ t.counters = s.counters)
    ∧ (s.canComplete gr nd = false → exec (.nodeComplete g n) s = .next s)
    ∧ (s.coll.fatal = false → s.rep.size = 0 → (gr.fail.isSome = true ∨ gr.stopped.isSome = true) →
      (∀ x ∈ gr.nodes, gr.droppable x = true ∨ (x.st = .failed ∧ s.nodeQuiet g x.idx = true)) →
      ∃ t, exec (.graphAbandon g) s = .next t ∧ t.graph g = none ∧ (∀ x ∈ s.graphs, x.id ≠ g → x ∈ t.graphs) ∧ t.tile = s.tile
        ∧ t.counters = s.counters)

/-- TRANSIT, DESCRIPTOR_COPY, CONTRACT, VECTOR, CHECK, CHAIN (R86, R88, R133, R208, R228, R235, R266, R362, R363). TRANSIT binds its
program to the channel, at its start or where it stood; a descriptor copy runs as one MOVET; a contraction and a vector node run as far as
their slice and accesses let them: done, waiting for a walk, held by credit or by a producer's granule, or failed with the access's
failure; a check of one interval leaves the check value of its bytes; CHAIN passes the granules that each stage has written to the stage
behind it. -/
def Obligations.NodesRunOnUnits : Prop :=
  -- a program begins its slice on its channel, or goes on where it stood
  (∀ (s : State) (ch : Fin 64) (gr : Graph) (nd : Node), s.holder ch = some (gr, nd) → (s.chan ch).prog = none → s.engines = true →
    nd.kind = 1 → nd.field 24 1 = 0 → s.eclipsed ch = false →
    ∃ t, exec (.transit ch) s = .next t ∧ t.fld (F.chState ch) = 2 ∧ t.graphs = s.graphs ∧ t.tile = s.tile ∧ t.sys = s.sys
      ∧ (t.chan ch).prog.any (fun p => p.g == gr.id && p.n == nd.idx && t.fld (F.chSlot ch) == p.pc % 4096) = true
      ∧ (∀ p : Prog, (s.chan ch).idle.find? (fun p => p.g == gr.id && p.n == nd.idx) = some p →
          (t.chan ch).prog.any (fun q => q.pc == p.pc && q.line == p.line && q.iters == p.iters && q.slots == p.slots) = true)
      ∧ ((s.chan ch).idle.find? (fun p => p.g == gr.id && p.n == nd.idx) = none →
          (t.chan ch).prog.any (fun p => p.slots == nd.prog && p.pc == 0 && p.ctx == gr.ctx && p.xva == some (nd.field 32 8)) = true))
  -- a descriptor copy begins and runs as one MOVET
  ∧ (∀ (s s1 s2 : State) (ch : Fin 64) (p : Prog) (b : List Byte), (s.bindProg ch 1).isCopy ch = true →
    (s.bindProg ch 1).atSlot ch 2 = some (p, b) → (atomically (.node p.g p.n) (fetchSlot ch p)).on (s.bindProg ch 1) = (.ok (), s1) →
    (movetRun ch (s1.isCopy ch)).on s1 = (.ok (), s2) → exec (.descriptorCopy ch) s = .next (s2.settleCh ch))
  ∧ (∀ (s : State) (ch : Fin 64), (s.bindProg ch 1).isCopy ch = true →
    exec (.descriptorCopy ch) s = exec (.movet ch) (s.bindProg ch 1))
  -- the tile groups of a CONTRACT's slice: they are done; a translation is missing; credit or a producer's granule lacks; they fail
  ∧ (∀ (s s0 : State) (e : Fin 2) (gr : Graph) (nd : Node) (x : Contr) (m : M Unit),
    s.onUnit (0x48 + e) 2 = some (gr, nd) → contrOf (s.boundDesc gr.ctx) nd = some x →
    s0 = (s.portAhead gr.ctx (x.stream nd.tmax nd.total false)).portAhead gr.ctx (x.stream nd.tmax nd.total true) →
    m = contrGroups { t := gr.ctx, unit := if nd.twin then 0x4A else 0x48 + e, who := .node gr.id nd.idx, wc := true } x
          (if nd.twin then 0x4A else 0x48 + e) (if nd.twin then 2 else e) (nd.field 52 4) (nd.field 56 4) gr.id nd.idx (nd.slices.headD 0 + 1) →
    (∀ s1, m.on s0 = (.ok (), s1) → exec (.contract e) s = .next s1)
    ∧ (∀ s1 a w, m.on s0 = (.error (.miss a w), s1) →
        exec (.contract e) s = .next { s1.modNode gr.id nd.idx (fun x => { x with stall := true }) with
          walks := s1.walks ++ [{ t := gr.ctx, xva := a, write := w, who := .node gr.id nd.idx }] })
    ∧ (∀ s1, m.on s0 = (.error .wait, s1) → exec (.contract e) s = .next s1)
    ∧ (∀ s1 st de, m.on s0 = (.error (.stop st de), s1) → exec (.contract e) s = .next (s1.failNode gr.id nd.idx st de)))
  -- the rows of a VECTOR's slice
  ∧ (∀ (s s0 : State) (i : Fin 16) (gr : Graph) (nd : Node) (m : M Unit), s.onUnit (0xC0 + i) 3 = some (gr, nd) →
    s0 = s.portAhead gr.ctx (s.vecStream gr nd) → m = vecSlice gr.id nd.idx ((nd.slices.headD 0 + 1) * (nd.ops.length + 1)) →
    (∀ s1, m.on s0 = (.ok (), s1) → exec (.vector i) s = .next s1)
    ∧ (∀ s1 a w, m.on s0 = (.error (.miss a w), s1) →
        exec (.vector i) s = .next { s1.modNode gr.id nd.idx (fun x => { x with stall := true }) with
          walks := s1.walks ++ [{ t := gr.ctx, xva := a, write := w, who := .node gr.id nd.idx }] })
    ∧ (∀ s1, m.on s0 = (.error .wait, s1) → exec (.vector i) s = .next s1)
    ∧ (∀ s1 st de, m.on s0 = (.error (.stop st de), s1) → exec (.vector i) s = .next (s1.failNode gr.id nd.idx st de)))
  -- its tensors do not stand any more: nothing runs
  ∧ (∀ (s : State) (e : Fin 2) (gr : Graph) (nd : Node), s.onUnit (0x48 + e) 2 = some (gr, nd) →
    contrOf (s.boundDesc gr.ctx) nd = none → exec (.contract e) s = .next s)
  -- a scan of one interval in tile memory leaves the check value of its bytes in the node
  ∧ (∀ (s : State) (u : Fin 4) (gr : Graph) (nd : Node), s.onUnit (0xD0 + u) 7 = some (gr, nd) → s.graph gr.id = some gr →
    s.node gr.id nd.idx = some nd → nd.slices = [1] → nd.pos = 0 → nd.total = 0 → nd.sub = 0 → nd.endSlice = false → nd.inBuf = (0, 0) →
    nd.ckSpace = 1 → nd.ckCount = 1 → nd.ckResult = 0 → nd.ckCmp = false → s.held (.node gr.id nd.idx) = false →
    s.tileOkRange gr.ctx false nd.ckStart nd.ckLen = true → s.eccIn nd.ckStart nd.ckLen = [] → s.tileOld = [] →
    ∃ t, exec (.check u) s = .next t ∧ t.tile = s.tile ∧ t.sys = s.sys ∧ t.regs = s.regs ∧ t.counters = s.counters ∧ t.ctxs = s.ctxs
      ∧ (t.node gr.id nd.idx).map (fun x => (x.pos, x.crc)) = some (1,
          crcRun (crcPoly nd.ckPoly) (crcRun (crcPoly nd.ckPoly) (crcOnes nd.ckPoly) (s.tileRd nd.ckStart nd.ckLen)) (foldIns nd)
            ^^^ crcOnes nd.ckPoly))
  -- the granules that a chain's stages have written are passed to the stages behind them
  ∧ (∀ (s : State) (g n : Nat) (gr : Graph) (nd : Node), s.graph g = some gr → s.node g n = some nd → s.engines = true → nd.kind = 8 →
    nd.st = .opened → (gr.nodes.map (·.idx)).Nodup →
    ∃ t, exec (.chain g n) s = .next t ∧ t.chans = s.chans ∧ t.tile = s.tile ∧ t.regs = s.regs ∧ t.ctxs = s.ctxs ∧ t.counters = s.counters
      ∧ (∀ (i : Nat) (x y : Node), (gr.stages nd)[i]? = some x → (gr.stages nd)[i + 1]? = some y →
          (t.node g y.idx).any (fun z => z.hw == x.handed && z.pos == y.pos && z.slices == y.slices && z.st == y.st) = true))

/-- NOP_SLOT, LOOP, WAIT_SLOT, SIGNAL_SLOT, FENCE, STAMP, HALT, MOVE, MOVET (R123, R124, R125, R126, R134, R136, R137, R138, R139, R140,
R295). Each slot instruction goes on to the next slot with its own effect: NOP none; LOOP its counters; WAIT at once when its condition
holds, else the channel waits; SIGNAL queues one operation, behind its FENCE in the pairing profile, and stalls with a full queue; FENCE
goes on once drained; STAMP writes one record in tile memory, or queues it; HALT ends the program; MOVE and MOVET issue their lines, wait
for a walk or for credit, or end the program. Slots that the instruction buffer lacks are read first, and a read that fails ends the
program. -/
def Obligations.SlotsRun : Prop :=
  ∀ (s : State) (ch : Fin 64) (p : Prog) (b : List Byte),
    (s.atSlot ch 0 = some (p, b) → p.inHand = true →
      ∃ t, exec (.nopSlot ch) s = .next t ∧ t.standsAt ch (p.pc + 1) = true ∧ t.graphs = s.graphs ∧ t.tile = s.tile ∧ t.sys = s.sys
        ∧ t.counters = s.counters ∧ ∀ k, k ≠ ch.val → t.chan k = s.chan k)
    ∧ (s.atSlot ch 3 = some (p, b) → p.inHand = true →
      ∃ t, exec (.loop ch) s = .next t ∧ t.standsAt ch (loopNext b p.pc p.iters).1 = true
        ∧ (t.chan ch).prog.any (fun q => q.iters == (loopNext b p.pc p.iters).2) = true ∧ t.graphs = s.graphs ∧ t.tile = s.tile ∧ t.sys = s.sys
        ∧ t.counters = s.counters ∧ ∀ k, k ≠ ch.val → t.chan k = s.chan k)
    -- WAIT: its condition holds now, or the channel waits
    ∧ (s.atSlot ch 5 = some (p, b) → p.inHand = true →
      condHolds (fieldAt b 1 1) (s.counter (fieldAt b 2 2)) (BitVec.ofNat 32 (fieldAt b 4 4)) = true →
      ∃ t, exec (.waitSlot ch) s = .next t ∧ t.counters = s.counters ∧ t.standsAt ch (p.pc + 1) = true ∧ (∀ w ∈ t.waits, w ∈ s.waits)
        ∧ t.tile = s.tile)
    ∧ (s.atSlot ch 5 = some (p, b) → p.inHand = true →
      condHolds (fieldAt b 1 1) (s.counter (fieldAt b 2 2)) (BitVec.ofNat 32 (fieldAt b 4 4)) = false →
      ∃ t, exec (.waitSlot ch) s = .next t ∧ t.counters = s.counters ∧ t.fld (F.chState ch) = 3 ∧ (t.chan ch).prog = some p ∧ t.tile = s.tile
        ∧ t.waits = (s.ctrSettle (fieldAt b 2 2)).waits ++ [⟨p.ctx, .chan ch, fieldAt b 2 2, fieldAt b 1 1, BitVec.ofNat 32 (fieldAt b 4 4), s.aon, fieldAt b 8 4, false⟩])
    -- SIGNAL: in the pairing profile behind its FENCE; with a full release queue the channel stalls
    ∧ (s.atSlot ch 6 = some (p, b) → p.inHand = true → (s.fld (F.ordProfile p.ctx) = 1 → s.drained p = true) →
      (s.chan ch).relq.length < 8 →
      ∃ t, exec (.signalSlot ch) s = .next t ∧ t.counters = s.counters ∧ t.tile = s.tile ∧ t.standsAt ch (p.pc + 1) = true
        ∧ (t.chan ch).relq.dropLast = (s.chan ch).relq
        ∧ ((t.chan ch).relq.getLast?).map (fun o => (o.g, o.n, o.op, o.a, o.v, o.barrier))
          = some (p.g, p.n, fieldAt b 1 1, fieldAt b 2 2, BitVec.ofNat 32 (fieldAt b 4 4), p.issued)
        ∧ (t.chan ch).prog.any (fun q => q.issued == p.issued + 1) = true)
    ∧ (s.atSlot ch 6 = some (p, b) → p.inHand = true → (s.fld (F.ordProfile p.ctx) = 1 → s.drained p = true) →
      8 ≤ (s.chan ch).relq.length →
      ∃ t, exec (.signalSlot ch) s = .next t ∧ t.counters = s.counters ∧ t.fld (F.chState ch) = 4 ∧ t.chans = s.chans)
    ∧ (s.atSlot ch 6 = some (p, b) → p.inHand = true → s.fld (F.ordProfile p.ctx) = 1 → s.drained p = false →
      exec (.signalSlot ch) s = .next s)
    -- FENCE: over once the program's writes have returned and its operations are performed
    ∧ (s.atSlot ch 7 = some (p, b) → p.inHand = true → s.drained p = true →
      ∃ t, exec (.fence ch) s = .next t ∧ t.standsAt ch (p.pc + 1) = true ∧ t.tile = s.tile ∧ t.sys = s.sys ∧ t.counters = s.counters)
    ∧ (s.atSlot ch 7 = some (p, b) → p.inHand = true → s.drained p = false → exec (.fence ch) s = .next s)
    -- STAMP into tile memory, at once
    ∧ (s.atSlot ch 8 = some (p, b) → p.inHand = true → p.checked = false → fieldAt b 1 1 = 1 →
      s.tileOkRange p.ctx true (fieldAt b 8 6) 16 = true → fieldAt b 8 6 < 2 ^ 26 - 15 → s.eccIn (fieldAt b 8 6) 16 = [] →
      s.upsets.contains ch.val = false →
      ∃ t, exec (.stamp ch) s = .next t ∧ t.standsAt ch (p.pc + 1) = true ∧ t.tileRd (fieldAt b 8 6) 16 = (s.stampRec ch p.ctx).1
        ∧ (t.chan ch).stampSeq = (s.chan ch).stampSeq + 1
        ∧ (∀ a, a < fieldAt b 8 6 ∨ fieldAt b 8 6 + 16 ≤ a → t.tileByte a = s.tileByte a) ∧ t.sys = s.sys ∧ t.counters = s.counters)
    -- STAMP with `after` 1: behind the writes issued so far
    ∧ (s.atSlot ch 8 = some (p, b) → p.inHand = true → p.checked = false → fieldAt b 1 1 = 3 →
      s.tileOkRange p.ctx true (fieldAt b 8 6) 16 = true → (s.chan ch).relq.length < 8 →
      ∃ t, exec (.stamp ch) s = .next t ∧ t.standsAt ch (p.pc + 1) = true ∧ t.tile = s.tile ∧ t.sys = s.sys
        ∧ (t.chan ch).stampSeq = (s.chan ch).stampSeq ∧ (t.chan ch).relq.dropLast = (s.chan ch).relq
        ∧ ((t.chan ch).relq.getLast?).map (fun o => (o.g, o.n, o.op, o.a, o.space, o.barrier))
          = some (p.g, p.n, 2, fieldAt b 8 6, 1, p.issued))
    ∧ (s.atSlot ch 0xF = some (p, b) → p.inHand = true →
      ∃ t, exec (.halt ch) s = .next t ∧ t.fld (F.chState ch) = 7 ∧ (t.chan ch).prog.any (fun q => q.ended && q.status == 1 && q.pc == p.pc) = true
        ∧ t.tile = s.tile ∧ t.sys = s.sys ∧ t.graphs = s.graphs ∧ t.counters = s.counters)
    -- a MOVE or a MOVET: its lines are issued; a translation is missing; credit or room lacks; they end the program
    ∧ (∀ (k : Nat) (m : M Unit), s.atSlot ch 1 = some (p, b) → p.inHand = true →
      m = moveLines ch p.pc (if k = 0 then (mvOf b).lines else k) →
      (∀ s1, m.on s = (.ok (), s1) → exec (.move ch k) s = .next (s1.settleCh ch))
      ∧ (∀ s1 a w, m.on s = (.error (.miss a w), s1) → exec (.move ch k) s = .next (s1.missChan ch p.ctx a w))
      ∧ (∀ s1, m.on s = (.error .wait, s1) → exec (.move ch k) s = .next (s1.settleCh ch))
      ∧ (∀ s1 st de, m.on s = (.error (.stop st de), s1) → exec (.move ch k) s = .next (s1.endProg ch st de)))
    ∧ (s.atSlot ch 2 = some (p, b) → p.inHand = true →
      (∀ s1, (movetRun ch (s.isCopy ch)).on s = (.ok (), s1) → exec (.movet ch) s = .next (s1.settleCh ch))
      ∧ (∀ s1 a w, (movetRun ch (s.isCopy ch)).on s = (.error (.miss a w), s1) → exec (.movet ch) s = .next (s1.missChan ch p.ctx a w))
      ∧ (∀ s1, (movetRun ch (s.isCopy ch)).on s = (.error .wait, s1) → exec (.movet ch) s = .next (s1.settleCh ch))
      ∧ (∀ s1 st de, (movetRun ch (s.isCopy ch)).on s = (.error (.stop st de), s1) → exec (.movet ch) s = .next (s1.endProg ch st de)))
    -- slots that the buffer lacks are read first; a read that fails ends the program
    ∧ (∀ s1, s.atSlot ch 0 = some (p, b) → (atomically (.node p.g p.n) (fetchSlot ch p)).on s = (.ok (), s1) →
      exec (.nopSlot ch) s = .next (s1.goSlot ch (p.pc + 1)))
    ∧ (∀ s1 op st de, s.atSlot ch op = some (p, b) → (op ≤ 8 ∨ op = 0xF) → op ≠ 4 →
      (atomically (.node p.g p.n) (fetchSlot ch p)).on s = (.error (.stop st de), s1) →
      exec (if op = 0 then .nopSlot ch else if op = 1 then .move ch 0 else if op = 2 then .movet ch else if op = 3 then .loop ch else if op = 5 then .waitSlot ch else if op = 6 then .signalSlot ch
        else if op = 7 then .fence ch else if op = 8 then .stamp ch else .halt ch) s = .next (s1.endProg ch st de))

/-- RELEASE_PERFORM, PROGRAM_COMPLETE, RUNAHEAD_PREFETCH (R137, R139, R141, R142, R169, R283). RELEASE_PERFORM performs the oldest queued
operation of the channel when its writes have returned, a counter's (with others of the XCLK as R283 orders them, or later) or a stamp's
record, and nothing before. PROGRAM_COMPLETE of a drained program frees the channel, counts it, and ends its node's slice or fails its
node. RUNAHEAD_PREFETCH walks one translation into the channel's table of 64, or stages bytes up to 64 KiB, and changes nothing else. -/
def Obligations.ReleasesAndProgramsEnd : Prop :=
  ∀ (s : State) (ch : Fin 64),
    -- a SIGNAL's operation is performed once the writes before it have returned and its interval has passed
    (∀ o : RelOp, (s.chan ch).relq.head? = some o → s.engines = true → s.writesDone o.g o.n o.barrier = true → o.op < 2 →
      s.awaits o.g o.n o.iv = false →
      ∃ t, exec (.releasePerform ch) s = .next t ∧ (t.chan ch).relq = (s.chan ch).relq.drop 1 ∧ t.tile = s.tile ∧ t.sys = s.sys
        ∧ (s.ctrNow.find? (·.counter == o.a) = none → t.counter o.a = (if o.op = 0 then s.counter o.a + o.v else o.v))
        -- operations have reached the counter in this XCLK: it falls into it, or into a later one
        ∧ (∀ x : CtrNow, s.ctrNow.find? (·.counter == o.a) = some x →
            t.counter o.a = (x.push (if o.op = 0 then none else some (s.nodeRank o.g o.n (some ch))) o.v).stands.getLastD 0
            ∨ t.counter o.a = (if o.op = 0 then s.counter o.a + o.v else o.v))
        ∧ ∀ c, c ≠ o.a → t.counter c = s.counter c)
    -- a stamp: its record is written, if the tenant still has the right
    ∧ (∀ (o : RelOp) (gr : Graph), (s.chan ch).relq.head? = some o → s.engines = true → s.writesDone o.g o.n o.barrier = true →
      o.op = 2 → o.space = 1 → s.graph o.g = some gr → s.tileOkRange gr.ctx true o.a 16 = true → s.eccIn o.a 16 = [] →
      s.upsets.contains ch.val = false →
      ∃ t, exec (.releasePerform ch) s = .next t ∧ (t.chan ch).relq = (s.chan ch).relq.drop 1 ∧ t.counters = s.counters ∧ t.sys = s.sys
        ∧ t.tileRd o.a 16 = (s.stampRec ch gr.ctx).1 ∧ (∀ a, a < o.a ∨ o.a + 16 ≤ a → t.tileByte a = s.tileByte a))
    ∧ (∀ o : RelOp, (s.chan ch).relq.head? = some o → s.writesDone o.g o.n o.barrier = false → exec (.releasePerform ch) s = .next s)
    -- a program that has ended and drained leaves its channel: with success its node's slice is at its end
    ∧ (∀ (p : Prog) (x : Node), (s.chan ch).prog = some p → s.pins.clkRun = true → p.ended = true → s.drained p = true →
      s.fld (F.chOwner ch) = (s.chan ch).owner → s.node p.g p.n = some x → p.status < 0x10 →
      ∃ t, exec (.programComplete ch) s = .next t ∧ (t.chan ch).prog = none ∧ t.fld (F.chState ch) = 1
        ∧ t.fld (F.chDone ch) = (s.fld (F.chDone ch) + 1) % 2 ^ 32 ∧ t.tile = s.tile ∧ t.sys = s.sys ∧ t.counters = s.counters
        ∧ (t.node p.g p.n).any (fun y => y.slices.isEmpty && y.status == p.status && y.detail == p.detail) = true)
    -- with a failure the node fails
    ∧ (∀ (p : Prog) (x : Node), (s.chan ch).prog = some p → s.pins.clkRun = true → p.ended = true → s.drained p = true →
      s.fld (F.chOwner ch) = (s.chan ch).owner → s.node p.g p.n = some x → 0x10 ≤ p.status →
      (∀ c ∈ s.chans, ∀ q ∈ c.2.idle, ¬(q.g = p.g ∧ q.n = p.n)) →
      ∃ t, exec (.programComplete ch) s = .next t ∧ (t.chan ch).prog = none ∧ t.fld (F.chState ch) = 1
        ∧ t.fld (F.chDone ch) = (s.fld (F.chDone ch) + 1) % 2 ^ 32 ∧ t.tile = s.tile ∧ t.sys = s.sys ∧ t.counters = s.counters
        ∧ (t.node p.g p.n).any (fun y => y.st == .failed && y.status == p.status && y.detail == p.detail) = true)
    -- run-ahead: a translation that is not there is walked into the channel's table
    ∧ (∀ (p : Prog) (v1 : State) (a : Nat) (w : Bool) (x : Xl), (s.chan ch).prog = some p → s.engines = true → p.ended = false →
      s.eclipsed ch = false → s.chSt ch ≤ 4 → (aheadStep ch (s.isCopy ch)).on (s.aheadView ch) = (.error (.miss a w), v1) →
      s.trailErr p.ctx a w = none → s.walk p.ctx a w = .ok x →
      ∃ t, exec (.runaheadPrefetch ch) s = .next t ∧ (t.chan ch).pre = (x :: (s.chan ch).pre).take 64 ∧ (t.chan ch).prog = some p
        ∧ (t.chan ch).staged = (s.chan ch).staged ∧ t.tlb = s.tlb ∧ t.tile = s.tile ∧ t.sys = s.sys ∧ t.counters = s.counters)
    -- bytes that are not there are staged, up to 64 KiB
    ∧ (∀ (p : Prog) (v1 s1 : State) (a n : Nat) (steer : Bool) (l : List Byte), (s.chan ch).prog = some p → s.engines = true →
      p.ended = false → s.eclipsed ch = false → s.chSt ch ≤ 4 → s.fld (F.ordProfile p.ctx) ≠ 1 →
      (aheadStep ch (s.isCopy ch)).on (s.aheadView ch) = (.error (.want a n steer), v1) →
      (s.chan ch).staged.foldl (fun k x => k + x.bytes.length) 0 + n ≤ 65536 →
      (xvaRead (s.chReq ch p) a n).on s = (.ok l, s1) → s.starved s1 = false →
      exec (.runaheadPrefetch ch) s
        = .next (s1.modChan ch (fun c => { c with staged := c.staged ++ [({ sp := 0, xva := a, bytes := l } : Staged)] })))
    -- nothing more can be fetched ahead
    ∧ (∀ (p : Prog) (v1 : State), (s.chan ch).prog = some p → (aheadStep ch (s.isCopy ch)).on (s.aheadView ch) = (.error .wait, v1) →
      exec (.runaheadPrefetch ch) s = .next s)

/-- The vector operations, one command a row. Rounded results follow the model of R231 (Machine/Float.lean) (R228, R229, R230, R231, R232,
R233, R234). Each operation of the list, on row buffers: the destination takes the elementwise or the row result of its sources and no
memory changes; an atomic changes exactly its word of tile memory and the exchange's destination takes the word's former value; any
operation, whatever its operands, is done, waits for a walk, waits for credit or a granule, or fails with its access's failure. -/
def Obligations.VectorOperations : Prop :=
  ∀ (s : State) (i : Fin 16) (gr : Graph) (nd : Node) (t0 : Desc) (r : Nat) (e : List Byte),
    s.onUnit (0xC0 + i) 3 = some (gr, nd) → s.graph gr.id = some gr → s.node gr.id nd.idx = some nd →
    (s.vecNode gr nd).map (·.2) = some t0 → nd.vec.row = some r → nd.stageOf r = 0xC0 + i.val → nd.pos < nd.slices.headD 0 →
    nd.endSlice = false → nd.ops[nd.vec.op]? = some e → nd.vec.op + 1 < nd.ops.length → nd.vec.bufs.length = 4 →
    s.held (.node gr.id nd.idx) = false →
    -- an elementwise operation on row buffers
    (∀ x ∈ [(Instr.add, 0x01), (Instr.sub, 0x02), (Instr.mul, 0x03), (Instr.fma, 0x04), (Instr.min, 0x05), (Instr.max, 0x06),
        (Instr.abs, 0x07), (Instr.rshift, 0x08), (Instr.cvt, 0x09), (Instr.cmplt, 0x0A), (Instr.cmpeq, 0x0B), (Instr.select, 0x0C),
        (Instr.exp, 0x0D), (Instr.log, 0x0E), (Instr.rsqrt, 0x0F), (Instr.recip, 0x10)],
      VOp.op e = x.2 → (8 ≤ VOp.d e ∧ VOp.d e ≤ 11) →
      (∀ c ∈ [VOp.s0 e, VOp.s1 e, VOp.s2 e], (8 ≤ c ∧ c ≤ 11 ∧ nd.vec.bufs.getD (c - 8) [] ≠ []) ∨ c = 12 ∨ c = 15) →
      ∃ t, exec (x.1 i) s = .next t ∧ t.tile = s.tile ∧ t.sys = s.sys ∧ t.regs = s.regs ∧ t.counters = s.counters
        ∧ (t.node gr.id nd.idx).map (fun y => (y.pos, y.vec.op, y.vec.bufs.getD (VOp.d e - 8) []))
          = some (nd.pos, nd.vec.op + 1, (List.range (t0.size t0.inner)).map (fun j => BitVec.ofNat 32
              (elemOp x.2 (VOp.dom e) (VOp.round e) ((nd.vec.operand (t0.size t0.inner) e (VOp.s0 e)).getD j 0)
                ((nd.vec.operand (t0.size t0.inner) e (VOp.s1 e)).getD j 0) ((nd.vec.operand (t0.size t0.inner) e (VOp.s2 e)).getD j 0)))))
    -- a row operation on row buffers
    ∧ (∀ x ∈ [(Instr.rsum, 0x11), (Instr.rmax, 0x12), (Instr.rmin, 0x13), (Instr.softmax, 0x14), (Instr.layernorm, 0x15),
        (Instr.groupnorm, 0x16), (Instr.argmax, 0x17), (Instr.topk, 0x18), (Instr.scan, 0x19), (Instr.scanmax, 0x1A)],
      VOp.op e = x.2 → VOp.seg e = false → (8 ≤ VOp.d e ∧ VOp.d e ≤ 11) → (x.2 = 0x18 → 8 ≤ VOp.s2 e ∧ VOp.s2 e ≤ 11 ∧ VOp.s2 e ≠ VOp.d e) →
      (∀ c ∈ [VOp.s0 e, VOp.s1 e, VOp.s2 e], (8 ≤ c ∧ c ≤ 11 ∧ (nd.vec.bufs.getD (c - 8) []).length = t0.size t0.inner) ∨ c = 12 ∨ c = 15) →
      (nd.vec.bufs.getD (VOp.d e - 8) []).length = t0.size t0.inner → 0 < t0.size t0.inner →
      ∃ t, exec (x.1 i) s = .next t ∧ t.tile = s.tile ∧ t.sys = s.sys ∧ t.regs = s.regs
        ∧ (t.node gr.id nd.idx).any (fun y => y.vec.op == nd.vec.op + 1
            && (match rowOp x.2 (VOp.dom e) (VOp.k e) (VOp.imm e) (nd.vec.operand (t0.size t0.inner) e (VOp.s0 e))
                  (if opSources x.2 = 3 then nd.vec.operand (t0.size t0.inner) e (VOp.s1 e) else [])
                  (if opSources x.2 = 3 then nd.vec.operand (t0.size t0.inner) e (VOp.s2 e) else []) with
              | .scalar v _ => y.vec.bufs.getD (VOp.d e - 8) [] == List.replicate (t0.size t0.inner) (BitVec.ofNat 32 v)
              | .shape v => v.length != t0.size t0.inner || y.vec.bufs.getD (VOp.d e - 8) [] == v.map (BitVec.ofNat 32)
              | .top vs is => t0.size t0.inner < vs.length || vs.length != is.length
                  || ((y.vec.bufs.getD (VOp.d e - 8) []).take vs.length == vs.map (BitVec.ofNat 32)
                      && (y.vec.bufs.getD (VOp.s2 e - 8) []).take is.length == is.map (BitVec.ofNat 32))
              | .open_ _ => (y.vec.bufs.getD (VOp.d e - 8) []).length == t0.size t0.inner)) = true)
    -- any of them, whatever its operands: it is done; a translation is missing; credit or a producer's granule lacks; it fails
    ∧ (∀ x ∈ [(Instr.add, 0x01), (Instr.sub, 0x02), (Instr.mul, 0x03), (Instr.fma, 0x04), (Instr.min, 0x05), (Instr.max, 0x06), (Instr.abs, 0x07),
        (Instr.rshift, 0x08), (Instr.cvt, 0x09), (Instr.cmplt, 0x0A), (Instr.cmpeq, 0x0B), (Instr.select, 0x0C), (Instr.exp, 0x0D), (Instr.log, 0x0E),
        (Instr.rsqrt, 0x0F), (Instr.recip, 0x10), (Instr.rsum, 0x11), (Instr.rmax, 0x12), (Instr.rmin, 0x13), (Instr.softmax, 0x14), (Instr.layernorm, 0x15),
        (Instr.groupnorm, 0x16), (Instr.argmax, 0x17), (Instr.topk, 0x18), (Instr.scan, 0x19), (Instr.scanmax, 0x1A), (Instr.atomadd, 0x1B), (Instr.xchg, 0x1C)],
      VOp.op e = x.2 →
      (∀ s1, (vecStep gr.id nd.idx).on s = (.ok (), s1) → exec (x.1 i) s = .next s1)
      ∧ (∀ s1 a w, (vecStep gr.id nd.idx).on s = (.error (.miss a w), s1) →
          exec (x.1 i) s = .next { s1.modNode gr.id nd.idx (fun y => { y with stall := true }) with
            walks := s1.walks ++ [{ t := gr.ctx, xva := a, write := w, who := .node gr.id nd.idx }] })
      ∧ (∀ s1, (vecStep gr.id nd.idx).on s = (.error .wait, s1) → exec (x.1 i) s = .next s1)
      ∧ (∀ s1 st de, (vecStep gr.id nd.idx).on s = (.error (.stop st de), s1) → exec (x.1 i) s = .next (s1.failNode gr.id nd.idx st de)))
    -- an atomic of a row of one element on a word of tile memory
    ∧ (∀ x ∈ [(Instr.atomadd, 0x1B), (Instr.xchg, 0x1C)], ∀ (d : Desc) (o : Nat), VOp.op e = x.2 →
      (x.2 = 0x1C → 8 ≤ VOp.s2 e ∧ VOp.s2 e ≤ 11) → VOp.wide e = false →
      t0.size t0.inner = 1 → (8 ≤ VOp.s0 e ∧ VOp.s0 e ≤ 11) → (8 ≤ VOp.s1 e ∧ VOp.s1 e ≤ 11) →
      (nd.vec.bufs.getD (VOp.s0 e - 8) []).length = 1 → (nd.vec.bufs.getD (VOp.s1 e - 8) []).length = 1 →
      (s.vecNode gr nd).map (fun y => y.1.getD (VOp.d e) none) = some (some d) →
      d.locate ((addrAt d ((rowsOf t0).getD r [])).set d.inner (iv ((nd.vec.operand 1 e (VOp.s0 e)).getD 0 0))) = some o →
      s.tileOkRange gr.ctx true (o / 8) 4 = true → s.eccIn (o / 8) 4 = [] → s.upsets.contains (0xC0 + i.val) = false →
      ∃ t, exec (x.1 i) s = .next t
        ∧ t.tileRd (o / 8) 4 = leBytes 4 (if VOp.op e = 0x1B
            then (le (s.tileRd (o / 8) 4) + (nd.vec.operand 1 e (VOp.s1 e)).getD 0 0) % 2 ^ 32 else (nd.vec.operand 1 e (VOp.s1 e)).getD 0 0)
        ∧ (∀ a, a < o / 8 ∨ o / 8 + 4 ≤ a → t.tileByte a = s.tileByte a) ∧ t.sys = s.sys
        ∧ (VOp.op e = 0x1C → (t.node gr.id nd.idx).map (fun y => y.vec.bufs.getD (VOp.s2 e - 8) [])
            = some [BitVec.ofNat 32 (le (s.tileRd (o / 8) 4))]))

/-- DATA, BATCH (R198, R199, R283, R326, R327, R329, R330, R333, R374). A DATA frame in sequence, from an admitted source, with the right
word and inside the window is written to its place in tile memory and nowhere else, counts one arrival (with other operations of the XCLK
as R283 orders them, or later) and is acknowledged in its time; outside the window, out of sequence, with a wrong word, without mailbox or
from another source it writes nothing. A BATCH frame opens its batch. -/
def Obligations.ReceivedFrames : Prop :=
  ∀ (s : State) (f : Frame) (l : List Frame), s.engines = true → s.relay.inbox = f :: l → f.srcChip ≠ s.self →
    -- a DATA frame in its turn is written, counted and acknowledged in its time; a BATCH frame opens its batch
    (∀ (m : Mailbox) (i : Nat) (x : RxPair), s.fld (F.enable f.dstTenant) = 1 →
      (s.ctx f.dstTenant).mailboxes.find? (·.idx == f.mailbox) = some m → s.markedOut f.srcChip = false →
      (m.srcAny = true ∨ m.srcGroup = s.sourceOf f.srcChip ∧ m.srcTenant = f.srcTenant) →
      s.rxIdx f = some i → s.relay.rx[i]? = some x → x.synced = true →
      f.payload.length = 256 → f.lenM1 < 256 →
      (f.typ = 1 → f.pairSeq % 2 ^ 24 = x.expected → f.word = crc32c (frameMsg f x.nodeSeq) → f.offset + f.lenM1 + 1 ≤ m.winLen →
        s.tileOkRange f.dstTenant true (m.winBase + f.offset) (f.lenM1 + 1) = true → s.eccIn (m.winBase + f.offset) (f.lenM1 + 1) = [] →
        s.upsets.contains 0xDF = false →
        ∃ t, exec .data s = .next t ∧ t.relay.inbox = l
          ∧ t.tileRd (m.winBase + f.offset) (f.lenM1 + 1) = f.payload.take (f.lenM1 + 1)
          ∧ (∀ a, a < m.winBase + f.offset ∨ m.winBase + f.offset + f.lenM1 + 1 ≤ a → t.tileByte a = s.tileByte a)
          ∧ (s.ctrNow.find? (·.counter == m.counter) = none → t.counter m.counter = s.counter m.counter + 1)
          -- operations have reached the counter in this XCLK: the arrival falls into it, or into a later one
          ∧ (∀ y : CtrNow, s.ctrNow.find? (·.counter == m.counter) = some y →
              t.counter m.counter = (y.push none 1).stands.getLastD 0 ∨ t.counter m.counter = s.counter m.counter + 1)
          ∧ (∀ c, c ≠ m.counter → t.counter c = s.counter c) ∧ t.regs = s.regs
          ∧ (t.relay.rx[i]?).map (fun y => (y.expected, y.left, y.unacked))
            = some ((f.pairSeq + 1) % 2 ^ 24, x.left - 1, if x.left ≤ 1 ∨ 15 ≤ x.unacked then 0 else x.unacked + 1))
      ∧ (f.typ = 1 → f.pairSeq % 2 ^ 24 = x.expected → f.word = crc32c (frameMsg f x.nodeSeq) → m.winLen < f.offset + f.lenM1 + 1 →
        f.dstTenant < 8 →
        ∃ t, exec .data s = .next t ∧ t.relay.inbox = l ∧ t.tile = s.tile ∧ t.counters = s.counters
          ∧ t.fld (F.mbxViol f.dstTenant) = Nat.min (2 ^ 64 - 1) (s.fld (F.mbxViol f.dstTenant) + 1)
          ∧ (t.relay.rx[i]?).map (·.expected) = some ((f.pairSeq + 1) % 2 ^ 24))
      ∧ (f.typ = 1 → (f.pairSeq % 2 ^ 24 ≠ x.expected ∨ f.word ≠ crc32c (frameMsg f x.nodeSeq)) →
        ∃ t, exec .data s = .next t ∧ t.relay.inbox = l ∧ t.tile = s.tile ∧ t.counters = s.counters ∧ t.regs = s.regs
          ∧ (t.relay.rx[i]?).map (fun y => (y.expected, y.synced)) = some (x.expected, true))
      ∧ (f.typ = 2 → f.pairSeq % 2 ^ 24 = x.expected → f.word = crc32c (frameMsg f (batchSeq f)) →
        x.stale (BitVec.ofNat 32 (fieldAt f.payload 20 4)) (batchSeq f) (BitVec.ofNat 8 (fieldAt f.payload 15 1)) = false →
        m.slogEn = false →
        ∃ t, exec .batch s = .next t ∧ t.relay.inbox = l ∧ t.tile = s.tile ∧ t.counters = s.counters ∧ t.regs = s.regs
          ∧ (t.relay.rx[i]?).map (fun y => (y.expected, y.left, y.nodeSeq, y.runEpoch))
            = some ((f.pairSeq + 1) % 2 ^ 24, fieldAt f.payload 24 1, batchSeq f, BitVec.ofNat 32 (fieldAt f.payload 20 4))))
    -- no mailbox, or one that the source may not use: nothing is written
    ∧ (f.typ = 1 → (s.fld (F.enable f.dstTenant) = 0 ∨ (s.ctx f.dstTenant).mailboxes.find? (·.idx == f.mailbox) = none) →
      ∃ t, exec .data s = .next t ∧ t.relay.inbox = l ∧ t.tile = s.tile ∧ t.counters = s.counters ∧ t.regs = s.regs
        ∧ t.relay.rx = s.relay.rx)
    ∧ (∀ m : Mailbox, f.typ = 1 → f.dstTenant < 8 → s.fld (F.enable f.dstTenant) = 1 →
      (s.ctx f.dstTenant).mailboxes.find? (·.idx == f.mailbox) = some m →
      (s.markedOut f.srcChip = true ∨ m.srcAny = false ∧ (m.srcGroup ≠ s.sourceOf f.srcChip ∨ m.srcTenant ≠ f.srcTenant)) →
      ∃ t, exec .data s = .next t ∧ t.relay.inbox = l ∧ t.tile = s.tile ∧ t.counters = s.counters ∧ t.relay.rx = s.relay.rx
        ∧ t.fld (F.mbxViol f.dstTenant) = Nat.min (2 ^ 64 - 1) (s.fld (F.mbxViol f.dstTenant) + 1))

/-- ACK, NACK, NOT_READY, READY, ACK_DELAY_TIMEOUT, ACK_TIMEOUT, NACK_RETRY_TIMEOUT, RETRY_AFTER_EXPIRY, NR_LIMIT_TIMEOUT. The random parts
of waits are free values (log entry 2) (R327, R329, R338, R339). ACK frees the logged frames up to its sequence; NACK resends, waits,
renumbers or ends the program by its reason; NOT_READY waits between one and two retry times; READY shortens the wait; the timers resend,
end waits, or park the channels. -/
def Obligations.SenderAnswers : Prop :=
  ∀ (s : State), s.engines = true →
    (∀ (f : Frame) (l : List Frame), s.relay.inbox = f :: l →
      (∀ i : Nat, f.typ = 3 → s.txOf f = some i → s.rep.size = 0 →
        s.relay.log.any (fun l => l.pair == i && l.sent && seqReached f.pairSeq l.frame.pairSeq) = true →
        ∃ t, exec .ack s = .next t ∧ t.relay.inbox = l
          ∧ t.relay.log = s.relay.log.filter (fun l => !(l.pair == i && seqReached f.pairSeq l.frame.pairSeq))
          ∧ (t.relay.tx[i]?).map (fun x => (x.adv, x.nrSince, x.synced)) = some (s.aon, none, true)
          ∧ t.tile = s.tile ∧ t.counters = s.counters ∧ t.graphs = s.graphs)
      ∧ (f.typ = 3 → s.txOf f = none → exec .ack s = .next (s.setRelay { s.relay with inbox := l }))
      ∧ (∀ (i : Nat) (x : TxPair), f.typ = 4 → bits f.word 0 8 = 1 → s.txOf f = some i → s.relay.tx[i]? = some x → x.waitUntil = none →
        s.transmits = true →
        ∃ t, exec .nack s = .next t ∧ t.relay.log = s.relay.log ∧ t.tile = s.tile ∧ t.graphs = s.graphs
          ∧ t.fld F.resendCnt = Nat.min (2 ^ 32 - 1) (s.fld F.resendCnt
              + (s.relay.log.filter (fun l => l.pair == i && l.sent && seqReached l.frame.pairSeq f.pairSeq)).length))
      ∧ (∀ (g : LogFrame) (x : TxPair), f.typ = 4 → s.nacked f = some g → s.relay.tx[g.pair]? = some x →
        (bits f.word 0 8 = 4 →
          ∃ t, exec .nack s = .next t ∧ t.relay.log = s.relay.log ∧ t.regs = s.regs ∧ t.graphs = s.graphs
            ∧ (t.relay.tx[g.pair]?).map (fun x => (x.waitUntil, x.nack4, x.back)) = some (some (s.aon + 1000000), true, f.pairSeq))
        ∧ (bits f.word 0 8 = 5 →
          ∃ t, exec .nack s = .next t ∧ t.tile = s.tile ∧ t.graphs = s.graphs
            ∧ t.relay.log.length = s.relay.log.length
                + (if (s.relay.log.find? (·.pair == g.pair)).any (·.frame.typ == 2) then 0 else 1)
            ∧ (t.relay.tx[g.pair]?).map (·.nextSeq) = some ((x.nextSeq + (s.relay.log.filter (·.pair == g.pair)).length
                + (if (s.relay.log.find? (·.pair == g.pair)).any (·.frame.typ == 2) then 0 else 1)) % 2 ^ 24))
        ∧ (∀ p : Prog, g.chan < 64 → (s.chan g.chan).prog = some p → p.g = g.g → p.n = g.n → (p.ended = false ∨ p.status < 0x10) →
          ((bits f.word 0 8 = 2 ∨ bits f.word 0 8 = 3 ∨ bits f.word 0 8 = 9) →
            ∃ t, exec .nack s = .next t ∧ t.relay.log = s.relay.log.filter (·.pair != g.pair)
              ∧ (t.relay.tx[g.pair]?).map (·.synced) = some false ∧ t.fld (F.chState g.chan) = 7 ∧ t.tile = s.tile
              ∧ (t.chan g.chan).prog.any (fun q => q.ended && q.status == 0x1C && q.detail == 0x0B) = true)
          ∧ ((bits f.word 0 8 = 7 ∨ bits f.word 0 8 = 8) →
            ∃ t, exec .nack s = .next t ∧ t.relay.log = s.relay.log ∧ t.fld (F.chState g.chan) = 7 ∧ t.tile = s.tile
              ∧ (t.chan g.chan).prog.any (fun q => q.ended && q.status == 0x15) = true)))
      ∧ (∀ (i : Nat) (x : TxPair), f.typ = 5 → s.txOf f = some i → s.relay.tx[i]? = some x → x.waitUntil = none → s.rep.size = 0 →
        s.relay.log.any (fun l => l.pair == i && l.sent && l.frame.pairSeq == f.pairSeq) = true →
        ∃ t, exec .notReady s = .next t ∧ t.relay.log = s.relay.log ∧ t.relay.inbox = l ∧ t.regs = s.regs ∧ t.aon = s.aon
          ∧ (t.relay.tx[i]?).any (fun y => y.nack4 == false && y.back == f.pairSeq && y.waitUntil.any (fun u =>
              s.aon + 1000 * f.word ≤ u && u ≤ s.aon + 2000 * f.word)) = true)
      ∧ (∀ (i : Nat) (x : TxPair), f.typ = 6 → s.relay.tx[i]? = some x → x.dstChip = f.srcChip → x.waitUntil.isSome = true → x.nack4 = false →
        ∃ t, exec .ready s = .next t ∧ t.relay.log = s.relay.log ∧ t.relay.inbox = l ∧ t.regs = s.regs ∧ t.aon = s.aon
          ∧ (t.relay.tx[i]?).any (fun y => y.nrSince.isNone && y.waitUntil.any (fun u => s.aon ≤ u && u ≤ s.aon + 64000)) = true))
    ∧ (∀ (i : Nat) (x : RxPair), s.relay.rx[i]? = some x → 0 < x.unacked →
      ∃ t, exec (.ackDelayTimeout i) s = .next t ∧ t.aon = Nat.max s.aon (x.accAt + 1000)
        ∧ (t.relay.rx[i]?).map (fun y => (y.unacked, y.expected)) = some (0, x.expected) ∧ t.tile = s.tile ∧ t.counters = s.counters)
    ∧ (∀ (i : Nat) (x : TxPair), s.relay.tx[i]? = some x →
      (x.waitUntil = none → s.transmits = true → s.relay.log.any (fun l => l.pair == i && l.sent) = true →
        ∃ t, exec (.ackTimeout i) s = .next t ∧ t.aon = Nat.max s.aon (x.adv + 1000 * s.fld F.ackTimeout) ∧ t.relay.log = s.relay.log
          ∧ (t.relay.tx[i]?).map (·.adv) = some t.aon
          ∧ t.fld F.resendCnt = Nat.min (2 ^ 32 - 1) (s.fld F.resendCnt
              + (s.relay.log.filter (fun l => l.pair == i && l.sent)).length))
      ∧ (∀ u : Nat, x.waitUntil = some u →
        (x.nack4 = true → ∃ t, exec (.nackRetryTimeout i) s = .next t ∧ t.aon = Nat.max s.aon u
          ∧ (t.relay.tx[i]?).map (·.waitUntil) = some none ∧ t.tile = s.tile ∧ t.graphs = s.graphs)
        ∧ (x.nack4 = false → ∃ t, exec (.retryAfterExpiry i) s = .next t ∧ t.aon = Nat.max s.aon u
          ∧ (t.relay.tx[i]?).map (·.waitUntil) = some none ∧ t.tile = s.tile ∧ t.graphs = s.graphs))
      ∧ (∀ u : Nat, x.nrSince = some u → s.powerTo = none →
        ∃ t, exec (.nrLimitTimeout i) s = .next t ∧ t.aon = Nat.max s.aon (u + 1000000 * s.fld (F.nrLimit x.srcTenant))
          ∧ (t.relay.tx[i]?).map (·.nrSince) = some none ∧ t.tile = s.tile ∧ t.counters = s.counters))

/-- DIGEST, HEARTBEAT, HEARTBEAT_PERIOD, VERDICT, ACK_REPORT, MEMBER_LOST_TIMEOUT, MEMBER_OUT, AUDIT_COMPLETE (R331, R397, R398, R399,
R400, R401). DIGEST keeps a member's digest and lets an agreed interval pass; HEARTBEAT keeps the member's state; VERDICT is kept, and
completed takes the members out with the next generation; ACK_REPORT frees the log; HEARTBEAT_PERIOD sends one frame a partner;
MEMBER_LOST_TIMEOUT, MEMBER_OUT and AUDIT_COMPLETE take members out, update the table, or pass the interval. -/
def Obligations.ReplicaProtocol : Prop :=
  ∀ (s : State),
    (∀ (f : Frame) (l : List Frame) (m : Nat), s.engines = true → s.inGroup = true → s.relay.inbox = f :: l → f.typ = 7 →
      bits (fieldAt f.payload 0 1) 4 2 = m → fieldAt f.payload 2 2 = s.rep.groupId → s.partners.contains m = true →
      -- a digest of an interval that this chip has not ended yet is kept
      (bits (fieldAt f.payload 0 1) 0 4 = 0 → s.rep.intervals = [] →
        ∃ t, exec .digest s = .next t ∧ t.relay.inbox = l ∧ t.tile = s.tile ∧ t.regs = s.regs ∧ t.coll = s.coll
          ∧ t.rep.lastHeard.find? (·.1 == m) = some (m, s.aon)
          ∧ t.rep.intervals = [({ t := bits (fieldAt f.payload 8 1) 0 3, own := none, seq := BitVec.ofNat 32 (fieldAt f.payload 12 4),
                                  num := fieldAt f.payload 20 2, digests := [(m, ⟨BitVec.ofNat 64 (fieldAt f.payload 22 8), BitVec.ofNat 32 (fieldAt f.payload 30 4),
                bit (fieldAt f.payload 34 1) 0, bit (fieldAt f.payload 34 1) 1⟩)] } : Interval)])
      -- the digest that makes two members' agree lets the interval pass
      ∧ (∀ (v : Interval) (d : Digest), bits (fieldAt f.payload 0 1) 0 4 = 0 → s.rep.intervals = [v] →
        v.is (bits (fieldAt f.payload 8 1) 0 3) (BitVec.ofNat 32 (fieldAt f.payload 12 4)) (fieldAt f.payload 20 2) = true →
        v.own.isSome = true → v.audit = false → v.digests = [(s.rep.member, d)] → d.failed = false → s.svcMembers.length = 2 →
        s.svcMembers.contains s.rep.member = true →
        d.sum.toNat = fieldAt f.payload 22 8 → d.cnt.toNat = fieldAt f.payload 30 4 → bit (fieldAt f.payload 34 1) 0 = false →
        ∃ t, exec .digest s = .next t ∧ t.rep.intervals = [] ∧ t.rep.inService = s.rep.inService ∧ t.tile = s.tile
          ∧ t.coll = s.coll)
      ∧ (bits (fieldAt f.payload 0 1) 0 4 = 1 →
        ∃ t, exec .heartbeat s = .next t ∧ t.relay.inbox = l ∧ t.regs = s.regs ∧ t.coll = s.coll ∧ t.tile = s.tile
          ∧ t.rep.lastHeard.find? (·.1 == m) = some (m, s.aon)
          ∧ t.rep.stalled.find? (·.1 == m) = some (m, bit (fieldAt f.payload 34 1) 2))
      -- a verdict alone is kept; the one that completes it takes the members out
      ∧ (bits (fieldAt f.payload 0 1) 0 4 = 2 → s.rep.verdicts = [] → bit (bits (fieldAt f.payload 35 1) 0 3) s.rep.member = false →
        s.svcMembers.contains s.rep.member = true → m ≠ s.rep.member →
        ∃ t, exec .verdict s = .next t ∧ t.rep.verdicts = [(m, bits (fieldAt f.payload 35 1) 0 3)] ∧ t.rep.inService = s.rep.inService
          ∧ t.regs = s.regs ∧ t.coll = s.coll)
      ∧ (bits (fieldAt f.payload 0 1) 0 4 = 2 → s.rep.verdicts = [(s.rep.member, bits (fieldAt f.payload 35 1) 0 3)] →
        s.rep.size = 3 → s.rep.member < 3 → s.rep.inService = 7 → m ≠ s.rep.member →
        bits (fieldAt f.payload 35 1) 0 3 = 7 - 2 ^ m - 2 ^ s.rep.member →
        ∃ t, exec .verdict s = .next t ∧ t.rep.inService.toNat = 2 ^ m + 2 ^ s.rep.member ∧ t.rep.gen = s.rep.gen + 1
          ∧ t.rep.verdicts = [] ∧ t.coll = s.coll)
      -- what the active member has had acknowledged leaves the log
      ∧ (∀ i : Nat, bits (fieldAt f.payload 0 1) 0 4 = 4 → fieldAt f.payload 36 1 = 1 →
        s.txIdx (bits (fieldAt f.payload 44 8) 15 3) (bits (fieldAt f.payload 44 8) 0 12) (bits (fieldAt f.payload 44 8) 12 3)
          (bits (fieldAt f.payload 44 8) 18 16) = some i →
        ∃ t, exec .ackReport s = .next t ∧ t.relay.log = s.relay.log.filter (fun l =>
            !(l.pair == i && seqReached (bits (fieldAt f.payload 44 8) 34 24) l.frame.pairSeq)) ∧ t.tile = s.tile ∧ t.graphs = s.graphs))
    ∧ (∀ (m : Nat), s.engines = true → s.inGroup = true → s.partners = [m] → s.rep.members.getD m 0 ≠ s.self →
      ∃ t, exec .heartbeatPeriod s = .next t ∧ t.rep = s.rep ∧ t.regs = s.regs ∧ t.graphs = s.graphs ∧ t.tile = s.tile
        ∧ (t.port (s.choosePort none (s.rep.members.getD m 0) 0).1).outQ.length
          = (s.port (s.choosePort none (s.rep.members.getD m 0) 0).1).outQ.length + 1)
    ∧ (∀ (m : Fin 3) (since : Nat), s.engines = true → s.inGroup = true → s.partners = [m.val] → s.rep.verdicts = [] →
      s.rep.lastHeard.find? (·.1 == m.val) = some (m.val, since) → s.collUp = true → s.pins.clkRun = true → s.eclipsed 0xEF = false →
      (∀ f ∈ s.coll.faults, f.unit ≠ 0xEF) → s.coll.iq.length ≤ 250 →
      ∃ t, exec (.memberLostTimeout m) s = .next t ∧ t.aon = Nat.max s.aon (since + 30000) ∧ bit t.rep.inService.toNat m = false
        ∧ t.rep.gen = s.rep.gen + 1 ∧ (∃ f ∈ t.coll.faults, f.unit = 0xEF ∧ f.cause = 0x71))
    ∧ (∀ (arr : Option Nat) (f : Frame) (l : List (Option Nat × Frame)), s.pins.aonRstN = true → s.relay.notices = (arr, f) :: l →
      (serialBelow 32 (s.fld (F.fabGen (bits (fieldAt f.payload 2 2) 0 12))) (fieldAt f.payload 4 4) = false →
        exec .memberOut s = .next (s.setRelay { s.relay with notices := l }))
      ∧ (serialBelow 32 (s.fld (F.fabGen (bits (fieldAt f.payload 2 2) 0 12))) (fieldAt f.payload 4 4) = true → s.rep.size = 0 →
        ∃ t, exec .memberOut s = .next t ∧ t.relay.notices = l ∧ t.fld (F.fabGen (bits (fieldAt f.payload 2 2) 0 12)) = fieldAt f.payload 4 4
          ∧ t.coll = s.coll ∧ t.tile = s.tile)
      ∧ (serialBelow 32 (s.fld (F.fabGen (bits (fieldAt f.payload 2 2) 0 12))) (fieldAt f.payload 4 4) = true → s.rep.size ≠ 0 →
        s.rep.out = false → s.rep.groupId = bits (fieldAt f.payload 2 2) 0 12 → bit (bits (fieldAt f.payload 35 1) 0 3) s.rep.member = true →
        s.collUp = true → s.pins.clkRun = true → s.eclipsed 0xEF = false → (∀ f ∈ s.coll.faults, f.unit ≠ 0xEF) →
        ∃ t, exec .memberOut s = .next t ∧ t.rep.out = true ∧ t.rep.gen.toNat = fieldAt f.payload 4 4
          ∧ (∃ f ∈ t.coll.faults, f.unit = 0xEF ∧ f.cause = 0x73)))
    ∧ (∀ (ours : List Byte) (evidence : Bool) (others : List (Nat × List Byte × Bool)) (v : Interval), s.engines = true → s.inGroup = true →
      s.rep.intervals.find? (·.audit) = some v →
      -- an interval of no node of this chip, or of one that cannot run again, is not audited
      (v.own = none → s.collUp = true → s.pins.clkRun = true → s.eclipsed 0xEF = false → (∀ f ∈ s.coll.faults, f.unit ≠ 0xEF) →
        ∃ t, exec (.auditComplete ours evidence others) s = .next t ∧ (∃ f ∈ t.coll.faults, f.unit = 0xEF ∧ f.cause = 0x72))
      -- the second run agrees everywhere, and with this chip's first: the interval passes
      ∧ (∀ (g n : Nat) (nd : Node), v.own = some (g, n) → s.node g n = some nd → nd.atomic = false → nd.selfRw = false →
        (∀ o ∈ others, slice o.2.1 0 12 = slice ours 0 12) →
        (v.digests.find? (·.1 == s.rep.member)).map (fun d => leBytes 8 d.2.sum.toNat ++ leBytes 4 d.2.cnt.toNat) = some (slice ours 0 12) →
        ∃ t, exec (.auditComplete ours evidence others) s = .next t
          ∧ t.rep.intervals = s.rep.intervals.filter (fun j => !j.is v.t v.seq v.num) ∧ t.rep.inService = s.rep.inService ∧ t.coll = s.coll
          ∧ (t.node g n).map (·.rep) = some (nd.rep + 1) ∧ t.tile = s.tile))
end

