-- ==== Sys2Proof/Laws/Sparse.lean ====
section
/-! SUPPORT. Laws of the sparse stores: what a store reads as after a write, and that every operation keeps the canonical form. -/

namespace Sys2Proof.Machine.Sparse

variable {α : Type} {d : Nat → α} {l : List (Nat × α)} {k j : Nat} {v : α}

theorem rising_iff : rising l = true ↔ l.Pairwise (fun a b => a.1 < b.1) := by
  induction l with
  | nil => simp [rising]
  | cons a l ih =>
    cases l with
    | nil => simp [rising]
    | cons b l =>
      simp only [rising, Bool.and_eq_true, decide_eq_true_eq, ih, List.pairwise_cons]
      constructor
      · rintro ⟨h, hb, hl⟩
        refine ⟨?_, hb, hl⟩
        intro x hx
        rcases List.mem_cons.1 hx with rfl | hx
        · exact h
        · exact Nat.lt_trans h (hb x hx)
      · rintro ⟨ha, hb, hl⟩
        exact ⟨ha b (by simp), hb, hl⟩

theorem wf_iff [DecidableEq α] : wf d l = true ↔ l.Pairwise (fun a b => a.1 < b.1) ∧ ∀ e ∈ l, e.2 ≠ d e.1 := by
  simp [wf, rising_iff]

theorem wf_nil [DecidableEq α] : wf d [] = true := rfl

theorem wf_filter [DecidableEq α] (p : Nat × α → Bool) (h : wf d l = true) : wf d (l.filter p) = true := by
  rw [wf_iff] at h ⊢
  exact ⟨h.1.filter p, fun e he => h.2 e (List.mem_filter.1 he).1⟩

theorem wf_del [DecidableEq α] (h : wf d l = true) : wf d (del l k) = true := wf_filter _ h

theorem mem_ins {e : Nat × α} : e ∈ ins k v l ↔ e = (k, v) ∨ e ∈ l := by
  induction l with
  | nil => simp [ins]
  | cons a l ih =>
    simp only [ins]
    split
    · simp
    · simp only [List.mem_cons, ih]
      constructor
      · rintro (h | h | h) <;> simp [h]
      · rintro (h | h | h) <;> simp [h]

theorem ins_pairwise (hk : ∀ e ∈ l, e.1 ≠ k) (h : l.Pairwise (fun a b => a.1 < b.1)) :
    (ins k v l).Pairwise (fun a b => a.1 < b.1) := by
  induction l with
  | nil => simp [ins]
  | cons a l ih =>
    simp only [ins]
    have h' := List.pairwise_cons.1 h
    split
    · rename_i hlt
      refine List.pairwise_cons.2 ⟨?_, h⟩
      intro e he
      rcases List.mem_cons.1 he with rfl | he
      · exact hlt
      · exact Nat.lt_trans hlt (h'.1 e he)
    · rename_i hge
      have hne : a.1 ≠ k := hk a (by simp)
      refine List.pairwise_cons.2 ⟨?_, ih (fun e he => hk e (by simp [he])) h'.2⟩
      intro e he
      rcases mem_ins.1 he with rfl | he
      · show a.1 < k
        have : ¬ k < a.1 := hge
        omega
      · exact h'.1 e he

/-- Changing values, none of them to what an unlisted key reads as, keeps the canonical form. -/
theorem wf_map [DecidableEq α] {g : Nat × α → α} (h : wf d l = true) (hg : ∀ e, e.2 ≠ d e.1 → g e ≠ d e.1) :
    wf d (l.map (fun e => (e.1, g e))) = true := by
  rw [wf_iff] at h ⊢
  refine ⟨List.pairwise_map.2 h.1, fun e he => ?_⟩
  obtain ⟨x, hx, rfl⟩ := List.mem_map.1 he
  exact hg x (h.2 x hx)

/-- A write keeps the canonical form. -/
theorem wf_set [DecidableEq α] (h : wf d l = true) : wf d (set d l k v) = true := by
  unfold set
  split
  · exact wf_del h
  · rename_i hv
    have hd := wf_del (k := k) h
    rw [wf_iff] at hd ⊢
    refine ⟨ins_pairwise (fun e he => ?_) hd.1, fun e he => ?_⟩
    · have := (List.mem_filter.1 he).2
      simpa using this
    · rcases mem_ins.1 he with rfl | he
      · exact hv
      · exact hd.2 e he

theorem get_ins (hk : ∀ e ∈ l, e.1 ≠ k) : get d (ins k v l) j = if k = j then v else get d l j := by
  induction l with
  | nil => simp [ins, get]
  | cons a l ih =>
    simp only [ins]
    split
    · simp [get]
    · have hne : a.1 ≠ k := hk a (by simp)
      simp only [get, ih (fun e he => hk e (by simp [he]))]
      by_cases h1 : a.1 = j
      · have : k ≠ j := fun h => hne (h1.trans h.symm)
        simp [h1, this]
      · simp [h1]

theorem get_del : get d (del l k) j = if k = j then d j else get d l j := by
  induction l with
  | nil => simp [del, get]
  | cons a l ih =>
    unfold del at ih ⊢
    by_cases h : a.1 = k
    · have : ((a :: l).filter fun e => e.1 != k) = l.filter fun e => e.1 != k := by simp [h]
      rw [this, ih]
      by_cases hj : k = j
      · simp [hj]
      · have : a.1 ≠ j := fun e => hj (h.symm.trans e)
        simp [hj, get, this]
    · have : ((a :: l).filter fun e => e.1 != k) = a :: l.filter fun e => e.1 != k := by simp [h]
      rw [this]
      by_cases hj : a.1 = j
      · have : k ≠ j := fun e => h (hj.trans e.symm)
        simp [get, hj, this]
      · rw [get, if_neg hj, ih, get, if_neg hj]

/-- A read after a write: the value written at its key, everything else as before. -/
theorem get_set [DecidableEq α] : get d (set d l k v) j = if k = j then v else get d l j := by
  unfold set
  split
  · rename_i hv
    rw [get_del]
    by_cases h : k = j
    · simp [h, hv]
    · simp [h]
  · rw [get_ins, get_del]
    · by_cases h : k = j <;> simp [h]
    · intro e he
      have := (List.mem_filter.1 he).2
      simpa using this

@[simp] theorem get_set_self [DecidableEq α] : get d (set d l k v) k = v := by simp [get_set]

theorem get_set_ne [DecidableEq α] (h : k ≠ j) : get d (set d l k v) j = get d l j := by simp [get_set, h]

end Sys2Proof.Machine.Sparse
end

