-- ==== Sys2Proof/Laws/State.lean ====
section
/-! SUPPORT. What each update of the state leaves as it is: one equation for each field that the update does not write (a
conjunction, which the simplifier takes apart), so that no later proof unfolds a record update. -/

namespace Sys2Proof.Machine

variable (s : State)

/-- The part written reads as written. -/
@[simp] theorem State.setColl_coll (x : Coll) : (s.setColl x).coll = x := rfl

/-- The part written reads as written. -/
@[simp] theorem State.setRelay_relay (x : Relay) : (s.setRelay x).relay = x := rfl

/-- The part written reads as written. -/
@[simp] theorem State.setRep_rep (x : Replica) : (s.setRep x).rep = x := rfl

/-- The part written reads as written. -/
@[simp] theorem State.setMer_mer (x : Meridian) : (s.setMer x).mer = x := rfl

/-- The part written reads as written. -/
@[simp] theorem State.setPins_pins (x : Pins) : (s.setPins x).pins = x := rfl

/-- `setReg` changes `regs` alone. -/
@[simp] theorem State.setReg_frame (off : Nat) (v : W64)  :
    (s.setReg off v).phase = s.phase ∧ (s.setReg off v).pins = s.pins ∧ (s.setReg off v).aon = s.aon ∧
    (s.setReg off v).tc = s.tc ∧ (s.setReg off v).retained = s.retained ∧ (s.setReg off v).tmLost = s.tmLost ∧
    (s.setReg off v).bringAt = s.bringAt ∧ (s.setReg off v).coreLock = s.coreLock ∧ (s.setReg off v).heldAcc = s.heldAcc ∧
    (s.setReg off v).captured = s.captured ∧ (s.setReg off v).msgWait = s.msgWait ∧ (s.setReg off v).txns = s.txns ∧
    (s.setReg off v).sys = s.sys ∧ (s.setReg off v).badRd = s.badRd ∧ (s.setReg off v).derived = s.derived ∧
    (s.setReg off v).tile = s.tile ∧ (s.setReg off v).ecc = s.ecc ∧ (s.setReg off v).counters = s.counters ∧
    (s.setReg off v).scrubRow = s.scrubRow ∧ (s.setReg off v).clears = s.clears ∧ (s.setReg off v).credit = s.credit ∧
    (s.setReg off v).ctxs = s.ctxs ∧ (s.setReg off v).nextEntry = s.nextEntry ∧ (s.setReg off v).fetchTenant = s.fetchTenant ∧
    (s.setReg off v).grantFirst = s.grantFirst ∧ (s.setReg off v).grantUsed = s.grantUsed ∧ (s.setReg off v).graphs = s.graphs ∧
    (s.setReg off v).chans = s.chans ∧ (s.setReg off v).waits = s.waits ∧ (s.setReg off v).poison = s.poison ∧
    (s.setReg off v).cpu = s.cpu ∧ (s.setReg off v).upsets = s.upsets ∧ (s.setReg off v).tileOld = s.tileOld ∧
    (s.setReg off v).tileNo = s.tileNo ∧ (s.setReg off v).ctrNow = s.ctrNow ∧ (s.setReg off v).owed = s.owed ∧
    (s.setReg off v).grantNow = s.grantNow ∧ (s.setReg off v).vsOwners = s.vsOwners ∧ (s.setReg off v).readyNo = s.readyNo ∧
    (s.setReg off v).tlb = s.tlb ∧ (s.setReg off v).ptrs = s.ptrs ∧ (s.setReg off v).walks = s.walks ∧
    (s.setReg off v).pfaults = s.pfaults ∧ (s.setReg off v).wc = s.wc ∧ (s.setReg off v).wcFills = s.wcFills ∧
    (s.setReg off v).eclWait = s.eclWait ∧ (s.setReg off v).reenter = s.reenter ∧ (s.setReg off v).copies = s.copies ∧
    (s.setReg off v).powerTo = s.powerTo ∧ (s.setReg off v).heldSince = s.heldSince ∧ (s.setReg off v).epochNo = s.epochNo ∧
    (s.setReg off v).admitted = s.admitted ∧ (s.setReg off v).coll = s.coll ∧ (s.setReg off v).relay = s.relay ∧
    (s.setReg off v).rep = s.rep ∧ (s.setReg off v).mer = s.mer ∧ (s.setReg off v).free = s.free ∧
    (s.setReg off v).pending = s.pending ∧ (∀ k, (s.setReg off v).ctx k = s.ctx k) ∧ (∀ k, (s.setReg off v).chan k = s.chan k) ∧
    (∀ k, (s.setReg off v).port k = s.port k) ∧ (∀ k, (s.setReg off v).base k = s.base k) ∧
    (∀ k, (s.setReg off v).counter k = s.counter k) ∧ (∀ k, (s.setReg off v).graph k = s.graph k) ∧
    (∀ k l, (s.setReg off v).node k l = s.node k l) ∧ (∀ k, (s.setReg off v).tileByte k = s.tileByte k) ∧
    (∀ k, (s.setReg off v).sysByte k = s.sysByte k) ∧ (∀ k l, (s.setReg off v).creditOf k l = s.creditOf k l) ∧
    (s.setReg off v).engines = s.engines ∧ (s.setReg off v).granting = s.granting ∧ (∀ k, (s.setReg off v).vsOwn k = s.vsOwn k) ∧
    (∀ k, (s.setReg off v).owes k = s.owes k) := by
  repeat' first | rfl | apply And.intro | intro _

/-- `setFld` changes `regs` alone. -/
@[simp] theorem State.setFld_frame (f : Fld) (v : Nat)  :
    (s.setFld f v).phase = s.phase ∧ (s.setFld f v).pins = s.pins ∧ (s.setFld f v).aon = s.aon ∧ (s.setFld f v).tc = s.tc ∧
    (s.setFld f v).retained = s.retained ∧ (s.setFld f v).tmLost = s.tmLost ∧ (s.setFld f v).bringAt = s.bringAt ∧
    (s.setFld f v).coreLock = s.coreLock ∧ (s.setFld f v).heldAcc = s.heldAcc ∧ (s.setFld f v).captured = s.captured ∧
    (s.setFld f v).msgWait = s.msgWait ∧ (s.setFld f v).txns = s.txns ∧ (s.setFld f v).sys = s.sys ∧
    (s.setFld f v).badRd = s.badRd ∧ (s.setFld f v).derived = s.derived ∧ (s.setFld f v).tile = s.tile ∧
    (s.setFld f v).ecc = s.ecc ∧ (s.setFld f v).counters = s.counters ∧ (s.setFld f v).scrubRow = s.scrubRow ∧
    (s.setFld f v).clears = s.clears ∧ (s.setFld f v).credit = s.credit ∧ (s.setFld f v).ctxs = s.ctxs ∧
    (s.setFld f v).nextEntry = s.nextEntry ∧ (s.setFld f v).fetchTenant = s.fetchTenant ∧
    (s.setFld f v).grantFirst = s.grantFirst ∧ (s.setFld f v).grantUsed = s.grantUsed ∧ (s.setFld f v).graphs = s.graphs ∧
    (s.setFld f v).chans = s.chans ∧ (s.setFld f v).waits = s.waits ∧ (s.setFld f v).poison = s.poison ∧
    (s.setFld f v).cpu = s.cpu ∧ (s.setFld f v).upsets = s.upsets ∧ (s.setFld f v).tileOld = s.tileOld ∧
    (s.setFld f v).tileNo = s.tileNo ∧ (s.setFld f v).ctrNow = s.ctrNow ∧ (s.setFld f v).owed = s.owed ∧
    (s.setFld f v).grantNow = s.grantNow ∧ (s.setFld f v).vsOwners = s.vsOwners ∧ (s.setFld f v).readyNo = s.readyNo ∧
    (s.setFld f v).tlb = s.tlb ∧ (s.setFld f v).ptrs = s.ptrs ∧ (s.setFld f v).walks = s.walks ∧
    (s.setFld f v).pfaults = s.pfaults ∧ (s.setFld f v).wc = s.wc ∧ (s.setFld f v).wcFills = s.wcFills ∧
    (s.setFld f v).eclWait = s.eclWait ∧ (s.setFld f v).reenter = s.reenter ∧ (s.setFld f v).copies = s.copies ∧
    (s.setFld f v).powerTo = s.powerTo ∧ (s.setFld f v).heldSince = s.heldSince ∧ (s.setFld f v).epochNo = s.epochNo ∧
    (s.setFld f v).admitted = s.admitted ∧ (s.setFld f v).coll = s.coll ∧ (s.setFld f v).relay = s.relay ∧
    (s.setFld f v).rep = s.rep ∧ (s.setFld f v).mer = s.mer ∧ (s.setFld f v).free = s.free ∧ (s.setFld f v).pending = s.pending ∧
    (∀ k, (s.setFld f v).ctx k = s.ctx k) ∧ (∀ k, (s.setFld f v).chan k = s.chan k) ∧ (∀ k, (s.setFld f v).port k = s.port k) ∧
    (∀ k, (s.setFld f v).base k = s.base k) ∧ (∀ k, (s.setFld f v).counter k = s.counter k) ∧
    (∀ k, (s.setFld f v).graph k = s.graph k) ∧ (∀ k l, (s.setFld f v).node k l = s.node k l) ∧
    (∀ k, (s.setFld f v).tileByte k = s.tileByte k) ∧ (∀ k, (s.setFld f v).sysByte k = s.sysByte k) ∧
    (∀ k l, (s.setFld f v).creditOf k l = s.creditOf k l) ∧ (s.setFld f v).engines = s.engines ∧
    (s.setFld f v).granting = s.granting ∧ (∀ k, (s.setFld f v).vsOwn k = s.vsOwn k) ∧
    (∀ k, (s.setFld f v).owes k = s.owes k) := by
  repeat' first | rfl | apply And.intro | intro _

/-- `sat` changes `regs` alone. -/
@[simp] theorem State.sat_frame (f : Fld) (n : Nat)  :
    (s.sat f n).phase = s.phase ∧ (s.sat f n).pins = s.pins ∧ (s.sat f n).aon = s.aon ∧ (s.sat f n).tc = s.tc ∧
    (s.sat f n).retained = s.retained ∧ (s.sat f n).tmLost = s.tmLost ∧ (s.sat f n).bringAt = s.bringAt ∧
    (s.sat f n).coreLock = s.coreLock ∧ (s.sat f n).heldAcc = s.heldAcc ∧ (s.sat f n).captured = s.captured ∧
    (s.sat f n).msgWait = s.msgWait ∧ (s.sat f n).txns = s.txns ∧ (s.sat f n).sys = s.sys ∧ (s.sat f n).badRd = s.badRd ∧
    (s.sat f n).derived = s.derived ∧ (s.sat f n).tile = s.tile ∧ (s.sat f n).ecc = s.ecc ∧ (s.sat f n).counters = s.counters ∧
    (s.sat f n).scrubRow = s.scrubRow ∧ (s.sat f n).clears = s.clears ∧ (s.sat f n).credit = s.credit ∧
    (s.sat f n).ctxs = s.ctxs ∧ (s.sat f n).nextEntry = s.nextEntry ∧ (s.sat f n).fetchTenant = s.fetchTenant ∧
    (s.sat f n).grantFirst = s.grantFirst ∧ (s.sat f n).grantUsed = s.grantUsed ∧ (s.sat f n).graphs = s.graphs ∧
    (s.sat f n).chans = s.chans ∧ (s.sat f n).waits = s.waits ∧ (s.sat f n).poison = s.poison ∧ (s.sat f n).cpu = s.cpu ∧
    (s.sat f n).upsets = s.upsets ∧ (s.sat f n).tileOld = s.tileOld ∧ (s.sat f n).tileNo = s.tileNo ∧
    (s.sat f n).ctrNow = s.ctrNow ∧ (s.sat f n).owed = s.owed ∧ (s.sat f n).grantNow = s.grantNow ∧
    (s.sat f n).vsOwners = s.vsOwners ∧ (s.sat f n).readyNo = s.readyNo ∧ (s.sat f n).tlb = s.tlb ∧ (s.sat f n).ptrs = s.ptrs ∧
    (s.sat f n).walks = s.walks ∧ (s.sat f n).pfaults = s.pfaults ∧ (s.sat f n).wc = s.wc ∧ (s.sat f n).wcFills = s.wcFills ∧
    (s.sat f n).eclWait = s.eclWait ∧ (s.sat f n).reenter = s.reenter ∧ (s.sat f n).copies = s.copies ∧
    (s.sat f n).powerTo = s.powerTo ∧ (s.sat f n).heldSince = s.heldSince ∧ (s.sat f n).epochNo = s.epochNo ∧
    (s.sat f n).admitted = s.admitted ∧ (s.sat f n).coll = s.coll ∧ (s.sat f n).relay = s.relay ∧ (s.sat f n).rep = s.rep ∧
    (s.sat f n).mer = s.mer ∧ (s.sat f n).free = s.free ∧ (s.sat f n).pending = s.pending ∧ (∀ k, (s.sat f n).ctx k = s.ctx k) ∧
    (∀ k, (s.sat f n).chan k = s.chan k) ∧ (∀ k, (s.sat f n).port k = s.port k) ∧ (∀ k, (s.sat f n).base k = s.base k) ∧
    (∀ k, (s.sat f n).counter k = s.counter k) ∧ (∀ k, (s.sat f n).graph k = s.graph k) ∧
    (∀ k l, (s.sat f n).node k l = s.node k l) ∧ (∀ k, (s.sat f n).tileByte k = s.tileByte k) ∧
    (∀ k, (s.sat f n).sysByte k = s.sysByte k) ∧ (∀ k l, (s.sat f n).creditOf k l = s.creditOf k l) ∧
    (s.sat f n).engines = s.engines ∧ (s.sat f n).granting = s.granting ∧ (∀ k, (s.sat f n).vsOwn k = s.vsOwn k) ∧
    (∀ k, (s.sat f n).owes k = s.owes k) := by
  repeat' first | rfl | apply And.intro | intro _

/-- `wrap` changes `regs` alone. -/
@[simp] theorem State.wrap_frame (f : Fld) (n : Nat)  :
    (s.wrap f n).phase = s.phase ∧ (s.wrap f n).pins = s.pins ∧ (s.wrap f n).aon = s.aon ∧ (s.wrap f n).tc = s.tc ∧
    (s.wrap f n).retained = s.retained ∧ (s.wrap f n).tmLost = s.tmLost ∧ (s.wrap f n).bringAt = s.bringAt ∧
    (s.wrap f n).coreLock = s.coreLock ∧ (s.wrap f n).heldAcc = s.heldAcc ∧ (s.wrap f n).captured = s.captured ∧
    (s.wrap f n).msgWait = s.msgWait ∧ (s.wrap f n).txns = s.txns ∧ (s.wrap f n).sys = s.sys ∧ (s.wrap f n).badRd = s.badRd ∧
    (s.wrap f n).derived = s.derived ∧ (s.wrap f n).tile = s.tile ∧ (s.wrap f n).ecc = s.ecc ∧
    (s.wrap f n).counters = s.counters ∧ (s.wrap f n).scrubRow = s.scrubRow ∧ (s.wrap f n).clears = s.clears ∧
    (s.wrap f n).credit = s.credit ∧ (s.wrap f n).ctxs = s.ctxs ∧ (s.wrap f n).nextEntry = s.nextEntry ∧
    (s.wrap f n).fetchTenant = s.fetchTenant ∧ (s.wrap f n).grantFirst = s.grantFirst ∧ (s.wrap f n).grantUsed = s.grantUsed ∧
    (s.wrap f n).graphs = s.graphs ∧ (s.wrap f n).chans = s.chans ∧ (s.wrap f n).waits = s.waits ∧
    (s.wrap f n).poison = s.poison ∧ (s.wrap f n).cpu = s.cpu ∧ (s.wrap f n).upsets = s.upsets ∧
    (s.wrap f n).tileOld = s.tileOld ∧ (s.wrap f n).tileNo = s.tileNo ∧ (s.wrap f n).ctrNow = s.ctrNow ∧
    (s.wrap f n).owed = s.owed ∧ (s.wrap f n).grantNow = s.grantNow ∧ (s.wrap f n).vsOwners = s.vsOwners ∧
    (s.wrap f n).readyNo = s.readyNo ∧ (s.wrap f n).tlb = s.tlb ∧ (s.wrap f n).ptrs = s.ptrs ∧ (s.wrap f n).walks = s.walks ∧
    (s.wrap f n).pfaults = s.pfaults ∧ (s.wrap f n).wc = s.wc ∧ (s.wrap f n).wcFills = s.wcFills ∧
    (s.wrap f n).eclWait = s.eclWait ∧ (s.wrap f n).reenter = s.reenter ∧ (s.wrap f n).copies = s.copies ∧
    (s.wrap f n).powerTo = s.powerTo ∧ (s.wrap f n).heldSince = s.heldSince ∧ (s.wrap f n).epochNo = s.epochNo ∧
    (s.wrap f n).admitted = s.admitted ∧ (s.wrap f n).coll = s.coll ∧ (s.wrap f n).relay = s.relay ∧ (s.wrap f n).rep = s.rep ∧
    (s.wrap f n).mer = s.mer ∧ (s.wrap f n).free = s.free ∧ (s.wrap f n).pending = s.pending ∧
    (∀ k, (s.wrap f n).ctx k = s.ctx k) ∧ (∀ k, (s.wrap f n).chan k = s.chan k) ∧ (∀ k, (s.wrap f n).port k = s.port k) ∧
    (∀ k, (s.wrap f n).base k = s.base k) ∧ (∀ k, (s.wrap f n).counter k = s.counter k) ∧
    (∀ k, (s.wrap f n).graph k = s.graph k) ∧ (∀ k l, (s.wrap f n).node k l = s.node k l) ∧
    (∀ k, (s.wrap f n).tileByte k = s.tileByte k) ∧ (∀ k, (s.wrap f n).sysByte k = s.sysByte k) ∧
    (∀ k l, (s.wrap f n).creditOf k l = s.creditOf k l) ∧ (s.wrap f n).engines = s.engines ∧ (s.wrap f n).granting = s.granting ∧
    (∀ k, (s.wrap f n).vsOwn k = s.vsOwn k) ∧ (∀ k, (s.wrap f n).owes k = s.owes k) := by
  repeat' first | rfl | apply And.intro | intro _

/-- `setCtx` changes `ctxs` alone. -/
@[simp] theorem State.setCtx_frame (c : Nat) (x : Ctx)  :
    (s.setCtx c x).phase = s.phase ∧ (s.setCtx c x).pins = s.pins ∧ (s.setCtx c x).aon = s.aon ∧ (s.setCtx c x).tc = s.tc ∧
    (s.setCtx c x).retained = s.retained ∧ (s.setCtx c x).tmLost = s.tmLost ∧ (s.setCtx c x).bringAt = s.bringAt ∧
    (s.setCtx c x).coreLock = s.coreLock ∧ (s.setCtx c x).heldAcc = s.heldAcc ∧ (s.setCtx c x).captured = s.captured ∧
    (s.setCtx c x).msgWait = s.msgWait ∧ (s.setCtx c x).txns = s.txns ∧ (s.setCtx c x).regs = s.regs ∧
    (s.setCtx c x).sys = s.sys ∧ (s.setCtx c x).badRd = s.badRd ∧ (s.setCtx c x).derived = s.derived ∧
    (s.setCtx c x).tile = s.tile ∧ (s.setCtx c x).ecc = s.ecc ∧ (s.setCtx c x).counters = s.counters ∧
    (s.setCtx c x).scrubRow = s.scrubRow ∧ (s.setCtx c x).clears = s.clears ∧ (s.setCtx c x).credit = s.credit ∧
    (s.setCtx c x).nextEntry = s.nextEntry ∧ (s.setCtx c x).fetchTenant = s.fetchTenant ∧
    (s.setCtx c x).grantFirst = s.grantFirst ∧ (s.setCtx c x).grantUsed = s.grantUsed ∧ (s.setCtx c x).graphs = s.graphs ∧
    (s.setCtx c x).chans = s.chans ∧ (s.setCtx c x).waits = s.waits ∧ (s.setCtx c x).poison = s.poison ∧
    (s.setCtx c x).cpu = s.cpu ∧ (s.setCtx c x).upsets = s.upsets ∧ (s.setCtx c x).tileOld = s.tileOld ∧
    (s.setCtx c x).tileNo = s.tileNo ∧ (s.setCtx c x).ctrNow = s.ctrNow ∧ (s.setCtx c x).owed = s.owed ∧
    (s.setCtx c x).grantNow = s.grantNow ∧ (s.setCtx c x).vsOwners = s.vsOwners ∧ (s.setCtx c x).readyNo = s.readyNo ∧
    (s.setCtx c x).tlb = s.tlb ∧ (s.setCtx c x).ptrs = s.ptrs ∧ (s.setCtx c x).walks = s.walks ∧
    (s.setCtx c x).pfaults = s.pfaults ∧ (s.setCtx c x).wc = s.wc ∧ (s.setCtx c x).wcFills = s.wcFills ∧
    (s.setCtx c x).eclWait = s.eclWait ∧ (s.setCtx c x).reenter = s.reenter ∧ (s.setCtx c x).copies = s.copies ∧
    (s.setCtx c x).powerTo = s.powerTo ∧ (s.setCtx c x).heldSince = s.heldSince ∧ (s.setCtx c x).epochNo = s.epochNo ∧
    (s.setCtx c x).admitted = s.admitted ∧ (s.setCtx c x).coll = s.coll ∧ (s.setCtx c x).relay = s.relay ∧
    (s.setCtx c x).rep = s.rep ∧ (s.setCtx c x).mer = s.mer ∧ (s.setCtx c x).free = s.free ∧ (s.setCtx c x).pending = s.pending ∧
    (∀ o, (s.setCtx c x).reg o = s.reg o) ∧ (∀ f', (s.setCtx c x).fld f' = s.fld f') ∧ (∀ k, (s.setCtx c x).chan k = s.chan k) ∧
    (∀ k, (s.setCtx c x).port k = s.port k) ∧ (∀ k, (s.setCtx c x).base k = s.base k) ∧
    (∀ k, (s.setCtx c x).counter k = s.counter k) ∧ (∀ k, (s.setCtx c x).graph k = s.graph k) ∧
    (∀ k l, (s.setCtx c x).node k l = s.node k l) ∧ (∀ k, (s.setCtx c x).tileByte k = s.tileByte k) ∧
    (∀ k, (s.setCtx c x).sysByte k = s.sysByte k) ∧ (∀ k l, (s.setCtx c x).creditOf k l = s.creditOf k l) ∧
    (∀ k, (s.setCtx c x).eclipsed k = s.eclipsed k) ∧ (∀ k l, (s.setCtx c x).ctrOk k l = s.ctrOk k l) ∧
    (s.setCtx c x).engines = s.engines ∧ (s.setCtx c x).granting = s.granting ∧ (∀ k, (s.setCtx c x).vsOwn k = s.vsOwn k) ∧
    (∀ k, (s.setCtx c x).owes k = s.owes k) := by
  repeat' first | rfl | apply And.intro | intro _

/-- `modCtx` changes `ctxs` alone. -/
@[simp] theorem State.modCtx_frame (c : Nat) (f : Ctx → Ctx)  :
    (s.modCtx c f).phase = s.phase ∧ (s.modCtx c f).pins = s.pins ∧ (s.modCtx c f).aon = s.aon ∧ (s.modCtx c f).tc = s.tc ∧
    (s.modCtx c f).retained = s.retained ∧ (s.modCtx c f).tmLost = s.tmLost ∧ (s.modCtx c f).bringAt = s.bringAt ∧
    (s.modCtx c f).coreLock = s.coreLock ∧ (s.modCtx c f).heldAcc = s.heldAcc ∧ (s.modCtx c f).captured = s.captured ∧
    (s.modCtx c f).msgWait = s.msgWait ∧ (s.modCtx c f).txns = s.txns ∧ (s.modCtx c f).regs = s.regs ∧
    (s.modCtx c f).sys = s.sys ∧ (s.modCtx c f).badRd = s.badRd ∧ (s.modCtx c f).derived = s.derived ∧
    (s.modCtx c f).tile = s.tile ∧ (s.modCtx c f).ecc = s.ecc ∧ (s.modCtx c f).counters = s.counters ∧
    (s.modCtx c f).scrubRow = s.scrubRow ∧ (s.modCtx c f).clears = s.clears ∧ (s.modCtx c f).credit = s.credit ∧
    (s.modCtx c f).nextEntry = s.nextEntry ∧ (s.modCtx c f).fetchTenant = s.fetchTenant ∧
    (s.modCtx c f).grantFirst = s.grantFirst ∧ (s.modCtx c f).grantUsed = s.grantUsed ∧ (s.modCtx c f).graphs = s.graphs ∧
    (s.modCtx c f).chans = s.chans ∧ (s.modCtx c f).waits = s.waits ∧ (s.modCtx c f).poison = s.poison ∧
    (s.modCtx c f).cpu = s.cpu ∧ (s.modCtx c f).upsets = s.upsets ∧ (s.modCtx c f).tileOld = s.tileOld ∧
    (s.modCtx c f).tileNo = s.tileNo ∧ (s.modCtx c f).ctrNow = s.ctrNow ∧ (s.modCtx c f).owed = s.owed ∧
    (s.modCtx c f).grantNow = s.grantNow ∧ (s.modCtx c f).vsOwners = s.vsOwners ∧ (s.modCtx c f).readyNo = s.readyNo ∧
    (s.modCtx c f).tlb = s.tlb ∧ (s.modCtx c f).ptrs = s.ptrs ∧ (s.modCtx c f).walks = s.walks ∧
    (s.modCtx c f).pfaults = s.pfaults ∧ (s.modCtx c f).wc = s.wc ∧ (s.modCtx c f).wcFills = s.wcFills ∧
    (s.modCtx c f).eclWait = s.eclWait ∧ (s.modCtx c f).reenter = s.reenter ∧ (s.modCtx c f).copies = s.copies ∧
    (s.modCtx c f).powerTo = s.powerTo ∧ (s.modCtx c f).heldSince = s.heldSince ∧ (s.modCtx c f).epochNo = s.epochNo ∧
    (s.modCtx c f).admitted = s.admitted ∧ (s.modCtx c f).coll = s.coll ∧ (s.modCtx c f).relay = s.relay ∧
    (s.modCtx c f).rep = s.rep ∧ (s.modCtx c f).mer = s.mer ∧ (s.modCtx c f).free = s.free ∧ (s.modCtx c f).pending = s.pending ∧
    (∀ o, (s.modCtx c f).reg o = s.reg o) ∧ (∀ f', (s.modCtx c f).fld f' = s.fld f') ∧ (∀ k, (s.modCtx c f).chan k = s.chan k) ∧
    (∀ k, (s.modCtx c f).port k = s.port k) ∧ (∀ k, (s.modCtx c f).base k = s.base k) ∧
    (∀ k, (s.modCtx c f).counter k = s.counter k) ∧ (∀ k, (s.modCtx c f).graph k = s.graph k) ∧
    (∀ k l, (s.modCtx c f).node k l = s.node k l) ∧ (∀ k, (s.modCtx c f).tileByte k = s.tileByte k) ∧
    (∀ k, (s.modCtx c f).sysByte k = s.sysByte k) ∧ (∀ k l, (s.modCtx c f).creditOf k l = s.creditOf k l) ∧
    (∀ k, (s.modCtx c f).eclipsed k = s.eclipsed k) ∧ (∀ k l, (s.modCtx c f).ctrOk k l = s.ctrOk k l) ∧
    (s.modCtx c f).engines = s.engines ∧ (s.modCtx c f).granting = s.granting ∧ (∀ k, (s.modCtx c f).vsOwn k = s.vsOwn k) ∧
    (∀ k, (s.modCtx c f).owes k = s.owes k) := by
  repeat' first | rfl | apply And.intro | intro _

/-- `setChan` changes `chans` alone. -/
@[simp] theorem State.setChan_frame (n : Nat) (x : Chan)  :
    (s.setChan n x).phase = s.phase ∧ (s.setChan n x).pins = s.pins ∧ (s.setChan n x).aon = s.aon ∧ (s.setChan n x).tc = s.tc ∧
    (s.setChan n x).retained = s.retained ∧ (s.setChan n x).tmLost = s.tmLost ∧ (s.setChan n x).bringAt = s.bringAt ∧
    (s.setChan n x).coreLock = s.coreLock ∧ (s.setChan n x).heldAcc = s.heldAcc ∧ (s.setChan n x).captured = s.captured ∧
    (s.setChan n x).msgWait = s.msgWait ∧ (s.setChan n x).txns = s.txns ∧ (s.setChan n x).regs = s.regs ∧
    (s.setChan n x).sys = s.sys ∧ (s.setChan n x).badRd = s.badRd ∧ (s.setChan n x).derived = s.derived ∧
    (s.setChan n x).tile = s.tile ∧ (s.setChan n x).ecc = s.ecc ∧ (s.setChan n x).counters = s.counters ∧
    (s.setChan n x).scrubRow = s.scrubRow ∧ (s.setChan n x).clears = s.clears ∧ (s.setChan n x).credit = s.credit ∧
    (s.setChan n x).ctxs = s.ctxs ∧ (s.setChan n x).nextEntry = s.nextEntry ∧ (s.setChan n x).fetchTenant = s.fetchTenant ∧
    (s.setChan n x).grantFirst = s.grantFirst ∧ (s.setChan n x).grantUsed = s.grantUsed ∧ (s.setChan n x).graphs = s.graphs ∧
    (s.setChan n x).waits = s.waits ∧ (s.setChan n x).poison = s.poison ∧ (s.setChan n x).cpu = s.cpu ∧
    (s.setChan n x).upsets = s.upsets ∧ (s.setChan n x).tileOld = s.tileOld ∧ (s.setChan n x).tileNo = s.tileNo ∧
    (s.setChan n x).ctrNow = s.ctrNow ∧ (s.setChan n x).owed = s.owed ∧ (s.setChan n x).grantNow = s.grantNow ∧
    (s.setChan n x).vsOwners = s.vsOwners ∧ (s.setChan n x).readyNo = s.readyNo ∧ (s.setChan n x).tlb = s.tlb ∧
    (s.setChan n x).ptrs = s.ptrs ∧ (s.setChan n x).walks = s.walks ∧ (s.setChan n x).pfaults = s.pfaults ∧
    (s.setChan n x).wc = s.wc ∧ (s.setChan n x).wcFills = s.wcFills ∧ (s.setChan n x).eclWait = s.eclWait ∧
    (s.setChan n x).reenter = s.reenter ∧ (s.setChan n x).copies = s.copies ∧ (s.setChan n x).powerTo = s.powerTo ∧
    (s.setChan n x).heldSince = s.heldSince ∧ (s.setChan n x).epochNo = s.epochNo ∧ (s.setChan n x).admitted = s.admitted ∧
    (s.setChan n x).coll = s.coll ∧ (s.setChan n x).relay = s.relay ∧ (s.setChan n x).rep = s.rep ∧ (s.setChan n x).mer = s.mer ∧
    (s.setChan n x).free = s.free ∧ (s.setChan n x).pending = s.pending ∧ (∀ o, (s.setChan n x).reg o = s.reg o) ∧
    (∀ f', (s.setChan n x).fld f' = s.fld f') ∧ (∀ k, (s.setChan n x).ctx k = s.ctx k) ∧
    (∀ k, (s.setChan n x).port k = s.port k) ∧ (∀ k, (s.setChan n x).base k = s.base k) ∧
    (∀ k, (s.setChan n x).counter k = s.counter k) ∧ (∀ k, (s.setChan n x).graph k = s.graph k) ∧
    (∀ k l, (s.setChan n x).node k l = s.node k l) ∧ (∀ k, (s.setChan n x).tileByte k = s.tileByte k) ∧
    (∀ k, (s.setChan n x).sysByte k = s.sysByte k) ∧ (∀ k l, (s.setChan n x).creditOf k l = s.creditOf k l) ∧
    (∀ k, (s.setChan n x).eclipsed k = s.eclipsed k) ∧ (∀ k l, (s.setChan n x).ctrOk k l = s.ctrOk k l) ∧
    (s.setChan n x).engines = s.engines ∧ (s.setChan n x).granting = s.granting ∧ (∀ k, (s.setChan n x).vsOwn k = s.vsOwn k) ∧
    (∀ k, (s.setChan n x).owes k = s.owes k) := by
  repeat' first | rfl | apply And.intro | intro _

/-- `modChan` changes `chans` alone. -/
@[simp] theorem State.modChan_frame (n : Nat) (f : Chan → Chan)  :
    (s.modChan n f).phase = s.phase ∧ (s.modChan n f).pins = s.pins ∧ (s.modChan n f).aon = s.aon ∧ (s.modChan n f).tc = s.tc ∧
    (s.modChan n f).retained = s.retained ∧ (s.modChan n f).tmLost = s.tmLost ∧ (s.modChan n f).bringAt = s.bringAt ∧
    (s.modChan n f).coreLock = s.coreLock ∧ (s.modChan n f).heldAcc = s.heldAcc ∧ (s.modChan n f).captured = s.captured ∧
    (s.modChan n f).msgWait = s.msgWait ∧ (s.modChan n f).txns = s.txns ∧ (s.modChan n f).regs = s.regs ∧
    (s.modChan n f).sys = s.sys ∧ (s.modChan n f).badRd = s.badRd ∧ (s.modChan n f).derived = s.derived ∧
    (s.modChan n f).tile = s.tile ∧ (s.modChan n f).ecc = s.ecc ∧ (s.modChan n f).counters = s.counters ∧
    (s.modChan n f).scrubRow = s.scrubRow ∧ (s.modChan n f).clears = s.clears ∧ (s.modChan n f).credit = s.credit ∧
    (s.modChan n f).ctxs = s.ctxs ∧ (s.modChan n f).nextEntry = s.nextEntry ∧ (s.modChan n f).fetchTenant = s.fetchTenant ∧
    (s.modChan n f).grantFirst = s.grantFirst ∧ (s.modChan n f).grantUsed = s.grantUsed ∧ (s.modChan n f).graphs = s.graphs ∧
    (s.modChan n f).waits = s.waits ∧ (s.modChan n f).poison = s.poison ∧ (s.modChan n f).cpu = s.cpu ∧
    (s.modChan n f).upsets = s.upsets ∧ (s.modChan n f).tileOld = s.tileOld ∧ (s.modChan n f).tileNo = s.tileNo ∧
    (s.modChan n f).ctrNow = s.ctrNow ∧ (s.modChan n f).owed = s.owed ∧ (s.modChan n f).grantNow = s.grantNow ∧
    (s.modChan n f).vsOwners = s.vsOwners ∧ (s.modChan n f).readyNo = s.readyNo ∧ (s.modChan n f).tlb = s.tlb ∧
    (s.modChan n f).ptrs = s.ptrs ∧ (s.modChan n f).walks = s.walks ∧ (s.modChan n f).pfaults = s.pfaults ∧
    (s.modChan n f).wc = s.wc ∧ (s.modChan n f).wcFills = s.wcFills ∧ (s.modChan n f).eclWait = s.eclWait ∧
    (s.modChan n f).reenter = s.reenter ∧ (s.modChan n f).copies = s.copies ∧ (s.modChan n f).powerTo = s.powerTo ∧
    (s.modChan n f).heldSince = s.heldSince ∧ (s.modChan n f).epochNo = s.epochNo ∧ (s.modChan n f).admitted = s.admitted ∧
    (s.modChan n f).coll = s.coll ∧ (s.modChan n f).relay = s.relay ∧ (s.modChan n f).rep = s.rep ∧ (s.modChan n f).mer = s.mer ∧
    (s.modChan n f).free = s.free ∧ (s.modChan n f).pending = s.pending ∧ (∀ o, (s.modChan n f).reg o = s.reg o) ∧
    (∀ f', (s.modChan n f).fld f' = s.fld f') ∧ (∀ k, (s.modChan n f).ctx k = s.ctx k) ∧
    (∀ k, (s.modChan n f).port k = s.port k) ∧ (∀ k, (s.modChan n f).base k = s.base k) ∧
    (∀ k, (s.modChan n f).counter k = s.counter k) ∧ (∀ k, (s.modChan n f).graph k = s.graph k) ∧
    (∀ k l, (s.modChan n f).node k l = s.node k l) ∧ (∀ k, (s.modChan n f).tileByte k = s.tileByte k) ∧
    (∀ k, (s.modChan n f).sysByte k = s.sysByte k) ∧ (∀ k l, (s.modChan n f).creditOf k l = s.creditOf k l) ∧
    (∀ k, (s.modChan n f).eclipsed k = s.eclipsed k) ∧ (∀ k l, (s.modChan n f).ctrOk k l = s.ctrOk k l) ∧
    (s.modChan n f).engines = s.engines ∧ (s.modChan n f).granting = s.granting ∧ (∀ k, (s.modChan n f).vsOwn k = s.vsOwn k) ∧
    (∀ k, (s.modChan n f).owes k = s.owes k) := by
  repeat' first | rfl | apply And.intro | intro _

/-- `setPort` changes `relay` alone. -/
@[simp] theorem State.setPort_frame (p : Nat) (x : Port)  :
    (s.setPort p x).phase = s.phase ∧ (s.setPort p x).pins = s.pins ∧ (s.setPort p x).aon = s.aon ∧ (s.setPort p x).tc = s.tc ∧
    (s.setPort p x).retained = s.retained ∧ (s.setPort p x).tmLost = s.tmLost ∧ (s.setPort p x).bringAt = s.bringAt ∧
    (s.setPort p x).coreLock = s.coreLock ∧ (s.setPort p x).heldAcc = s.heldAcc ∧ (s.setPort p x).captured = s.captured ∧
    (s.setPort p x).msgWait = s.msgWait ∧ (s.setPort p x).txns = s.txns ∧ (s.setPort p x).regs = s.regs ∧
    (s.setPort p x).sys = s.sys ∧ (s.setPort p x).badRd = s.badRd ∧ (s.setPort p x).derived = s.derived ∧
    (s.setPort p x).tile = s.tile ∧ (s.setPort p x).ecc = s.ecc ∧ (s.setPort p x).counters = s.counters ∧
    (s.setPort p x).scrubRow = s.scrubRow ∧ (s.setPort p x).clears = s.clears ∧ (s.setPort p x).credit = s.credit ∧
    (s.setPort p x).ctxs = s.ctxs ∧ (s.setPort p x).nextEntry = s.nextEntry ∧ (s.setPort p x).fetchTenant = s.fetchTenant ∧
    (s.setPort p x).grantFirst = s.grantFirst ∧ (s.setPort p x).grantUsed = s.grantUsed ∧ (s.setPort p x).graphs = s.graphs ∧
    (s.setPort p x).chans = s.chans ∧ (s.setPort p x).waits = s.waits ∧ (s.setPort p x).poison = s.poison ∧
    (s.setPort p x).cpu = s.cpu ∧ (s.setPort p x).upsets = s.upsets ∧ (s.setPort p x).tileOld = s.tileOld ∧
    (s.setPort p x).tileNo = s.tileNo ∧ (s.setPort p x).ctrNow = s.ctrNow ∧ (s.setPort p x).owed = s.owed ∧
    (s.setPort p x).grantNow = s.grantNow ∧ (s.setPort p x).vsOwners = s.vsOwners ∧ (s.setPort p x).readyNo = s.readyNo ∧
    (s.setPort p x).tlb = s.tlb ∧ (s.setPort p x).ptrs = s.ptrs ∧ (s.setPort p x).walks = s.walks ∧
    (s.setPort p x).pfaults = s.pfaults ∧ (s.setPort p x).wc = s.wc ∧ (s.setPort p x).wcFills = s.wcFills ∧
    (s.setPort p x).eclWait = s.eclWait ∧ (s.setPort p x).reenter = s.reenter ∧ (s.setPort p x).copies = s.copies ∧
    (s.setPort p x).powerTo = s.powerTo ∧ (s.setPort p x).heldSince = s.heldSince ∧ (s.setPort p x).epochNo = s.epochNo ∧
    (s.setPort p x).admitted = s.admitted ∧ (s.setPort p x).coll = s.coll ∧ (s.setPort p x).rep = s.rep ∧
    (s.setPort p x).mer = s.mer ∧ (s.setPort p x).free = s.free ∧ (s.setPort p x).pending = s.pending ∧
    (∀ o, (s.setPort p x).reg o = s.reg o) ∧ (∀ f', (s.setPort p x).fld f' = s.fld f') ∧ (∀ k, (s.setPort p x).ctx k = s.ctx k) ∧
    (∀ k, (s.setPort p x).chan k = s.chan k) ∧ (∀ k, (s.setPort p x).base k = s.base k) ∧
    (∀ k, (s.setPort p x).counter k = s.counter k) ∧ (∀ k, (s.setPort p x).graph k = s.graph k) ∧
    (∀ k l, (s.setPort p x).node k l = s.node k l) ∧ (∀ k, (s.setPort p x).tileByte k = s.tileByte k) ∧
    (∀ k, (s.setPort p x).sysByte k = s.sysByte k) ∧ (∀ k l, (s.setPort p x).creditOf k l = s.creditOf k l) ∧
    (∀ k, (s.setPort p x).eclipsed k = s.eclipsed k) ∧ (∀ k l, (s.setPort p x).ctrOk k l = s.ctrOk k l) ∧
    (s.setPort p x).engines = s.engines ∧ (s.setPort p x).granting = s.granting ∧ (∀ k, (s.setPort p x).vsOwn k = s.vsOwn k) ∧
    (∀ k, (s.setPort p x).owes k = s.owes k) := by
  repeat' first | rfl | apply And.intro | intro _

/-- `modPort` changes `relay` alone. -/
@[simp] theorem State.modPort_frame (p : Nat) (f : Port → Port)  :
    (s.modPort p f).phase = s.phase ∧ (s.modPort p f).pins = s.pins ∧ (s.modPort p f).aon = s.aon ∧ (s.modPort p f).tc = s.tc ∧
    (s.modPort p f).retained = s.retained ∧ (s.modPort p f).tmLost = s.tmLost ∧ (s.modPort p f).bringAt = s.bringAt ∧
    (s.modPort p f).coreLock = s.coreLock ∧ (s.modPort p f).heldAcc = s.heldAcc ∧ (s.modPort p f).captured = s.captured ∧
    (s.modPort p f).msgWait = s.msgWait ∧ (s.modPort p f).txns = s.txns ∧ (s.modPort p f).regs = s.regs ∧
    (s.modPort p f).sys = s.sys ∧ (s.modPort p f).badRd = s.badRd ∧ (s.modPort p f).derived = s.derived ∧
    (s.modPort p f).tile = s.tile ∧ (s.modPort p f).ecc = s.ecc ∧ (s.modPort p f).counters = s.counters ∧
    (s.modPort p f).scrubRow = s.scrubRow ∧ (s.modPort p f).clears = s.clears ∧ (s.modPort p f).credit = s.credit ∧
    (s.modPort p f).ctxs = s.ctxs ∧ (s.modPort p f).nextEntry = s.nextEntry ∧ (s.modPort p f).fetchTenant = s.fetchTenant ∧
    (s.modPort p f).grantFirst = s.grantFirst ∧ (s.modPort p f).grantUsed = s.grantUsed ∧ (s.modPort p f).graphs = s.graphs ∧
    (s.modPort p f).chans = s.chans ∧ (s.modPort p f).waits = s.waits ∧ (s.modPort p f).poison = s.poison ∧
    (s.modPort p f).cpu = s.cpu ∧ (s.modPort p f).upsets = s.upsets ∧ (s.modPort p f).tileOld = s.tileOld ∧
    (s.modPort p f).tileNo = s.tileNo ∧ (s.modPort p f).ctrNow = s.ctrNow ∧ (s.modPort p f).owed = s.owed ∧
    (s.modPort p f).grantNow = s.grantNow ∧ (s.modPort p f).vsOwners = s.vsOwners ∧ (s.modPort p f).readyNo = s.readyNo ∧
    (s.modPort p f).tlb = s.tlb ∧ (s.modPort p f).ptrs = s.ptrs ∧ (s.modPort p f).walks = s.walks ∧
    (s.modPort p f).pfaults = s.pfaults ∧ (s.modPort p f).wc = s.wc ∧ (s.modPort p f).wcFills = s.wcFills ∧
    (s.modPort p f).eclWait = s.eclWait ∧ (s.modPort p f).reenter = s.reenter ∧ (s.modPort p f).copies = s.copies ∧
    (s.modPort p f).powerTo = s.powerTo ∧ (s.modPort p f).heldSince = s.heldSince ∧ (s.modPort p f).epochNo = s.epochNo ∧
    (s.modPort p f).admitted = s.admitted ∧ (s.modPort p f).coll = s.coll ∧ (s.modPort p f).rep = s.rep ∧
    (s.modPort p f).mer = s.mer ∧ (s.modPort p f).free = s.free ∧ (s.modPort p f).pending = s.pending ∧
    (∀ o, (s.modPort p f).reg o = s.reg o) ∧ (∀ f', (s.modPort p f).fld f' = s.fld f') ∧ (∀ k, (s.modPort p f).ctx k = s.ctx k) ∧
    (∀ k, (s.modPort p f).chan k = s.chan k) ∧ (∀ k, (s.modPort p f).base k = s.base k) ∧
    (∀ k, (s.modPort p f).counter k = s.counter k) ∧ (∀ k, (s.modPort p f).graph k = s.graph k) ∧
    (∀ k l, (s.modPort p f).node k l = s.node k l) ∧ (∀ k, (s.modPort p f).tileByte k = s.tileByte k) ∧
    (∀ k, (s.modPort p f).sysByte k = s.sysByte k) ∧ (∀ k l, (s.modPort p f).creditOf k l = s.creditOf k l) ∧
    (∀ k, (s.modPort p f).eclipsed k = s.eclipsed k) ∧ (∀ k l, (s.modPort p f).ctrOk k l = s.ctrOk k l) ∧
    (s.modPort p f).engines = s.engines ∧ (s.modPort p f).granting = s.granting ∧ (∀ k, (s.modPort p f).vsOwn k = s.vsOwn k) ∧
    (∀ k, (s.modPort p f).owes k = s.owes k) := by
  repeat' first | rfl | apply And.intro | intro _

/-- `setBase` changes `mer` alone. -/
@[simp] theorem State.setBase_frame (b : Nat) (x : Base)  :
    (s.setBase b x).phase = s.phase ∧ (s.setBase b x).pins = s.pins ∧ (s.setBase b x).aon = s.aon ∧ (s.setBase b x).tc = s.tc ∧
    (s.setBase b x).retained = s.retained ∧ (s.setBase b x).tmLost = s.tmLost ∧ (s.setBase b x).bringAt = s.bringAt ∧
    (s.setBase b x).coreLock = s.coreLock ∧ (s.setBase b x).heldAcc = s.heldAcc ∧ (s.setBase b x).captured = s.captured ∧
    (s.setBase b x).msgWait = s.msgWait ∧ (s.setBase b x).txns = s.txns ∧ (s.setBase b x).regs = s.regs ∧
    (s.setBase b x).sys = s.sys ∧ (s.setBase b x).badRd = s.badRd ∧ (s.setBase b x).derived = s.derived ∧
    (s.setBase b x).tile = s.tile ∧ (s.setBase b x).ecc = s.ecc ∧ (s.setBase b x).counters = s.counters ∧
    (s.setBase b x).scrubRow = s.scrubRow ∧ (s.setBase b x).clears = s.clears ∧ (s.setBase b x).credit = s.credit ∧
    (s.setBase b x).ctxs = s.ctxs ∧ (s.setBase b x).nextEntry = s.nextEntry ∧ (s.setBase b x).fetchTenant = s.fetchTenant ∧
    (s.setBase b x).grantFirst = s.grantFirst ∧ (s.setBase b x).grantUsed = s.grantUsed ∧ (s.setBase b x).graphs = s.graphs ∧
    (s.setBase b x).chans = s.chans ∧ (s.setBase b x).waits = s.waits ∧ (s.setBase b x).poison = s.poison ∧
    (s.setBase b x).cpu = s.cpu ∧ (s.setBase b x).upsets = s.upsets ∧ (s.setBase b x).tileOld = s.tileOld ∧
    (s.setBase b x).tileNo = s.tileNo ∧ (s.setBase b x).ctrNow = s.ctrNow ∧ (s.setBase b x).owed = s.owed ∧
    (s.setBase b x).grantNow = s.grantNow ∧ (s.setBase b x).vsOwners = s.vsOwners ∧ (s.setBase b x).readyNo = s.readyNo ∧
    (s.setBase b x).tlb = s.tlb ∧ (s.setBase b x).ptrs = s.ptrs ∧ (s.setBase b x).walks = s.walks ∧
    (s.setBase b x).pfaults = s.pfaults ∧ (s.setBase b x).wc = s.wc ∧ (s.setBase b x).wcFills = s.wcFills ∧
    (s.setBase b x).eclWait = s.eclWait ∧ (s.setBase b x).reenter = s.reenter ∧ (s.setBase b x).copies = s.copies ∧
    (s.setBase b x).powerTo = s.powerTo ∧ (s.setBase b x).heldSince = s.heldSince ∧ (s.setBase b x).epochNo = s.epochNo ∧
    (s.setBase b x).admitted = s.admitted ∧ (s.setBase b x).coll = s.coll ∧ (s.setBase b x).relay = s.relay ∧
    (s.setBase b x).rep = s.rep ∧ (s.setBase b x).free = s.free ∧ (s.setBase b x).pending = s.pending ∧
    (∀ o, (s.setBase b x).reg o = s.reg o) ∧ (∀ f', (s.setBase b x).fld f' = s.fld f') ∧ (∀ k, (s.setBase b x).ctx k = s.ctx k) ∧
    (∀ k, (s.setBase b x).chan k = s.chan k) ∧ (∀ k, (s.setBase b x).port k = s.port k) ∧
    (∀ k, (s.setBase b x).counter k = s.counter k) ∧ (∀ k, (s.setBase b x).graph k = s.graph k) ∧
    (∀ k l, (s.setBase b x).node k l = s.node k l) ∧ (∀ k, (s.setBase b x).tileByte k = s.tileByte k) ∧
    (∀ k, (s.setBase b x).sysByte k = s.sysByte k) ∧ (∀ k l, (s.setBase b x).creditOf k l = s.creditOf k l) ∧
    (∀ k, (s.setBase b x).eclipsed k = s.eclipsed k) ∧ (∀ k l, (s.setBase b x).ctrOk k l = s.ctrOk k l) ∧
    (s.setBase b x).engines = s.engines ∧ (s.setBase b x).granting = s.granting ∧ (∀ k, (s.setBase b x).vsOwn k = s.vsOwn k) ∧
    (∀ k, (s.setBase b x).owes k = s.owes k) := by
  repeat' first | rfl | apply And.intro | intro _

/-- `modBase` changes `mer` alone. -/
@[simp] theorem State.modBase_frame (b : Nat) (f : Base → Base)  :
    (s.modBase b f).phase = s.phase ∧ (s.modBase b f).pins = s.pins ∧ (s.modBase b f).aon = s.aon ∧ (s.modBase b f).tc = s.tc ∧
    (s.modBase b f).retained = s.retained ∧ (s.modBase b f).tmLost = s.tmLost ∧ (s.modBase b f).bringAt = s.bringAt ∧
    (s.modBase b f).coreLock = s.coreLock ∧ (s.modBase b f).heldAcc = s.heldAcc ∧ (s.modBase b f).captured = s.captured ∧
    (s.modBase b f).msgWait = s.msgWait ∧ (s.modBase b f).txns = s.txns ∧ (s.modBase b f).regs = s.regs ∧
    (s.modBase b f).sys = s.sys ∧ (s.modBase b f).badRd = s.badRd ∧ (s.modBase b f).derived = s.derived ∧
    (s.modBase b f).tile = s.tile ∧ (s.modBase b f).ecc = s.ecc ∧ (s.modBase b f).counters = s.counters ∧
    (s.modBase b f).scrubRow = s.scrubRow ∧ (s.modBase b f).clears = s.clears ∧ (s.modBase b f).credit = s.credit ∧
    (s.modBase b f).ctxs = s.ctxs ∧ (s.modBase b f).nextEntry = s.nextEntry ∧ (s.modBase b f).fetchTenant = s.fetchTenant ∧
    (s.modBase b f).grantFirst = s.grantFirst ∧ (s.modBase b f).grantUsed = s.grantUsed ∧ (s.modBase b f).graphs = s.graphs ∧
    (s.modBase b f).chans = s.chans ∧ (s.modBase b f).waits = s.waits ∧ (s.modBase b f).poison = s.poison ∧
    (s.modBase b f).cpu = s.cpu ∧ (s.modBase b f).upsets = s.upsets ∧ (s.modBase b f).tileOld = s.tileOld ∧
    (s.modBase b f).tileNo = s.tileNo ∧ (s.modBase b f).ctrNow = s.ctrNow ∧ (s.modBase b f).owed = s.owed ∧
    (s.modBase b f).grantNow = s.grantNow ∧ (s.modBase b f).vsOwners = s.vsOwners ∧ (s.modBase b f).readyNo = s.readyNo ∧
    (s.modBase b f).tlb = s.tlb ∧ (s.modBase b f).ptrs = s.ptrs ∧ (s.modBase b f).walks = s.walks ∧
    (s.modBase b f).pfaults = s.pfaults ∧ (s.modBase b f).wc = s.wc ∧ (s.modBase b f).wcFills = s.wcFills ∧
    (s.modBase b f).eclWait = s.eclWait ∧ (s.modBase b f).reenter = s.reenter ∧ (s.modBase b f).copies = s.copies ∧
    (s.modBase b f).powerTo = s.powerTo ∧ (s.modBase b f).heldSince = s.heldSince ∧ (s.modBase b f).epochNo = s.epochNo ∧
    (s.modBase b f).admitted = s.admitted ∧ (s.modBase b f).coll = s.coll ∧ (s.modBase b f).relay = s.relay ∧
    (s.modBase b f).rep = s.rep ∧ (s.modBase b f).free = s.free ∧ (s.modBase b f).pending = s.pending ∧
    (∀ o, (s.modBase b f).reg o = s.reg o) ∧ (∀ f', (s.modBase b f).fld f' = s.fld f') ∧ (∀ k, (s.modBase b f).ctx k = s.ctx k) ∧
    (∀ k, (s.modBase b f).chan k = s.chan k) ∧ (∀ k, (s.modBase b f).port k = s.port k) ∧
    (∀ k, (s.modBase b f).counter k = s.counter k) ∧ (∀ k, (s.modBase b f).graph k = s.graph k) ∧
    (∀ k l, (s.modBase b f).node k l = s.node k l) ∧ (∀ k, (s.modBase b f).tileByte k = s.tileByte k) ∧
    (∀ k, (s.modBase b f).sysByte k = s.sysByte k) ∧ (∀ k l, (s.modBase b f).creditOf k l = s.creditOf k l) ∧
    (∀ k, (s.modBase b f).eclipsed k = s.eclipsed k) ∧ (∀ k l, (s.modBase b f).ctrOk k l = s.ctrOk k l) ∧
    (s.modBase b f).engines = s.engines ∧ (s.modBase b f).granting = s.granting ∧ (∀ k, (s.modBase b f).vsOwn k = s.vsOwn k) ∧
    (∀ k, (s.modBase b f).owes k = s.owes k) := by
  repeat' first | rfl | apply And.intro | intro _

/-- `setColl` changes `coll` alone. -/
@[simp] theorem State.setColl_frame (c : Coll)  :
    (s.setColl c).phase = s.phase ∧ (s.setColl c).pins = s.pins ∧ (s.setColl c).aon = s.aon ∧ (s.setColl c).tc = s.tc ∧
    (s.setColl c).retained = s.retained ∧ (s.setColl c).tmLost = s.tmLost ∧ (s.setColl c).bringAt = s.bringAt ∧
    (s.setColl c).coreLock = s.coreLock ∧ (s.setColl c).heldAcc = s.heldAcc ∧ (s.setColl c).captured = s.captured ∧
    (s.setColl c).msgWait = s.msgWait ∧ (s.setColl c).txns = s.txns ∧ (s.setColl c).regs = s.regs ∧ (s.setColl c).sys = s.sys ∧
    (s.setColl c).badRd = s.badRd ∧ (s.setColl c).derived = s.derived ∧ (s.setColl c).tile = s.tile ∧ (s.setColl c).ecc = s.ecc ∧
    (s.setColl c).counters = s.counters ∧ (s.setColl c).scrubRow = s.scrubRow ∧ (s.setColl c).clears = s.clears ∧
    (s.setColl c).credit = s.credit ∧ (s.setColl c).ctxs = s.ctxs ∧ (s.setColl c).nextEntry = s.nextEntry ∧
    (s.setColl c).fetchTenant = s.fetchTenant ∧ (s.setColl c).grantFirst = s.grantFirst ∧ (s.setColl c).grantUsed = s.grantUsed ∧
    (s.setColl c).graphs = s.graphs ∧ (s.setColl c).chans = s.chans ∧ (s.setColl c).waits = s.waits ∧
    (s.setColl c).poison = s.poison ∧ (s.setColl c).cpu = s.cpu ∧ (s.setColl c).upsets = s.upsets ∧
    (s.setColl c).tileOld = s.tileOld ∧ (s.setColl c).tileNo = s.tileNo ∧ (s.setColl c).ctrNow = s.ctrNow ∧
    (s.setColl c).owed = s.owed ∧ (s.setColl c).grantNow = s.grantNow ∧ (s.setColl c).vsOwners = s.vsOwners ∧
    (s.setColl c).readyNo = s.readyNo ∧ (s.setColl c).tlb = s.tlb ∧ (s.setColl c).ptrs = s.ptrs ∧ (s.setColl c).walks = s.walks ∧
    (s.setColl c).pfaults = s.pfaults ∧ (s.setColl c).wc = s.wc ∧ (s.setColl c).wcFills = s.wcFills ∧
    (s.setColl c).eclWait = s.eclWait ∧ (s.setColl c).reenter = s.reenter ∧ (s.setColl c).copies = s.copies ∧
    (s.setColl c).powerTo = s.powerTo ∧ (s.setColl c).heldSince = s.heldSince ∧ (s.setColl c).epochNo = s.epochNo ∧
    (s.setColl c).admitted = s.admitted ∧ (s.setColl c).relay = s.relay ∧ (s.setColl c).rep = s.rep ∧ (s.setColl c).mer = s.mer ∧
    (s.setColl c).free = s.free ∧ (s.setColl c).pending = s.pending ∧ (∀ o, (s.setColl c).reg o = s.reg o) ∧
    (∀ f', (s.setColl c).fld f' = s.fld f') ∧ (∀ k, (s.setColl c).ctx k = s.ctx k) ∧ (∀ k, (s.setColl c).chan k = s.chan k) ∧
    (∀ k, (s.setColl c).port k = s.port k) ∧ (∀ k, (s.setColl c).base k = s.base k) ∧
    (∀ k, (s.setColl c).counter k = s.counter k) ∧ (∀ k, (s.setColl c).graph k = s.graph k) ∧
    (∀ k l, (s.setColl c).node k l = s.node k l) ∧ (∀ k, (s.setColl c).tileByte k = s.tileByte k) ∧
    (∀ k, (s.setColl c).sysByte k = s.sysByte k) ∧ (∀ k l, (s.setColl c).creditOf k l = s.creditOf k l) ∧
    (∀ k, (s.setColl c).eclipsed k = s.eclipsed k) ∧ (∀ k l, (s.setColl c).ctrOk k l = s.ctrOk k l) ∧
    (∀ k, (s.setColl c).vsOwn k = s.vsOwn k) ∧ (∀ k, (s.setColl c).owes k = s.owes k) := by
  repeat' first | rfl | apply And.intro | intro _

/-- `setRelay` changes `relay` alone. -/
@[simp] theorem State.setRelay_frame (r : Relay)  :
    (s.setRelay r).phase = s.phase ∧ (s.setRelay r).pins = s.pins ∧ (s.setRelay r).aon = s.aon ∧ (s.setRelay r).tc = s.tc ∧
    (s.setRelay r).retained = s.retained ∧ (s.setRelay r).tmLost = s.tmLost ∧ (s.setRelay r).bringAt = s.bringAt ∧
    (s.setRelay r).coreLock = s.coreLock ∧ (s.setRelay r).heldAcc = s.heldAcc ∧ (s.setRelay r).captured = s.captured ∧
    (s.setRelay r).msgWait = s.msgWait ∧ (s.setRelay r).txns = s.txns ∧ (s.setRelay r).regs = s.regs ∧
    (s.setRelay r).sys = s.sys ∧ (s.setRelay r).badRd = s.badRd ∧ (s.setRelay r).derived = s.derived ∧
    (s.setRelay r).tile = s.tile ∧ (s.setRelay r).ecc = s.ecc ∧ (s.setRelay r).counters = s.counters ∧
    (s.setRelay r).scrubRow = s.scrubRow ∧ (s.setRelay r).clears = s.clears ∧ (s.setRelay r).credit = s.credit ∧
    (s.setRelay r).ctxs = s.ctxs ∧ (s.setRelay r).nextEntry = s.nextEntry ∧ (s.setRelay r).fetchTenant = s.fetchTenant ∧
    (s.setRelay r).grantFirst = s.grantFirst ∧ (s.setRelay r).grantUsed = s.grantUsed ∧ (s.setRelay r).graphs = s.graphs ∧
    (s.setRelay r).chans = s.chans ∧ (s.setRelay r).waits = s.waits ∧ (s.setRelay r).poison = s.poison ∧
    (s.setRelay r).cpu = s.cpu ∧ (s.setRelay r).upsets = s.upsets ∧ (s.setRelay r).tileOld = s.tileOld ∧
    (s.setRelay r).tileNo = s.tileNo ∧ (s.setRelay r).ctrNow = s.ctrNow ∧ (s.setRelay r).owed = s.owed ∧
    (s.setRelay r).grantNow = s.grantNow ∧ (s.setRelay r).vsOwners = s.vsOwners ∧ (s.setRelay r).readyNo = s.readyNo ∧
    (s.setRelay r).tlb = s.tlb ∧ (s.setRelay r).ptrs = s.ptrs ∧ (s.setRelay r).walks = s.walks ∧
    (s.setRelay r).pfaults = s.pfaults ∧ (s.setRelay r).wc = s.wc ∧ (s.setRelay r).wcFills = s.wcFills ∧
    (s.setRelay r).eclWait = s.eclWait ∧ (s.setRelay r).reenter = s.reenter ∧ (s.setRelay r).copies = s.copies ∧
    (s.setRelay r).powerTo = s.powerTo ∧ (s.setRelay r).heldSince = s.heldSince ∧ (s.setRelay r).epochNo = s.epochNo ∧
    (s.setRelay r).admitted = s.admitted ∧ (s.setRelay r).coll = s.coll ∧ (s.setRelay r).rep = s.rep ∧
    (s.setRelay r).mer = s.mer ∧ (s.setRelay r).free = s.free ∧ (s.setRelay r).pending = s.pending ∧
    (∀ o, (s.setRelay r).reg o = s.reg o) ∧ (∀ f', (s.setRelay r).fld f' = s.fld f') ∧ (∀ k, (s.setRelay r).ctx k = s.ctx k) ∧
    (∀ k, (s.setRelay r).chan k = s.chan k) ∧ (∀ k, (s.setRelay r).base k = s.base k) ∧
    (∀ k, (s.setRelay r).counter k = s.counter k) ∧ (∀ k, (s.setRelay r).graph k = s.graph k) ∧
    (∀ k l, (s.setRelay r).node k l = s.node k l) ∧ (∀ k, (s.setRelay r).tileByte k = s.tileByte k) ∧
    (∀ k, (s.setRelay r).sysByte k = s.sysByte k) ∧ (∀ k l, (s.setRelay r).creditOf k l = s.creditOf k l) ∧
    (∀ k, (s.setRelay r).eclipsed k = s.eclipsed k) ∧ (∀ k l, (s.setRelay r).ctrOk k l = s.ctrOk k l) ∧
    (s.setRelay r).engines = s.engines ∧ (s.setRelay r).granting = s.granting ∧ (∀ k, (s.setRelay r).vsOwn k = s.vsOwn k) ∧
    (∀ k, (s.setRelay r).owes k = s.owes k) := by
  repeat' first | rfl | apply And.intro | intro _

/-- `setRep` changes `rep` alone. -/
@[simp] theorem State.setRep_frame (r : Replica)  :
    (s.setRep r).phase = s.phase ∧ (s.setRep r).pins = s.pins ∧ (s.setRep r).aon = s.aon ∧ (s.setRep r).tc = s.tc ∧
    (s.setRep r).retained = s.retained ∧ (s.setRep r).tmLost = s.tmLost ∧ (s.setRep r).bringAt = s.bringAt ∧
    (s.setRep r).coreLock = s.coreLock ∧ (s.setRep r).heldAcc = s.heldAcc ∧ (s.setRep r).captured = s.captured ∧
    (s.setRep r).msgWait = s.msgWait ∧ (s.setRep r).txns = s.txns ∧ (s.setRep r).regs = s.regs ∧ (s.setRep r).sys = s.sys ∧
    (s.setRep r).badRd = s.badRd ∧ (s.setRep r).derived = s.derived ∧ (s.setRep r).tile = s.tile ∧ (s.setRep r).ecc = s.ecc ∧
    (s.setRep r).counters = s.counters ∧ (s.setRep r).scrubRow = s.scrubRow ∧ (s.setRep r).clears = s.clears ∧
    (s.setRep r).credit = s.credit ∧ (s.setRep r).ctxs = s.ctxs ∧ (s.setRep r).nextEntry = s.nextEntry ∧
    (s.setRep r).fetchTenant = s.fetchTenant ∧ (s.setRep r).grantFirst = s.grantFirst ∧ (s.setRep r).grantUsed = s.grantUsed ∧
    (s.setRep r).graphs = s.graphs ∧ (s.setRep r).chans = s.chans ∧ (s.setRep r).waits = s.waits ∧
    (s.setRep r).poison = s.poison ∧ (s.setRep r).cpu = s.cpu ∧ (s.setRep r).upsets = s.upsets ∧
    (s.setRep r).tileOld = s.tileOld ∧ (s.setRep r).tileNo = s.tileNo ∧ (s.setRep r).ctrNow = s.ctrNow ∧
    (s.setRep r).owed = s.owed ∧ (s.setRep r).grantNow = s.grantNow ∧ (s.setRep r).vsOwners = s.vsOwners ∧
    (s.setRep r).readyNo = s.readyNo ∧ (s.setRep r).tlb = s.tlb ∧ (s.setRep r).ptrs = s.ptrs ∧ (s.setRep r).walks = s.walks ∧
    (s.setRep r).pfaults = s.pfaults ∧ (s.setRep r).wc = s.wc ∧ (s.setRep r).wcFills = s.wcFills ∧
    (s.setRep r).eclWait = s.eclWait ∧ (s.setRep r).reenter = s.reenter ∧ (s.setRep r).copies = s.copies ∧
    (s.setRep r).powerTo = s.powerTo ∧ (s.setRep r).heldSince = s.heldSince ∧ (s.setRep r).epochNo = s.epochNo ∧
    (s.setRep r).admitted = s.admitted ∧ (s.setRep r).coll = s.coll ∧ (s.setRep r).relay = s.relay ∧ (s.setRep r).mer = s.mer ∧
    (s.setRep r).free = s.free ∧ (s.setRep r).pending = s.pending ∧ (∀ o, (s.setRep r).reg o = s.reg o) ∧
    (∀ f', (s.setRep r).fld f' = s.fld f') ∧ (∀ k, (s.setRep r).ctx k = s.ctx k) ∧ (∀ k, (s.setRep r).chan k = s.chan k) ∧
    (∀ k, (s.setRep r).port k = s.port k) ∧ (∀ k, (s.setRep r).base k = s.base k) ∧ (∀ k, (s.setRep r).counter k = s.counter k) ∧
    (∀ k, (s.setRep r).graph k = s.graph k) ∧ (∀ k l, (s.setRep r).node k l = s.node k l) ∧
    (∀ k, (s.setRep r).tileByte k = s.tileByte k) ∧ (∀ k, (s.setRep r).sysByte k = s.sysByte k) ∧
    (∀ k l, (s.setRep r).creditOf k l = s.creditOf k l) ∧ (∀ k, (s.setRep r).eclipsed k = s.eclipsed k) ∧
    (∀ k l, (s.setRep r).ctrOk k l = s.ctrOk k l) ∧ (s.setRep r).engines = s.engines ∧ (s.setRep r).granting = s.granting ∧
    (∀ k, (s.setRep r).vsOwn k = s.vsOwn k) ∧ (∀ k, (s.setRep r).owes k = s.owes k) := by
  repeat' first | rfl | apply And.intro | intro _

/-- `setMer` changes `mer` alone. -/
@[simp] theorem State.setMer_frame (m : Meridian)  :
    (s.setMer m).phase = s.phase ∧ (s.setMer m).pins = s.pins ∧ (s.setMer m).aon = s.aon ∧ (s.setMer m).tc = s.tc ∧
    (s.setMer m).retained = s.retained ∧ (s.setMer m).tmLost = s.tmLost ∧ (s.setMer m).bringAt = s.bringAt ∧
    (s.setMer m).coreLock = s.coreLock ∧ (s.setMer m).heldAcc = s.heldAcc ∧ (s.setMer m).captured = s.captured ∧
    (s.setMer m).msgWait = s.msgWait ∧ (s.setMer m).txns = s.txns ∧ (s.setMer m).regs = s.regs ∧ (s.setMer m).sys = s.sys ∧
    (s.setMer m).badRd = s.badRd ∧ (s.setMer m).derived = s.derived ∧ (s.setMer m).tile = s.tile ∧ (s.setMer m).ecc = s.ecc ∧
    (s.setMer m).counters = s.counters ∧ (s.setMer m).scrubRow = s.scrubRow ∧ (s.setMer m).clears = s.clears ∧
    (s.setMer m).credit = s.credit ∧ (s.setMer m).ctxs = s.ctxs ∧ (s.setMer m).nextEntry = s.nextEntry ∧
    (s.setMer m).fetchTenant = s.fetchTenant ∧ (s.setMer m).grantFirst = s.grantFirst ∧ (s.setMer m).grantUsed = s.grantUsed ∧
    (s.setMer m).graphs = s.graphs ∧ (s.setMer m).chans = s.chans ∧ (s.setMer m).waits = s.waits ∧
    (s.setMer m).poison = s.poison ∧ (s.setMer m).cpu = s.cpu ∧ (s.setMer m).upsets = s.upsets ∧
    (s.setMer m).tileOld = s.tileOld ∧ (s.setMer m).tileNo = s.tileNo ∧ (s.setMer m).ctrNow = s.ctrNow ∧
    (s.setMer m).owed = s.owed ∧ (s.setMer m).grantNow = s.grantNow ∧ (s.setMer m).vsOwners = s.vsOwners ∧
    (s.setMer m).readyNo = s.readyNo ∧ (s.setMer m).tlb = s.tlb ∧ (s.setMer m).ptrs = s.ptrs ∧ (s.setMer m).walks = s.walks ∧
    (s.setMer m).pfaults = s.pfaults ∧ (s.setMer m).wc = s.wc ∧ (s.setMer m).wcFills = s.wcFills ∧
    (s.setMer m).eclWait = s.eclWait ∧ (s.setMer m).reenter = s.reenter ∧ (s.setMer m).copies = s.copies ∧
    (s.setMer m).powerTo = s.powerTo ∧ (s.setMer m).heldSince = s.heldSince ∧ (s.setMer m).epochNo = s.epochNo ∧
    (s.setMer m).admitted = s.admitted ∧ (s.setMer m).coll = s.coll ∧ (s.setMer m).relay = s.relay ∧ (s.setMer m).rep = s.rep ∧
    (s.setMer m).free = s.free ∧ (s.setMer m).pending = s.pending ∧ (∀ o, (s.setMer m).reg o = s.reg o) ∧
    (∀ f', (s.setMer m).fld f' = s.fld f') ∧ (∀ k, (s.setMer m).ctx k = s.ctx k) ∧ (∀ k, (s.setMer m).chan k = s.chan k) ∧
    (∀ k, (s.setMer m).port k = s.port k) ∧ (∀ k, (s.setMer m).counter k = s.counter k) ∧
    (∀ k, (s.setMer m).graph k = s.graph k) ∧ (∀ k l, (s.setMer m).node k l = s.node k l) ∧
    (∀ k, (s.setMer m).tileByte k = s.tileByte k) ∧ (∀ k, (s.setMer m).sysByte k = s.sysByte k) ∧
    (∀ k l, (s.setMer m).creditOf k l = s.creditOf k l) ∧ (∀ k, (s.setMer m).eclipsed k = s.eclipsed k) ∧
    (∀ k l, (s.setMer m).ctrOk k l = s.ctrOk k l) ∧ (s.setMer m).engines = s.engines ∧ (s.setMer m).granting = s.granting ∧
    (∀ k, (s.setMer m).vsOwn k = s.vsOwn k) ∧ (∀ k, (s.setMer m).owes k = s.owes k) := by
  repeat' first | rfl | apply And.intro | intro _

/-- `setPins` changes `pins` alone. -/
@[simp] theorem State.setPins_frame (p : Pins)  :
    (s.setPins p).phase = s.phase ∧ (s.setPins p).aon = s.aon ∧ (s.setPins p).tc = s.tc ∧ (s.setPins p).retained = s.retained ∧
    (s.setPins p).tmLost = s.tmLost ∧ (s.setPins p).bringAt = s.bringAt ∧ (s.setPins p).coreLock = s.coreLock ∧
    (s.setPins p).heldAcc = s.heldAcc ∧ (s.setPins p).captured = s.captured ∧ (s.setPins p).msgWait = s.msgWait ∧
    (s.setPins p).txns = s.txns ∧ (s.setPins p).regs = s.regs ∧ (s.setPins p).sys = s.sys ∧ (s.setPins p).badRd = s.badRd ∧
    (s.setPins p).derived = s.derived ∧ (s.setPins p).tile = s.tile ∧ (s.setPins p).ecc = s.ecc ∧
    (s.setPins p).counters = s.counters ∧ (s.setPins p).scrubRow = s.scrubRow ∧ (s.setPins p).clears = s.clears ∧
    (s.setPins p).credit = s.credit ∧ (s.setPins p).ctxs = s.ctxs ∧ (s.setPins p).nextEntry = s.nextEntry ∧
    (s.setPins p).fetchTenant = s.fetchTenant ∧ (s.setPins p).grantFirst = s.grantFirst ∧ (s.setPins p).grantUsed = s.grantUsed ∧
    (s.setPins p).graphs = s.graphs ∧ (s.setPins p).chans = s.chans ∧ (s.setPins p).waits = s.waits ∧
    (s.setPins p).poison = s.poison ∧ (s.setPins p).cpu = s.cpu ∧ (s.setPins p).upsets = s.upsets ∧
    (s.setPins p).tileOld = s.tileOld ∧ (s.setPins p).tileNo = s.tileNo ∧ (s.setPins p).ctrNow = s.ctrNow ∧
    (s.setPins p).owed = s.owed ∧ (s.setPins p).grantNow = s.grantNow ∧ (s.setPins p).vsOwners = s.vsOwners ∧
    (s.setPins p).readyNo = s.readyNo ∧ (s.setPins p).tlb = s.tlb ∧ (s.setPins p).ptrs = s.ptrs ∧ (s.setPins p).walks = s.walks ∧
    (s.setPins p).pfaults = s.pfaults ∧ (s.setPins p).wc = s.wc ∧ (s.setPins p).wcFills = s.wcFills ∧
    (s.setPins p).eclWait = s.eclWait ∧ (s.setPins p).reenter = s.reenter ∧ (s.setPins p).copies = s.copies ∧
    (s.setPins p).powerTo = s.powerTo ∧ (s.setPins p).heldSince = s.heldSince ∧ (s.setPins p).epochNo = s.epochNo ∧
    (s.setPins p).admitted = s.admitted ∧ (s.setPins p).coll = s.coll ∧ (s.setPins p).relay = s.relay ∧
    (s.setPins p).rep = s.rep ∧ (s.setPins p).mer = s.mer ∧ (s.setPins p).free = s.free ∧ (s.setPins p).pending = s.pending ∧
    (∀ o, (s.setPins p).reg o = s.reg o) ∧ (∀ f', (s.setPins p).fld f' = s.fld f') ∧ (∀ k, (s.setPins p).ctx k = s.ctx k) ∧
    (∀ k, (s.setPins p).chan k = s.chan k) ∧ (∀ k, (s.setPins p).port k = s.port k) ∧ (∀ k, (s.setPins p).base k = s.base k) ∧
    (∀ k, (s.setPins p).counter k = s.counter k) ∧ (∀ k, (s.setPins p).graph k = s.graph k) ∧
    (∀ k l, (s.setPins p).node k l = s.node k l) ∧ (∀ k, (s.setPins p).tileByte k = s.tileByte k) ∧
    (∀ k, (s.setPins p).sysByte k = s.sysByte k) ∧ (∀ k l, (s.setPins p).creditOf k l = s.creditOf k l) ∧
    (∀ k, (s.setPins p).eclipsed k = s.eclipsed k) ∧ (∀ k l, (s.setPins p).ctrOk k l = s.ctrOk k l) ∧
    (∀ k, (s.setPins p).vsOwn k = s.vsOwn k) ∧ (∀ k, (s.setPins p).owes k = s.owes k) := by
  repeat' first | rfl | apply And.intro | intro _

/-- `modGraph` changes `graphs` alone. -/
@[simp] theorem State.modGraph_frame (g : Nat) (f : Graph → Graph)  :
    (s.modGraph g f).phase = s.phase ∧ (s.modGraph g f).pins = s.pins ∧ (s.modGraph g f).aon = s.aon ∧
    (s.modGraph g f).tc = s.tc ∧ (s.modGraph g f).retained = s.retained ∧ (s.modGraph g f).tmLost = s.tmLost ∧
    (s.modGraph g f).bringAt = s.bringAt ∧ (s.modGraph g f).coreLock = s.coreLock ∧ (s.modGraph g f).heldAcc = s.heldAcc ∧
    (s.modGraph g f).captured = s.captured ∧ (s.modGraph g f).msgWait = s.msgWait ∧ (s.modGraph g f).txns = s.txns ∧
    (s.modGraph g f).regs = s.regs ∧ (s.modGraph g f).sys = s.sys ∧ (s.modGraph g f).badRd = s.badRd ∧
    (s.modGraph g f).derived = s.derived ∧ (s.modGraph g f).tile = s.tile ∧ (s.modGraph g f).ecc = s.ecc ∧
    (s.modGraph g f).counters = s.counters ∧ (s.modGraph g f).scrubRow = s.scrubRow ∧ (s.modGraph g f).clears = s.clears ∧
    (s.modGraph g f).credit = s.credit ∧ (s.modGraph g f).ctxs = s.ctxs ∧ (s.modGraph g f).nextEntry = s.nextEntry ∧
    (s.modGraph g f).fetchTenant = s.fetchTenant ∧ (s.modGraph g f).grantFirst = s.grantFirst ∧
    (s.modGraph g f).grantUsed = s.grantUsed ∧ (s.modGraph g f).chans = s.chans ∧ (s.modGraph g f).waits = s.waits ∧
    (s.modGraph g f).poison = s.poison ∧ (s.modGraph g f).cpu = s.cpu ∧ (s.modGraph g f).upsets = s.upsets ∧
    (s.modGraph g f).tileOld = s.tileOld ∧ (s.modGraph g f).tileNo = s.tileNo ∧ (s.modGraph g f).ctrNow = s.ctrNow ∧
    (s.modGraph g f).owed = s.owed ∧ (s.modGraph g f).grantNow = s.grantNow ∧ (s.modGraph g f).vsOwners = s.vsOwners ∧
    (s.modGraph g f).readyNo = s.readyNo ∧ (s.modGraph g f).tlb = s.tlb ∧ (s.modGraph g f).ptrs = s.ptrs ∧
    (s.modGraph g f).walks = s.walks ∧ (s.modGraph g f).pfaults = s.pfaults ∧ (s.modGraph g f).wc = s.wc ∧
    (s.modGraph g f).wcFills = s.wcFills ∧ (s.modGraph g f).eclWait = s.eclWait ∧ (s.modGraph g f).reenter = s.reenter ∧
    (s.modGraph g f).copies = s.copies ∧ (s.modGraph g f).powerTo = s.powerTo ∧ (s.modGraph g f).heldSince = s.heldSince ∧
    (s.modGraph g f).epochNo = s.epochNo ∧ (s.modGraph g f).admitted = s.admitted ∧ (s.modGraph g f).coll = s.coll ∧
    (s.modGraph g f).relay = s.relay ∧ (s.modGraph g f).rep = s.rep ∧ (s.modGraph g f).mer = s.mer ∧
    (s.modGraph g f).free = s.free ∧ (s.modGraph g f).pending = s.pending ∧ (∀ o, (s.modGraph g f).reg o = s.reg o) ∧
    (∀ f', (s.modGraph g f).fld f' = s.fld f') ∧ (∀ k, (s.modGraph g f).ctx k = s.ctx k) ∧
    (∀ k, (s.modGraph g f).chan k = s.chan k) ∧ (∀ k, (s.modGraph g f).port k = s.port k) ∧
    (∀ k, (s.modGraph g f).base k = s.base k) ∧ (∀ k, (s.modGraph g f).counter k = s.counter k) ∧
    (∀ k, (s.modGraph g f).tileByte k = s.tileByte k) ∧ (∀ k, (s.modGraph g f).sysByte k = s.sysByte k) ∧
    (∀ k l, (s.modGraph g f).creditOf k l = s.creditOf k l) ∧ (∀ k, (s.modGraph g f).eclipsed k = s.eclipsed k) ∧
    (∀ k l, (s.modGraph g f).ctrOk k l = s.ctrOk k l) ∧ (s.modGraph g f).engines = s.engines ∧
    (s.modGraph g f).granting = s.granting ∧ (∀ k, (s.modGraph g f).vsOwn k = s.vsOwn k) ∧
    (∀ k, (s.modGraph g f).owes k = s.owes k) := by
  repeat' first | rfl | apply And.intro | intro _

/-- `dropGraph` changes `graphs` alone. -/
@[simp] theorem State.dropGraph_frame (g : Nat)  :
    (s.dropGraph g).phase = s.phase ∧ (s.dropGraph g).pins = s.pins ∧ (s.dropGraph g).aon = s.aon ∧ (s.dropGraph g).tc = s.tc ∧
    (s.dropGraph g).retained = s.retained ∧ (s.dropGraph g).tmLost = s.tmLost ∧ (s.dropGraph g).bringAt = s.bringAt ∧
    (s.dropGraph g).coreLock = s.coreLock ∧ (s.dropGraph g).heldAcc = s.heldAcc ∧ (s.dropGraph g).captured = s.captured ∧
    (s.dropGraph g).msgWait = s.msgWait ∧ (s.dropGraph g).txns = s.txns ∧ (s.dropGraph g).regs = s.regs ∧
    (s.dropGraph g).sys = s.sys ∧ (s.dropGraph g).badRd = s.badRd ∧ (s.dropGraph g).derived = s.derived ∧
    (s.dropGraph g).tile = s.tile ∧ (s.dropGraph g).ecc = s.ecc ∧ (s.dropGraph g).counters = s.counters ∧
    (s.dropGraph g).scrubRow = s.scrubRow ∧ (s.dropGraph g).clears = s.clears ∧ (s.dropGraph g).credit = s.credit ∧
    (s.dropGraph g).ctxs = s.ctxs ∧ (s.dropGraph g).nextEntry = s.nextEntry ∧ (s.dropGraph g).fetchTenant = s.fetchTenant ∧
    (s.dropGraph g).grantFirst = s.grantFirst ∧ (s.dropGraph g).grantUsed = s.grantUsed ∧ (s.dropGraph g).chans = s.chans ∧
    (s.dropGraph g).waits = s.waits ∧ (s.dropGraph g).poison = s.poison ∧ (s.dropGraph g).cpu = s.cpu ∧
    (s.dropGraph g).upsets = s.upsets ∧ (s.dropGraph g).tileOld = s.tileOld ∧ (s.dropGraph g).tileNo = s.tileNo ∧
    (s.dropGraph g).ctrNow = s.ctrNow ∧ (s.dropGraph g).owed = s.owed ∧ (s.dropGraph g).grantNow = s.grantNow ∧
    (s.dropGraph g).vsOwners = s.vsOwners ∧ (s.dropGraph g).readyNo = s.readyNo ∧ (s.dropGraph g).tlb = s.tlb ∧
    (s.dropGraph g).ptrs = s.ptrs ∧ (s.dropGraph g).walks = s.walks ∧ (s.dropGraph g).pfaults = s.pfaults ∧
    (s.dropGraph g).wc = s.wc ∧ (s.dropGraph g).wcFills = s.wcFills ∧ (s.dropGraph g).eclWait = s.eclWait ∧
    (s.dropGraph g).reenter = s.reenter ∧ (s.dropGraph g).copies = s.copies ∧ (s.dropGraph g).powerTo = s.powerTo ∧
    (s.dropGraph g).heldSince = s.heldSince ∧ (s.dropGraph g).epochNo = s.epochNo ∧ (s.dropGraph g).admitted = s.admitted ∧
    (s.dropGraph g).coll = s.coll ∧ (s.dropGraph g).relay = s.relay ∧ (s.dropGraph g).rep = s.rep ∧ (s.dropGraph g).mer = s.mer ∧
    (s.dropGraph g).free = s.free ∧ (s.dropGraph g).pending = s.pending ∧ (∀ o, (s.dropGraph g).reg o = s.reg o) ∧
    (∀ f', (s.dropGraph g).fld f' = s.fld f') ∧ (∀ k, (s.dropGraph g).ctx k = s.ctx k) ∧
    (∀ k, (s.dropGraph g).chan k = s.chan k) ∧ (∀ k, (s.dropGraph g).port k = s.port k) ∧
    (∀ k, (s.dropGraph g).base k = s.base k) ∧ (∀ k, (s.dropGraph g).counter k = s.counter k) ∧
    (∀ k, (s.dropGraph g).tileByte k = s.tileByte k) ∧ (∀ k, (s.dropGraph g).sysByte k = s.sysByte k) ∧
    (∀ k l, (s.dropGraph g).creditOf k l = s.creditOf k l) ∧ (∀ k, (s.dropGraph g).eclipsed k = s.eclipsed k) ∧
    (∀ k l, (s.dropGraph g).ctrOk k l = s.ctrOk k l) ∧ (s.dropGraph g).engines = s.engines ∧
    (s.dropGraph g).granting = s.granting ∧ (∀ k, (s.dropGraph g).vsOwn k = s.vsOwn k) ∧
    (∀ k, (s.dropGraph g).owes k = s.owes k) := by
  repeat' first | rfl | apply And.intro | intro _

/-- `modNode` changes `graphs` alone. -/
@[simp] theorem State.modNode_frame (g n : Nat) (f : Node → Node)  :
    (s.modNode g n f).phase = s.phase ∧ (s.modNode g n f).pins = s.pins ∧ (s.modNode g n f).aon = s.aon ∧
    (s.modNode g n f).tc = s.tc ∧ (s.modNode g n f).retained = s.retained ∧ (s.modNode g n f).tmLost = s.tmLost ∧
    (s.modNode g n f).bringAt = s.bringAt ∧ (s.modNode g n f).coreLock = s.coreLock ∧ (s.modNode g n f).heldAcc = s.heldAcc ∧
    (s.modNode g n f).captured = s.captured ∧ (s.modNode g n f).msgWait = s.msgWait ∧ (s.modNode g n f).txns = s.txns ∧
    (s.modNode g n f).regs = s.regs ∧ (s.modNode g n f).sys = s.sys ∧ (s.modNode g n f).badRd = s.badRd ∧
    (s.modNode g n f).derived = s.derived ∧ (s.modNode g n f).tile = s.tile ∧ (s.modNode g n f).ecc = s.ecc ∧
    (s.modNode g n f).counters = s.counters ∧ (s.modNode g n f).scrubRow = s.scrubRow ∧ (s.modNode g n f).clears = s.clears ∧
    (s.modNode g n f).credit = s.credit ∧ (s.modNode g n f).ctxs = s.ctxs ∧ (s.modNode g n f).nextEntry = s.nextEntry ∧
    (s.modNode g n f).fetchTenant = s.fetchTenant ∧ (s.modNode g n f).grantFirst = s.grantFirst ∧
    (s.modNode g n f).grantUsed = s.grantUsed ∧ (s.modNode g n f).chans = s.chans ∧ (s.modNode g n f).waits = s.waits ∧
    (s.modNode g n f).poison = s.poison ∧ (s.modNode g n f).cpu = s.cpu ∧ (s.modNode g n f).upsets = s.upsets ∧
    (s.modNode g n f).tileOld = s.tileOld ∧ (s.modNode g n f).tileNo = s.tileNo ∧ (s.modNode g n f).ctrNow = s.ctrNow ∧
    (s.modNode g n f).owed = s.owed ∧ (s.modNode g n f).grantNow = s.grantNow ∧ (s.modNode g n f).vsOwners = s.vsOwners ∧
    (s.modNode g n f).readyNo = s.readyNo ∧ (s.modNode g n f).tlb = s.tlb ∧ (s.modNode g n f).ptrs = s.ptrs ∧
    (s.modNode g n f).walks = s.walks ∧ (s.modNode g n f).pfaults = s.pfaults ∧ (s.modNode g n f).wc = s.wc ∧
    (s.modNode g n f).wcFills = s.wcFills ∧ (s.modNode g n f).eclWait = s.eclWait ∧ (s.modNode g n f).reenter = s.reenter ∧
    (s.modNode g n f).copies = s.copies ∧ (s.modNode g n f).powerTo = s.powerTo ∧ (s.modNode g n f).heldSince = s.heldSince ∧
    (s.modNode g n f).epochNo = s.epochNo ∧ (s.modNode g n f).admitted = s.admitted ∧ (s.modNode g n f).coll = s.coll ∧
    (s.modNode g n f).relay = s.relay ∧ (s.modNode g n f).rep = s.rep ∧ (s.modNode g n f).mer = s.mer ∧
    (s.modNode g n f).free = s.free ∧ (s.modNode g n f).pending = s.pending ∧ (∀ o, (s.modNode g n f).reg o = s.reg o) ∧
    (∀ f', (s.modNode g n f).fld f' = s.fld f') ∧ (∀ k, (s.modNode g n f).ctx k = s.ctx k) ∧
    (∀ k, (s.modNode g n f).chan k = s.chan k) ∧ (∀ k, (s.modNode g n f).port k = s.port k) ∧
    (∀ k, (s.modNode g n f).base k = s.base k) ∧ (∀ k, (s.modNode g n f).counter k = s.counter k) ∧
    (∀ k, (s.modNode g n f).tileByte k = s.tileByte k) ∧ (∀ k, (s.modNode g n f).sysByte k = s.sysByte k) ∧
    (∀ k l, (s.modNode g n f).creditOf k l = s.creditOf k l) ∧ (∀ k, (s.modNode g n f).eclipsed k = s.eclipsed k) ∧
    (∀ k l, (s.modNode g n f).ctrOk k l = s.ctrOk k l) ∧ (s.modNode g n f).engines = s.engines ∧
    (s.modNode g n f).granting = s.granting ∧ (∀ k, (s.modNode g n f).vsOwn k = s.vsOwn k) ∧
    (∀ k, (s.modNode g n f).owes k = s.owes k) := by
  repeat' first | rfl | apply And.intro | intro _

/-- `countSlice` changes `graphs` alone. -/
@[simp] theorem State.countSlice_frame (g n : Nat)  :
    (s.countSlice g n).phase = s.phase ∧ (s.countSlice g n).pins = s.pins ∧ (s.countSlice g n).aon = s.aon ∧
    (s.countSlice g n).tc = s.tc ∧ (s.countSlice g n).retained = s.retained ∧ (s.countSlice g n).tmLost = s.tmLost ∧
    (s.countSlice g n).bringAt = s.bringAt ∧ (s.countSlice g n).coreLock = s.coreLock ∧ (s.countSlice g n).heldAcc = s.heldAcc ∧
    (s.countSlice g n).captured = s.captured ∧ (s.countSlice g n).msgWait = s.msgWait ∧ (s.countSlice g n).txns = s.txns ∧
    (s.countSlice g n).regs = s.regs ∧ (s.countSlice g n).sys = s.sys ∧ (s.countSlice g n).badRd = s.badRd ∧
    (s.countSlice g n).derived = s.derived ∧ (s.countSlice g n).tile = s.tile ∧ (s.countSlice g n).ecc = s.ecc ∧
    (s.countSlice g n).counters = s.counters ∧ (s.countSlice g n).scrubRow = s.scrubRow ∧ (s.countSlice g n).clears = s.clears ∧
    (s.countSlice g n).credit = s.credit ∧ (s.countSlice g n).ctxs = s.ctxs ∧ (s.countSlice g n).nextEntry = s.nextEntry ∧
    (s.countSlice g n).fetchTenant = s.fetchTenant ∧ (s.countSlice g n).grantFirst = s.grantFirst ∧
    (s.countSlice g n).grantUsed = s.grantUsed ∧ (s.countSlice g n).chans = s.chans ∧ (s.countSlice g n).waits = s.waits ∧
    (s.countSlice g n).poison = s.poison ∧ (s.countSlice g n).cpu = s.cpu ∧ (s.countSlice g n).upsets = s.upsets ∧
    (s.countSlice g n).tileOld = s.tileOld ∧ (s.countSlice g n).tileNo = s.tileNo ∧ (s.countSlice g n).ctrNow = s.ctrNow ∧
    (s.countSlice g n).owed = s.owed ∧ (s.countSlice g n).grantNow = s.grantNow ∧ (s.countSlice g n).vsOwners = s.vsOwners ∧
    (s.countSlice g n).readyNo = s.readyNo ∧ (s.countSlice g n).tlb = s.tlb ∧ (s.countSlice g n).ptrs = s.ptrs ∧
    (s.countSlice g n).walks = s.walks ∧ (s.countSlice g n).pfaults = s.pfaults ∧ (s.countSlice g n).wc = s.wc ∧
    (s.countSlice g n).wcFills = s.wcFills ∧ (s.countSlice g n).eclWait = s.eclWait ∧ (s.countSlice g n).reenter = s.reenter ∧
    (s.countSlice g n).copies = s.copies ∧ (s.countSlice g n).powerTo = s.powerTo ∧ (s.countSlice g n).heldSince = s.heldSince ∧
    (s.countSlice g n).epochNo = s.epochNo ∧ (s.countSlice g n).admitted = s.admitted ∧ (s.countSlice g n).coll = s.coll ∧
    (s.countSlice g n).relay = s.relay ∧ (s.countSlice g n).rep = s.rep ∧ (s.countSlice g n).mer = s.mer ∧
    (s.countSlice g n).free = s.free ∧ (s.countSlice g n).pending = s.pending ∧ (∀ o, (s.countSlice g n).reg o = s.reg o) ∧
    (∀ f', (s.countSlice g n).fld f' = s.fld f') ∧ (∀ k, (s.countSlice g n).ctx k = s.ctx k) ∧
    (∀ k, (s.countSlice g n).chan k = s.chan k) ∧ (∀ k, (s.countSlice g n).port k = s.port k) ∧
    (∀ k, (s.countSlice g n).base k = s.base k) ∧ (∀ k, (s.countSlice g n).counter k = s.counter k) ∧
    (∀ k, (s.countSlice g n).tileByte k = s.tileByte k) ∧ (∀ k, (s.countSlice g n).sysByte k = s.sysByte k) ∧
    (∀ k l, (s.countSlice g n).creditOf k l = s.creditOf k l) ∧ (∀ k, (s.countSlice g n).eclipsed k = s.eclipsed k) ∧
    (∀ k l, (s.countSlice g n).ctrOk k l = s.ctrOk k l) ∧ (s.countSlice g n).engines = s.engines ∧
    (s.countSlice g n).granting = s.granting ∧ (∀ k, (s.countSlice g n).vsOwn k = s.vsOwn k) ∧
    (∀ k, (s.countSlice g n).owes k = s.owes k) := by
  repeat' first | rfl | apply And.intro | intro _

/-- `setSysByte` changes `sys` and `cpu` alone. -/
@[simp] theorem State.setSysByte_frame (pa : Nat) (b : Byte)  :
    (s.setSysByte pa b).phase = s.phase ∧ (s.setSysByte pa b).pins = s.pins ∧ (s.setSysByte pa b).aon = s.aon ∧
    (s.setSysByte pa b).tc = s.tc ∧ (s.setSysByte pa b).retained = s.retained ∧ (s.setSysByte pa b).tmLost = s.tmLost ∧
    (s.setSysByte pa b).bringAt = s.bringAt ∧ (s.setSysByte pa b).coreLock = s.coreLock ∧
    (s.setSysByte pa b).heldAcc = s.heldAcc ∧ (s.setSysByte pa b).captured = s.captured ∧
    (s.setSysByte pa b).msgWait = s.msgWait ∧ (s.setSysByte pa b).txns = s.txns ∧ (s.setSysByte pa b).regs = s.regs ∧
    (s.setSysByte pa b).badRd = s.badRd ∧ (s.setSysByte pa b).derived = s.derived ∧ (s.setSysByte pa b).tile = s.tile ∧
    (s.setSysByte pa b).ecc = s.ecc ∧ (s.setSysByte pa b).counters = s.counters ∧ (s.setSysByte pa b).scrubRow = s.scrubRow ∧
    (s.setSysByte pa b).clears = s.clears ∧ (s.setSysByte pa b).credit = s.credit ∧ (s.setSysByte pa b).ctxs = s.ctxs ∧
    (s.setSysByte pa b).nextEntry = s.nextEntry ∧ (s.setSysByte pa b).fetchTenant = s.fetchTenant ∧
    (s.setSysByte pa b).grantFirst = s.grantFirst ∧ (s.setSysByte pa b).grantUsed = s.grantUsed ∧
    (s.setSysByte pa b).graphs = s.graphs ∧ (s.setSysByte pa b).chans = s.chans ∧ (s.setSysByte pa b).waits = s.waits ∧
    (s.setSysByte pa b).poison = s.poison ∧ (s.setSysByte pa b).upsets = s.upsets ∧ (s.setSysByte pa b).tileOld = s.tileOld ∧
    (s.setSysByte pa b).tileNo = s.tileNo ∧ (s.setSysByte pa b).ctrNow = s.ctrNow ∧ (s.setSysByte pa b).owed = s.owed ∧
    (s.setSysByte pa b).grantNow = s.grantNow ∧ (s.setSysByte pa b).vsOwners = s.vsOwners ∧
    (s.setSysByte pa b).readyNo = s.readyNo ∧ (s.setSysByte pa b).tlb = s.tlb ∧ (s.setSysByte pa b).ptrs = s.ptrs ∧
    (s.setSysByte pa b).walks = s.walks ∧ (s.setSysByte pa b).pfaults = s.pfaults ∧ (s.setSysByte pa b).wc = s.wc ∧
    (s.setSysByte pa b).wcFills = s.wcFills ∧ (s.setSysByte pa b).eclWait = s.eclWait ∧ (s.setSysByte pa b).reenter = s.reenter ∧
    (s.setSysByte pa b).copies = s.copies ∧ (s.setSysByte pa b).powerTo = s.powerTo ∧
    (s.setSysByte pa b).heldSince = s.heldSince ∧ (s.setSysByte pa b).epochNo = s.epochNo ∧
    (s.setSysByte pa b).admitted = s.admitted ∧ (s.setSysByte pa b).coll = s.coll ∧ (s.setSysByte pa b).relay = s.relay ∧
    (s.setSysByte pa b).rep = s.rep ∧ (s.setSysByte pa b).mer = s.mer ∧ (s.setSysByte pa b).free = s.free ∧
    (s.setSysByte pa b).pending = s.pending ∧ (∀ o, (s.setSysByte pa b).reg o = s.reg o) ∧
    (∀ f', (s.setSysByte pa b).fld f' = s.fld f') ∧ (∀ k, (s.setSysByte pa b).ctx k = s.ctx k) ∧
    (∀ k, (s.setSysByte pa b).chan k = s.chan k) ∧ (∀ k, (s.setSysByte pa b).port k = s.port k) ∧
    (∀ k, (s.setSysByte pa b).base k = s.base k) ∧ (∀ k, (s.setSysByte pa b).counter k = s.counter k) ∧
    (∀ k, (s.setSysByte pa b).graph k = s.graph k) ∧ (∀ k l, (s.setSysByte pa b).node k l = s.node k l) ∧
    (∀ k, (s.setSysByte pa b).tileByte k = s.tileByte k) ∧ (∀ k l, (s.setSysByte pa b).creditOf k l = s.creditOf k l) ∧
    (∀ k, (s.setSysByte pa b).eclipsed k = s.eclipsed k) ∧ (∀ k l, (s.setSysByte pa b).ctrOk k l = s.ctrOk k l) ∧
    (s.setSysByte pa b).engines = s.engines ∧ (s.setSysByte pa b).granting = s.granting ∧
    (∀ k, (s.setSysByte pa b).vsOwn k = s.vsOwn k) ∧ (∀ k, (s.setSysByte pa b).owes k = s.owes k) := by
  repeat' first | rfl | apply And.intro | intro _

/-- `setTileByte` changes `tile` alone. -/
@[simp] theorem State.setTileByte_frame (a : Nat) (b : Byte)  :
    (s.setTileByte a b).phase = s.phase ∧ (s.setTileByte a b).pins = s.pins ∧ (s.setTileByte a b).aon = s.aon ∧
    (s.setTileByte a b).tc = s.tc ∧ (s.setTileByte a b).retained = s.retained ∧ (s.setTileByte a b).tmLost = s.tmLost ∧
    (s.setTileByte a b).bringAt = s.bringAt ∧ (s.setTileByte a b).coreLock = s.coreLock ∧
    (s.setTileByte a b).heldAcc = s.heldAcc ∧ (s.setTileByte a b).captured = s.captured ∧
    (s.setTileByte a b).msgWait = s.msgWait ∧ (s.setTileByte a b).txns = s.txns ∧ (s.setTileByte a b).regs = s.regs ∧
    (s.setTileByte a b).sys = s.sys ∧ (s.setTileByte a b).badRd = s.badRd ∧ (s.setTileByte a b).derived = s.derived ∧
    (s.setTileByte a b).ecc = s.ecc ∧ (s.setTileByte a b).counters = s.counters ∧ (s.setTileByte a b).scrubRow = s.scrubRow ∧
    (s.setTileByte a b).clears = s.clears ∧ (s.setTileByte a b).credit = s.credit ∧ (s.setTileByte a b).ctxs = s.ctxs ∧
    (s.setTileByte a b).nextEntry = s.nextEntry ∧ (s.setTileByte a b).fetchTenant = s.fetchTenant ∧
    (s.setTileByte a b).grantFirst = s.grantFirst ∧ (s.setTileByte a b).grantUsed = s.grantUsed ∧
    (s.setTileByte a b).graphs = s.graphs ∧ (s.setTileByte a b).chans = s.chans ∧ (s.setTileByte a b).waits = s.waits ∧
    (s.setTileByte a b).poison = s.poison ∧ (s.setTileByte a b).cpu = s.cpu ∧ (s.setTileByte a b).upsets = s.upsets ∧
    (s.setTileByte a b).tileOld = s.tileOld ∧ (s.setTileByte a b).tileNo = s.tileNo ∧ (s.setTileByte a b).ctrNow = s.ctrNow ∧
    (s.setTileByte a b).owed = s.owed ∧ (s.setTileByte a b).grantNow = s.grantNow ∧ (s.setTileByte a b).vsOwners = s.vsOwners ∧
    (s.setTileByte a b).readyNo = s.readyNo ∧ (s.setTileByte a b).tlb = s.tlb ∧ (s.setTileByte a b).ptrs = s.ptrs ∧
    (s.setTileByte a b).walks = s.walks ∧ (s.setTileByte a b).pfaults = s.pfaults ∧ (s.setTileByte a b).wc = s.wc ∧
    (s.setTileByte a b).wcFills = s.wcFills ∧ (s.setTileByte a b).eclWait = s.eclWait ∧ (s.setTileByte a b).reenter = s.reenter ∧
    (s.setTileByte a b).copies = s.copies ∧ (s.setTileByte a b).powerTo = s.powerTo ∧
    (s.setTileByte a b).heldSince = s.heldSince ∧ (s.setTileByte a b).epochNo = s.epochNo ∧
    (s.setTileByte a b).admitted = s.admitted ∧ (s.setTileByte a b).coll = s.coll ∧ (s.setTileByte a b).relay = s.relay ∧
    (s.setTileByte a b).rep = s.rep ∧ (s.setTileByte a b).mer = s.mer ∧ (s.setTileByte a b).free = s.free ∧
    (s.setTileByte a b).pending = s.pending ∧ (∀ o, (s.setTileByte a b).reg o = s.reg o) ∧
    (∀ f', (s.setTileByte a b).fld f' = s.fld f') ∧ (∀ k, (s.setTileByte a b).ctx k = s.ctx k) ∧
    (∀ k, (s.setTileByte a b).chan k = s.chan k) ∧ (∀ k, (s.setTileByte a b).port k = s.port k) ∧
    (∀ k, (s.setTileByte a b).base k = s.base k) ∧ (∀ k, (s.setTileByte a b).counter k = s.counter k) ∧
    (∀ k, (s.setTileByte a b).graph k = s.graph k) ∧ (∀ k l, (s.setTileByte a b).node k l = s.node k l) ∧
    (∀ k, (s.setTileByte a b).sysByte k = s.sysByte k) ∧ (∀ k l, (s.setTileByte a b).creditOf k l = s.creditOf k l) ∧
    (∀ k, (s.setTileByte a b).eclipsed k = s.eclipsed k) ∧ (∀ k l, (s.setTileByte a b).ctrOk k l = s.ctrOk k l) ∧
    (s.setTileByte a b).engines = s.engines ∧ (s.setTileByte a b).granting = s.granting ∧
    (∀ k, (s.setTileByte a b).vsOwn k = s.vsOwn k) ∧ (∀ k, (s.setTileByte a b).owes k = s.owes k) := by
  repeat' first | rfl | apply And.intro | intro _

/-- `tileClear` changes `tile` and `ecc` alone. -/
@[simp] theorem State.tileClear_frame (a n : Nat)  :
    (s.tileClear a n).phase = s.phase ∧ (s.tileClear a n).pins = s.pins ∧ (s.tileClear a n).aon = s.aon ∧
    (s.tileClear a n).tc = s.tc ∧ (s.tileClear a n).retained = s.retained ∧ (s.tileClear a n).tmLost = s.tmLost ∧
    (s.tileClear a n).bringAt = s.bringAt ∧ (s.tileClear a n).coreLock = s.coreLock ∧ (s.tileClear a n).heldAcc = s.heldAcc ∧
    (s.tileClear a n).captured = s.captured ∧ (s.tileClear a n).msgWait = s.msgWait ∧ (s.tileClear a n).txns = s.txns ∧
    (s.tileClear a n).regs = s.regs ∧ (s.tileClear a n).sys = s.sys ∧ (s.tileClear a n).badRd = s.badRd ∧
    (s.tileClear a n).derived = s.derived ∧ (s.tileClear a n).counters = s.counters ∧ (s.tileClear a n).scrubRow = s.scrubRow ∧
    (s.tileClear a n).clears = s.clears ∧ (s.tileClear a n).credit = s.credit ∧ (s.tileClear a n).ctxs = s.ctxs ∧
    (s.tileClear a n).nextEntry = s.nextEntry ∧ (s.tileClear a n).fetchTenant = s.fetchTenant ∧
    (s.tileClear a n).grantFirst = s.grantFirst ∧ (s.tileClear a n).grantUsed = s.grantUsed ∧
    (s.tileClear a n).graphs = s.graphs ∧ (s.tileClear a n).chans = s.chans ∧ (s.tileClear a n).waits = s.waits ∧
    (s.tileClear a n).poison = s.poison ∧ (s.tileClear a n).cpu = s.cpu ∧ (s.tileClear a n).upsets = s.upsets ∧
    (s.tileClear a n).tileOld = s.tileOld ∧ (s.tileClear a n).tileNo = s.tileNo ∧ (s.tileClear a n).ctrNow = s.ctrNow ∧
    (s.tileClear a n).owed = s.owed ∧ (s.tileClear a n).grantNow = s.grantNow ∧ (s.tileClear a n).vsOwners = s.vsOwners ∧
    (s.tileClear a n).readyNo = s.readyNo ∧ (s.tileClear a n).tlb = s.tlb ∧ (s.tileClear a n).ptrs = s.ptrs ∧
    (s.tileClear a n).walks = s.walks ∧ (s.tileClear a n).pfaults = s.pfaults ∧ (s.tileClear a n).wc = s.wc ∧
    (s.tileClear a n).wcFills = s.wcFills ∧ (s.tileClear a n).eclWait = s.eclWait ∧ (s.tileClear a n).reenter = s.reenter ∧
    (s.tileClear a n).copies = s.copies ∧ (s.tileClear a n).powerTo = s.powerTo ∧ (s.tileClear a n).heldSince = s.heldSince ∧
    (s.tileClear a n).epochNo = s.epochNo ∧ (s.tileClear a n).admitted = s.admitted ∧ (s.tileClear a n).coll = s.coll ∧
    (s.tileClear a n).relay = s.relay ∧ (s.tileClear a n).rep = s.rep ∧ (s.tileClear a n).mer = s.mer ∧
    (s.tileClear a n).free = s.free ∧ (s.tileClear a n).pending = s.pending ∧ (∀ o, (s.tileClear a n).reg o = s.reg o) ∧
    (∀ f', (s.tileClear a n).fld f' = s.fld f') ∧ (∀ k, (s.tileClear a n).ctx k = s.ctx k) ∧
    (∀ k, (s.tileClear a n).chan k = s.chan k) ∧ (∀ k, (s.tileClear a n).port k = s.port k) ∧
    (∀ k, (s.tileClear a n).base k = s.base k) ∧ (∀ k, (s.tileClear a n).counter k = s.counter k) ∧
    (∀ k, (s.tileClear a n).graph k = s.graph k) ∧ (∀ k l, (s.tileClear a n).node k l = s.node k l) ∧
    (∀ k, (s.tileClear a n).sysByte k = s.sysByte k) ∧ (∀ k l, (s.tileClear a n).creditOf k l = s.creditOf k l) ∧
    (∀ k, (s.tileClear a n).eclipsed k = s.eclipsed k) ∧ (∀ k l, (s.tileClear a n).ctrOk k l = s.ctrOk k l) ∧
    (s.tileClear a n).engines = s.engines ∧ (s.tileClear a n).granting = s.granting ∧
    (∀ k, (s.tileClear a n).vsOwn k = s.vsOwn k) ∧ (∀ k, (s.tileClear a n).owes k = s.owes k) := by
  repeat' first | rfl | apply And.intro | intro _

/-- `advance` changes `aon` and `tc` alone. -/
@[simp] theorem State.advance_frame (n : Nat)  :
    (s.advance n).phase = s.phase ∧ (s.advance n).pins = s.pins ∧ (s.advance n).retained = s.retained ∧
    (s.advance n).tmLost = s.tmLost ∧ (s.advance n).bringAt = s.bringAt ∧ (s.advance n).coreLock = s.coreLock ∧
    (s.advance n).heldAcc = s.heldAcc ∧ (s.advance n).captured = s.captured ∧ (s.advance n).msgWait = s.msgWait ∧
    (s.advance n).txns = s.txns ∧ (s.advance n).regs = s.regs ∧ (s.advance n).sys = s.sys ∧ (s.advance n).badRd = s.badRd ∧
    (s.advance n).derived = s.derived ∧ (s.advance n).tile = s.tile ∧ (s.advance n).ecc = s.ecc ∧
    (s.advance n).counters = s.counters ∧ (s.advance n).scrubRow = s.scrubRow ∧ (s.advance n).clears = s.clears ∧
    (s.advance n).credit = s.credit ∧ (s.advance n).ctxs = s.ctxs ∧ (s.advance n).nextEntry = s.nextEntry ∧
    (s.advance n).fetchTenant = s.fetchTenant ∧ (s.advance n).grantFirst = s.grantFirst ∧ (s.advance n).grantUsed = s.grantUsed ∧
    (s.advance n).graphs = s.graphs ∧ (s.advance n).chans = s.chans ∧ (s.advance n).waits = s.waits ∧
    (s.advance n).poison = s.poison ∧ (s.advance n).cpu = s.cpu ∧ (s.advance n).upsets = s.upsets ∧
    (s.advance n).tileOld = s.tileOld ∧ (s.advance n).tileNo = s.tileNo ∧ (s.advance n).ctrNow = s.ctrNow ∧
    (s.advance n).owed = s.owed ∧ (s.advance n).grantNow = s.grantNow ∧ (s.advance n).vsOwners = s.vsOwners ∧
    (s.advance n).readyNo = s.readyNo ∧ (s.advance n).tlb = s.tlb ∧ (s.advance n).ptrs = s.ptrs ∧ (s.advance n).walks = s.walks ∧
    (s.advance n).pfaults = s.pfaults ∧ (s.advance n).wc = s.wc ∧ (s.advance n).wcFills = s.wcFills ∧
    (s.advance n).eclWait = s.eclWait ∧ (s.advance n).reenter = s.reenter ∧ (s.advance n).copies = s.copies ∧
    (s.advance n).powerTo = s.powerTo ∧ (s.advance n).heldSince = s.heldSince ∧ (s.advance n).epochNo = s.epochNo ∧
    (s.advance n).admitted = s.admitted ∧ (s.advance n).coll = s.coll ∧ (s.advance n).relay = s.relay ∧
    (s.advance n).rep = s.rep ∧ (s.advance n).mer = s.mer ∧ (s.advance n).free = s.free ∧ (s.advance n).pending = s.pending ∧
    (∀ o, (s.advance n).reg o = s.reg o) ∧ (∀ f', (s.advance n).fld f' = s.fld f') ∧ (∀ k, (s.advance n).ctx k = s.ctx k) ∧
    (∀ k, (s.advance n).chan k = s.chan k) ∧ (∀ k, (s.advance n).port k = s.port k) ∧ (∀ k, (s.advance n).base k = s.base k) ∧
    (∀ k, (s.advance n).counter k = s.counter k) ∧ (∀ k, (s.advance n).graph k = s.graph k) ∧
    (∀ k l, (s.advance n).node k l = s.node k l) ∧ (∀ k, (s.advance n).tileByte k = s.tileByte k) ∧
    (∀ k, (s.advance n).sysByte k = s.sysByte k) ∧ (∀ k l, (s.advance n).creditOf k l = s.creditOf k l) ∧
    (∀ k, (s.advance n).eclipsed k = s.eclipsed k) ∧ (∀ k l, (s.advance n).ctrOk k l = s.ctrOk k l) ∧
    (s.advance n).engines = s.engines ∧ (s.advance n).granting = s.granting ∧ (∀ k, (s.advance n).vsOwn k = s.vsOwn k) ∧
    (∀ k, (s.advance n).owes k = s.owes k) := by
  repeat' first | rfl | apply And.intro | intro _

/-- `advanceTo` changes `aon` and `tc` alone. -/
@[simp] theorem State.advanceTo_frame (t : Nat)  :
    (s.advanceTo t).phase = s.phase ∧ (s.advanceTo t).pins = s.pins ∧ (s.advanceTo t).retained = s.retained ∧
    (s.advanceTo t).tmLost = s.tmLost ∧ (s.advanceTo t).bringAt = s.bringAt ∧ (s.advanceTo t).coreLock = s.coreLock ∧
    (s.advanceTo t).heldAcc = s.heldAcc ∧ (s.advanceTo t).captured = s.captured ∧ (s.advanceTo t).msgWait = s.msgWait ∧
    (s.advanceTo t).txns = s.txns ∧ (s.advanceTo t).regs = s.regs ∧ (s.advanceTo t).sys = s.sys ∧
    (s.advanceTo t).badRd = s.badRd ∧ (s.advanceTo t).derived = s.derived ∧ (s.advanceTo t).tile = s.tile ∧
    (s.advanceTo t).ecc = s.ecc ∧ (s.advanceTo t).counters = s.counters ∧ (s.advanceTo t).scrubRow = s.scrubRow ∧
    (s.advanceTo t).clears = s.clears ∧ (s.advanceTo t).credit = s.credit ∧ (s.advanceTo t).ctxs = s.ctxs ∧
    (s.advanceTo t).nextEntry = s.nextEntry ∧ (s.advanceTo t).fetchTenant = s.fetchTenant ∧
    (s.advanceTo t).grantFirst = s.grantFirst ∧ (s.advanceTo t).grantUsed = s.grantUsed ∧ (s.advanceTo t).graphs = s.graphs ∧
    (s.advanceTo t).chans = s.chans ∧ (s.advanceTo t).waits = s.waits ∧ (s.advanceTo t).poison = s.poison ∧
    (s.advanceTo t).cpu = s.cpu ∧ (s.advanceTo t).upsets = s.upsets ∧ (s.advanceTo t).tileOld = s.tileOld ∧
    (s.advanceTo t).tileNo = s.tileNo ∧ (s.advanceTo t).ctrNow = s.ctrNow ∧ (s.advanceTo t).owed = s.owed ∧
    (s.advanceTo t).grantNow = s.grantNow ∧ (s.advanceTo t).vsOwners = s.vsOwners ∧ (s.advanceTo t).readyNo = s.readyNo ∧
    (s.advanceTo t).tlb = s.tlb ∧ (s.advanceTo t).ptrs = s.ptrs ∧ (s.advanceTo t).walks = s.walks ∧
    (s.advanceTo t).pfaults = s.pfaults ∧ (s.advanceTo t).wc = s.wc ∧ (s.advanceTo t).wcFills = s.wcFills ∧
    (s.advanceTo t).eclWait = s.eclWait ∧ (s.advanceTo t).reenter = s.reenter ∧ (s.advanceTo t).copies = s.copies ∧
    (s.advanceTo t).powerTo = s.powerTo ∧ (s.advanceTo t).heldSince = s.heldSince ∧ (s.advanceTo t).epochNo = s.epochNo ∧
    (s.advanceTo t).admitted = s.admitted ∧ (s.advanceTo t).coll = s.coll ∧ (s.advanceTo t).relay = s.relay ∧
    (s.advanceTo t).rep = s.rep ∧ (s.advanceTo t).mer = s.mer ∧ (s.advanceTo t).free = s.free ∧
    (s.advanceTo t).pending = s.pending ∧ (∀ o, (s.advanceTo t).reg o = s.reg o) ∧ (∀ f', (s.advanceTo t).fld f' = s.fld f') ∧
    (∀ k, (s.advanceTo t).ctx k = s.ctx k) ∧ (∀ k, (s.advanceTo t).chan k = s.chan k) ∧
    (∀ k, (s.advanceTo t).port k = s.port k) ∧ (∀ k, (s.advanceTo t).base k = s.base k) ∧
    (∀ k, (s.advanceTo t).counter k = s.counter k) ∧ (∀ k, (s.advanceTo t).graph k = s.graph k) ∧
    (∀ k l, (s.advanceTo t).node k l = s.node k l) ∧ (∀ k, (s.advanceTo t).tileByte k = s.tileByte k) ∧
    (∀ k, (s.advanceTo t).sysByte k = s.sysByte k) ∧ (∀ k l, (s.advanceTo t).creditOf k l = s.creditOf k l) ∧
    (∀ k, (s.advanceTo t).eclipsed k = s.eclipsed k) ∧ (∀ k l, (s.advanceTo t).ctrOk k l = s.ctrOk k l) ∧
    (s.advanceTo t).engines = s.engines ∧ (s.advanceTo t).granting = s.granting ∧ (∀ k, (s.advanceTo t).vsOwn k = s.vsOwn k) ∧
    (∀ k, (s.advanceTo t).owes k = s.owes k) := by
  repeat' first | rfl | apply And.intro | intro _

/-- The end of a counter's XCLK changes what has reached it in that XCLK and the waits that have been met (R284). -/
theorem State.ctrSettle_lit (c : Nat) : ∃ n w, s.ctrSettle c = { s with ctrNow := n, waits := w } := by
  unfold State.ctrSettle
  split <;> exact ⟨_, _, rfl⟩

/-- A counter operation changes the counters, what the present XCLK has brought them, the waits that have been met and the draw of free values
(R283, R284). -/
theorem State.ctrOp_lit (c : Nat) (op : Option (List Nat)) (v : W32) :
    ∃ m n w f, s.ctrOp c op v = { s with counters := m, ctrNow := n, waits := w, free := f } := by
  suffices h : ∀ t, s.ctrOp c op v = t → ∃ m n w f, t = { s with counters := m, ctrNow := n, waits := w, free := f } from h _ rfl
  intro t ht
  obtain ⟨_, _, h⟩ := State.ctrSettle_lit { s with free := s.free + 1 } c
  unfold State.ctrOp at ht
  split at ht
  · have hd : s.drawBool = (s.drawBool.1, { s with free := s.free + 1 }) := rfl
    rw [hd] at ht
    cases hb : s.drawBool.1 <;> rw [hb] at ht
    · simp only [h, Bool.false_eq_true, if_false] at ht
      exact ⟨_, _, _, _, ht.symm⟩
    · exact ⟨_, _, _, _, ht.symm⟩
  · exact ⟨_, _, _, _, ht.symm⟩

/-- A counter that no operation of the present XCLK has reached takes a set's value (R282). -/
@[simp] theorem State.setCounter_counter (c : Nat) (v : W32) (rk : List Nat) (h : s.ctrNow.find? (·.counter == c) = none) :
    (s.setCounter c v rk).counter c = v := by
  simp [State.setCounter, State.ctrOp, h, State.ctrPut, State.counter, CtrNow.push, CtrNow.stands, setByRank]

/-- A counter that no operation of the present XCLK has reached takes an add's sum (R282). -/
@[simp] theorem State.addCounter_counter (c : Nat) (v : W32) (h : s.ctrNow.find? (·.counter == c) = none) :
    (s.addCounter c v).counter c = s.counter c + v := by
  simp [State.addCounter, State.ctrOp, h, State.ctrPut, State.counter, CtrNow.push, CtrNow.stands]

/-- `setCounter` changes `counters`, `ctrNow`, `waits` and `free` alone. -/
@[simp] theorem State.setCounter_frame (c : Nat) (v : W32) (rk : List Nat) :
    (s.setCounter c v rk).phase = s.phase ∧ (s.setCounter c v rk).pins = s.pins ∧ (s.setCounter c v rk).aon = s.aon ∧
    (s.setCounter c v rk).tc = s.tc ∧ (s.setCounter c v rk).retained = s.retained ∧ (s.setCounter c v rk).tmLost = s.tmLost ∧
    (s.setCounter c v rk).bringAt = s.bringAt ∧ (s.setCounter c v rk).coreLock = s.coreLock ∧
    (s.setCounter c v rk).heldAcc = s.heldAcc ∧ (s.setCounter c v rk).captured = s.captured ∧
    (s.setCounter c v rk).msgWait = s.msgWait ∧ (s.setCounter c v rk).txns = s.txns ∧ (s.setCounter c v rk).regs = s.regs ∧
    (s.setCounter c v rk).sys = s.sys ∧ (s.setCounter c v rk).badRd = s.badRd ∧ (s.setCounter c v rk).derived = s.derived ∧
    (s.setCounter c v rk).tile = s.tile ∧ (s.setCounter c v rk).ecc = s.ecc ∧ (s.setCounter c v rk).scrubRow = s.scrubRow ∧
    (s.setCounter c v rk).clears = s.clears ∧ (s.setCounter c v rk).credit = s.credit ∧ (s.setCounter c v rk).ctxs = s.ctxs ∧
    (s.setCounter c v rk).nextEntry = s.nextEntry ∧ (s.setCounter c v rk).fetchTenant = s.fetchTenant ∧
    (s.setCounter c v rk).grantFirst = s.grantFirst ∧ (s.setCounter c v rk).grantUsed = s.grantUsed ∧
    (s.setCounter c v rk).graphs = s.graphs ∧ (s.setCounter c v rk).chans = s.chans ∧ (s.setCounter c v rk).poison = s.poison ∧
    (s.setCounter c v rk).cpu = s.cpu ∧ (s.setCounter c v rk).upsets = s.upsets ∧ (s.setCounter c v rk).tileOld = s.tileOld ∧
    (s.setCounter c v rk).tileNo = s.tileNo ∧ (s.setCounter c v rk).owed = s.owed ∧ (s.setCounter c v rk).grantNow = s.grantNow ∧
    (s.setCounter c v rk).vsOwners = s.vsOwners ∧ (s.setCounter c v rk).readyNo = s.readyNo ∧ (s.setCounter c v rk).tlb = s.tlb ∧
    (s.setCounter c v rk).ptrs = s.ptrs ∧ (s.setCounter c v rk).walks = s.walks ∧ (s.setCounter c v rk).pfaults = s.pfaults ∧
    (s.setCounter c v rk).wc = s.wc ∧ (s.setCounter c v rk).wcFills = s.wcFills ∧ (s.setCounter c v rk).eclWait = s.eclWait ∧
    (s.setCounter c v rk).reenter = s.reenter ∧ (s.setCounter c v rk).copies = s.copies ∧
    (s.setCounter c v rk).powerTo = s.powerTo ∧ (s.setCounter c v rk).heldSince = s.heldSince ∧
    (s.setCounter c v rk).epochNo = s.epochNo ∧ (s.setCounter c v rk).admitted = s.admitted ∧
    (s.setCounter c v rk).coll = s.coll ∧ (s.setCounter c v rk).relay = s.relay ∧ (s.setCounter c v rk).rep = s.rep ∧
    (s.setCounter c v rk).mer = s.mer ∧ (s.setCounter c v rk).pending = s.pending ∧
    (∀ o, (s.setCounter c v rk).reg o = s.reg o) ∧ (∀ f', (s.setCounter c v rk).fld f' = s.fld f') ∧
    (∀ k, (s.setCounter c v rk).ctx k = s.ctx k) ∧ (∀ k, (s.setCounter c v rk).chan k = s.chan k) ∧
    (∀ k, (s.setCounter c v rk).port k = s.port k) ∧ (∀ k, (s.setCounter c v rk).base k = s.base k) ∧
    (∀ k, (s.setCounter c v rk).graph k = s.graph k) ∧ (∀ k l, (s.setCounter c v rk).node k l = s.node k l) ∧
    (∀ k, (s.setCounter c v rk).tileByte k = s.tileByte k) ∧ (∀ k, (s.setCounter c v rk).sysByte k = s.sysByte k) ∧
    (∀ k l, (s.setCounter c v rk).creditOf k l = s.creditOf k l) ∧ (∀ k, (s.setCounter c v rk).eclipsed k = s.eclipsed k) ∧
    (∀ k l, (s.setCounter c v rk).ctrOk k l = s.ctrOk k l) ∧ (s.setCounter c v rk).engines = s.engines ∧
    (s.setCounter c v rk).granting = s.granting ∧ (∀ k, (s.setCounter c v rk).vsOwn k = s.vsOwn k) ∧
    (∀ k, (s.setCounter c v rk).owes k = s.owes k) := by
  obtain ⟨_, _, _, _, h⟩ := s.ctrOp_lit c (some rk) v
  unfold State.setCounter
  rw [h]
  repeat' first | rfl | apply And.intro | intro _

/-- `addCounter` changes `counters`, `ctrNow`, `waits` and `free` alone. -/
@[simp] theorem State.addCounter_frame (c : Nat) (v : W32)  :
    (s.addCounter c v).phase = s.phase ∧ (s.addCounter c v).pins = s.pins ∧ (s.addCounter c v).aon = s.aon ∧
    (s.addCounter c v).tc = s.tc ∧ (s.addCounter c v).retained = s.retained ∧ (s.addCounter c v).tmLost = s.tmLost ∧
    (s.addCounter c v).bringAt = s.bringAt ∧ (s.addCounter c v).coreLock = s.coreLock ∧ (s.addCounter c v).heldAcc = s.heldAcc ∧
    (s.addCounter c v).captured = s.captured ∧ (s.addCounter c v).msgWait = s.msgWait ∧ (s.addCounter c v).txns = s.txns ∧
    (s.addCounter c v).regs = s.regs ∧ (s.addCounter c v).sys = s.sys ∧ (s.addCounter c v).badRd = s.badRd ∧
    (s.addCounter c v).derived = s.derived ∧ (s.addCounter c v).tile = s.tile ∧ (s.addCounter c v).ecc = s.ecc ∧
    (s.addCounter c v).scrubRow = s.scrubRow ∧ (s.addCounter c v).clears = s.clears ∧ (s.addCounter c v).credit = s.credit ∧
    (s.addCounter c v).ctxs = s.ctxs ∧ (s.addCounter c v).nextEntry = s.nextEntry ∧
    (s.addCounter c v).fetchTenant = s.fetchTenant ∧ (s.addCounter c v).grantFirst = s.grantFirst ∧
    (s.addCounter c v).grantUsed = s.grantUsed ∧ (s.addCounter c v).graphs = s.graphs ∧ (s.addCounter c v).chans = s.chans ∧
    (s.addCounter c v).poison = s.poison ∧ (s.addCounter c v).cpu = s.cpu ∧ (s.addCounter c v).upsets = s.upsets ∧
    (s.addCounter c v).tileOld = s.tileOld ∧ (s.addCounter c v).tileNo = s.tileNo ∧ (s.addCounter c v).owed = s.owed ∧
    (s.addCounter c v).grantNow = s.grantNow ∧ (s.addCounter c v).vsOwners = s.vsOwners ∧
    (s.addCounter c v).readyNo = s.readyNo ∧ (s.addCounter c v).tlb = s.tlb ∧ (s.addCounter c v).ptrs = s.ptrs ∧
    (s.addCounter c v).walks = s.walks ∧ (s.addCounter c v).pfaults = s.pfaults ∧ (s.addCounter c v).wc = s.wc ∧
    (s.addCounter c v).wcFills = s.wcFills ∧ (s.addCounter c v).eclWait = s.eclWait ∧ (s.addCounter c v).reenter = s.reenter ∧
    (s.addCounter c v).copies = s.copies ∧ (s.addCounter c v).powerTo = s.powerTo ∧ (s.addCounter c v).heldSince = s.heldSince ∧
    (s.addCounter c v).epochNo = s.epochNo ∧ (s.addCounter c v).admitted = s.admitted ∧ (s.addCounter c v).coll = s.coll ∧
    (s.addCounter c v).relay = s.relay ∧ (s.addCounter c v).rep = s.rep ∧ (s.addCounter c v).mer = s.mer ∧
    (s.addCounter c v).pending = s.pending ∧ (∀ o, (s.addCounter c v).reg o = s.reg o) ∧
    (∀ f', (s.addCounter c v).fld f' = s.fld f') ∧ (∀ k, (s.addCounter c v).ctx k = s.ctx k) ∧
    (∀ k, (s.addCounter c v).chan k = s.chan k) ∧ (∀ k, (s.addCounter c v).port k = s.port k) ∧
    (∀ k, (s.addCounter c v).base k = s.base k) ∧ (∀ k, (s.addCounter c v).graph k = s.graph k) ∧
    (∀ k l, (s.addCounter c v).node k l = s.node k l) ∧ (∀ k, (s.addCounter c v).tileByte k = s.tileByte k) ∧
    (∀ k, (s.addCounter c v).sysByte k = s.sysByte k) ∧ (∀ k l, (s.addCounter c v).creditOf k l = s.creditOf k l) ∧
    (∀ k, (s.addCounter c v).eclipsed k = s.eclipsed k) ∧ (∀ k l, (s.addCounter c v).ctrOk k l = s.ctrOk k l) ∧
    (s.addCounter c v).engines = s.engines ∧ (s.addCounter c v).granting = s.granting ∧
    (∀ k, (s.addCounter c v).vsOwn k = s.vsOwn k) ∧ (∀ k, (s.addCounter c v).owes k = s.owes k) := by
  obtain ⟨_, _, _, _, h⟩ := s.ctrOp_lit c none v
  unfold State.addCounter
  rw [h]
  repeat' first | rfl | apply And.intro | intro _

/-- `setCredit` changes `credit` alone. -/
@[simp] theorem State.setCredit_frame (c t v : Nat)  :
    (s.setCredit c t v).phase = s.phase ∧ (s.setCredit c t v).pins = s.pins ∧ (s.setCredit c t v).aon = s.aon ∧
    (s.setCredit c t v).tc = s.tc ∧ (s.setCredit c t v).retained = s.retained ∧ (s.setCredit c t v).tmLost = s.tmLost ∧
    (s.setCredit c t v).bringAt = s.bringAt ∧ (s.setCredit c t v).coreLock = s.coreLock ∧
    (s.setCredit c t v).heldAcc = s.heldAcc ∧ (s.setCredit c t v).captured = s.captured ∧
    (s.setCredit c t v).msgWait = s.msgWait ∧ (s.setCredit c t v).txns = s.txns ∧ (s.setCredit c t v).regs = s.regs ∧
    (s.setCredit c t v).sys = s.sys ∧ (s.setCredit c t v).badRd = s.badRd ∧ (s.setCredit c t v).derived = s.derived ∧
    (s.setCredit c t v).tile = s.tile ∧ (s.setCredit c t v).ecc = s.ecc ∧ (s.setCredit c t v).counters = s.counters ∧
    (s.setCredit c t v).scrubRow = s.scrubRow ∧ (s.setCredit c t v).clears = s.clears ∧ (s.setCredit c t v).ctxs = s.ctxs ∧
    (s.setCredit c t v).nextEntry = s.nextEntry ∧ (s.setCredit c t v).fetchTenant = s.fetchTenant ∧
    (s.setCredit c t v).grantFirst = s.grantFirst ∧ (s.setCredit c t v).grantUsed = s.grantUsed ∧
    (s.setCredit c t v).graphs = s.graphs ∧ (s.setCredit c t v).chans = s.chans ∧ (s.setCredit c t v).waits = s.waits ∧
    (s.setCredit c t v).poison = s.poison ∧ (s.setCredit c t v).cpu = s.cpu ∧ (s.setCredit c t v).upsets = s.upsets ∧
    (s.setCredit c t v).tileOld = s.tileOld ∧ (s.setCredit c t v).tileNo = s.tileNo ∧ (s.setCredit c t v).ctrNow = s.ctrNow ∧
    (s.setCredit c t v).owed = s.owed ∧ (s.setCredit c t v).grantNow = s.grantNow ∧ (s.setCredit c t v).vsOwners = s.vsOwners ∧
    (s.setCredit c t v).readyNo = s.readyNo ∧ (s.setCredit c t v).tlb = s.tlb ∧ (s.setCredit c t v).ptrs = s.ptrs ∧
    (s.setCredit c t v).walks = s.walks ∧ (s.setCredit c t v).pfaults = s.pfaults ∧ (s.setCredit c t v).wc = s.wc ∧
    (s.setCredit c t v).wcFills = s.wcFills ∧ (s.setCredit c t v).eclWait = s.eclWait ∧ (s.setCredit c t v).reenter = s.reenter ∧
    (s.setCredit c t v).copies = s.copies ∧ (s.setCredit c t v).powerTo = s.powerTo ∧
    (s.setCredit c t v).heldSince = s.heldSince ∧ (s.setCredit c t v).epochNo = s.epochNo ∧
    (s.setCredit c t v).admitted = s.admitted ∧ (s.setCredit c t v).coll = s.coll ∧ (s.setCredit c t v).relay = s.relay ∧
    (s.setCredit c t v).rep = s.rep ∧ (s.setCredit c t v).mer = s.mer ∧ (s.setCredit c t v).free = s.free ∧
    (s.setCredit c t v).pending = s.pending ∧ (∀ o, (s.setCredit c t v).reg o = s.reg o) ∧
    (∀ f', (s.setCredit c t v).fld f' = s.fld f') ∧ (∀ k, (s.setCredit c t v).ctx k = s.ctx k) ∧
    (∀ k, (s.setCredit c t v).chan k = s.chan k) ∧ (∀ k, (s.setCredit c t v).port k = s.port k) ∧
    (∀ k, (s.setCredit c t v).base k = s.base k) ∧ (∀ k, (s.setCredit c t v).counter k = s.counter k) ∧
    (∀ k, (s.setCredit c t v).graph k = s.graph k) ∧ (∀ k l, (s.setCredit c t v).node k l = s.node k l) ∧
    (∀ k, (s.setCredit c t v).tileByte k = s.tileByte k) ∧ (∀ k, (s.setCredit c t v).sysByte k = s.sysByte k) ∧
    (∀ k, (s.setCredit c t v).eclipsed k = s.eclipsed k) ∧ (∀ k l, (s.setCredit c t v).ctrOk k l = s.ctrOk k l) ∧
    (s.setCredit c t v).engines = s.engines ∧ (s.setCredit c t v).granting = s.granting ∧
    (∀ k, (s.setCredit c t v).vsOwn k = s.vsOwn k) ∧ (∀ k, (s.setCredit c t v).owes k = s.owes k) := by
  repeat' first | rfl | apply And.intro | intro _

end Sys2Proof.Machine
end

