-- ==== Sys2Proof/Laws/Regs.lean ====
section
/-! SUPPORT. Registers and their fields: what a read gives after a write of the same register, of another one, of the same field and of
a field beside it; the same for memory bytes and counters. -/

namespace Sys2Proof.Machine

variable (s : State)

theorem State.reg_setReg (o p : Nat) (v : W64) : (s.setReg o v).reg p = if o = p then v else s.reg p := by
  simp [State.reg, State.setReg, Sparse.get_set]

@[simp] theorem State.reg_setReg_self (o : Nat) (v : W64) : (s.setReg o v).reg o = v := by simp [State.reg_setReg]

/-- A register with bits [lo + w − 1 : lo] replaced, bit by bit. -/
theorem putBits_getLsbD (r : W64) (lo w v i : Nat) (hi : i < 64) :
    (putBits r lo w v).getLsbD i = if lo ≤ i ∧ i < lo + w then v.testBit (i - lo) else r.getLsbD i := by
  rw [putBits, BitVec.getLsbD_or, BitVec.getLsbD_and, BitVec.getLsbD_not, BitVec.getLsbD_ofNat, BitVec.getLsbD_ofNat,
    Nat.testBit_shiftLeft, Nat.testBit_shiftLeft, Nat.testBit_two_pow_sub_one, Nat.testBit_mod_two_pow]
  by_cases h : lo ≤ i
  · by_cases h' : i < lo + w
    · have : i - lo < w := by omega
      simp [hi, h, h', this]
    · have : ¬i - lo < w := by omega
      simp [hi, h, h', this]
  · simp [hi, h]

theorem bits_testBit (v lo w i : Nat) : (bits v lo w).testBit i = (decide (i < w) && v.testBit (lo + i)) := by
  rw [bits, Nat.testBit_mod_two_pow, Nat.testBit_shiftRight]

/-- A field reads as the value set, cut to its width. -/
theorem State.fld_setFld_self (f : Fld) (v : Nat) (h : f.lo + f.w ≤ 64) : (s.setFld f v).fld f = v % 2 ^ f.w := by
  refine Nat.eq_of_testBit_eq fun i => ?_
  rw [State.fld, State.setFld, State.reg_setReg_self, bits_testBit, Nat.testBit_mod_two_pow, BitVec.testBit_toNat]
  by_cases hi : i < f.w
  · rw [putBits_getLsbD _ _ _ _ _ (by omega)]
    simp [hi]
  · simp [hi]

/-- A field of another register is as it was. -/
theorem State.fld_setFld_off (f g : Fld) (v : Nat) (h : f.off ≠ g.off) : (s.setFld f v).fld g = s.fld g := by
  simp [State.fld, State.setFld, State.reg_setReg, h]

/-- A field that shares no bit is as it was. -/
theorem State.fld_setFld_disj (f g : Fld) (v : Nat) (h : g.lo + g.w ≤ f.lo ∨ f.lo + f.w ≤ g.lo) : (s.setFld f v).fld g = s.fld g := by
  by_cases ho : f.off = g.off
  · refine Nat.eq_of_testBit_eq fun i => ?_
    rw [State.fld, State.setFld, ho, State.reg_setReg_self, State.fld, bits_testBit, bits_testBit, BitVec.testBit_toNat,
      BitVec.testBit_toNat]
    by_cases hi : i < g.w
    · by_cases h64 : g.lo + i < 64
      · rw [putBits_getLsbD _ _ _ _ _ h64, if_neg (by omega)]
      · rw [BitVec.getLsbD_of_ge _ _ (by omega), BitVec.getLsbD_of_ge _ _ (by omega)]
    · simp [hi]
  · exact s.fld_setFld_off f g v ho

/-- A field stays below 2 to the power of its width. -/
theorem State.fld_lt (f : Fld) : s.fld f < 2 ^ f.w := Nat.mod_lt _ (Nat.two_pow_pos _)

/-- A saturating counter (R419). -/
theorem State.fld_sat_self (f : Fld) (n : Nat) (h : f.lo + f.w ≤ 64) : (s.sat f n).fld f = Nat.min (2 ^ f.w - 1) (s.fld f + n) := by
  rw [State.sat, State.fld_setFld_self _ _ _ h, satInc]
  have := Nat.two_pow_pos f.w
  exact Nat.mod_eq_of_lt (Nat.lt_of_le_of_lt (Nat.min_le_left _ _) (by omega))

-- memories and counters

theorem State.tileByte_setTileByte (a b : Nat) (v : Byte) : (s.setTileByte a v).tileByte b = if a = b then v else s.tileByte b := by
  simp [State.tileByte, State.setTileByte, Sparse.get_set]

/-- An operation on one counter leaves the others as they are (R282). -/
theorem State.counter_ctrOp_ne (c d : Nat) (op : Option (List Nat)) (v : W32) (h : c ≠ d) : (s.ctrOp c op v).counter d = s.counter d := by
  have hp : ∀ (t : State) (x : CtrNow), x.counter = c → (t.ctrPut x).counter d = t.counter d := by
    intro t x hx
    simp [State.counter, State.ctrPut, Sparse.get_set, hx, h]
  have hs : ∀ t : State, (t.ctrSettle c).counter d = t.counter d := by
    intro t
    obtain ⟨_, _, e⟩ := t.ctrSettle_lit c
    rw [e]; rfl
  have hq : ∀ x : CtrNow, (x.push op v).counter = x.counter := by intro x; cases op <;> rfl
  unfold State.ctrOp
  split
  · rename_i x hx
    have hxc : x.counter = c := by simpa using List.find?_some hx
    have hd : s.drawBool = (s.drawBool.1, { s with free := s.free + 1 }) := rfl
    rw [hd]
    cases s.drawBool.1
    · simp only [Bool.false_eq_true, if_false]
      rw [hp _ _ (hq _), hs]; rfl
    · simp only [if_true]
      rw [hp _ _ ((hq x).trans hxc)]; rfl
  · exact hp _ _ (hq _)

theorem State.creditOf_setCredit (c t v : Nat) : (s.setCredit c t v).creditOf c t = v := by
  simp [State.creditOf, State.setCredit]

@[simp] theorem State.ctx_setCtx (c : Nat) (x : Ctx) : (s.setCtx c x).ctx c = x := by simp [State.ctx, State.setCtx]
theorem State.ctx_setCtx_ne (c d : Nat) (x : Ctx) (h : c ≠ d) : (s.setCtx c x).ctx d = s.ctx d := by
  simp [State.ctx, State.setCtx, Sparse.get_set, h]
@[simp] theorem State.chan_setChan (c : Nat) (x : Chan) : (s.setChan c x).chan c = x := by simp [State.chan, State.setChan]
theorem State.chan_setChan_ne (c d : Nat) (x : Chan) (h : c ≠ d) : (s.setChan c x).chan d = s.chan d := by
  simp [State.chan, State.setChan, Sparse.get_set, h]
@[simp] theorem State.port_setPort (c : Nat) (x : Port) : (s.setPort c x).port c = x := by simp [State.port, State.setPort]
theorem State.base_setBase_ne (c d : Nat) (x : Base) (h : c ≠ d) : (s.setBase c x).base d = s.base d := by
  simp [State.base, State.setBase, Sparse.get_set, h]
theorem State.port_setPort_ne (c d : Nat) (x : Port) (h : c ≠ d) : (s.setPort c x).port d = s.port d := by
  simp [State.port, State.setPort, Sparse.get_set, h]
@[simp] theorem State.advance_aon (n : Nat) : (s.advance n).aon = s.aon + n := rfl
@[simp] theorem State.advance_tc (n : Nat) : (s.advance n).tc = s.tc + BitVec.ofNat 64 n := rfl
theorem State.advanceTo_aon (n : Nat) : (s.advanceTo n).aon = Nat.max s.aon n := by
  show s.aon + (n - s.aon) = max s.aon n
  omega
@[simp] theorem State.base_setBase (c : Nat) (x : Base) : (s.setBase c x).base c = x := by simp [State.base, State.setBase]

/-- Tile memory after a store: the bytes stored, in ascending order; every other byte as before. -/
theorem State.tileByte_tileWr (a b : Nat) (l : List Byte) :
    (s.tileWr a l).tileByte b = if a ≤ b ∧ b < a + l.length then l.getD (b - a) 0 else s.tileByte b := by
  induction l generalizing s a with
  | nil =>
    rw [State.tileWr, if_neg]
    simp
  | cons x l ih =>
    rw [State.tileWr, ih, State.tileByte_setTileByte]
    simp only [List.length_cons]
    by_cases h : a + 1 ≤ b ∧ b < a + 1 + l.length
    · rw [if_pos h, if_pos (by omega), show b - a = (b - (a + 1)) + 1 by omega, List.getD_cons_succ]
    · rw [if_neg h]
      by_cases hb : a = b
      · subst hb
        simp
      · rw [if_neg hb, if_neg (by omega)]

/-- System memory as stored, without the table entries whose derived form is open (R95). -/
theorem State.sys_sysWr (a b : Nat) (l : List Byte) :
    Sparse.get (fun _ => 0) (s.sysWr a l).sys b
      = if a ≤ b ∧ b < a + l.length then l.getD (b - a) 0 else Sparse.get (fun _ => 0) s.sys b := by
  induction l generalizing s a with
  | nil =>
    rw [State.sysWr, if_neg]
    simp
  | cons x l ih =>
    rw [State.sysWr, ih]
    simp only [List.length_cons, State.setSysByte, State.setRawByte, Sparse.get_set]
    by_cases h : a + 1 ≤ b ∧ b < a + 1 + l.length
    · rw [if_pos h, if_pos (by omega), show b - a = (b - (a + 1)) + 1 by omega, List.getD_cons_succ]
    · rw [if_neg h]
      by_cases hb : a = b
      · subst hb
        simp
      · rw [if_neg hb, if_neg (by omega)]

end Sys2Proof.Machine
end

