-- ==== Sys2Proof/Laws/Access.lean ====
section
/-! SUPPORT. What an access of tile memory does when the partition check admits it and no error lies in its granules (R194, R200): a
read gives the bytes and changes nothing, a write stores its bytes and changes nothing else. -/

namespace Sys2Proof.Machine

variable {s : State} {q : Req} {a n : Nat}

theorem on_pure {α : Type} (x : α) (s : State) : (pure x : M α).on s = (.ok x, s) := rfl
theorem on_throw {α : Type} (e : Err) (s : State) : (throw e : M α).on s = (.error e, s) := rfl
theorem on_get (s : State) : (get : M State).on s = (.ok s, s) := rfl
theorem on_set (t s : State) : (set t : M PUnit).on s = (.ok (), t) := rfl
theorem on_modify (f : State → State) (s : State) : (modify f : M PUnit).on s = (.ok (), f s) := rfl

/-- One step after another. -/
theorem on_bind {α β : Type} (m : M α) (f : α → M β) (s : State) :
    (m >>= f).on s = match m.on s with | (.ok x, t) => (f x).on t | (.error e, t) => (.error e, t) := by
  show (ExceptT.bind m f).run s = _
  simp only [ExceptT.bind, ExceptT.mk, M.on, bind, StateT.bind, ExceptT.bindCont, ExceptT.run]
  cases h : m s with
  | mk r t => cases r <;> rfl

theorem on_bind_ok {α β : Type} {m : M α} {f : α → M β} {s t : State} {x : α} (h : m.on s = (.ok x, t)) :
    (m >>= f).on s = (f x).on t := by
  rw [on_bind, h]

theorem on_bind_error {α β : Type} {m : M α} {f : α → M β} {s t : State} {e : Err} (h : m.on s = (.error e, t)) :
    (m >>= f).on s = (.error e, t) := by
  rw [on_bind, h]

theorem tileCheck_ok {w : Bool} (h : s.tileOkRange q.t w a n = true) : (tileCheck q w a n).on s = (.ok (), s) := by
  unfold tileCheck
  rw [on_bind_ok (on_get s), if_pos h]
  rfl

theorem eccCheck_clean {w : Bool} (h : s.eccIn a n = []) : (eccCheck q a n w).on s = (.ok (), s) := by
  unfold eccCheck
  rw [on_bind_ok (on_get s)]
  simp only [h, List.find?_nil]
  rfl

/-- The state in which a work's accesses of a range of tile memory meet nothing but its bytes: no error in the granules, no change in the
datapath of the unit, no bytes that have still to be passed to the work, no earlier byte that it might still see. -/
structure Clean (s : State) (q : Req) (a n : Nat) : Prop where
  ecc : s.eccIn a n = []
  upsets : s.upsets.contains q.unit = false
  passed : s.unpassed q.who a n = false
  seen : ∀ e ∈ s.tileOld, ∀ w, e.no ≤ s.floorOf q.who w

theorem on_mapM {α β : Type} {f : α → M β} {g : α → β} {l : List α} (h : ∀ x ∈ l, (f x).on s = (.ok (g x), s)) :
    (l.mapM f).on s = (.ok (l.map g), s) := by
  induction l with
  | nil => rfl
  | cons x l ih =>
    rw [List.mapM_cons, on_bind_ok (h x List.mem_cons_self), on_bind_ok (ih fun y hy => h y (List.mem_cons_of_mem _ hy))]
    rfl

/-- The words of a range hold its addresses in order. -/
theorem words64_addrs (a n : Nat) : (words64 a n).flatMap (fun x => List.range' x.1 x.2) = List.range' a n := by
  unfold words64
  split
  · rename_i h
    subst h
    rfl
  · rename_i h
    have key : ∀ k, k ≤ (a + n - 1) / 64 - a / 64 →
        ((List.range (k + 1)).map (fun k => (Nat.max a ((a / 64 + k) * 64), Nat.min (a + n) ((a / 64 + k + 1) * 64) - Nat.max a ((a / 64 + k) * 64)))).flatMap
          (fun x => List.range' x.1 x.2) = List.range' a (Nat.min (a + n) ((a / 64 + k + 1) * 64) - a) := by
      intro k hk
      induction k with
      | zero =>
        have : Nat.max a (a / 64 * 64) = a := Nat.max_eq_left (by omega)
        simp [List.range_succ, this]
      | succ k ih =>
        have e1 : Nat.max a ((a / 64 + (k + 1)) * 64) = a + (Nat.min (a + n) ((a / 64 + k + 1) * 64) - a) := by
          simp only [Nat.max_def, Nat.min_def]
          split <;> split <;> omega
        have e2 : Nat.min (a + n) ((a / 64 + (k + 1) + 1) * 64) - a
            = (Nat.min (a + n) ((a / 64 + k + 1) * 64) - a)
              + (Nat.min (a + n) ((a / 64 + (k + 1) + 1) * 64) - (a + (Nat.min (a + n) ((a / 64 + k + 1) * 64) - a))) := by
          simp only [Nat.min_def]
          split <;> split <;> omega
        rw [List.range_succ, List.map_append, List.flatMap_append, ih (by omega), e2, ← List.range'_append_1]
        simp [e1]
    have := key _ (Nat.le_refl _)
    rw [show Nat.min (a + n) ((a / 64 + ((a + n - 1) / 64 - a / 64) + 1) * 64) - a = n by
      simp only [Nat.min_def]; split <;> omega] at this
    exact this

theorem tileRd_map (a n : Nat) : s.tileRd a n = (List.range' a n).map s.tileByte := by
  induction n generalizing a with
  | zero => rfl
  | succ n ih => rw [State.tileRd, ih, List.range'_succ]; rfl

theorem tileWr_fold (f : Nat → Byte) (a n : Nat) (s : State) :
    s.tileWr a ((List.range' a n).map f) = (List.range' a n).foldl (fun s b => s.setTileByte b (f b)) s := by
  induction n generalizing a s with
  | zero => rfl
  | succ n ih => rw [List.range'_succ, List.map_cons, State.tileWr, ih]; rfl

theorem map_range' (l : List Byte) (a : Nat) : (List.range' a l.length).map (fun b => l.getD (b - a) 0) = l := by
  apply List.ext_getElem (by simp)
  intro i h1 h2
  simp [List.getElem_range', h2]

theorem wordRead_clean {w : Who} (h : ∀ e ∈ s.tileOld, ∀ v, e.no ≤ s.floorOf w v) : (wordRead w a n).on s = (.ok (s.tileRd a n), s) := by
  unfold wordRead
  rw [on_bind_ok (on_get s)]
  have : (s.tileOld.any fun e => s.floorOf w (a / 64) < e.no && a ≤ e.a && e.a < a + n) = false := by
    rw [List.any_eq_false]
    intro e he
    have := h e he (a / 64)
    simp only [Bool.and_eq_true, decide_eq_true_eq]
    omega
  dsimp only
  rw [this]
  rfl

/-- A read of tile memory gives its bytes. -/
theorem tileRead_clean (h : s.tileOkRange q.t false a n = true) (hc : Clean s q a n) :
    (tileRead q a n).on s = (.ok (s.tileRd a n), s) := by
  unfold tileRead
  rw [on_bind_ok (tileCheck_ok h), on_bind_ok (on_get s)]
  simp only [hc.passed, Bool.false_eq_true, if_false]
  rw [on_bind_ok (eccCheck_clean hc.ecc), on_bind_ok (on_mapM fun x _ => wordRead_clean hc.seen), on_pure]
  simp only [tileRd_map, ← List.flatMap_def, ← List.map_flatMap, words64_addrs]

-- writes

theorem foldl_setTileByte_lit (l : List (Nat × Byte)) (s : State) (no : Nat) (old : List TileOld) :
    l.foldl (fun s c => s.setTileByte c.1 c.2) { s with tileNo := no, tileOld := old }
      = { l.foldl (fun s c => s.setTileByte c.1 c.2) s with tileNo := no, tileOld := old } := by
  induction l generalizing s with
  | nil => rfl
  | cons x l ih => exact ih (s.setTileByte x.1 x.2)

/-- A write of one word changes its bytes, and what the order of accesses keeps about it (R291). -/
theorem tilePut_lit (cells : List (Nat × Byte)) : ∃ no old gs, s.tilePut q cells
    = { cells.foldl (fun s c => s.setTileByte c.1 c.2) s with tileNo := no, tileOld := old, graphs := gs } := by
  unfold State.tilePut
  extract_lets no live old t
  have ht : t = { cells.foldl (fun s c => s.setTileByte c.1 c.2) s with tileNo := no, tileOld := s.tileOld ++ old } :=
    foldl_setTileByte_lit _ _ _ _
  rw [ht]
  split
  · exact ⟨_, _, _, rfl⟩
  · unfold State.sees
    split <;> exact ⟨_, _, _, rfl⟩

theorem on_forM {α : Type} {f : α → M PUnit} {l : List α} (h : ∀ x ∈ l, (f x).on s = (.ok (), s)) : (l.forM f).on s = (.ok (), s) := by
  induction l with
  | nil => rfl
  | cons x l ih =>
    exact (on_bind_ok (h x List.mem_cons_self)).trans (ih fun y hy => h y (List.mem_cons_of_mem _ hy))

theorem wordCheck_clean {u d : Nat} {w : List (Nat × Byte)} (h : s.upsets.contains q.unit = false) :
    (wordCheck q u d w).on s = (.ok (), s) := by
  unfold wordCheck
  rw [on_bind_ok (on_get s), h]
  rfl

/-- A write of whole bytes of one word stores them. -/
theorem tileWord_clean (f : Nat → Byte) (hu : s.upsets.contains q.unit = false) (he : s.eccIn a n = []) : ∃ no old gs,
    (tileWord q ((List.range n).map fun i => (a + i, 255, (f (a + i)).toNat))).on s
      = (.ok (), { (List.range' a n).foldl (fun s b => s.setTileByte b (f b)) s with tileNo := no, tileOld := old, graphs := gs }) := by
  have hn : ∀ e ∈ s.ecc, ∀ i < n, e.1 ≠ (a + i) / 8 := by
    intro e h1 i hi h2
    unfold State.eccIn at he
    rw [if_neg (by omega), List.filter_eq_nil_iff] at he
    have := he e h1
    simp only [Bool.and_eq_true, decide_eq_true_eq, not_and] at this
    omega
  unfold tileWord
  rw [on_bind_ok (on_get s)]
  extract_lets cells full
  have hc : cells = (List.range' a n).map fun b => (b, f b) := by
    simp only [cells, List.map_map, List.range'_eq_map_range]
    refine List.map_congr_left fun i _ => ?_
    simp
  have hf : ∀ e ∈ s.ecc, full e.1 = false := by
    intro e h1
    rw [Bool.eq_false_iff]
    intro h2
    simp only [full, List.all_eq_true, List.mem_range, List.any_eq_true, List.mem_map, Bool.and_eq_true, beq_iff_eq] at h2
    obtain ⟨x, ⟨i, hi, rfl⟩, h3, -⟩ := h2 0 (by omega)
    exact hn e h1 i hi (by omega)
  obtain ⟨no, old, gs, hp⟩ := tilePut_lit (s := s) (q := q) cells
  refine ⟨no, old, gs, ?_⟩
  rw [on_bind_ok (wordCheck_clean hu), on_bind_ok (on_forM (s := s) ?_), on_modify]
  · have : s.ecc.filter (fun e => !full e.1) = s.ecc := by
      rw [List.filter_eq_self]
      intro e h1
      rw [hf e h1]; rfl
    rw [this, hp, hc, List.foldl_map]
  · intro g hg
    refine eccCheck_clean ?_
    rw [List.mem_filter, List.mem_eraseDups, List.mem_map] at hg
    obtain ⟨⟨x, hx, rfl⟩, -⟩ := hg
    rw [List.mem_map] at hx
    obtain ⟨i, hi, rfl⟩ := hx
    unfold State.eccIn
    rw [if_neg (by omega), List.filter_eq_nil_iff]
    intro e h1
    have := hn e h1 i (List.mem_range.mp hi)
    simp only [Bool.and_eq_true, decide_eq_true_eq, not_and]
    omega

theorem foldl_setTileByte_keeps (f : Nat → Byte) (l : List Nat) (s : State) :
    (l.foldl (fun s b => s.setTileByte b (f b)) s).ecc = s.ecc ∧ (l.foldl (fun s b => s.setTileByte b (f b)) s).upsets = s.upsets := by
  induction l generalizing s with
  | nil => exact ⟨rfl, rfl⟩
  | cons x l ih => exact ih (s.setTileByte x (f x))

theorem foldl_lit (f : Nat → Byte) (l : List Nat) (s : State) (no : Nat) (old : List TileOld) (gs : List Graph) :
    l.foldl (fun s b => s.setTileByte b (f b)) { s with tileNo := no, tileOld := old, graphs := gs }
      = { l.foldl (fun s b => s.setTileByte b (f b)) s with tileNo := no, tileOld := old, graphs := gs } := by
  induction l generalizing s with
  | nil => rfl
  | cons x l ih => exact ih (s.setTileByte x (f x))

theorem forM_tileWord (f : Nat → Byte) (ws : List (Nat × Nat)) (s : State) (hu : s.upsets.contains q.unit = false)
    (he : ∀ x ∈ ws, s.eccIn x.1 x.2 = []) : ∃ no old gs,
    (ws.forM fun x => tileWord q ((List.range x.2).map fun i => (x.1 + i, 255, (f (x.1 + i)).toNat))).on s
      = (.ok (), { (ws.flatMap fun x => List.range' x.1 x.2).foldl (fun s b => s.setTileByte b (f b)) s with
          tileNo := no, tileOld := old, graphs := gs }) := by
  induction ws generalizing s with
  | nil => exact ⟨_, _, _, rfl⟩
  | cons x ws ih =>
    obtain ⟨no, old, gs, h1⟩ := tileWord_clean (s := s) (q := q) f hu (he x List.mem_cons_self)
    rw [List.flatMap_cons, List.foldl_append]
    have hk := foldl_setTileByte_keeps f (List.range' x.1 x.2) s
    obtain ⟨no', old', gs', h2⟩ := ih { (List.range' x.1 x.2).foldl (fun s b => s.setTileByte b (f b)) s with
      tileNo := no, tileOld := old, graphs := gs } (by rw [← hu, ← hk.2]) (by
        intro y hy
        have := he y (List.mem_cons_of_mem _ hy)
        unfold State.eccIn at this ⊢
        simpa only [hk.1] using this)
    rw [foldl_lit f (ws.flatMap fun x => List.range' x.1 x.2)
      ((List.range' x.1 x.2).foldl (fun s b => s.setTileByte b (f b)) s) no old gs] at h2
    exact ⟨no', old', gs', (on_bind_ok h1).trans h2⟩

/-- A range within one whose granules hold no error holds none either. -/
theorem eccIn_sub {b m : Nat} (h : s.eccIn a n = []) (hb : a ≤ b) (hm : b + m ≤ a + n) : s.eccIn b m = [] := by
  unfold State.eccIn at h ⊢
  split
  · rfl
  · rw [if_neg (by omega), List.filter_eq_nil_iff] at h
    rw [List.filter_eq_nil_iff]
    intro e he
    have := h e he
    simp only [Bool.and_eq_true, decide_eq_true_eq, not_and] at this ⊢
    omega

/-- A write of tile memory stores its bytes, and beside them changes only what the order of accesses keeps (R291). -/
theorem tileWrite_clean {l : List Byte} (h : s.tileOkRange q.t true a l.length = true) (hu : s.upsets.contains q.unit = false)
    (he : s.eccIn a l.length = []) : ∃ no old gs,
    (tileWrite q a l).on s = (.ok (), { s.tileWr a l with tileNo := no, tileOld := old, graphs := gs }) := by
  have hw : ∀ x ∈ words64 a l.length, s.eccIn x.1 x.2 = [] := by
    intro x hx
    unfold words64 at hx
    split at hx
    · cases hx
    · rw [List.mem_map] at hx
      obtain ⟨k, hk, rfl⟩ := hx
      rw [List.mem_range] at hk
      exact eccIn_sub he (Nat.le_max_left _ _) (by simp only [Nat.max_def, Nat.min_def]; split <;> split <;> omega)
  obtain ⟨no, old, gs, h1⟩ := forM_tileWord (q := q) (fun b => l.getD (b - a) 0) (words64 a l.length) s hu hw
  refine ⟨no, old, gs, ?_⟩
  unfold tileWrite tileStore
  rw [on_bind_ok (tileCheck_ok h), h1, words64_addrs, ← tileWr_fold, map_range']

end Sys2Proof.Machine
end

