-- ==== Sys2Proof/Laws/Reports.lean ====
section
/-! SUPPORT. What reporting leaves alone: an interrupt event, a frame that leaves or arrives, a fault recorded by the collector change
registers, waiting messages, the collector, the relay, replica membership and the fault outputs, and nothing else. -/

namespace Sys2Proof.Machine

/-- The state without what a report changes: registers, waiting messages, captured faults, the collector, the relay, replica
membership, the fault outputs. -/
def State.rest (s : State) : State :=
  { s with
    regs := [], msgWait := [], captured := [], coll := {}, relay := {}, rep := {}
    pins := { s.pins with fltCor := false, fltCon := false, fltFat := false, errN := false } }

variable (s : State)

theorem frame_of_rest {s t : State} (h : t.rest = s.rest) :
    t.phase = s.phase ∧ t.aon = s.aon ∧ t.tc = s.tc ∧ t.retained = s.retained ∧ t.tmLost = s.tmLost ∧ t.bringAt = s.bringAt ∧
    t.coreLock = s.coreLock ∧ t.heldAcc = s.heldAcc ∧ t.txns = s.txns ∧ t.sys = s.sys ∧ t.badRd = s.badRd ∧
    t.derived = s.derived ∧ t.tile = s.tile ∧ t.ecc = s.ecc ∧ t.counters = s.counters ∧ t.scrubRow = s.scrubRow ∧
    t.clears = s.clears ∧ t.credit = s.credit ∧ t.ctxs = s.ctxs ∧ t.nextEntry = s.nextEntry ∧ t.fetchTenant = s.fetchTenant ∧
    t.grantFirst = s.grantFirst ∧ t.grantUsed = s.grantUsed ∧ t.graphs = s.graphs ∧ t.chans = s.chans ∧ t.waits = s.waits ∧
    t.poison = s.poison ∧ t.cpu = s.cpu ∧ t.upsets = s.upsets ∧ t.tileOld = s.tileOld ∧ t.tileNo = s.tileNo ∧
    t.ctrNow = s.ctrNow ∧ t.owed = s.owed ∧ t.grantNow = s.grantNow ∧ t.vsOwners = s.vsOwners ∧ t.readyNo = s.readyNo ∧
    t.tlb = s.tlb ∧ t.ptrs = s.ptrs ∧ t.walks = s.walks ∧ t.pfaults = s.pfaults ∧ t.wc = s.wc ∧ t.wcFills = s.wcFills ∧
    t.eclWait = s.eclWait ∧ t.reenter = s.reenter ∧ t.copies = s.copies ∧ t.powerTo = s.powerTo ∧ t.heldSince = s.heldSince ∧
    t.epochNo = s.epochNo ∧ t.admitted = s.admitted ∧ t.mer = s.mer ∧ t.free = s.free ∧ t.pending = s.pending ∧
    t.pins.aonRstN = s.pins.aonRstN ∧ t.pins.rstN = s.pins.rstN ∧ t.pins.coreReq = s.pins.coreReq ∧
    t.pins.coreAck = s.pins.coreAck ∧ t.pins.tmReq = s.pins.tmReq ∧ t.pins.tmRet = s.pins.tmRet ∧ t.pins.tmAck = s.pins.tmAck ∧
    t.pins.isoN = s.pins.isoN ∧ t.pins.therm = s.pins.therm ∧ t.pins.clkRun = s.pins.clkRun ∧ t.pins.quiet = s.pins.quiet ∧
    (∀ k, t.ctx k = s.ctx k) ∧ (∀ k, t.chan k = s.chan k) ∧ (∀ k, t.base k = s.base k) ∧ (∀ k, t.counter k = s.counter k) ∧
    (∀ k, t.graph k = s.graph k) ∧ (∀ k l, t.node k l = s.node k l) ∧ (∀ k, t.tileByte k = s.tileByte k) ∧
    (∀ k, t.sysByte k = s.sysByte k) ∧ (∀ k l, t.creditOf k l = s.creditOf k l) ∧ t.collUp = s.collUp := by
  have hp : t.rest.pins = s.rest.pins := congrArg State.pins h
  have hc : t.rest.ctxs = s.rest.ctxs ∧ t.rest.chans = s.rest.chans ∧ t.rest.mer = s.rest.mer ∧ t.rest.counters = s.rest.counters
      ∧ t.rest.graphs = s.rest.graphs ∧ t.rest.tile = s.rest.tile ∧ t.rest.sys = s.rest.sys ∧ t.rest.derived = s.rest.derived
      ∧ t.rest.credit = s.rest.credit ∧ t.rest.phase = s.rest.phase := by
    rw [h]
    repeat' constructor
  refine ⟨(congrArg State.phase h :), (congrArg State.aon h :), (congrArg State.tc h :), (congrArg State.retained h :), (congrArg State.tmLost h :), (congrArg State.bringAt h :), (congrArg State.coreLock h :), (congrArg State.heldAcc h :), (congrArg State.txns h :), (congrArg State.sys h :), (congrArg State.badRd h :), (congrArg State.derived h :), (congrArg State.tile h :), (congrArg State.ecc h :), (congrArg State.counters h :), (congrArg State.scrubRow h :), (congrArg State.clears h :), (congrArg State.credit h :), (congrArg State.ctxs h :), (congrArg State.nextEntry h :), (congrArg State.fetchTenant h :), (congrArg State.grantFirst h :), (congrArg State.grantUsed h :), (congrArg State.graphs h :), (congrArg State.chans h :), (congrArg State.waits h :), (congrArg State.poison h :), (congrArg State.cpu h :), (congrArg State.upsets h :), (congrArg State.tileOld h :), (congrArg State.tileNo h :), (congrArg State.ctrNow h :), (congrArg State.owed h :), (congrArg State.grantNow h :), (congrArg State.vsOwners h :), (congrArg State.readyNo h :), (congrArg State.tlb h :), (congrArg State.ptrs h :), (congrArg State.walks h :), (congrArg State.pfaults h :), (congrArg State.wc h :), (congrArg State.wcFills h :), (congrArg State.eclWait h :), (congrArg State.reenter h :), (congrArg State.copies h :), (congrArg State.powerTo h :), (congrArg State.heldSince h :), (congrArg State.epochNo h :), (congrArg State.admitted h :), (congrArg State.mer h :), (congrArg State.free h :), (congrArg State.pending h :), (congrArg Pins.aonRstN hp :), (congrArg Pins.rstN hp :), (congrArg Pins.coreReq hp :), (congrArg Pins.coreAck hp :), (congrArg Pins.tmReq hp :), (congrArg Pins.tmRet hp :), (congrArg Pins.tmAck hp :), (congrArg Pins.isoN hp :), (congrArg Pins.therm hp :), (congrArg Pins.clkRun hp :), (congrArg Pins.quiet hp :), ?_⟩
  refine ⟨fun _ => ?_, fun _ => ?_, fun _ => ?_, fun _ => ?_, fun _ => ?_, fun _ _ => ?_, fun _ => ?_, fun _ => ?_, fun _ _ => ?_, ?_⟩
  · exact congrArg (Sparse.get _ · _) hc.1
  · exact congrArg (Sparse.get _ · _) hc.2.1
  · exact congrArg (fun m : Meridian => Sparse.get _ m.bases _) hc.2.2.1
  · exact congrArg (Sparse.get _ · _) hc.2.2.2.1
  · exact congrArg (List.find? _) hc.2.2.2.2.1
  · exact congrArg (fun l : List Graph => (l.find? _).bind (·.node _)) hc.2.2.2.2.1
  · exact congrArg (Sparse.get _ · _) hc.2.2.2.2.2.1
  · have h1 : t.sys = s.sys := hc.2.2.2.2.2.2.1
    have h2 : t.derived = s.derived := hc.2.2.2.2.2.2.2.1
    have h3 : t.cpu = s.cpu := (congrArg State.cpu h :)
    unfold State.sysByte State.rawByte
    rw [h1, h2, h3]
  · exact congrArg (Sparse.get _ · _) hc.2.2.2.2.2.2.2.2.1
  · exact congrArg (fun p : Phase => p == .bringup || p == .x0 || p == .x1 || p == .quietX2 || p == .quietX3) hc.2.2.2.2.2.2.2.2.2

@[simp] theorem State.setReg_rest (o : Nat) (v : W64) : (s.setReg o v).rest = s.rest := rfl
@[simp] theorem State.setFld_rest (f : Fld) (v : Nat) : (s.setFld f v).rest = s.rest := rfl
@[simp] theorem State.sat_rest (f : Fld) (n : Nat) : (s.sat f n).rest = s.rest := rfl
@[simp] theorem State.setColl_rest (c : Coll) : (s.setColl c).rest = s.rest := rfl
@[simp] theorem State.setRelay_rest (r : Relay) : (s.setRelay r).rest = s.rest := rfl
@[simp] theorem State.setRep_rest (r : Replica) : (s.setRep r).rest = s.rest := rfl
@[simp] theorem State.drive_rest : s.drive.rest = s.rest := rfl
@[simp] theorem State.mkRec_rest (f : FaultReq) (c : Nat) : (s.mkRec f c).2.rest = s.rest := rfl
@[simp] theorem State.enqueue_rest (p : Nat) (f : Queued) : (s.enqueue p f).rest = s.rest := rfl

theorem rest_ite {c : Prop} [Decidable c] {t u : State} (h1 : t.rest = s.rest) (h2 : u.rest = s.rest) :
    (if c then t else u).rest = s.rest := by
  split <;> assumption

theorem rest_foldl {β : Type} {g : State → β → State} {l : List β} {t : State} (hg : ∀ u x, (g u x).rest = u.rest) :
    (l.foldl g t).rest = t.rest := by
  induction l generalizing t with
  | nil => rfl
  | cons x l ih => exact ih.trans (hg t x)

@[simp] theorem State.sendMsg_rest (v : Nat) : (s.sendMsg v).rest = s.rest := by
  unfold State.sendMsg; exact rest_ite _ rfl (rest_ite _ rfl rfl)
@[simp] theorem State.sendMsgs_rest : s.sendMsgs.rest = s.rest := rest_foldl fun u x => u.sendMsg_rest x
@[simp] theorem State.event_rest (v : Nat) : (s.event v).rest = s.rest := by
  unfold State.event; exact rest_ite _ rfl (rest_ite _ rfl (by simp))
@[simp] theorem State.sendOut_rest (f : Frame) (w : Option (Nat × Nat)) : (s.sendOut f w).rest = s.rest := by
  unfold State.sendOut State.routeOn; split <;> rfl
@[simp] theorem State.notReadyTo_rest (f : Frame) (n : Nat) : (s.notReadyTo f n).rest = s.rest := by
  unfold State.notReadyTo; rw [State.sendOut_rest]; exact rest_ite _ rfl rfl
@[simp] theorem State.deliver_rest (f : Frame) (a : Option Nat) : (s.deliver f a).rest = s.rest := by
  unfold State.deliver
  simp only [apply_ite State.rest, State.notReadyTo_rest, State.setRelay_rest, ite_self]
@[simp] theorem State.inject_rest (f : Frame) (w : Option (Nat × Nat)) : (s.inject f w).rest = s.rest := by
  unfold State.inject; exact rest_ite _ (by simp) (by simp)
@[simp] theorem State.floodOut_rest (l : List Byte) (b : Option Nat) : (s.floodOut l b).rest = s.rest := by
  unfold State.floodOut
  exact rest_foldl fun u x => rest_ite _ (State.enqueue_rest _ _ _) rfl
@[simp] theorem State.grpOut_rest (g m : Nat) : (s.grpOut g m).rest = s.rest := by
  unfold State.grpOut
  apply rest_foldl
  intro u x
  extract_lets n ins s1
  have h1 : s1.rest = u.rest := State.setFld_rest _ _ _
  clear_value s1 ins n
  split
  · split
    · exact h1
    · split
      · rw [State.setFld_rest, h1]
      · exact h1
  · rfl
@[simp] theorem State.nameSelfOut_rest : s.nameSelfOut.rest = s.rest := by
  unfold State.nameSelfOut
  simp only [apply_ite State.rest, State.floodOut_rest, State.grpOut_rest, State.setFld_rest, State.setRep_rest, ite_self]
@[simp] theorem State.iqPush_rest (r : FRec) : (s.iqPush r).rest = s.rest := by
  unfold State.iqPush; exact rest_ite _ (by simp) (by simp)
@[simp] theorem State.iqPop_rest : s.iqPop.rest = s.rest := by
  unfold State.iqPop; dsimp only; split <;> simp
@[simp] theorem State.setSticky_rest (r : FRec) : (s.setSticky r).rest = s.rest := by
  unfold State.setSticky; exact rest_foldl fun u x => State.setReg_rest _ _ _
@[simp] theorem State.overflow_rest (r : FRec) : (s.overflow r).rest = s.rest := by
  unfold State.overflow
  dsimp only
  split
  · exact rest_ite _ (by simp) (by simp)
  · simp
@[simp] theorem State.vspShow_rest (u : Nat) : (s.vspShow u).rest = s.rest := rfl
@[simp] theorem State.vspFault_rest (u : Nat) : (s.vspFault u).rest = s.rest := by
  unfold State.vspFault; exact rest_ite _ (by simp) (by simp)
@[simp] theorem State.record_rest (f : FaultReq) : (s.record f).1.rest = s.rest := by
  unfold State.record
  simp only [apply_ite Prod.fst, apply_ite State.rest, State.vspFault_rest, State.overflow_rest, State.iqPush_rest, State.drive_rest,
    State.setFld_rest, State.setColl_rest, State.mkRec_rest, ite_self]
@[simp] theorem State.fatalStop_rest : s.fatalStop.rest = s.rest := by
  unfold State.fatalStop; exact rest_ite _ rfl (by rw [State.record_rest, State.nameSelfOut_rest]; rfl)
@[simp] theorem State.overflowed_rest : s.overflowed.rest = s.rest := by
  unfold State.overflowed
  simp only [apply_ite State.rest, State.drive_rest, State.setColl_rest, State.mkRec_rest, ite_self]
@[simp] theorem State.raise_rest (f : FaultReq) : (s.raise f).rest = s.rest := by
  have h : ({ s with captured := s.captured ++ [(f.unit, f.cause, f.ctx, f.line)] } : State).rest = s.rest := rfl
  unfold State.raise
  simp only [apply_ite State.rest, State.fatalStop_rest, State.overflowed_rest, State.record_rest, h, ite_self]

/-- What `event` leaves as it is. -/
@[simp] theorem State.event_frame (v : Nat) :
    (s.event v).phase = s.phase ∧ (s.event v).aon = s.aon ∧ (s.event v).tc = s.tc ∧ (s.event v).retained = s.retained ∧
    (s.event v).tmLost = s.tmLost ∧ (s.event v).bringAt = s.bringAt ∧ (s.event v).coreLock = s.coreLock ∧
    (s.event v).heldAcc = s.heldAcc ∧ (s.event v).txns = s.txns ∧ (s.event v).sys = s.sys ∧ (s.event v).badRd = s.badRd ∧
    (s.event v).derived = s.derived ∧ (s.event v).tile = s.tile ∧ (s.event v).ecc = s.ecc ∧ (s.event v).counters = s.counters ∧
    (s.event v).scrubRow = s.scrubRow ∧ (s.event v).clears = s.clears ∧ (s.event v).credit = s.credit ∧
    (s.event v).ctxs = s.ctxs ∧ (s.event v).nextEntry = s.nextEntry ∧ (s.event v).fetchTenant = s.fetchTenant ∧
    (s.event v).grantFirst = s.grantFirst ∧ (s.event v).grantUsed = s.grantUsed ∧ (s.event v).graphs = s.graphs ∧
    (s.event v).chans = s.chans ∧ (s.event v).waits = s.waits ∧ (s.event v).poison = s.poison ∧ (s.event v).cpu = s.cpu ∧
    (s.event v).upsets = s.upsets ∧ (s.event v).tileOld = s.tileOld ∧ (s.event v).tileNo = s.tileNo ∧
    (s.event v).ctrNow = s.ctrNow ∧ (s.event v).owed = s.owed ∧ (s.event v).grantNow = s.grantNow ∧
    (s.event v).vsOwners = s.vsOwners ∧ (s.event v).readyNo = s.readyNo ∧ (s.event v).tlb = s.tlb ∧ (s.event v).ptrs = s.ptrs ∧
    (s.event v).walks = s.walks ∧ (s.event v).pfaults = s.pfaults ∧ (s.event v).wc = s.wc ∧ (s.event v).wcFills = s.wcFills ∧
    (s.event v).eclWait = s.eclWait ∧ (s.event v).reenter = s.reenter ∧ (s.event v).copies = s.copies ∧
    (s.event v).powerTo = s.powerTo ∧ (s.event v).heldSince = s.heldSince ∧ (s.event v).epochNo = s.epochNo ∧
    (s.event v).admitted = s.admitted ∧ (s.event v).mer = s.mer ∧ (s.event v).free = s.free ∧ (s.event v).pending = s.pending ∧
    (s.event v).pins.aonRstN = s.pins.aonRstN ∧ (s.event v).pins.rstN = s.pins.rstN ∧ (s.event v).pins.coreReq = s.pins.coreReq ∧
    (s.event v).pins.coreAck = s.pins.coreAck ∧ (s.event v).pins.tmReq = s.pins.tmReq ∧ (s.event v).pins.tmRet = s.pins.tmRet ∧
    (s.event v).pins.tmAck = s.pins.tmAck ∧ (s.event v).pins.isoN = s.pins.isoN ∧ (s.event v).pins.therm = s.pins.therm ∧
    (s.event v).pins.clkRun = s.pins.clkRun ∧ (s.event v).pins.quiet = s.pins.quiet ∧ (∀ k, (s.event v).ctx k = s.ctx k) ∧
    (∀ k, (s.event v).chan k = s.chan k) ∧ (∀ k, (s.event v).base k = s.base k) ∧ (∀ k, (s.event v).counter k = s.counter k) ∧
    (∀ k, (s.event v).graph k = s.graph k) ∧ (∀ k l, (s.event v).node k l = s.node k l) ∧
    (∀ k, (s.event v).tileByte k = s.tileByte k) ∧ (∀ k, (s.event v).sysByte k = s.sysByte k) ∧
    (∀ k l, (s.event v).creditOf k l = s.creditOf k l) ∧ (s.event v).collUp = s.collUp :=
  frame_of_rest (State.event_rest s v)

/-- What `sendMsgs` leaves as it is. -/
@[simp] theorem State.sendMsgs_frame :
    (s.sendMsgs).phase = s.phase ∧ (s.sendMsgs).aon = s.aon ∧ (s.sendMsgs).tc = s.tc ∧ (s.sendMsgs).retained = s.retained ∧
    (s.sendMsgs).tmLost = s.tmLost ∧ (s.sendMsgs).bringAt = s.bringAt ∧ (s.sendMsgs).coreLock = s.coreLock ∧
    (s.sendMsgs).heldAcc = s.heldAcc ∧ (s.sendMsgs).txns = s.txns ∧ (s.sendMsgs).sys = s.sys ∧ (s.sendMsgs).badRd = s.badRd ∧
    (s.sendMsgs).derived = s.derived ∧ (s.sendMsgs).tile = s.tile ∧ (s.sendMsgs).ecc = s.ecc ∧
    (s.sendMsgs).counters = s.counters ∧ (s.sendMsgs).scrubRow = s.scrubRow ∧ (s.sendMsgs).clears = s.clears ∧
    (s.sendMsgs).credit = s.credit ∧ (s.sendMsgs).ctxs = s.ctxs ∧ (s.sendMsgs).nextEntry = s.nextEntry ∧
    (s.sendMsgs).fetchTenant = s.fetchTenant ∧ (s.sendMsgs).grantFirst = s.grantFirst ∧ (s.sendMsgs).grantUsed = s.grantUsed ∧
    (s.sendMsgs).graphs = s.graphs ∧ (s.sendMsgs).chans = s.chans ∧ (s.sendMsgs).waits = s.waits ∧
    (s.sendMsgs).poison = s.poison ∧ (s.sendMsgs).cpu = s.cpu ∧ (s.sendMsgs).upsets = s.upsets ∧
    (s.sendMsgs).tileOld = s.tileOld ∧ (s.sendMsgs).tileNo = s.tileNo ∧ (s.sendMsgs).ctrNow = s.ctrNow ∧
    (s.sendMsgs).owed = s.owed ∧ (s.sendMsgs).grantNow = s.grantNow ∧ (s.sendMsgs).vsOwners = s.vsOwners ∧
    (s.sendMsgs).readyNo = s.readyNo ∧ (s.sendMsgs).tlb = s.tlb ∧ (s.sendMsgs).ptrs = s.ptrs ∧ (s.sendMsgs).walks = s.walks ∧
    (s.sendMsgs).pfaults = s.pfaults ∧ (s.sendMsgs).wc = s.wc ∧ (s.sendMsgs).wcFills = s.wcFills ∧
    (s.sendMsgs).eclWait = s.eclWait ∧ (s.sendMsgs).reenter = s.reenter ∧ (s.sendMsgs).copies = s.copies ∧
    (s.sendMsgs).powerTo = s.powerTo ∧ (s.sendMsgs).heldSince = s.heldSince ∧ (s.sendMsgs).epochNo = s.epochNo ∧
    (s.sendMsgs).admitted = s.admitted ∧ (s.sendMsgs).mer = s.mer ∧ (s.sendMsgs).free = s.free ∧
    (s.sendMsgs).pending = s.pending ∧ (s.sendMsgs).pins.aonRstN = s.pins.aonRstN ∧ (s.sendMsgs).pins.rstN = s.pins.rstN ∧
    (s.sendMsgs).pins.coreReq = s.pins.coreReq ∧ (s.sendMsgs).pins.coreAck = s.pins.coreAck ∧
    (s.sendMsgs).pins.tmReq = s.pins.tmReq ∧ (s.sendMsgs).pins.tmRet = s.pins.tmRet ∧ (s.sendMsgs).pins.tmAck = s.pins.tmAck ∧
    (s.sendMsgs).pins.isoN = s.pins.isoN ∧ (s.sendMsgs).pins.therm = s.pins.therm ∧ (s.sendMsgs).pins.clkRun = s.pins.clkRun ∧
    (s.sendMsgs).pins.quiet = s.pins.quiet ∧ (∀ k, (s.sendMsgs).ctx k = s.ctx k) ∧ (∀ k, (s.sendMsgs).chan k = s.chan k) ∧
    (∀ k, (s.sendMsgs).base k = s.base k) ∧ (∀ k, (s.sendMsgs).counter k = s.counter k) ∧
    (∀ k, (s.sendMsgs).graph k = s.graph k) ∧ (∀ k l, (s.sendMsgs).node k l = s.node k l) ∧
    (∀ k, (s.sendMsgs).tileByte k = s.tileByte k) ∧ (∀ k, (s.sendMsgs).sysByte k = s.sysByte k) ∧
    (∀ k l, (s.sendMsgs).creditOf k l = s.creditOf k l) ∧ (s.sendMsgs).collUp = s.collUp :=
  frame_of_rest (State.sendMsgs_rest s )

/-- What `drive` leaves as it is. -/
@[simp] theorem State.drive_frame :
    (s.drive).phase = s.phase ∧ (s.drive).aon = s.aon ∧ (s.drive).tc = s.tc ∧ (s.drive).retained = s.retained ∧
    (s.drive).tmLost = s.tmLost ∧ (s.drive).bringAt = s.bringAt ∧ (s.drive).coreLock = s.coreLock ∧
    (s.drive).heldAcc = s.heldAcc ∧ (s.drive).txns = s.txns ∧ (s.drive).sys = s.sys ∧ (s.drive).badRd = s.badRd ∧
    (s.drive).derived = s.derived ∧ (s.drive).tile = s.tile ∧ (s.drive).ecc = s.ecc ∧ (s.drive).counters = s.counters ∧
    (s.drive).scrubRow = s.scrubRow ∧ (s.drive).clears = s.clears ∧ (s.drive).credit = s.credit ∧ (s.drive).ctxs = s.ctxs ∧
    (s.drive).nextEntry = s.nextEntry ∧ (s.drive).fetchTenant = s.fetchTenant ∧ (s.drive).grantFirst = s.grantFirst ∧
    (s.drive).grantUsed = s.grantUsed ∧ (s.drive).graphs = s.graphs ∧ (s.drive).chans = s.chans ∧ (s.drive).waits = s.waits ∧
    (s.drive).poison = s.poison ∧ (s.drive).cpu = s.cpu ∧ (s.drive).upsets = s.upsets ∧ (s.drive).tileOld = s.tileOld ∧
    (s.drive).tileNo = s.tileNo ∧ (s.drive).ctrNow = s.ctrNow ∧ (s.drive).owed = s.owed ∧ (s.drive).grantNow = s.grantNow ∧
    (s.drive).vsOwners = s.vsOwners ∧ (s.drive).readyNo = s.readyNo ∧ (s.drive).tlb = s.tlb ∧ (s.drive).ptrs = s.ptrs ∧
    (s.drive).walks = s.walks ∧ (s.drive).pfaults = s.pfaults ∧ (s.drive).wc = s.wc ∧ (s.drive).wcFills = s.wcFills ∧
    (s.drive).eclWait = s.eclWait ∧ (s.drive).reenter = s.reenter ∧ (s.drive).copies = s.copies ∧ (s.drive).powerTo = s.powerTo ∧
    (s.drive).heldSince = s.heldSince ∧ (s.drive).epochNo = s.epochNo ∧ (s.drive).admitted = s.admitted ∧ (s.drive).mer = s.mer ∧
    (s.drive).free = s.free ∧ (s.drive).pending = s.pending ∧ (s.drive).pins.aonRstN = s.pins.aonRstN ∧
    (s.drive).pins.rstN = s.pins.rstN ∧ (s.drive).pins.coreReq = s.pins.coreReq ∧ (s.drive).pins.coreAck = s.pins.coreAck ∧
    (s.drive).pins.tmReq = s.pins.tmReq ∧ (s.drive).pins.tmRet = s.pins.tmRet ∧ (s.drive).pins.tmAck = s.pins.tmAck ∧
    (s.drive).pins.isoN = s.pins.isoN ∧ (s.drive).pins.therm = s.pins.therm ∧ (s.drive).pins.clkRun = s.pins.clkRun ∧
    (s.drive).pins.quiet = s.pins.quiet ∧ (∀ k, (s.drive).ctx k = s.ctx k) ∧ (∀ k, (s.drive).chan k = s.chan k) ∧
    (∀ k, (s.drive).base k = s.base k) ∧ (∀ k, (s.drive).counter k = s.counter k) ∧ (∀ k, (s.drive).graph k = s.graph k) ∧
    (∀ k l, (s.drive).node k l = s.node k l) ∧ (∀ k, (s.drive).tileByte k = s.tileByte k) ∧
    (∀ k, (s.drive).sysByte k = s.sysByte k) ∧ (∀ k l, (s.drive).creditOf k l = s.creditOf k l) ∧
    (s.drive).collUp = s.collUp :=
  frame_of_rest (State.drive_rest s )

/-- What `raise` leaves as it is. -/
@[simp] theorem State.raise_frame (f : FaultReq) :
    (s.raise f).phase = s.phase ∧ (s.raise f).aon = s.aon ∧ (s.raise f).tc = s.tc ∧ (s.raise f).retained = s.retained ∧
    (s.raise f).tmLost = s.tmLost ∧ (s.raise f).bringAt = s.bringAt ∧ (s.raise f).coreLock = s.coreLock ∧
    (s.raise f).heldAcc = s.heldAcc ∧ (s.raise f).txns = s.txns ∧ (s.raise f).sys = s.sys ∧ (s.raise f).badRd = s.badRd ∧
    (s.raise f).derived = s.derived ∧ (s.raise f).tile = s.tile ∧ (s.raise f).ecc = s.ecc ∧ (s.raise f).counters = s.counters ∧
    (s.raise f).scrubRow = s.scrubRow ∧ (s.raise f).clears = s.clears ∧ (s.raise f).credit = s.credit ∧
    (s.raise f).ctxs = s.ctxs ∧ (s.raise f).nextEntry = s.nextEntry ∧ (s.raise f).fetchTenant = s.fetchTenant ∧
    (s.raise f).grantFirst = s.grantFirst ∧ (s.raise f).grantUsed = s.grantUsed ∧ (s.raise f).graphs = s.graphs ∧
    (s.raise f).chans = s.chans ∧ (s.raise f).waits = s.waits ∧ (s.raise f).poison = s.poison ∧ (s.raise f).cpu = s.cpu ∧
    (s.raise f).upsets = s.upsets ∧ (s.raise f).tileOld = s.tileOld ∧ (s.raise f).tileNo = s.tileNo ∧
    (s.raise f).ctrNow = s.ctrNow ∧ (s.raise f).owed = s.owed ∧ (s.raise f).grantNow = s.grantNow ∧
    (s.raise f).vsOwners = s.vsOwners ∧ (s.raise f).readyNo = s.readyNo ∧ (s.raise f).tlb = s.tlb ∧ (s.raise f).ptrs = s.ptrs ∧
    (s.raise f).walks = s.walks ∧ (s.raise f).pfaults = s.pfaults ∧ (s.raise f).wc = s.wc ∧ (s.raise f).wcFills = s.wcFills ∧
    (s.raise f).eclWait = s.eclWait ∧ (s.raise f).reenter = s.reenter ∧ (s.raise f).copies = s.copies ∧
    (s.raise f).powerTo = s.powerTo ∧ (s.raise f).heldSince = s.heldSince ∧ (s.raise f).epochNo = s.epochNo ∧
    (s.raise f).admitted = s.admitted ∧ (s.raise f).mer = s.mer ∧ (s.raise f).free = s.free ∧ (s.raise f).pending = s.pending ∧
    (s.raise f).pins.aonRstN = s.pins.aonRstN ∧ (s.raise f).pins.rstN = s.pins.rstN ∧ (s.raise f).pins.coreReq = s.pins.coreReq ∧
    (s.raise f).pins.coreAck = s.pins.coreAck ∧ (s.raise f).pins.tmReq = s.pins.tmReq ∧ (s.raise f).pins.tmRet = s.pins.tmRet ∧
    (s.raise f).pins.tmAck = s.pins.tmAck ∧ (s.raise f).pins.isoN = s.pins.isoN ∧ (s.raise f).pins.therm = s.pins.therm ∧
    (s.raise f).pins.clkRun = s.pins.clkRun ∧ (s.raise f).pins.quiet = s.pins.quiet ∧ (∀ k, (s.raise f).ctx k = s.ctx k) ∧
    (∀ k, (s.raise f).chan k = s.chan k) ∧ (∀ k, (s.raise f).base k = s.base k) ∧ (∀ k, (s.raise f).counter k = s.counter k) ∧
    (∀ k, (s.raise f).graph k = s.graph k) ∧ (∀ k l, (s.raise f).node k l = s.node k l) ∧
    (∀ k, (s.raise f).tileByte k = s.tileByte k) ∧ (∀ k, (s.raise f).sysByte k = s.sysByte k) ∧
    (∀ k l, (s.raise f).creditOf k l = s.creditOf k l) ∧ (s.raise f).collUp = s.collUp :=
  frame_of_rest (State.raise_rest s f)

/-- What `inject` leaves as it is. -/
@[simp] theorem State.inject_frame (f : Frame) (w : Option (Nat × Nat)) :
    (s.inject f w).phase = s.phase ∧ (s.inject f w).aon = s.aon ∧ (s.inject f w).tc = s.tc ∧
    (s.inject f w).retained = s.retained ∧ (s.inject f w).tmLost = s.tmLost ∧ (s.inject f w).bringAt = s.bringAt ∧
    (s.inject f w).coreLock = s.coreLock ∧ (s.inject f w).heldAcc = s.heldAcc ∧ (s.inject f w).txns = s.txns ∧
    (s.inject f w).sys = s.sys ∧ (s.inject f w).badRd = s.badRd ∧ (s.inject f w).derived = s.derived ∧
    (s.inject f w).tile = s.tile ∧ (s.inject f w).ecc = s.ecc ∧ (s.inject f w).counters = s.counters ∧
    (s.inject f w).scrubRow = s.scrubRow ∧ (s.inject f w).clears = s.clears ∧ (s.inject f w).credit = s.credit ∧
    (s.inject f w).ctxs = s.ctxs ∧ (s.inject f w).nextEntry = s.nextEntry ∧ (s.inject f w).fetchTenant = s.fetchTenant ∧
    (s.inject f w).grantFirst = s.grantFirst ∧ (s.inject f w).grantUsed = s.grantUsed ∧ (s.inject f w).graphs = s.graphs ∧
    (s.inject f w).chans = s.chans ∧ (s.inject f w).waits = s.waits ∧ (s.inject f w).poison = s.poison ∧
    (s.inject f w).cpu = s.cpu ∧ (s.inject f w).upsets = s.upsets ∧ (s.inject f w).tileOld = s.tileOld ∧
    (s.inject f w).tileNo = s.tileNo ∧ (s.inject f w).ctrNow = s.ctrNow ∧ (s.inject f w).owed = s.owed ∧
    (s.inject f w).grantNow = s.grantNow ∧ (s.inject f w).vsOwners = s.vsOwners ∧ (s.inject f w).readyNo = s.readyNo ∧
    (s.inject f w).tlb = s.tlb ∧ (s.inject f w).ptrs = s.ptrs ∧ (s.inject f w).walks = s.walks ∧
    (s.inject f w).pfaults = s.pfaults ∧ (s.inject f w).wc = s.wc ∧ (s.inject f w).wcFills = s.wcFills ∧
    (s.inject f w).eclWait = s.eclWait ∧ (s.inject f w).reenter = s.reenter ∧ (s.inject f w).copies = s.copies ∧
    (s.inject f w).powerTo = s.powerTo ∧ (s.inject f w).heldSince = s.heldSince ∧ (s.inject f w).epochNo = s.epochNo ∧
    (s.inject f w).admitted = s.admitted ∧ (s.inject f w).mer = s.mer ∧ (s.inject f w).free = s.free ∧
    (s.inject f w).pending = s.pending ∧ (s.inject f w).pins.aonRstN = s.pins.aonRstN ∧ (s.inject f w).pins.rstN = s.pins.rstN ∧
    (s.inject f w).pins.coreReq = s.pins.coreReq ∧ (s.inject f w).pins.coreAck = s.pins.coreAck ∧
    (s.inject f w).pins.tmReq = s.pins.tmReq ∧ (s.inject f w).pins.tmRet = s.pins.tmRet ∧
    (s.inject f w).pins.tmAck = s.pins.tmAck ∧ (s.inject f w).pins.isoN = s.pins.isoN ∧
    (s.inject f w).pins.therm = s.pins.therm ∧ (s.inject f w).pins.clkRun = s.pins.clkRun ∧
    (s.inject f w).pins.quiet = s.pins.quiet ∧ (∀ k, (s.inject f w).ctx k = s.ctx k) ∧ (∀ k, (s.inject f w).chan k = s.chan k) ∧
    (∀ k, (s.inject f w).base k = s.base k) ∧ (∀ k, (s.inject f w).counter k = s.counter k) ∧
    (∀ k, (s.inject f w).graph k = s.graph k) ∧ (∀ k l, (s.inject f w).node k l = s.node k l) ∧
    (∀ k, (s.inject f w).tileByte k = s.tileByte k) ∧ (∀ k, (s.inject f w).sysByte k = s.sysByte k) ∧
    (∀ k l, (s.inject f w).creditOf k l = s.creditOf k l) ∧ (s.inject f w).collUp = s.collUp :=
  frame_of_rest (State.inject_rest s f w)

/-- What `iqPop` leaves as it is. -/
@[simp] theorem State.iqPop_frame :
    (s.iqPop).phase = s.phase ∧ (s.iqPop).aon = s.aon ∧ (s.iqPop).tc = s.tc ∧ (s.iqPop).retained = s.retained ∧
    (s.iqPop).tmLost = s.tmLost ∧ (s.iqPop).bringAt = s.bringAt ∧ (s.iqPop).coreLock = s.coreLock ∧
    (s.iqPop).heldAcc = s.heldAcc ∧ (s.iqPop).txns = s.txns ∧ (s.iqPop).sys = s.sys ∧ (s.iqPop).badRd = s.badRd ∧
    (s.iqPop).derived = s.derived ∧ (s.iqPop).tile = s.tile ∧ (s.iqPop).ecc = s.ecc ∧ (s.iqPop).counters = s.counters ∧
    (s.iqPop).scrubRow = s.scrubRow ∧ (s.iqPop).clears = s.clears ∧ (s.iqPop).credit = s.credit ∧ (s.iqPop).ctxs = s.ctxs ∧
    (s.iqPop).nextEntry = s.nextEntry ∧ (s.iqPop).fetchTenant = s.fetchTenant ∧ (s.iqPop).grantFirst = s.grantFirst ∧
    (s.iqPop).grantUsed = s.grantUsed ∧ (s.iqPop).graphs = s.graphs ∧ (s.iqPop).chans = s.chans ∧ (s.iqPop).waits = s.waits ∧
    (s.iqPop).poison = s.poison ∧ (s.iqPop).cpu = s.cpu ∧ (s.iqPop).upsets = s.upsets ∧ (s.iqPop).tileOld = s.tileOld ∧
    (s.iqPop).tileNo = s.tileNo ∧ (s.iqPop).ctrNow = s.ctrNow ∧ (s.iqPop).owed = s.owed ∧ (s.iqPop).grantNow = s.grantNow ∧
    (s.iqPop).vsOwners = s.vsOwners ∧ (s.iqPop).readyNo = s.readyNo ∧ (s.iqPop).tlb = s.tlb ∧ (s.iqPop).ptrs = s.ptrs ∧
    (s.iqPop).walks = s.walks ∧ (s.iqPop).pfaults = s.pfaults ∧ (s.iqPop).wc = s.wc ∧ (s.iqPop).wcFills = s.wcFills ∧
    (s.iqPop).eclWait = s.eclWait ∧ (s.iqPop).reenter = s.reenter ∧ (s.iqPop).copies = s.copies ∧ (s.iqPop).powerTo = s.powerTo ∧
    (s.iqPop).heldSince = s.heldSince ∧ (s.iqPop).epochNo = s.epochNo ∧ (s.iqPop).admitted = s.admitted ∧ (s.iqPop).mer = s.mer ∧
    (s.iqPop).free = s.free ∧ (s.iqPop).pending = s.pending ∧ (s.iqPop).pins.aonRstN = s.pins.aonRstN ∧
    (s.iqPop).pins.rstN = s.pins.rstN ∧ (s.iqPop).pins.coreReq = s.pins.coreReq ∧ (s.iqPop).pins.coreAck = s.pins.coreAck ∧
    (s.iqPop).pins.tmReq = s.pins.tmReq ∧ (s.iqPop).pins.tmRet = s.pins.tmRet ∧ (s.iqPop).pins.tmAck = s.pins.tmAck ∧
    (s.iqPop).pins.isoN = s.pins.isoN ∧ (s.iqPop).pins.therm = s.pins.therm ∧ (s.iqPop).pins.clkRun = s.pins.clkRun ∧
    (s.iqPop).pins.quiet = s.pins.quiet ∧ (∀ k, (s.iqPop).ctx k = s.ctx k) ∧ (∀ k, (s.iqPop).chan k = s.chan k) ∧
    (∀ k, (s.iqPop).base k = s.base k) ∧ (∀ k, (s.iqPop).counter k = s.counter k) ∧ (∀ k, (s.iqPop).graph k = s.graph k) ∧
    (∀ k l, (s.iqPop).node k l = s.node k l) ∧ (∀ k, (s.iqPop).tileByte k = s.tileByte k) ∧
    (∀ k, (s.iqPop).sysByte k = s.sysByte k) ∧ (∀ k l, (s.iqPop).creditOf k l = s.creditOf k l) ∧
    (s.iqPop).collUp = s.collUp :=
  frame_of_rest (State.iqPop_rest s )

end Sys2Proof.Machine
end

