-- ==== Sys2Proof/Laws/BringUp.lean ====
section
/-! SUPPORT. What self-test and bring-up leave alone (R411): beside registers, channels, the relay and the collector, nothing of the
core. -/

namespace Sys2Proof.Machine

/-- The state without what self-test and a report change. -/
def State.stay (s : State) : State := { s.rest with chans := [], free := 0 }
theorem stay_of_rest {s t : State} (h : t.rest = s.rest) : t.stay = s.stay := by simp only [State.stay, h]
theorem stay_foldl {β : Type} {g : State → β → State} {l : List β} {t : State} (hg : ∀ u x, (g u x).stay = u.stay) :
    (l.foldl g t).stay = t.stay := by
  induction l generalizing t with
  | nil => rfl
  | cons x l ih => exact ih.trans (hg t x)
variable (s : State)

@[simp] theorem State.setFld_stay (f : Fld) (v : Nat) : (s.setFld f v).stay = s.stay := stay_of_rest (by simp)
@[simp] theorem State.sat_stay (f : Fld) (v : Nat) : (s.sat f v).stay = s.stay := stay_of_rest (by simp)
@[simp] theorem State.raise_stay (f : FaultReq) : (s.raise f).stay = s.stay := stay_of_rest (by simp)
@[simp] theorem State.modChan_stay (n : Nat) (f : Chan → Chan) : (s.modChan n f).stay = s.stay := rfl
@[simp] theorem State.drawBelow_stay (n : Nat) : (s.drawBelow n).2.stay = s.stay := rfl
@[simp] theorem State.modPort_stay (n : Nat) (f : Port → Port) : (s.modPort n f).stay = s.stay := rfl
@[simp] theorem State.eclChan_stay (n : Nat) : (s.eclChan n).stay = s.stay := by simp [State.eclChan, State.chTo]
@[simp] theorem State.lineClear_stay (u c : Nat) : (s.lineClear u c).stay = s.stay := rfl
@[simp] theorem State.linkTo_stay (u c : Nat) : (s.linkTo u c).stay = s.stay := by simp [State.linkTo]
theorem State.routeOn_stay (a : Option Nat) (f : Queued) : ((s.routeOn a f).getD s).stay = s.stay := by
  unfold State.routeOn; split <;> rfl
@[simp] theorem State.reroute_stay (u : Nat) : (s.reroute u).stay = s.stay := by
  unfold State.reroute; exact stay_foldl fun u x => State.routeOn_stay _ _ _
@[simp] theorem State.applyEclipse_stay (u : Nat) : (s.applyEclipse u).stay = s.stay := by
  unfold State.applyEclipse
  split
  · simp
  · split
    · exact (stay_foldl fun u x => by simp).trans (by simp)
    · split
      · dsimp only
        split <;> simp
      · split <;> simp
@[simp] theorem State.failUnit_stay (u : Nat) : (s.failUnit u).stay = s.stay := by
  unfold State.failUnit; dsimp only; split <;> simp
@[simp] theorem State.spareBank_stay (u : Nat) : (s.spareBank u).stay = s.stay := by
  unfold State.spareBank
  split
  · split <;> simp
  · rfl
@[simp] theorem State.spareCol_stay (e u : Nat) : (s.spareCol e u).stay = s.stay := by
  unfold State.spareCol
  split
  · split <;> simp
  · rfl
@[simp] theorem State.testBanks_stay (l : List Nat) : (s.testBanks l).stay = s.stay := by
  unfold State.testBanks
  dsimp only
  rw [stay_foldl fun u x => State.spareBank_stay u x, stay_foldl fun u x => State.setFld_stay u _ _]
  split <;> simp
@[simp] theorem State.testCols_stay (e : Nat) (l : List Nat) : (s.testCols e l).stay = s.stay := by
  have h : ((l.foldl (fun s c => s.spareCol e c)
      (l.foldl (fun s c => s.setFld (F.ecl ((if e = 0 then 0x50 else 0x80) + c)) 1) s))).stay = s.stay := by
    rw [stay_foldl fun u x => State.spareCol_stay u _ _, stay_foldl fun u x => State.setFld_stay u _ _]
  unfold State.testCols
  dsimp only
  split
  · rw [State.failUnit_stay, h]
  · exact h
@[simp] theorem State.selfTest_stay (l : List Nat) (k : Bool) : (s.selfTest l k).stay = s.stay := by
  unfold State.selfTest
  have h : ∀ (us : List Nat) (p : Nat → Bool) (t : State), ((us.filter p).foldl (fun s u => s.failUnit u) t).stay = t.stay :=
    fun us p t => stay_foldl fun u x => State.failUnit_stay u x
  extract_lets us s1 s2 s3
  have h1 : s1.stay = s.stay := by simp only [s1]; split <;> simp
  have h2 : s2.stay = s.stay := by simp only [s2]; simp [h1]
  have h3 : s3.stay = s.stay := by simp only [s3]; rw [h, h2]
  clear_value s3
  split <;> simp [h3]


/-- Bring-up (R411): the phase, the tile memory kept or cleared, the quiet output; beside registers, channels, relay and collector
nothing else. -/
theorem State.bringUp_stay (failed : List Nat) : (s.bringUp failed).stay =
    ({ s with
      phase := .bringup, bringAt := s.aon, retained := false, tmLost := false, pins := { s.pins with quiet := false }
      tile := if s.retained && !s.tmLost then s.tile else [], ecc := if s.retained && !s.tmLost then s.ecc else [] } : State).stay := by
  unfold State.bringUp
  extract_lets keep p0 t1 t2 one t3 t4 t5
  have e3 : t3.stay = t1.stay := by
    simp only [t3, t2, State.setFld_stay]
    exact stay_of_rest (State.setReg_rest _ _ _)
  have e4 : t4.stay = t1.stay := by simp only [t4, State.selfTest_stay, e3]
  have e5 : t5.stay = t1.stay := by simp only [t5]; split <;> simp [e4]
  clear_value t5
  rw [stay_of_rest (State.drive_rest _), stay_foldl, e5]
  · rfl
  · intro u x
    split <;> simp

end Sys2Proof.Machine
end

