-- ==== Sys2Proof/Laws/Faults.lean ====
section
/-! SUPPORT. What recording a fault does to the list of uncleared faults (R378, R383): it keeps every fault that stands and appends the
new one with its class; the fault outputs then show it (R29). -/

namespace Sys2Proof.Machine

variable (s : State)

theorem coll_ite {β : Type} {c : Prop} [Decidable c] {g : State → β} {t u : State} {x : β} (h1 : g t = x) (h2 : g u = x) :
    g (if c then t else u) = x := by
  split <;> assumption

@[simp] theorem State.sendMsg_coll (v : Nat) : (s.sendMsg v).coll = s.coll := by
  unfold State.sendMsg; split
  · rfl
  · split <;> rfl
@[simp] theorem State.event_coll (v : Nat) : (s.event v).coll = s.coll := by
  unfold State.event; exact coll_ite rfl (coll_ite rfl (by simp))
@[simp] theorem State.drive_coll : s.drive.coll = s.coll := rfl
@[simp] theorem State.iqPush_faults (r : FRec) : (s.iqPush r).coll.faults = s.coll.faults := by
  unfold State.iqPush; exact coll_ite (g := fun s => s.coll.faults) (by simp) (by simp)
@[simp] theorem State.setSticky_coll (r : FRec) : (s.setSticky r).coll = { s.coll with sticky := some r, stickyRead := false } := by
  have : ∀ (l : List Nat) (t : State) (g : Nat → Nat) (h : Nat → W64),
      (l.foldl (fun s w => s.setReg (g w) (h w)) t).coll = t.coll := by
    intro l
    induction l with
    | nil => intro t g h; rfl
    | cons x l ih => intro t g h; exact ih _ g h
  exact this _ _ _ _
@[simp] theorem State.overflow_faults (r : FRec) : (s.overflow r).coll.faults = s.coll.faults := by
  unfold State.overflow
  dsimp only
  split
  · exact coll_ite (g := fun s => s.coll.faults) (by simp) (by simp)
  · simp
@[simp] theorem State.vspShow_coll (u : Nat) : (s.vspShow u).coll = s.coll := by
  unfold State.vspShow
  extract_lets fs cls s1
  have h1 : s1.coll = s.coll := by simp only [s1, State.setFld_frame]
  clear_value s1
  rw [← h1]
  simp only [State.setFld_frame]
@[simp] theorem State.vspFault_coll (u : Nat) : (s.vspFault u).coll = s.coll := by
  unfold State.vspFault
  simp only [apply_ite State.coll, State.event_coll, State.vspShow_coll, State.setFld_frame, State.sat_frame, ite_self]

/-- The fault that `record` appends: its class is the cause's, one higher while an unacknowledged fault of that class stands at the
unit (R383). -/
def State.newFault (f : FaultReq) : FaultSt :=
  let c0 := causeClass f.cause
  let up := c0 < 4 && !(0x70 ≤ f.cause && f.cause ≤ 0x73) && s.coll.faults.any (fun x => x.unit == f.unit && x.cls == c0 && !x.acked)
  let cls := if up then c0 + 1 else c0
  ⟨s.coll.nextId, f.unit, f.cause, cls, f.ctx, f.line, false, cls == 3 && s.timerRuns f.unit f.cause, s.aon⟩

/-- Recording a fault appends it, unless its cause is no fault's, its unit is in eclipse, or the unit's line shows the class already. -/
theorem State.record_faults (f : FaultReq) : (s.record f).1.coll.faults
    = if causeClass f.cause = 0 ∨ s.eclipsed f.unit = true
        ∨ s.coll.faults.any (fun x => x.unit == f.unit && x.line && causeClass x.cause == causeClass f.cause) = true
      then s.coll.faults else s.coll.faults ++ [s.newFault f] := by
  have h1 : ∀ {c : Prop} [Decidable c] (t : State) (g : Fld) (v : Nat), (if c then t.setFld g v else t).coll = t.coll := by
    intro c _ t g v
    split <;> rfl
  unfold State.record
  dsimp only
  split
  · rfl
  · rw [apply_ite Prod.fst, apply_ite Prod.fst]
    refine coll_ite (g := fun s => s.coll.faults) ?_ (coll_ite (g := fun s => s.coll.faults) ?_ ?_)
    · rw [State.vspFault_coll, State.drive_coll, h1, State.setColl_coll]
      rfl
    · rw [State.overflow_faults, State.drive_coll, h1, State.setColl_coll]
      rfl
    · rw [State.iqPush_faults, State.drive_coll, h1, State.setColl_coll]
      rfl

theorem State.record_mono (f : FaultReq) {x : FaultSt} (h : x ∈ s.coll.faults) : x ∈ (s.record f).1.coll.faults := by
  rw [State.record_faults]
  split
  · exact h
  · exact List.mem_append_left _ h

theorem State.overflowed_mono {x : FaultSt} (h : x ∈ s.coll.faults) : x ∈ s.overflowed.coll.faults := by
  unfold State.overflowed
  split
  · exact h
  · exact List.mem_append_left _ h

@[simp] theorem State.enqueue_coll (p : Nat) (f : Queued) : (s.enqueue p f).coll = s.coll := rfl
@[simp] theorem State.sendOut_coll (f : Frame) (w : Option (Nat × Nat)) : (s.sendOut f w).coll = s.coll := by
  unfold State.sendOut State.routeOn; split <;> rfl

theorem coll_foldl {β : Type} {g : State → β → State} {l : List β} {t : State} (hg : ∀ u x, (g u x).coll = u.coll) :
    (l.foldl g t).coll = t.coll := by
  induction l generalizing t with
  | nil => rfl
  | cons x l ih => exact ih.trans (hg t x)

@[simp] theorem State.floodOut_coll (l : List Byte) (b : Option Nat) : (s.floodOut l b).coll = s.coll := by
  unfold State.floodOut
  exact coll_foldl fun u x => coll_ite (State.enqueue_coll _ _ _) rfl
@[simp] theorem State.grpOut_coll (g m : Nat) : (s.grpOut g m).coll = s.coll := by
  unfold State.grpOut
  apply coll_foldl
  intro u x
  extract_lets n ins s1
  have h1 : s1.coll = u.coll := by simp only [s1, State.setFld_frame]
  clear_value s1 ins n
  split
  · split
    · exact h1
    · split
      · rw [← h1]; simp only [State.setFld_frame]
      · exact h1
  · rfl
@[simp] theorem State.nameSelfOut_coll : s.nameSelfOut.coll = s.coll := by
  unfold State.nameSelfOut
  simp only [apply_ite State.coll, State.floodOut_coll, State.grpOut_coll, State.setFld_frame, State.setRep_frame, ite_self]

theorem State.fatalStop_mono {x : FaultSt} (h : x ∈ s.coll.faults) : x ∈ s.fatalStop.coll.faults := by
  unfold State.fatalStop
  dsimp only
  split
  · exact h
  · refine State.record_mono _ _ ?_
    rw [State.nameSelfOut_coll]
    exact h

/-- A standing fault stays when another is raised. -/
theorem State.raise_mono (f : FaultReq) {x : FaultSt} (h : x ∈ s.coll.faults) : x ∈ (s.raise f).coll.faults := by
  unfold State.raise
  dsimp only
  split
  · exact h
  · split
    · exact h
    · have hl : x ∈ (if (s.record f).2.isSome = true then (s.record f).1.overflowed else (s.record f).1).coll.faults := by
        split
        · exact State.overflowed_mono _ (s.record_mono f h)
        · exact s.record_mono f h
      generalize (if (s.record f).2.isSome = true then (s.record f).1.overflowed else (s.record f).1) = t at hl ⊢
      split
      · exact State.fatalStop_mono _ hl
      · exact hl

/-- With the collector running, a fault of a unit that has none uncleared is recorded. -/
theorem State.raise_adds (f : FaultReq) (hu : s.collUp = true) (hc : s.pins.clkRun = true) (he : s.eclipsed f.unit = false)
    (h0 : causeClass f.cause ≠ 0) (hn : ∀ x ∈ s.coll.faults, x.unit ≠ f.unit) : s.newFault f ∈ (s.raise f).coll.faults := by
  have hr : s.newFault f ∈ (s.record f).1.coll.faults := by
    have : s.coll.faults.any (fun x => x.unit == f.unit && x.line && causeClass x.cause == causeClass f.cause) = false := by
      rw [List.any_eq_false]
      intro x hx
      simp [hn x hx]
    rw [State.record_faults, if_neg (by simp [h0, he, this])]
    exact List.mem_append_right _ (List.mem_singleton.2 rfl)
  unfold State.raise
  dsimp only
  rw [if_neg (by simp [hu]), if_neg (by simp [hc])]
  have hl : s.newFault f ∈ (if (s.record f).2.isSome = true then (s.record f).1.overflowed else (s.record f).1).coll.faults := by
    split
    · exact State.overflowed_mono _ hr
    · exact hr
  generalize (if (s.record f).2.isSome = true then (s.record f).1.overflowed else (s.record f).1) = t at hl ⊢
  split
  · exact State.fatalStop_mono _ hl
  · exact hl

/-- Such a fault has the class of its cause. -/
theorem State.newFault_first (f : FaultReq) (hn : ∀ x ∈ s.coll.faults, x.unit ≠ f.unit) : (s.newFault f).cls = causeClass f.cause := by
  have : s.coll.faults.any (fun x => x.unit == f.unit && x.cls == causeClass f.cause && !x.acked) = false := by
    rw [List.any_eq_false]
    intro x hx
    simp [hn x hx]
  simp [State.newFault, this]

end Sys2Proof.Machine
end

