-- ==== Sys2Proof/Laws/Kept.lean ====
section
/-! SUPPORT. What every operation of the block keeps, as one property that passes from operation to operation: the queue of waiting
commands, the time already passed, the canonical form of every store, the fault outputs. The files Kept1 to Kept8 prove it of every
operation and of every command. -/

namespace Sys2Proof.Machine

/-- The queue is `q`, the time is not before `a`, the stores are canonical, the fault outputs show the faults. -/
def Kept (q : List Instr) (a : Nat) (s : State) : Prop :=
  s.pending = q ∧ a ≤ s.aon ∧ s.memOk = true ∧ s.storesOk = true ∧ s.linesOk = true

variable {q : List Instr} {a : Nat}

theorem kept_refl {s : State} (hm : s.memOk = true) (hs : s.storesOk = true) (hl : s.linesOk = true) :
    Kept s.pending s.aon s := ⟨rfl, Nat.le_refl _, hm, hs, hl⟩

/-- An update of fields that the property does not speak of. -/
theorem kept_lit {s : State} {tc retained tmLost bringAt coreLock heldAcc captured msgWait txns badRd poison upsets derived tileOld tileNo
    ctrNow scrubRow clears nextEntry fetchTenant grantFirst grantUsed grantNow graphs waits readyNo tlb ptrs walks pfaults wc wcFills eclWait
    reenter copies powerTo heldSince epochNo admitted rep free} (h : Kept q a s) :
    Kept q a { s with
      tc := tc, retained := retained, tmLost := tmLost, bringAt := bringAt, coreLock := coreLock, heldAcc := heldAcc,
      captured := captured, msgWait := msgWait, txns := txns, badRd := badRd, poison := poison, upsets := upsets, derived := derived,
      tileOld := tileOld, tileNo := tileNo, ctrNow := ctrNow, scrubRow := scrubRow,
      clears := clears, nextEntry := nextEntry, fetchTenant := fetchTenant, grantFirst := grantFirst, grantUsed := grantUsed,
      grantNow := grantNow,
      graphs := graphs, waits := waits, readyNo := readyNo, tlb := tlb, ptrs := ptrs, walks := walks, pfaults := pfaults, wc := wc,
      wcFills := wcFills, eclWait := eclWait, reenter := reenter, copies := copies, powerTo := powerTo, heldSince := heldSince,
      epochNo := epochNo, admitted := admitted, rep := rep, free := free } := h

theorem kept_ite {c : Prop} [Decidable c] {s t : State} (h1 : c → Kept q a s) (h2 : ¬c → Kept q a t) : Kept q a (if c then s else t) := by
  split
  · exact h1 ‹_›
  · exact h2 ‹_›

theorem kept_ite_fst {β : Type} {c : Prop} [Decidable c] {x y : State × β} (h1 : c → Kept q a x.1) (h2 : ¬c → Kept q a y.1) :
    Kept q a (if c then x else y).1 := by
  split
  · exact h1 ‹_›
  · exact h2 ‹_›

theorem kept_ite_snd {β : Type} {c : Prop} [Decidable c] {x y : β × State} (h1 : c → Kept q a x.2) (h2 : ¬c → Kept q a y.2) :
    Kept q a (if c then x else y).2 := by
  split
  · exact h1 ‹_›
  · exact h2 ‹_›

theorem kept_foldl {β : Type} {g : State → β → State} {l : List β} {s : State} (hg : ∀ t x, Kept q a t → Kept q a (g t x))
    (h : Kept q a s) : Kept q a (l.foldl g s) := by
  induction l generalizing s with
  | nil => exact h
  | cons x l ih => exact ih (hg s x h)

theorem kept_foldl_fst {β γ : Type} {g : State × γ → β → State × γ} {l : List β} {p : State × γ}
    (hg : ∀ r x, Kept q a r.1 → Kept q a (g r x).1) (h : Kept q a p.1) : Kept q a (l.foldl g p).1 := by
  induction l generalizing p with
  | nil => exact h
  | cons x l ih => exact ih (hg p x h)

theorem kept_foldl_snd {β γ : Type} {g : γ × State → β → γ × State} {l : List β} {p : γ × State}
    (hg : ∀ r x, Kept q a r.2 → Kept q a (g r x).2) (h : Kept q a p.2) : Kept q a (l.foldl g p).2 := by
  induction l generalizing p with
  | nil => exact h
  | cons x l ih => exact ih (hg p x h)

theorem kept_snd {β : Type} {p : β × State} {x : β} {s : State} (h : Kept q a p.2) (e : p = (x, s)) : Kept q a s := by
  subst e; exact h

theorem kept_fst {β : Type} {p : State × β} {x : β} {s : State} (h : Kept q a p.1) (e : p = (s, x)) : Kept q a s := by
  subst e; exact h

-- single stores

/-- The canonical stores, one by one. -/
structure Stores (s : State) : Prop where
  regs : Sparse.wf Reg.resetValue s.regs = true
  counters : Sparse.wf (fun _ => 0) s.counters = true
  ecc : Sparse.wf (fun _ => 0) s.ecc = true
  credit : Sparse.wf (fun _ => 0) s.credit = true
  owed : Sparse.wf (fun _ => 0) s.owed = true
  cpu : Sparse.wf (fun _ => 0) s.cpu = true
  ctxs : Sparse.wf (fun _ => {}) s.ctxs = true
  chans : Sparse.wf (fun _ => {}) s.chans = true
  vsOwners : Sparse.wf (fun _ => 15) s.vsOwners = true
  ports : Sparse.wf (fun _ => {}) s.relay.ports = true
  bases : Sparse.wf (fun _ => {}) s.mer.bases = true

theorem stores_iff {s : State} : s.storesOk = true ↔ Stores s := by
  simp only [State.storesOk, Bool.and_eq_true, and_assoc]
  exact ⟨fun ⟨h1, h2, h3, h4, h5, h6, h7, h8, h9, h10, h11⟩ => ⟨h1, h2, h3, h4, h5, h6, h7, h8, h9, h10, h11⟩,
    fun h => ⟨h.1, h.2, h.3, h.4, h.5, h.6, h.7, h.8, h.9, h.10, h.11⟩⟩

theorem Kept.stores {s : State} (h : Kept q a s) : Stores s := stores_iff.mp h.2.2.2.1

theorem Kept.mem {s : State} (h : Kept q a s) : Sparse.wf (fun _ => 0) s.sys = true ∧ Sparse.wf (fun _ => 0) s.tile = true := by
  have := h.2.2.1
  simpa only [State.memOk, Memory.wf, Bool.and_eq_true] using this

theorem kept_mems {s t : State} (h : Kept q a s) (hs : Sparse.wf (fun _ => 0) t.sys = true) (ht : Sparse.wf (fun _ => 0) t.tile = true)
    (hp : t.pending = s.pending) (ha : s.aon ≤ t.aon) (hst : t.storesOk = s.storesOk) (hl : t.linesOk = s.linesOk) : Kept q a t := by
  obtain ⟨h1, h2, -, h4, h5⟩ := h
  exact ⟨hp.trans h1, Nat.le_trans h2 ha, by rw [State.memOk, Memory.wf, Memory.wf, Bool.and_eq_true]; exact ⟨hs, ht⟩, hst.trans h4, hl.trans h5⟩

theorem kept_stores {s t : State} (h : Kept q a s) (hst : Stores t)
    (hp : t.pending = s.pending) (ha : s.aon ≤ t.aon) (hm : t.memOk = s.memOk) (hl : t.linesOk = s.linesOk) : Kept q a t := by
  obtain ⟨h1, h2, h3, -, h5⟩ := h
  exact ⟨hp.trans h1, Nat.le_trans h2 ha, hm.trans h3, stores_iff.mpr hst, hl.trans h5⟩

theorem kept_regs {s : State} {l : List (Nat × W64)} (h : Kept q a s) (hl : Sparse.wf Reg.resetValue l = true) :
    Kept q a { s with regs := l } := kept_stores h { h.stores with regs := hl } rfl (Nat.le_refl _) rfl rfl
theorem kept_counters {s : State} {l : List (Nat × W32)} (h : Kept q a s) (hl : Sparse.wf (fun _ => 0) l = true) :
    Kept q a { s with counters := l } := kept_stores h { h.stores with counters := hl } rfl (Nat.le_refl _) rfl rfl
theorem kept_ecc {s : State} {l : List (Nat × Nat)} (h : Kept q a s) (hl : Sparse.wf (fun _ => 0) l = true) :
    Kept q a { s with ecc := l } := kept_stores h { h.stores with ecc := hl } rfl (Nat.le_refl _) rfl rfl
theorem kept_credit {s : State} {l : List (Nat × Nat)} (h : Kept q a s) (hl : Sparse.wf (fun _ => 0) l = true) :
    Kept q a { s with credit := l } := kept_stores h { h.stores with credit := hl } rfl (Nat.le_refl _) rfl rfl
theorem kept_owed {s : State} {l : List (Nat × Nat)} (h : Kept q a s) (hl : Sparse.wf (fun _ => 0) l = true) :
    Kept q a { s with owed := l } := kept_stores h { h.stores with owed := hl } rfl (Nat.le_refl _) rfl rfl
theorem kept_cpu {s : State} {l : List (Nat × Nat)} (h : Kept q a s) (hl : Sparse.wf (fun _ => 0) l = true) :
    Kept q a { s with cpu := l } := kept_stores h { h.stores with cpu := hl } rfl (Nat.le_refl _) rfl rfl
theorem kept_ctxs {s : State} {l : List (Nat × Ctx)} (h : Kept q a s) (hl : Sparse.wf (fun _ => {}) l = true) :
    Kept q a { s with ctxs := l } := kept_stores h { h.stores with ctxs := hl } rfl (Nat.le_refl _) rfl rfl
theorem kept_chans {s : State} {l : List (Nat × Chan)} (h : Kept q a s) (hl : Sparse.wf (fun _ => {}) l = true) :
    Kept q a { s with chans := l } := kept_stores h { h.stores with chans := hl } rfl (Nat.le_refl _) rfl rfl
theorem kept_vsOwners {s : State} {l : List (Nat × Nat)} (h : Kept q a s) (hl : Sparse.wf (fun _ => 15) l = true) :
    Kept q a { s with vsOwners := l } := kept_stores h { h.stores with vsOwners := hl } rfl (Nat.le_refl _) rfl rfl
theorem kept_relay {s : State} {r : Relay} (h : Kept q a s) (hl : Sparse.wf (fun _ => {}) r.ports = true) :
    Kept q a { s with relay := r } := kept_stores h { h.stores with ports := hl } rfl (Nat.le_refl _) rfl rfl
theorem kept_mer {s : State} {m : Meridian} (h : Kept q a s) (hl : Sparse.wf (fun _ => {}) m.bases = true) :
    Kept q a { s with mer := m } := kept_stores h { h.stores with bases := hl } rfl (Nat.le_refl _) rfl rfl
/-- A relay whose ports are as before. -/
theorem kept_relay' {s : State} {r : Relay} (h : Kept q a s) (hr : r.ports = s.relay.ports) : Kept q a { s with relay := r } :=
  kept_relay h (by rw [hr]; exact h.stores.ports)
/-- A Meridian whose bases are as before. -/
theorem kept_mer' {s : State} {m : Meridian} (h : Kept q a s) (hm : m.bases = s.mer.bases) : Kept q a { s with mer := m } :=
  kept_mer h (by rw [hm]; exact h.stores.bases)
/-- A collector whose uncleared faults are as before. -/
theorem kept_coll {s : State} {c : Coll} (h : Kept q a s) (hc : c.faults = s.coll.faults) : Kept q a { s with coll := c } := by
  obtain ⟨h1, h2, h3, h4, h5⟩ := h
  refine ⟨h1, h2, h3, h4, ?_⟩
  simpa [State.linesOk, State.showsClass, State.collUp, hc] using h5
/-- Another phase of a core that runs as much as before. -/
theorem kept_phase {s : State} {p : Phase} (h : Kept q a s) (hp : ({ s with phase := p } : State).collUp = s.collUp) :
    Kept q a { s with phase := p } := by
  obtain ⟨h1, h2, h3, h4, h5⟩ := h
  refine ⟨h1, h2, h3, h4, ?_⟩
  simpa [State.linesOk, State.showsClass, hp] using h5
/-- Pins of which none bears on the fault outputs. -/
theorem kept_pins {s : State} {p : Pins} (h : Kept q a s) (h1 : p.isoN = s.pins.isoN) (h2 : p.rstN = s.pins.rstN)
    (h3 : p.fltCor = s.pins.fltCor) (h4 : p.fltCon = s.pins.fltCon) (h5 : p.fltFat = s.pins.fltFat) :
    Kept q a { s with pins := p } := by
  obtain ⟨k1, k2, k3, k4, k5⟩ := h
  refine ⟨k1, k2, k3, k4, ?_⟩
  simpa [State.linesOk, State.showsClass, State.collUp, h1, h2, h3, h4, h5] using k5
/-- Later time. -/
theorem kept_aon {s : State} {n : Nat} (h : Kept q a s) (hn : s.aon ≤ n) : Kept q a { s with aon := n } :=
  ⟨h.1, Nat.le_trans h.2.1 hn, h.2.2⟩

/-- The property without the fault outputs, while a fault is being entered or cleared. -/
def Kept0 (q : List Instr) (a : Nat) (s : State) : Prop := s.pending = q ∧ a ≤ s.aon ∧ s.memOk = true ∧ s.storesOk = true

theorem Kept.weak {s : State} (h : Kept q a s) : Kept0 q a s := ⟨h.1, h.2.1, h.2.2.1, h.2.2.2.1⟩
theorem kept0_coll {s : State} {c : Coll} (h : Kept0 q a s) : Kept0 q a { s with coll := c } := h
theorem kept0_pins {s : State} {p : Pins} (h : Kept0 q a s) : Kept0 q a { s with pins := p } := h
theorem kept0_phase {s : State} {p : Phase} (h : Kept0 q a s) : Kept0 q a { s with phase := p } := h
theorem Kept0.stores {s : State} (h : Kept0 q a s) : Stores s := stores_iff.mp h.2.2.2
theorem kept0_stores {s t : State} (h : Kept0 q a s) (hst : Stores t) (hp : t.pending = s.pending) (ha : s.aon ≤ t.aon)
    (hm : t.memOk = s.memOk) : Kept0 q a t :=
  ⟨hp.trans h.1, Nat.le_trans h.2.1 ha, hm.trans h.2.2.1, stores_iff.mpr hst⟩
theorem kept0_regs {s : State} {l : List (Nat × W64)} (h : Kept0 q a s) (hl : Sparse.wf Reg.resetValue l = true) :
    Kept0 q a { s with regs := l } := kept0_stores h { h.stores with regs := hl } rfl (Nat.le_refl _) rfl
theorem kept0_foldl {β : Type} {g : State → β → State} {l : List β} {s : State} (hg : ∀ t x, Kept0 q a t → Kept0 q a (g t x))
    (h : Kept0 q a s) : Kept0 q a (l.foldl g s) := by
  induction l generalizing s with
  | nil => exact h
  | cons x l ih => exact ih (hg s x h)
theorem Kept0.full {s : State} (h : Kept0 q a s) (hl : s.linesOk = true) : Kept q a s := ⟨h.1, h.2.1, h.2.2.1, h.2.2.2, hl⟩
/-- While no fault output is set in a core that is not running, the outputs show the faults. -/
theorem Kept0.down {s : State} (h : Kept0 q a s) (hu : s.collUp = false) (h3 : s.pins.fltCor = false) (h4 : s.pins.fltCon = false)
    (h5 : s.pins.fltFat = false) : Kept q a s :=
  h.full (by simp [State.linesOk, State.showsClass, hu, h3, h4, h5])

-- accesses

/-- An access keeps the property, whether or not it goes on. -/
def KeptM {β : Type} (q : List Instr) (a : Nat) (m : M β) : Prop := ∀ s, Kept q a s → Kept q a (m.on s).2

variable {β γ : Type}

theorem keptM_pure {x : β} : KeptM q a (pure x : M β) := fun _ h => h
theorem keptM_throw {e : Err} : KeptM q a (throw e : M β) := fun _ h => h
theorem keptM_bind {m : M β} {f : β → M γ} (hm : KeptM q a m) (hf : ∀ x, KeptM q a (f x)) : KeptM q a (m >>= f) := by
  intro s h
  have h1 := hm s h
  show Kept q a ((m >>= f).run s).2
  simp only [M.on, ExceptT.run, bind, ExceptT.bind, StateT.bind, ExceptT.mk] at h1 ⊢
  cases hr : m s with
  | mk r t =>
    rw [hr] at h1
    cases r with
    | ok x => exact hf x t h1
    | error e => exact h1
theorem keptM_get {f : State → M β} (hf : ∀ s, Kept q a s → KeptM q a (f s)) : KeptM q a (get >>= f) :=
  fun s h => hf s h s h
theorem keptM_set {t : State} (h : Kept q a t) : KeptM q a (set t : M Unit) := fun _ _ => h
theorem keptM_modify {f : State → State} (hf : ∀ s, Kept q a s → Kept q a (f s)) : KeptM q a (modify f : M Unit) :=
  fun s h => hf s h
theorem keptM_ite {c : Prop} [Decidable c] {m n : M β} (h1 : c → KeptM q a m) (h2 : ¬c → KeptM q a n) :
    KeptM q a (if c then m else n) := by
  split
  · exact h1 ‹_›
  · exact h2 ‹_›
theorem keptM_forIn {l : List γ} {x : β} {f : γ → β → M (ForInStep β)} (hf : ∀ y z, KeptM q a (f y z)) :
    KeptM q a (forIn l x f) := by
  induction l generalizing x with
  | nil => exact keptM_pure
  | cons y l ih =>
    rw [List.forIn_cons]
    refine keptM_bind (hf y x) (fun r => ?_)
    cases r with
    | done z => exact keptM_pure
    | yield z => exact ih
theorem keptM_mapM {l : List γ} {f : γ → M β} (hf : ∀ y, KeptM q a (f y)) : KeptM q a (l.mapM f) := by
  induction l with
  | nil => exact keptM_pure
  | cons y l ih =>
    rw [List.mapM_cons]
    exact keptM_bind (hf y) (fun z => keptM_bind ih (fun zs => keptM_pure))
theorem keptM_forM {l : List γ} {f : γ → M PUnit} (hf : ∀ y, KeptM q a (f y)) : KeptM q a (l.forM f) := by
  induction l with
  | nil => exact keptM_pure
  | cons y l ih => exact keptM_bind (hf y) (fun _ => ih)
theorem keptM_foldlM {l : List γ} {x : β} {f : β → γ → M β} (hf : ∀ y z, KeptM q a (f y z)) : KeptM q a (l.foldlM f x) := by
  induction l generalizing x with
  | nil => exact keptM_pure
  | cons y l ih =>
    rw [List.foldlM_cons]
    exact keptM_bind (hf x y) (fun _ => ih)
theorem keptM_tryCatch {m : M β} {f : Err → M β} (hm : KeptM q a m) (hf : ∀ e, KeptM q a (f e)) : KeptM q a (tryCatch m f) := by
  intro s h
  have h1 := hm s h
  show Kept q a ((tryCatch m f).run s).2
  simp only [M.on, ExceptT.run, tryCatch, tryCatchThe, MonadExceptOf.tryCatch, ExceptT.tryCatch, bind, StateT.bind, ExceptT.mk] at h1 ⊢
  cases hr : m s with
  | mk r t =>
    rw [hr] at h1
    cases r with
    | ok x => exact h1
    | error e => exact hf e t h1
theorem keptM_filterAuxM {l acc : List γ} {f : γ → M Bool} (hf : ∀ y, KeptM q a (f y)) : KeptM q a (l.filterAuxM f acc) := by
  induction l generalizing acc with
  | nil => exact keptM_pure
  | cons y l ih => exact keptM_bind (hf y) (fun _ => ih)
theorem keptM_filterM {l : List γ} {f : γ → M Bool} (hf : ∀ y, KeptM q a (f y)) : KeptM q a (l.filterM f) :=
  keptM_bind (keptM_filterAuxM hf) (fun _ => keptM_pure)
theorem kept_on {m : M β} {s : State} (hm : KeptM q a m) (h : Kept q a s) : Kept q a (m.on s).2 := hm s h

-- commands

/-- What a command answers keeps the property: a next state has it. -/
def KeptO (q : List Instr) (a : Nat) (o : Out) : Prop := ∀ t, o = .next t → Kept q a t

theorem keptO_next {s : State} (h : Kept q a s) : KeptO q a (.next s) := by rintro _ ⟨⟩; exact h
theorem keptO_fault {f : Fault} : KeptO q a (.fault f) := by rintro _ ⟨⟩

end Sys2Proof.Machine
end

