-- ==== Sys2Proof/Laws/Kept1.lean ====
section
/-! SUPPORT. Every operation keeps what `Kept` says (the queue, the time, the canonical stores, the fault outputs):
registers, shared operations, relay and collector. -/

namespace Sys2Proof.Machine

variable {q : List Instr} {a : Nat}

-- Machine/Regs.lean

theorem State.setReg_kept (x0 x1 x2) (hx0 : Kept q a x0) : Kept q a (State.setReg x0 x1 x2) := by
  exact kept_regs hx0 (Sparse.wf_set hx0.stores.regs)

theorem State.setReg_kept0 {s : State} {o : Nat} {v : W64} (h : Kept0 q a s) : Kept0 q a (s.setReg o v) := kept0_regs h (Sparse.wf_set h.stores.regs)

theorem State.setFld_kept0 {s : State} {f : Fld} {v : Nat} (h : Kept0 q a s) : Kept0 q a (s.setFld f v) := State.setReg_kept0 h

theorem State.setFld_kept (x0 x1 x2) (hx0 : Kept q a x0) : Kept q a (State.setFld x0 x1 x2) := State.setReg_kept _ _ _ hx0

theorem State.sat_kept0 {s : State} {f : Fld} {n : Nat} (h : Kept0 q a s) : Kept0 q a (s.sat f n) := State.setFld_kept0 h

theorem State.sat_kept (x0 x1 x2) (hx0 : Kept q a x0) : Kept q a (State.sat x0 x1 x2) := State.setFld_kept _ _ _ hx0

theorem State.wrap_kept (x0 x1 x2) (hx0 : Kept q a x0) : Kept q a (State.wrap x0 x1 x2) := by
  unfold State.wrap
  try dsimp only
  repeat' first
    | with_reducible assumption
    | with_reducible apply State.setFld_kept

-- Machine/Ops.lean

theorem State.drawBelow_kept (x0 x1) (hx0 : Kept q a x0) : Kept q a (State.drawBelow x0 x1).2 := by
  unfold State.drawBelow
  try dsimp only
  repeat' first
    | with_reducible assumption
    | fail_if_no_progress (with_reducible apply kept_lit)

theorem State.drawBool_kept (x0) (hx0 : Kept q a x0) : Kept q a (State.drawBool x0).2 := by
  unfold State.drawBool
  try dsimp only
  repeat' first
    | with_reducible assumption
    | fail_if_no_progress (with_reducible apply kept_lit)

theorem State.setCtx_kept (x0 x1 x2) (hx0 : Kept q a x0) : Kept q a (State.setCtx x0 x1 x2) := by
  exact kept_ctxs hx0 (Sparse.wf_set hx0.stores.ctxs)

theorem State.modCtx_kept (x0 x1 x2) (hx0 : Kept q a x0) : Kept q a (State.modCtx x0 x1 x2) := by
  unfold State.modCtx
  try dsimp only
  repeat' first
    | with_reducible assumption
    | with_reducible apply State.setCtx_kept

theorem State.setChan_kept (x0 x1 x2) (hx0 : Kept q a x0) : Kept q a (State.setChan x0 x1 x2) := by
  exact kept_chans hx0 (Sparse.wf_set hx0.stores.chans)

theorem State.modChan_kept (x0 x1 x2) (hx0 : Kept q a x0) : Kept q a (State.modChan x0 x1 x2) := by
  unfold State.modChan
  try dsimp only
  repeat' first
    | with_reducible assumption
    | with_reducible apply State.setChan_kept

theorem State.eachChan_kept (x0 x1) (hx0 : Kept q a x0) : Kept q a (State.eachChan x0 x1) := by
  unfold State.eachChan
  try dsimp only
  repeat' first
    | with_reducible assumption
    | with_reducible apply State.modChan_kept
    | with_reducible apply kept_foldl
    | with_reducible intro _

theorem State.setPort_kept (x0 x1 x2) (hx0 : Kept q a x0) : Kept q a (State.setPort x0 x1 x2) := by
  exact kept_relay hx0 (Sparse.wf_set hx0.stores.ports)

theorem State.modPort_kept (x0 x1 x2) (hx0 : Kept q a x0) : Kept q a (State.modPort x0 x1 x2) := by
  unfold State.modPort
  try dsimp only
  repeat' first
    | with_reducible assumption
    | with_reducible apply State.setPort_kept

theorem State.setBase_kept (x0 x1 x2) (hx0 : Kept q a x0) : Kept q a (State.setBase x0 x1 x2) := by
  exact kept_mer hx0 (Sparse.wf_set hx0.stores.bases)

theorem State.modBase_kept (x0 x1 x2) (hx0 : Kept q a x0) : Kept q a (State.modBase x0 x1 x2) := by
  unfold State.modBase
  try dsimp only
  repeat' first
    | with_reducible assumption
    | with_reducible apply State.setBase_kept

theorem State.setColl_kept0 {s : State} {c : Coll} (h : Kept0 q a s) : Kept0 q a (s.setColl c) := h

theorem State.setColl_kept {s : State} {c : Coll} (h : Kept q a s) (hc : c.faults = s.coll.faults) : Kept q a (s.setColl c) := kept_coll h hc

theorem State.setRelay_kept {s : State} {r : Relay} (h : Kept q a s) (hr : r.ports = s.relay.ports) : Kept q a (s.setRelay r) := kept_relay' h hr

theorem State.setRep_kept (x0 x1) (hx0 : Kept q a x0) : Kept q a (State.setRep x0 x1) := by
  unfold State.setRep
  try dsimp only
  repeat' first
    | with_reducible assumption
    | fail_if_no_progress (with_reducible apply kept_lit)

theorem State.setMer_kept {s : State} {m : Meridian} (h : Kept q a s) (hr : m.bases = s.mer.bases) : Kept q a (s.setMer m) := kept_mer' h hr

theorem State.setPins_kept {s : State} {p : Pins} (h : Kept q a s) (h1 : p.isoN = s.pins.isoN) (h2 : p.rstN = s.pins.rstN)
    (h3 : p.fltCor = s.pins.fltCor) (h4 : p.fltCon = s.pins.fltCon) (h5 : p.fltFat = s.pins.fltFat) : Kept q a (s.setPins p) :=
  kept_pins h h1 h2 h3 h4 h5

theorem State.modGraph_kept (x0 x1 x2) (hx0 : Kept q a x0) : Kept q a (State.modGraph x0 x1 x2) := by
  unfold State.modGraph
  try dsimp only
  repeat' first
    | with_reducible assumption
    | fail_if_no_progress (with_reducible apply kept_lit)

theorem State.dropGraph_kept (x0 x1) (hx0 : Kept q a x0) : Kept q a (State.dropGraph x0 x1) := by
  unfold State.dropGraph
  try dsimp only
  repeat' first
    | with_reducible assumption
    | fail_if_no_progress (with_reducible apply kept_lit)

theorem State.modNode_kept (x0 x1 x2 x3) (hx0 : Kept q a x0) : Kept q a (State.modNode x0 x1 x2 x3) := by
  unfold State.modNode
  try dsimp only
  repeat' first
    | with_reducible assumption
    | with_reducible apply State.modGraph_kept

theorem State.countSlice_kept (x0 x1 x2) (hx0 : Kept q a x0) : Kept q a (State.countSlice x0 x1 x2) := by
  unfold State.countSlice
  try dsimp only
  repeat' first
    | with_reducible assumption
    | with_reducible apply State.modGraph_kept
    | with_reducible apply State.modNode_kept

theorem State.setRawByte_kept (x0 x1 x2) (hx0 : Kept q a x0) : Kept q a (State.setRawByte x0 x1 x2) :=
  kept_mems hx0 (Sparse.wf_set hx0.mem.1) hx0.mem.2 rfl (Nat.le_refl _) rfl rfl

theorem State.setSysByte_kept (x0 x1 x2) (hx0 : Kept q a x0) : Kept q a (State.setSysByte x0 x1 x2) :=
  kept_cpu (State.setRawByte_kept _ _ _ hx0) (Sparse.wf_set hx0.stores.cpu)

theorem State.sysWr_kept (x0 x1 x2) (hx0 : Kept q a x0) : Kept q a (State.sysWr x0 x1 x2) := by
  induction x2 generalizing x0 x1 with
  | nil => exact hx0
  | cons b l ih => exact ih _ _ (State.setSysByte_kept _ _ _ hx0)

theorem State.rawWr_kept (x0 x1 x2) (hx0 : Kept q a x0) : Kept q a (State.rawWr x0 x1 x2) := by
  induction x2 generalizing x0 x1 with
  | nil => exact hx0
  | cons b l ih => exact ih _ _ (State.setRawByte_kept _ _ _ hx0)

theorem State.cpuWr_kept (x0 x1 x2) (hx0 : Kept q a x0) : Kept q a (State.cpuWr x0 x1 x2) := by
  induction x2 generalizing x0 x1 with
  | nil => exact hx0
  | cons b l ih => exact ih _ _ (kept_cpu hx0 (Sparse.wf_set hx0.stores.cpu))

theorem State.writeBack_kept (x0 x1 x2) (hx0 : Kept q a x0) : Kept q a (State.writeBack x0 x1 x2) := by
  unfold State.writeBack
  try dsimp only
  repeat' first
    | with_reducible assumption
    | with_reducible apply State.sysWr_kept

theorem State.setTileByte_kept (x0 x1 x2) (hx0 : Kept q a x0) : Kept q a (State.setTileByte x0 x1 x2) := by
  exact kept_mems hx0 hx0.mem.1 (Sparse.wf_set hx0.mem.2) rfl (Nat.le_refl _) rfl rfl

theorem State.tileWr_kept (x0 x1 x2) (hx0 : Kept q a x0) : Kept q a (State.tileWr x0 x1 x2) := by
  induction x2 generalizing x0 x1 with
  | nil => exact hx0
  | cons b l ih => exact ih _ _ (State.setTileByte_kept _ _ _ hx0)

theorem State.tileClear_kept (x0 x1 x2) (hx0 : Kept q a x0) : Kept q a (State.tileClear x0 x1 x2) := by
  exact kept_mems (s := { x0 with ecc := x0.ecc.filter _ }) (kept_ecc hx0 (Sparse.wf_filter _ hx0.stores.ecc)) hx0.mem.1 (Sparse.wf_filter _ hx0.mem.2) rfl (Nat.le_refl _) rfl rfl

theorem State.hostStores_kept (x0 x1) (hx0 : Kept q a x0) : Kept q a (State.hostStores x0 x1) := by
  unfold State.hostStores
  try dsimp only
  repeat' first
    | with_reducible assumption
    | with_reducible apply State.cpuWr_kept
    | with_reducible apply State.sysWr_kept
    | with_reducible apply kept_ite
    | with_reducible apply kept_ite_fst
    | with_reducible apply kept_ite_snd
    | with_reducible apply kept_foldl
    | with_reducible intro _
    | with_reducible refine kept_snd ?_ (by assumption)
    | with_reducible refine kept_fst ?_ (by assumption)

theorem State.advance_kept (x0 x1) (hx0 : Kept q a x0) : Kept q a (State.advance x0 x1) := by
  exact kept_lit (kept_aon hx0 (Nat.le_add_right _ _))

theorem State.advanceTo_kept (x0 x1) (hx0 : Kept q a x0) : Kept q a (State.advanceTo x0 x1) := by
  unfold State.advanceTo
  try dsimp only
  repeat' first
    | with_reducible assumption
    | with_reducible apply State.advance_kept

theorem State.sendMsg_kept (x0 x1) (hx0 : Kept q a x0) : Kept q a (State.sendMsg x0 x1) := by
  unfold State.sendMsg
  try dsimp only
  repeat' first
    | with_reducible assumption
    | with_reducible apply State.setFld_kept
    | with_reducible apply kept_ite
    | with_reducible apply kept_ite_fst
    | with_reducible apply kept_ite_snd
    | fail_if_no_progress (with_reducible apply kept_lit)
    | with_reducible intro _
    | with_reducible refine kept_snd ?_ (by assumption)
    | with_reducible refine kept_fst ?_ (by assumption)

theorem State.sendMsgs_kept (x0) (hx0 : Kept q a x0) : Kept q a (State.sendMsgs x0) := by
  unfold State.sendMsgs
  try dsimp only
  repeat' first
    | with_reducible assumption
    | with_reducible apply State.sendMsg_kept
    | with_reducible apply kept_foldl

theorem State.event_kept (x0 x1) (hx0 : Kept q a x0) : Kept q a (State.event x0 x1) := by
  unfold State.event
  try dsimp only
  repeat' first
    | with_reducible assumption
    | with_reducible apply State.sendMsg_kept
    | with_reducible apply State.setFld_kept
    | with_reducible apply kept_ite
    | with_reducible apply kept_ite_fst
    | with_reducible apply kept_ite_snd
    | with_reducible intro _
    | with_reducible refine kept_snd ?_ (by assumption)
    | with_reducible refine kept_fst ?_ (by assumption)

theorem State.ctrSettle_kept (x0 x1) (hx0 : Kept q a x0) : Kept q a (State.ctrSettle x0 x1) := by
  unfold State.ctrSettle
  try dsimp only
  repeat' first
    | with_reducible assumption
    | fail_if_no_progress (with_reducible apply kept_lit)
    | split

theorem State.ctrPut_kept (x0 x1) (hx0 : Kept q a x0) : Kept q a (State.ctrPut x0 x1) :=
  kept_counters (s := { x0 with ctrNow := _ }) (kept_lit hx0) (Sparse.wf_set hx0.stores.counters)

theorem State.ctrOp_kept (x0 x1 x2 x3) (hx0 : Kept q a x0) : Kept q a (State.ctrOp x0 x1 x2 x3) := by
  unfold State.ctrOp
  try dsimp only
  repeat' first
    | with_reducible assumption
    | with_reducible apply State.drawBool_kept
    | with_reducible apply State.ctrPut_kept
    | with_reducible apply State.ctrSettle_kept
    | with_reducible intro _
    | split

theorem State.setCounter_kept (x0 x1 x2 x3) (hx0 : Kept q a x0) : Kept q a (State.setCounter x0 x1 x2 x3) := by
  unfold State.setCounter
  try dsimp only
  repeat' first
    | with_reducible assumption
    | with_reducible apply State.ctrOp_kept

theorem State.addCounter_kept (x0 x1 x2) (hx0 : Kept q a x0) : Kept q a (State.addCounter x0 x1 x2) := by
  unfold State.addCounter
  try dsimp only
  repeat' first
    | with_reducible assumption
    | with_reducible apply State.ctrOp_kept

theorem State.addWait_kept (x0 x1) (hx0 : Kept q a x0) : Kept q a (State.addWait x0 x1) := by
  unfold State.addWait
  try dsimp only
  repeat' first
    | with_reducible assumption
    | with_reducible apply State.ctrSettle_kept
    | fail_if_no_progress (with_reducible apply kept_lit)

theorem State.setCredit_kept (x0 x1 x2 x3) (hx0 : Kept q a x0) : Kept q a (State.setCredit x0 x1 x2 x3) :=
  kept_credit hx0 (Sparse.wf_set hx0.stores.credit)

theorem State.draw_kept (x0 x1 x2) (hx0 : Kept q a x0) : Kept q a (State.draw x0 x1 x2) :=
  kept_stores hx0 { hx0.stores with credit := Sparse.wf_set hx0.stores.credit, owed := Sparse.wf_set hx0.stores.owed } rfl (Nat.le_refl _) rfl rfl

theorem State.debit_kept (x0 x1 x2 x3) (hx0 : Kept q a x0) : Kept q a (State.debit x0 x1 x2 x3) := by
  unfold State.debit
  try dsimp only
  repeat' first
    | with_reducible assumption
    | with_reducible apply State.draw_kept
    | with_reducible apply kept_foldl
    | with_reducible intro _

theorem State.unheld_kept (x0 x1) (hx0 : Kept q a x0) : Kept q a (State.unheld x0 x1) := by
  unfold State.unheld
  try dsimp only
  repeat' first
    | with_reducible assumption
    | with_reducible apply State.setFld_kept
    | with_reducible apply kept_ite
    | with_reducible apply kept_ite_fst
    | with_reducible apply kept_ite_snd
    | with_reducible intro _
    | with_reducible refine kept_snd ?_ (by assumption)
    | with_reducible refine kept_fst ?_ (by assumption)

theorem State.issueAt_kept (x0 x1) (hx0 : Kept q a x0) : Kept q a (State.issueAt x0 x1) := by
  unfold State.issueAt
  try dsimp only
  repeat' first
    | with_reducible assumption
    | with_reducible apply State.unheld_kept
    | with_reducible apply State.debit_kept
    | fail_if_no_progress (with_reducible apply kept_lit)
    | with_reducible intro _
    | split

theorem State.issue_kept (x0) (hx0 : Kept q a x0) : Kept q a (State.issue x0) := by
  unfold State.issue
  try dsimp only
  repeat' first
    | with_reducible assumption
    | with_reducible apply State.issueAt_kept
    | with_reducible apply kept_foldl

theorem State.putCells_kept (x0 x1 x2) (hx0 : Kept q a x0) : Kept q a (State.putCells x0 x1 x2) := by
  unfold State.putCells
  try dsimp only
  repeat' first
    | with_reducible assumption
    | with_reducible apply State.setRawByte_kept
    | with_reducible apply State.setSysByte_kept
    | with_reducible apply kept_ite
    | with_reducible apply kept_ite_fst
    | with_reducible apply kept_ite_snd
    | with_reducible apply kept_foldl
    | with_reducible intro _
    | with_reducible refine kept_snd ?_ (by assumption)
    | with_reducible refine kept_fst ?_ (by assumption)

-- Machine/Relay.lean

theorem State.enqueue_kept (x0 x1 x2) (hx0 : Kept q a x0) : Kept q a (State.enqueue x0 x1 x2) := by
  unfold State.enqueue
  try dsimp only
  repeat' first
    | with_reducible assumption
    | with_reducible apply State.modPort_kept

theorem State.routeOn_kept {s t : State} {arr : Option Nat} {f : Queued} (h : Kept q a s) (e : s.routeOn arr f = some t) : Kept q a t := by
  unfold State.routeOn at e
  split at e
  · cases e
  · cases e; exact State.enqueue_kept _ _ _ h

theorem State.routeOn_getD_kept {s : State} {arr : Option Nat} {f : Queued} (h : Kept q a s) : Kept q a ((s.routeOn arr f).getD s) := by
  cases e : s.routeOn arr f with
  | none => exact h
  | some t => exact State.routeOn_kept h e

theorem State.sendOut_kept (x0 x1 x2) (hx0 : Kept q a x0) : Kept q a (State.sendOut x0 x1 x2) := State.routeOn_getD_kept hx0

theorem State.notReadyTo_kept (x0 x1 x2) (hx0 : Kept q a x0) : Kept q a (State.notReadyTo x0 x1 x2) := by
  unfold State.notReadyTo
  try dsimp only
  repeat' first
    | with_reducible assumption
    | with_reducible apply State.setFld_kept
    | with_reducible apply State.setRelay_kept
    | with_reducible apply State.sendOut_kept
    | exact rfl
    | with_reducible apply kept_ite
    | with_reducible apply kept_ite_fst
    | with_reducible apply kept_ite_snd
    | with_reducible intro _
    | with_reducible refine kept_snd ?_ (by assumption)
    | with_reducible refine kept_fst ?_ (by assumption)

theorem State.deliver_kept (x0 x1 x2) (hx0 : Kept q a x0) : Kept q a (State.deliver x0 x1 x2) := by
  unfold State.deliver
  try dsimp only
  repeat' first
    | with_reducible assumption
    | with_reducible apply State.setRelay_kept
    | with_reducible apply State.notReadyTo_kept
    | exact rfl
    | with_reducible apply kept_ite
    | with_reducible apply kept_ite_fst
    | with_reducible apply kept_ite_snd
    | with_reducible intro _
    | with_reducible refine kept_snd ?_ (by assumption)
    | with_reducible refine kept_fst ?_ (by assumption)

theorem State.inject_kept (x0 x1 x2) (hx0 : Kept q a x0) : Kept q a (State.inject x0 x1 x2) := by
  unfold State.inject
  try dsimp only
  repeat' first
    | with_reducible assumption
    | with_reducible apply State.deliver_kept
    | with_reducible apply State.sendOut_kept
    | with_reducible apply kept_ite
    | with_reducible apply kept_ite_fst
    | with_reducible apply kept_ite_snd
    | with_reducible intro _
    | with_reducible refine kept_snd ?_ (by assumption)
    | with_reducible refine kept_fst ?_ (by assumption)

theorem State.floodOut_kept (x0 x1 x2) (hx0 : Kept q a x0) : Kept q a (State.floodOut x0 x1 x2) := by
  unfold State.floodOut
  try dsimp only
  repeat' first
    | with_reducible assumption
    | with_reducible apply State.enqueue_kept
    | with_reducible apply kept_ite
    | with_reducible apply kept_ite_fst
    | with_reducible apply kept_ite_snd
    | with_reducible apply kept_foldl
    | with_reducible intro _
    | with_reducible refine kept_snd ?_ (by assumption)
    | with_reducible refine kept_fst ?_ (by assumption)

theorem State.grpOut_kept (x0 x1 x2) (hx0 : Kept q a x0) : Kept q a (State.grpOut x0 x1 x2) := by
  unfold State.grpOut
  try dsimp only
  repeat' first
    | with_reducible assumption
    | with_reducible apply State.setFld_kept
    | with_reducible apply kept_foldl
    | with_reducible intro _
    | split

-- Machine/Collector.lean

theorem State.drive_kept0 {s : State} (h : Kept0 q a s) : Kept q a s.drive :=
  (State.setReg_kept0 (kept0_pins h)).full (by simp [State.linesOk, State.showsClass, State.drive, State.setFld, State.setReg, State.setPins, State.collUp])

theorem State.drive_kept (x0) (hx0 : Kept q a x0) : Kept q a (State.drive x0) := State.drive_kept0 hx0.weak

theorem State.mkRec_kept (x0 x1 x2) (hx0 : Kept q a x0) : Kept q a (State.mkRec x0 x1 x2).2 := by
  unfold State.mkRec
  exact State.setColl_kept hx0 rfl

theorem State.mkRec_kept0 {s : State} {f : FaultReq} {k : Nat} (h : Kept q a s) : Kept0 q a (s.mkRec f k).2 := (State.mkRec_kept s f k h).weak

theorem State.iqPush_kept (x0 x1) (hx0 : Kept q a x0) : Kept q a (State.iqPush x0 x1) := by
  unfold State.iqPush
  try dsimp only
  repeat' first
    | with_reducible assumption
    | with_reducible apply State.setColl_kept
    | with_reducible apply State.event_kept
    | exact rfl
    | with_reducible apply kept_ite
    | with_reducible apply kept_ite_fst
    | with_reducible apply kept_ite_snd
    | with_reducible intro _
    | with_reducible refine kept_snd ?_ (by assumption)
    | with_reducible refine kept_fst ?_ (by assumption)

theorem State.setSticky_kept (x0 x1) (hx0 : Kept q a x0) : Kept q a (State.setSticky x0 x1) := by
  unfold State.setSticky
  try dsimp only
  repeat' first
    | with_reducible assumption
    | with_reducible apply State.setReg_kept
    | with_reducible apply State.setColl_kept
    | exact rfl
    | with_reducible apply kept_foldl
    | with_reducible intro _

theorem State.overflow_kept (x0 x1) (hx0 : Kept q a x0) : Kept q a (State.overflow x0 x1) := by
  unfold State.overflow
  try dsimp only
  repeat' first
    | with_reducible assumption
    | with_reducible apply State.sat_kept
    | with_reducible apply State.setSticky_kept
    | with_reducible intro _
    | split

theorem State.vspShow_kept0 {s : State} {u : Nat} (h : Kept0 q a s) : Kept0 q a (s.vspShow u) := State.setFld_kept0 (State.setFld_kept0 h)

theorem State.vspShow_kept (x0 x1) (hx0 : Kept q a x0) : Kept q a (State.vspShow x0 x1) := by
  exact State.setFld_kept _ _ _ (State.setFld_kept _ _ _ hx0)

theorem State.vspFault_kept (x0 x1) (hx0 : Kept q a x0) : Kept q a (State.vspFault x0 x1) := by
  unfold State.vspFault
  try dsimp only
  repeat' first
    | with_reducible assumption
    | with_reducible apply State.vspShow_kept
    | with_reducible apply State.setFld_kept
    | with_reducible apply State.sat_kept
    | with_reducible apply State.event_kept
    | with_reducible apply kept_ite
    | with_reducible apply kept_ite_fst
    | with_reducible apply kept_ite_snd
    | with_reducible intro _
    | with_reducible refine kept_snd ?_ (by assumption)
    | with_reducible refine kept_fst ?_ (by assumption)

theorem State.record_kept (x0 x1) (hx0 : Kept q a x0) : Kept q a (State.record x0 x1).1 := by
  unfold State.record
  dsimp only
  split
  · exact hx0
  repeat' first
    | with_reducible assumption
    | intro _
    | with_reducible apply State.vspFault_kept
    | with_reducible apply State.overflow_kept
    | with_reducible apply State.iqPush_kept
    | with_reducible apply State.drive_kept0
    | with_reducible apply State.setFld_kept0
    | with_reducible apply State.setColl_kept0
    | with_reducible apply State.mkRec_kept0
    | split

theorem State.nameSelfOut_kept (x0) (hx0 : Kept q a x0) : Kept q a (State.nameSelfOut x0) := by
  unfold State.nameSelfOut
  try dsimp only
  repeat' first
    | with_reducible assumption
    | with_reducible apply State.setRep_kept
    | with_reducible apply State.grpOut_kept
    | with_reducible apply State.setFld_kept
    | with_reducible apply State.floodOut_kept
    | with_reducible apply kept_ite
    | with_reducible apply kept_ite_fst
    | with_reducible apply kept_ite_snd
    | with_reducible intro _
    | with_reducible refine kept_snd ?_ (by assumption)
    | with_reducible refine kept_fst ?_ (by assumption)

theorem State.fatalStop_kept (x0) (hx0 : Kept q a x0) : Kept q a (State.fatalStop x0) := by
  unfold State.fatalStop
  try dsimp only
  repeat' first
    | with_reducible assumption
    | with_reducible apply State.setRelay_kept
    | with_reducible apply State.record_kept
    | with_reducible apply State.nameSelfOut_kept
    | exact rfl
    | with_reducible apply kept_ite
    | with_reducible apply kept_ite_fst
    | with_reducible apply kept_ite_snd
    | with_reducible intro _
    | with_reducible refine kept_snd ?_ (by assumption)
    | with_reducible refine kept_fst ?_ (by assumption)

theorem State.overflowed_kept (x0) (hx0 : Kept q a x0) : Kept q a (State.overflowed x0) := by
  unfold State.overflowed
  dsimp only
  repeat' first
    | with_reducible assumption
    | with_reducible apply kept_ite
    | intro _
    | with_reducible apply State.drive_kept0
    | with_reducible apply State.setColl_kept0
    | with_reducible apply State.mkRec_kept0

theorem State.raise_kept (x0 x1) (hx0 : Kept q a x0) : Kept q a (State.raise x0 x1) := by
  unfold State.raise
  try dsimp only
  repeat' first
    | with_reducible assumption
    | with_reducible apply State.record_kept
    | with_reducible apply State.overflowed_kept
    | with_reducible apply State.fatalStop_kept
    | with_reducible apply kept_ite
    | with_reducible apply kept_ite_fst
    | with_reducible apply kept_ite_snd
    | fail_if_no_progress (with_reducible apply kept_lit)
    | with_reducible intro _
    | with_reducible refine kept_snd ?_ (by assumption)
    | with_reducible refine kept_fst ?_ (by assumption)

theorem State.request_kept (x0 x1) (hx0 : Kept q a x0) : Kept q a (State.request x0 x1).2 := by
  unfold State.request
  try dsimp only
  repeat' first
    | with_reducible assumption
    | with_reducible apply State.mkRec_kept
    | with_reducible apply State.iqPush_kept

theorem State.iqPop_kept (x0) (hx0 : Kept q a x0) : Kept q a (State.iqPop x0) := by
  unfold State.iqPop
  try dsimp only
  repeat' first
    | with_reducible assumption
    | with_reducible apply State.setColl_kept
    | with_reducible apply State.iqPush_kept
    | exact rfl
    | split

theorem State.recWrite_kept (x0 x1 x2 x3 x4 x5 x6 x7) (hx0 : Kept q a x0) : Kept q a (State.recWrite x0 x1 x2 x3 x4 x5 x6 x7) := by
  unfold State.recWrite
  try dsimp only
  repeat' first
    | with_reducible assumption
    | with_reducible apply State.issue_kept
    | fail_if_no_progress (with_reducible apply kept_lit)

theorem State.spill_kept (x0) (hx0 : Kept q a x0) : Kept q a (State.spill x0) := by
  unfold State.spill
  try dsimp only
  repeat' first
    | with_reducible assumption
    | with_reducible apply State.setColl_kept
    | with_reducible apply State.setFld_kept
    | with_reducible apply State.recWrite_kept
    | with_reducible apply State.iqPop_kept
    | exact rfl
    | fail_if_no_progress (with_reducible apply kept_lit)
    | with_reducible intro _
    | split

theorem State.ack_kept (x0 x1) (hx0 : Kept q a x0) : Kept q a (State.ack x0 x1) := by
  obtain ⟨h1, h2, h3, h4, h5⟩ := hx0
  refine ⟨h1, h2, h3, h4, ?_⟩
  have he : ∀ c, (State.ack x0 x1).coll.faults.any (·.cls == c) = x0.coll.faults.any (·.cls == c) := by
    intro c
    simp only [State.ack, State.setColl, List.any_map]
    congr 1
    funext f
    simp only [Function.comp]
    split <;> rfl
  show ({ (x0.ack x1) with coll := (x0.ack x1).coll } : State).linesOk = true
  simp only [State.linesOk, State.showsClass, he]
  exact h5

theorem State.endTwilight_kept (x0) (hx0 : Kept q a x0) : Kept q a (State.endTwilight x0) := by
  unfold State.endTwilight
  refine State.drive_kept0 ?_
  have h1 : Kept0 q a ((({ x0 with coll := { x0.coll with faults := x0.coll.faults.filter (!·.settled) } } : State).setFld ⟨Reg.faultStatus, 0, 1⟩ 0).sat F.recovCnt) :=
    State.sat_kept0 (State.setFld_kept0 (kept0_coll hx0.weak))
  dsimp only
  split
  · exact kept0_foldl (fun t x h => State.vspShow_kept0 h) h1
  · exact h1

end Sys2Proof.Machine
end

