-- ==== Sys2Proof/Laws/Kept2.lean ====
section
/-! SUPPORT. Every operation keeps what `Kept` says (the queue, the time, the canonical stores, the fault outputs):
accesses, lines, programs, moves, rings and frames sent. -/

namespace Sys2Proof.Machine

variable {q : List Instr} {a : Nat}

-- Machine/Access.lean

theorem State.walkPaid_kept (x0 x1 x2 x3) (hx0 : Kept q a x0) : Kept q a (State.walkPaid x0 x1 x2 x3) := by
  unfold State.walkPaid
  try dsimp only
  repeat' first
    | with_reducible assumption
    | with_reducible apply State.debit_kept
    | with_reducible apply kept_foldl
    | with_reducible intro _

theorem State.cachePtrs_kept (x0 x1) (hx0 : Kept q a x0) : Kept q a (State.cachePtrs x0 x1) := by
  unfold State.cachePtrs
  try dsimp only
  repeat' first
    | with_reducible assumption
    | fail_if_no_progress (with_reducible apply kept_lit)

theorem State.wcDrop_kept (x0 x1) (hx0 : Kept q a x0) : Kept q a (State.wcDrop x0 x1) := by
  unfold State.wcDrop
  try dsimp only
  repeat' first
    | with_reducible assumption
    | fail_if_no_progress (with_reducible apply kept_lit)

theorem State.install_kept (x0 x1) (hx0 : Kept q a x0) : Kept q a (State.install x0 x1) := by
  unfold State.install
  try dsimp only
  repeat' first
    | with_reducible assumption
    | with_reducible apply State.wcDrop_kept
    | fail_if_no_progress (with_reducible apply kept_lit)

theorem State.walked_kept (x0 x1 x2 x3 x4 x5) (hx0 : Kept q a x0) : Kept q a (State.walked x0 x1 x2 x3 x4 x5) := by
  unfold State.walked
  try dsimp only
  repeat' first
    | with_reducible assumption
    | with_reducible apply State.install_kept
    | with_reducible apply State.cachePtrs_kept

theorem accFault_kept (x0 x1 x2 x3 x4) : KeptM q a (accFault x0 x1 x2 x3 x4) := by
  unfold accFault
  try dsimp only
  repeat' first
    | with_reducible assumption
    | with_reducible apply State.raise_kept
    | with_reducible exact keptM_pure
    | with_reducible apply keptM_get
    | with_reducible apply keptM_set
    | with_reducible apply keptM_bind
    | with_reducible intro _

theorem State.corrected_kept (x0 x1) (hx0 : Kept q a x0) : Kept q a (State.corrected x0 x1) := by
  unfold State.corrected
  split
  · exact State.modNode_kept _ _ _ _ hx0
  · refine kept_ctxs hx0 (Sparse.wf_map hx0.stores.ctxs (fun e he hc => he ?_))
    have h1 := congrArg Ctx.entries hc
    simp only [List.map_eq_nil_iff] at h1
    rw [← hc]
    obtain ⟨k, c⟩ := e
    cases c
    simp only at h1
    subst h1
    rfl
  · exact hx0

theorem tileCheck_kept (x0 x1 x2 x3) : KeptM q a (tileCheck x0 x1 x2 x3) := by
  unfold tileCheck
  try dsimp only
  repeat' first
    | with_reducible assumption
    | with_reducible apply State.sat_kept
    | with_reducible apply accFault_kept
    | with_reducible apply kept_ite
    | with_reducible apply kept_ite_fst
    | with_reducible apply kept_ite_snd
    | with_reducible exact keptM_pure
    | with_reducible exact keptM_throw
    | with_reducible apply keptM_get
    | with_reducible apply keptM_set
    | with_reducible apply keptM_modify
    | with_reducible apply keptM_bind
    | with_reducible apply keptM_ite
    | with_reducible intro _
    | with_reducible refine kept_snd ?_ (by assumption)
    | with_reducible refine kept_fst ?_ (by assumption)

theorem wordCheck_kept (x0 x1 x2 x3) : KeptM q a (wordCheck x0 x1 x2 x3) := by
  unfold wordCheck
  try dsimp only
  repeat' first
    | with_reducible assumption
    | with_reducible apply accFault_kept
    | with_reducible apply kept_ite
    | with_reducible apply kept_ite_fst
    | with_reducible apply kept_ite_snd
    | fail_if_no_progress (with_reducible apply kept_lit)
    | with_reducible exact keptM_pure
    | with_reducible exact keptM_throw
    | with_reducible apply keptM_get
    | with_reducible apply keptM_set
    | with_reducible apply keptM_modify
    | with_reducible apply keptM_bind
    | with_reducible apply keptM_ite
    | with_reducible intro _
    | with_reducible refine kept_snd ?_ (by assumption)
    | with_reducible refine kept_fst ?_ (by assumption)

theorem State.sees_kept (x0 x1 x2 x3) (hx0 : Kept q a x0) : Kept q a (State.sees x0 x1 x2 x3) := by
  unfold State.sees
  try dsimp only
  repeat' first
    | with_reducible assumption
    | with_reducible apply State.modNode_kept
    | split

theorem wordRead_kept (x0 x1 x2) : KeptM q a (wordRead x0 x1 x2) := by
  unfold wordRead
  try dsimp only
  repeat' first
    | with_reducible assumption
    | with_reducible apply State.drawBelow_kept
    | with_reducible apply State.sees_kept
    | with_reducible apply kept_ite
    | with_reducible apply kept_ite_fst
    | with_reducible apply kept_ite_snd
    | with_reducible exact keptM_pure
    | with_reducible exact keptM_throw
    | with_reducible apply keptM_get
    | with_reducible apply keptM_set
    | with_reducible apply keptM_modify
    | with_reducible apply keptM_bind
    | with_reducible apply keptM_ite
    | with_reducible intro _
    | with_reducible refine kept_snd ?_ (by assumption)
    | with_reducible refine kept_fst ?_ (by assumption)

theorem State.tilePut_kept (x0 x1 x2) (hx0 : Kept q a x0) : Kept q a (State.tilePut x0 x1 x2) := by
  unfold State.tilePut
  try dsimp only
  repeat' first
    | with_reducible assumption
    | with_reducible apply State.setTileByte_kept
    | with_reducible apply State.sees_kept
    | with_reducible apply kept_ite
    | with_reducible apply kept_ite_fst
    | with_reducible apply kept_ite_snd
    | with_reducible apply kept_foldl
    | fail_if_no_progress (with_reducible apply kept_lit)
    | with_reducible intro _
    | with_reducible refine kept_snd ?_ (by assumption)
    | with_reducible refine kept_fst ?_ (by assumption)

theorem State.acquires_kept (x0 x1 x2) (hx0 : Kept q a x0) : Kept q a (State.acquires x0 x1 x2) := by
  unfold State.acquires
  try dsimp only
  repeat' first
    | with_reducible assumption
    | with_reducible apply State.modNode_kept

theorem eccCheck_kept (x0 x1 x2 x3) : KeptM q a (eccCheck x0 x1 x2 x3) := by
  unfold eccCheck
  try dsimp only
  repeat' first
    | with_reducible assumption
    | with_reducible apply accFault_kept
    | with_reducible apply State.corrected_kept
    | with_reducible refine kept_ecc ?_ (Sparse.wf_filter _ (Kept.stores (by with_reducible assumption)).ecc)
    | with_reducible exact keptM_pure
    | with_reducible exact keptM_throw
    | with_reducible apply keptM_get
    | with_reducible apply keptM_set
    | with_reducible apply keptM_bind
    | with_reducible apply keptM_forM
    | with_reducible intro _
    | split

theorem tileRead_kept (x0 x1 x2) : KeptM q a (tileRead x0 x1 x2) := by
  unfold tileRead
  try dsimp only
  repeat' first
    | with_reducible assumption
    | with_reducible apply tileCheck_kept
    | with_reducible apply eccCheck_kept
    | with_reducible apply wordRead_kept
    | with_reducible apply kept_ite
    | with_reducible apply kept_ite_fst
    | with_reducible apply kept_ite_snd
    | with_reducible exact keptM_pure
    | with_reducible exact keptM_throw
    | with_reducible apply keptM_get
    | with_reducible apply keptM_set
    | with_reducible apply keptM_modify
    | with_reducible apply keptM_bind
    | with_reducible apply keptM_ite
    | with_reducible apply keptM_mapM
    | with_reducible intro _
    | with_reducible refine kept_snd ?_ (by assumption)
    | with_reducible refine kept_fst ?_ (by assumption)

theorem tileWord_kept (x0 x1) : KeptM q a (tileWord x0 x1) := by
  unfold tileWord
  try dsimp only
  repeat' first
    | with_reducible assumption
    | with_reducible apply wordCheck_kept
    | with_reducible apply eccCheck_kept
    | with_reducible apply State.tilePut_kept
    | with_reducible refine kept_ecc ?_ (Sparse.wf_filter _ (Kept.stores (by with_reducible assumption)).ecc)
    | with_reducible apply keptM_get
    | with_reducible apply keptM_modify
    | with_reducible apply keptM_bind
    | with_reducible apply keptM_forM
    | with_reducible intro _

theorem tileStore_kept (x0 x1 x2) : KeptM q a (tileStore x0 x1 x2) := by
  unfold tileStore
  try dsimp only
  repeat' first
    | with_reducible apply tileWord_kept
    | with_reducible apply keptM_forM
    | with_reducible intro _

theorem tileWrite_kept (x0 x1 x2) : KeptM q a (tileWrite x0 x1 x2) := by
  unfold tileWrite
  try dsimp only
  repeat' first
    | with_reducible apply tileCheck_kept
    | with_reducible apply tileStore_kept
    | with_reducible apply keptM_bind
    | with_reducible intro _

theorem physRead_kept (x0 x1 x2 x3) : KeptM q a (physRead x0 x1 x2 x3) := by
  unfold physRead
  try dsimp only
  repeat' first
    | with_reducible assumption
    | with_reducible apply accFault_kept
    | with_reducible apply State.drawBool_kept
    | with_reducible apply State.writeBack_kept
    | with_reducible exact keptM_pure
    | with_reducible exact keptM_throw
    | with_reducible apply keptM_get
    | with_reducible apply keptM_set
    | with_reducible apply keptM_bind
    | with_reducible intro _
    | split

theorem wcRead_kept (x0 x1 x2 x3) : KeptM q a (wcRead x0 x1 x2 x3) := by
  unfold wcRead
  try dsimp only
  repeat' first
    | with_reducible assumption
    | with_reducible apply State.corrected_kept
    | with_reducible apply accFault_kept
    | with_reducible apply physRead_kept
    | with_reducible apply State.debit_kept
    | fail_if_no_progress (with_reducible apply kept_lit)
    | with_reducible exact keptM_pure
    | with_reducible apply keptM_get
    | with_reducible apply keptM_set
    | with_reducible apply keptM_modify
    | with_reducible apply keptM_bind
    | with_reducible intro _
    | split

theorem translate_kept (x0 x1 x2) : KeptM q a (translate x0 x1 x2) := by
  unfold translate
  try dsimp only
  repeat' first
    | with_reducible exact keptM_pure
    | with_reducible exact keptM_throw
    | with_reducible apply keptM_get
    | with_reducible intro _
    | split

theorem xvaRead_kept (x0 x1 x2) : KeptM q a (xvaRead x0 x1 x2) := by
  unfold xvaRead
  try dsimp only
  repeat' first
    | with_reducible assumption
    | with_reducible apply translate_kept
    | with_reducible apply wcRead_kept
    | with_reducible apply physRead_kept
    | with_reducible apply State.debit_kept
    | with_reducible apply kept_ite
    | with_reducible apply kept_ite_fst
    | with_reducible apply kept_ite_snd
    | with_reducible exact keptM_pure
    | with_reducible exact keptM_throw
    | with_reducible apply keptM_get
    | with_reducible apply keptM_set
    | with_reducible apply keptM_modify
    | with_reducible apply keptM_bind
    | with_reducible apply keptM_ite
    | with_reducible apply keptM_mapM
    | with_reducible intro _
    | with_reducible refine kept_snd ?_ (by assumption)
    | with_reducible refine kept_fst ?_ (by assumption)

theorem State.physWrite_kept (x0 x1 x2 x3) (hx0 : Kept q a x0) : Kept q a (State.physWrite x0 x1 x2 x3) := by
  unfold State.physWrite
  try dsimp only
  repeat' first
    | with_reducible assumption
    | with_reducible apply State.issue_kept
    | fail_if_no_progress (with_reducible apply kept_lit)
    | split

theorem portWrite_kept (x0 x1 x2) : KeptM q a (portWrite x0 x1 x2) := by
  unfold portWrite
  try dsimp only
  repeat' first
    | with_reducible apply wordCheck_kept
    | with_reducible apply State.physWrite_kept
    | with_reducible apply keptM_modify
    | with_reducible apply keptM_bind
    | with_reducible apply keptM_forM
    | with_reducible intro _

theorem xvaWrite_kept (x0 x1 x2) : KeptM q a (xvaWrite x0 x1 x2) := by
  unfold xvaWrite
  try dsimp only
  repeat' first
    | with_reducible apply translate_kept
    | with_reducible apply portWrite_kept
    | with_reducible exact keptM_pure
    | with_reducible apply keptM_get
    | with_reducible apply keptM_bind
    | with_reducible apply keptM_mapM
    | with_reducible apply keptM_forM
    | with_reducible intro _

theorem spRead_kept (x0 x1 x2 x3) : KeptM q a (spRead x0 x1 x2 x3) := by
  unfold spRead
  try dsimp only
  repeat' first
    | with_reducible assumption
    | with_reducible apply xvaRead_kept
    | with_reducible apply tileRead_kept
    | with_reducible apply kept_ite
    | with_reducible apply kept_ite_fst
    | with_reducible apply kept_ite_snd
    | with_reducible exact keptM_pure
    | with_reducible exact keptM_throw
    | with_reducible apply keptM_set
    | with_reducible apply keptM_modify
    | with_reducible apply keptM_ite
    | with_reducible intro _
    | with_reducible refine kept_snd ?_ (by assumption)
    | with_reducible refine kept_fst ?_ (by assumption)

theorem spWrite_kept (x0 x1 x2 x3) : KeptM q a (spWrite x0 x1 x2 x3) := by
  unfold spWrite
  try dsimp only
  repeat' first
    | with_reducible assumption
    | with_reducible apply xvaWrite_kept
    | with_reducible apply tileWrite_kept
    | with_reducible apply kept_ite
    | with_reducible apply kept_ite_fst
    | with_reducible apply kept_ite_snd
    | with_reducible exact keptM_pure
    | with_reducible exact keptM_throw
    | with_reducible apply keptM_set
    | with_reducible apply keptM_modify
    | with_reducible apply keptM_ite
    | with_reducible intro _
    | with_reducible refine kept_snd ?_ (by assumption)
    | with_reducible refine kept_fst ?_ (by assumption)

theorem ctlRead_kept (x0 x1 x2 x3) : KeptM q a (ctlRead x0 x1 x2 x3) := by
  unfold ctlRead
  try dsimp only
  repeat' first
    | with_reducible apply physRead_kept
    | with_reducible apply State.debit_kept
    | with_reducible exact keptM_pure
    | with_reducible apply keptM_modify
    | with_reducible apply keptM_bind
    | with_reducible intro _

theorem structRead.fetchAt_kept (x0 x1 x2 x3) (hx1 : Kept q a x1) : KeptM q a (structRead.fetchAt x0 x1 x2 x3) := by
  unfold structRead.fetchAt
  try dsimp only
  repeat' first
    | with_reducible assumption
    | with_reducible apply State.raise_kept
    | with_reducible apply State.walkPaid_kept
    | with_reducible apply State.walked_kept
    | with_reducible apply ctlRead_kept
    | with_reducible apply State.request_kept
    | with_reducible apply State.sat_kept
    | with_reducible exact keptM_throw
    | with_reducible apply keptM_set
    | with_reducible apply keptM_bind
    | with_reducible intro _
    | split

theorem structRead_kept (x0 x1 x2) : KeptM q a (structRead x0 x1 x2) := by
  unfold structRead
  try dsimp only
  repeat' first
    | with_reducible assumption
    | with_reducible apply ctlRead_kept
    | with_reducible apply structRead.fetchAt_kept
    | with_reducible exact keptM_pure
    | with_reducible apply keptM_get
    | with_reducible apply keptM_bind
    | with_reducible apply keptM_mapM
    | with_reducible intro _
    | split

-- Machine/Lines.lean

theorem fpCheck_kept (x0 x1 x2 x3 x4 x5) : KeptM q a (fpCheck x0 x1 x2 x3 x4 x5) := by
  unfold fpCheck
  try dsimp only
  repeat' first
    | with_reducible assumption
    | with_reducible apply accFault_kept
    | with_reducible apply kept_ite
    | with_reducible apply kept_ite_fst
    | with_reducible apply kept_ite_snd
    | with_reducible exact keptM_pure
    | with_reducible exact keptM_throw
    | with_reducible apply keptM_set
    | with_reducible apply keptM_modify
    | with_reducible apply keptM_bind
    | with_reducible apply keptM_ite
    | with_reducible intro _
    | with_reducible refine kept_snd ?_ (by assumption)
    | with_reducible refine kept_fst ?_ (by assumption)

theorem useStaged_kept (x0 x1 x2) : KeptM q a (useStaged x0 x1 x2) := by
  unfold useStaged
  try dsimp only
  repeat' first
    | with_reducible assumption
    | with_reducible apply State.modChan_kept
    | with_reducible apply State.corrected_kept
    | with_reducible apply accFault_kept
    | with_reducible apply kept_ite
    | with_reducible apply kept_ite_fst
    | with_reducible apply kept_ite_snd
    | with_reducible exact keptM_pure
    | with_reducible exact keptM_throw
    | with_reducible apply keptM_set
    | with_reducible apply keptM_modify
    | with_reducible apply keptM_bind
    | with_reducible apply keptM_ite
    | with_reducible intro _
    | with_reducible refine kept_snd ?_ (by assumption)
    | with_reducible refine kept_fst ?_ (by assumption)

theorem aheadRead_kept (x0 x1 x2 x3 x4 x5 x6) : KeptM q a (aheadRead x0 x1 x2 x3 x4 x5 x6) := by
  unfold aheadRead
  try dsimp only
  repeat' first
    | with_reducible apply State.modChan_kept
    | with_reducible apply translate_kept
    | with_reducible exact keptM_pure
    | with_reducible exact keptM_throw
    | with_reducible apply keptM_modify
    | with_reducible apply keptM_bind
    | with_reducible apply keptM_mapM
    | with_reducible intro _
    | split

theorem chanRead_kept (x0 x1 x2 x3 x4 x5) : KeptM q a (chanRead x0 x1 x2 x3 x4 x5) := by
  unfold chanRead
  try dsimp only
  repeat' first
    | with_reducible apply aheadRead_kept
    | with_reducible apply useStaged_kept
    | with_reducible apply spRead_kept
    | with_reducible apply keptM_get
    | with_reducible intro _
    | split

theorem atomically_kept {α : Type} (x0 : Who) (x1 : M α) (hx1 : KeptM q a x1) : KeptM q a (atomically x0 x1) := by
  unfold atomically
  try dsimp only
  repeat' first
    | with_reducible assumption
    | with_reducible exact keptM_pure
    | with_reducible exact keptM_throw
    | with_reducible apply keptM_get
    | with_reducible apply keptM_set
    | with_reducible apply keptM_bind
    | with_reducible apply kept_on
    | with_reducible intro _
    | split
    | with_reducible refine kept_snd ?_ (by assumption)

theorem replayRead_kept (x0 x1 x2 x3) (hx3 : KeptM q a x3) : KeptM q a (replayRead x0 x1 x2 x3) := by
  unfold replayRead
  try dsimp only
  repeat' first
    | with_reducible assumption
    | with_reducible apply State.modNode_kept
    | with_reducible apply atomically_kept
    | with_reducible exact keptM_pure
    | with_reducible apply keptM_get
    | with_reducible apply keptM_modify
    | with_reducible apply keptM_bind
    | with_reducible intro _
    | split

theorem State.replayReads_kept (x0 x1 x2) (hx0 : Kept q a x0) : Kept q a (State.replayReads x0 x1 x2) := by
  unfold State.replayReads
  try dsimp only
  repeat' first
    | with_reducible assumption
    | with_reducible apply State.modNode_kept

theorem State.readsOver_kept (x0 x1 x2) (hx0 : Kept q a x0) : Kept q a (State.readsOver x0 x1 x2) := by
  unfold State.readsOver
  try dsimp only
  repeat' first
    | with_reducible assumption
    | with_reducible apply State.modNode_kept

theorem State.digestMsg_kept (x0 x1 x2) (hx0 : Kept q a x0) : Kept q a (State.digestMsg x0 x1 x2) := by
  unfold State.digestMsg
  try dsimp only
  repeat' first
    | with_reducible assumption
    | with_reducible apply State.modNode_kept
    | split

theorem digestWord_kept (x0 x1 x2) : KeptM q a (digestWord x0 x1 x2) := by
  unfold digestWord
  try dsimp only
  repeat' first
    | with_reducible assumption
    | with_reducible apply State.digestMsg_kept
    | with_reducible apply kept_ite
    | with_reducible apply kept_ite_fst
    | with_reducible apply kept_ite_snd
    | with_reducible exact keptM_pure
    | with_reducible exact keptM_throw
    | with_reducible apply keptM_modify
    | with_reducible intro _
    | with_reducible refine kept_snd ?_ (by assumption)
    | with_reducible refine kept_fst ?_ (by assumption)

theorem lineWrite_kept (x0 x1 x2 x3) : KeptM q a (lineWrite x0 x1 x2 x3) := by
  unfold lineWrite
  try dsimp only
  repeat' first
    | with_reducible assumption
    | with_reducible apply translate_kept
    | with_reducible apply digestWord_kept
    | with_reducible apply portWrite_kept
    | with_reducible apply tileCheck_kept
    | with_reducible apply tileWord_kept
    | with_reducible apply kept_ite
    | with_reducible apply kept_ite_fst
    | with_reducible apply kept_ite_snd
    | with_reducible exact keptM_pure
    | with_reducible exact keptM_throw
    | with_reducible apply keptM_get
    | with_reducible apply keptM_set
    | with_reducible apply keptM_modify
    | with_reducible apply keptM_bind
    | with_reducible apply keptM_ite
    | with_reducible apply keptM_mapM
    | with_reducible apply keptM_forM
    | with_reducible intro _
    | with_reducible refine kept_snd ?_ (by assumption)
    | with_reducible refine kept_fst ?_ (by assumption)

theorem readPieces_kept (x0 x1 x2 x3) : KeptM q a (readPieces x0 x1 x2 x3) := by
  unfold readPieces
  try dsimp only
  repeat' first
    | with_reducible apply fpCheck_kept
    | with_reducible apply chanRead_kept
    | with_reducible exact keptM_pure
    | with_reducible apply keptM_bind
    | with_reducible apply keptM_mapM
    | with_reducible intro _

theorem oldByte_kept (x0 x1 x2) : KeptM q a (oldByte x0 x1 x2) := by
  unfold oldByte
  try dsimp only
  repeat' first
    | with_reducible assumption
    | with_reducible apply translate_kept
    | with_reducible apply kept_ite
    | with_reducible apply kept_ite_fst
    | with_reducible apply kept_ite_snd
    | with_reducible exact keptM_pure
    | with_reducible exact keptM_throw
    | with_reducible apply keptM_get
    | with_reducible apply keptM_set
    | with_reducible apply keptM_modify
    | with_reducible apply keptM_bind
    | with_reducible apply keptM_ite
    | with_reducible intro _
    | with_reducible refine kept_snd ?_ (by assumption)
    | with_reducible refine kept_fst ?_ (by assumption)

theorem keepOld_kept (x0 x1 x2 x3 x4 x5) : KeptM q a (keepOld x0 x1 x2 x3 x4 x5) := by
  unfold keepOld
  try dsimp only
  repeat' first
    | with_reducible assumption
    | with_reducible apply oldByte_kept
    | with_reducible apply State.modChan_kept
    | with_reducible apply kept_ite
    | with_reducible apply kept_ite_fst
    | with_reducible apply kept_ite_snd
    | with_reducible exact keptM_pure
    | with_reducible exact keptM_throw
    | with_reducible apply keptM_set
    | with_reducible apply keptM_modify
    | with_reducible apply keptM_bind
    | with_reducible apply keptM_ite
    | with_reducible apply keptM_mapM
    | with_reducible intro _
    | with_reducible refine kept_snd ?_ (by assumption)
    | with_reducible refine kept_fst ?_ (by assumption)

theorem freeShared_kept (x0 x1) : KeptM q a (freeShared x0 x1) := by
  unfold freeShared
  try dsimp only
  repeat' first
    | with_reducible assumption
    | with_reducible apply State.drawBool_kept
    | with_reducible exact keptM_pure
    | with_reducible apply keptM_get
    | with_reducible apply keptM_set
    | with_reducible apply keptM_bind
    | with_reducible apply keptM_filterM
    | with_reducible intro _

theorem freeOverlap_kept (x0 x1) : KeptM q a (freeOverlap x0 x1) := by
  unfold freeOverlap
  try dsimp only
  repeat' first
    | with_reducible assumption
    | with_reducible apply kept_ite
    | with_reducible apply kept_ite_fst
    | with_reducible apply kept_ite_snd
    | fail_if_no_progress (with_reducible apply kept_lit)
    | with_reducible exact keptM_pure
    | with_reducible exact keptM_throw
    | with_reducible apply keptM_get
    | with_reducible apply keptM_set
    | with_reducible apply keptM_modify
    | with_reducible apply keptM_bind
    | with_reducible apply keptM_ite
    | with_reducible apply keptM_mapM
    | with_reducible intro _
    | with_reducible refine kept_snd ?_ (by assumption)
    | with_reducible refine kept_fst ?_ (by assumption)

-- Machine/Programs.lean

theorem progScan_kept (x0 x1 x2) : KeptM q a (progScan x0 x1 x2) := by
  unfold progScan
  try dsimp only
  repeat' first
    | with_reducible apply structRead_kept
    | with_reducible exact keptM_pure
    | with_reducible exact keptM_throw
    | with_reducible apply keptM_get
    | with_reducible apply keptM_bind
    | with_reducible intro _
    | split

-- Machine/Moves.lean

theorem maskRead_kept (x0 x1 x2 x3 x4 x5) : KeptM q a (maskRead x0 x1 x2 x3 x4 x5) := by
  unfold maskRead
  try dsimp only
  repeat' first
    | with_reducible apply fpCheck_kept
    | with_reducible apply chanRead_kept
    | with_reducible exact keptM_pure
    | with_reducible apply keptM_bind
    | with_reducible apply keptM_mapM
    | with_reducible intro _

theorem freeFlags_kept (x0) : KeptM q a (freeFlags x0) := by
  unfold freeFlags
  try dsimp only
  repeat' first
    | with_reducible assumption
    | with_reducible apply State.drawBool_kept
    | with_reducible exact keptM_pure
    | with_reducible apply keptM_get
    | with_reducible apply keptM_set
    | with_reducible apply keptM_bind
    | with_reducible apply keptM_mapM
    | with_reducible intro _

theorem linePlan_kept (x0 x1 x2 x3 x4 x5 x6 x7 x8) : KeptM q a (linePlan x0 x1 x2 x3 x4 x5 x6 x7 x8) := by
  unfold linePlan
  try dsimp only
  repeat' first
    | with_reducible apply freeFlags_kept
    | with_reducible apply maskRead_kept
    | with_reducible exact keptM_pure
    | with_reducible apply keptM_bind
    | with_reducible intro _
    | split

-- Machine/Rings.lean

theorem State.dbgOff_kept (x0) (hx0 : Kept q a x0) : Kept q a (State.dbgOff x0) := by
  unfold State.dbgOff
  try dsimp only
  repeat' first
    | with_reducible assumption
    | with_reducible apply State.setReg_kept
    | with_reducible apply kept_foldl
    | with_reducible intro _

theorem State.lockNow_kept (x0 x1) (hx0 : Kept q a x0) : Kept q a (State.lockNow x0 x1) := by
  unfold State.lockNow
  try dsimp only
  repeat' first
    | with_reducible assumption
    | with_reducible apply State.setRelay_kept
    | with_reducible apply State.setFld_kept
    | with_reducible apply State.dbgOff_kept
    | exact rfl
    | with_reducible apply kept_ite
    | with_reducible apply kept_ite_fst
    | with_reducible apply kept_ite_snd
    | fail_if_no_progress (with_reducible apply kept_lit)
    | with_reducible intro _
    | with_reducible refine kept_snd ?_ (by assumption)
    | with_reducible refine kept_fst ?_ (by assumption)

theorem State.afterRec_kept (x0 x1 x2) (hx0 : Kept q a x0) : Kept q a (State.afterRec x0 x1 x2) := by
  unfold State.afterRec
  try dsimp only
  repeat' first
    | with_reducible assumption
    | with_reducible apply State.modCtx_kept
    | with_reducible apply State.lockNow_kept
    | split

theorem State.writeRec_kept (x0 x1) (hx0 : Kept q a x0) : Kept q a (State.writeRec x0 x1) := by
  unfold State.writeRec
  try dsimp only
  repeat' first
    | with_reducible assumption
    | with_reducible apply State.afterRec_kept
    | with_reducible apply State.setFld_kept
    | with_reducible apply State.recWrite_kept

theorem State.flushRecs_kept (x0 x1) (hx0 : Kept q a x0) : Kept q a (State.flushRecs x0 x1) := by
  unfold State.flushRecs
  try dsimp only
  repeat' first
    | with_reducible assumption
    | with_reducible apply State.writeRec_kept
    | with_reducible apply State.modCtx_kept
    | with_reducible apply kept_ite
    | with_reducible apply kept_ite_fst
    | with_reducible apply kept_ite_snd
    | with_reducible apply kept_foldl_fst
    | with_reducible intro _
    | with_reducible refine kept_snd ?_ (by assumption)
    | with_reducible refine kept_fst ?_ (by assumption)

theorem State.emit_kept (x0 x1) (hx0 : Kept q a x0) : Kept q a (State.emit x0 x1) := by
  unfold State.emit
  try dsimp only
  repeat' first
    | with_reducible assumption
    | with_reducible apply State.flushRecs_kept
    | with_reducible apply State.modCtx_kept
    | with_reducible apply kept_ite
    | with_reducible apply kept_ite_fst
    | with_reducible apply kept_ite_snd
    | with_reducible intro _
    | with_reducible refine kept_snd ?_ (by assumption)
    | with_reducible refine kept_fst ?_ (by assumption)

theorem State.finish_kept (x0 x1 x2 x3 x4 x5 x6 x7) (hx0 : Kept q a x0) : Kept q a (State.finish x0 x1 x2 x3 x4 x5 x6 x7) := by
  unfold State.finish
  try dsimp only
  repeat' first
    | with_reducible assumption
    | with_reducible apply State.modCtx_kept
    | with_reducible apply State.afterRec_kept
    | with_reducible apply State.event_kept
    | with_reducible apply State.emit_kept
    | with_reducible intro _
    | split

theorem State.dueEntry_kept (x0 x1 x2 x3 x4) (hx0 : Kept q a x0) : Kept q a (State.dueEntry x0 x1 x2 x3 x4) := by
  unfold State.dueEntry
  try dsimp only
  repeat' first
    | with_reducible assumption
    | with_reducible apply State.modCtx_kept

theorem State.fetchRing_kept (x0 x1 x2) (hx0 : Kept q a x0) : Kept q a (State.fetchRing x0 x1 x2) := by
  unfold State.fetchRing
  try dsimp only
  repeat' first
    | with_reducible assumption
    | with_reducible apply ctlRead_kept
    | with_reducible apply State.modCtx_kept
    | with_reducible apply State.setFld_kept
    | fail_if_no_progress (with_reducible apply kept_lit)
    | with_reducible apply kept_on
    | split
    | with_reducible refine kept_snd ?_ (by assumption)

theorem State.fetchTurn.go_kept (x0 x1 x2 x3) (hx0 : Kept q a x0) : Kept q a (State.fetchTurn.go x0 x1 x2 x3) := by
  induction x1 generalizing x0 x2 x3 with
  | zero =>
    unfold State.fetchTurn.go
    try dsimp only
    repeat' first
      | with_reducible assumption
      | with_reducible apply State.fetchRing_kept
      | with_reducible apply State.modCtx_kept
      | fail_if_no_progress (with_reducible apply kept_lit)
      | with_reducible intro _
      | split
  | succ _ ih =>
    unfold State.fetchTurn.go
    try dsimp only
    repeat' first
      | with_reducible apply ih
      | with_reducible assumption
      | with_reducible apply State.fetchRing_kept
      | with_reducible apply State.modCtx_kept
      | fail_if_no_progress (with_reducible apply kept_lit)
      | with_reducible intro _
      | split

theorem State.fetchTurn_kept (x0) (hx0 : Kept q a x0) : Kept q a (State.fetchTurn x0) := by
  unfold State.fetchTurn
  try dsimp only
  repeat' first
    | with_reducible assumption
    | with_reducible apply State.fetchTurn.go_kept

theorem State.waitBegins_kept (x0 x1 x2) (hx0 : Kept q a x0) : Kept q a (State.waitBegins x0 x1 x2) := by
  unfold State.waitBegins
  try dsimp only
  repeat' first
    | with_reducible assumption
    | with_reducible apply State.addWait_kept
    | with_reducible apply kept_ite
    | with_reducible apply kept_ite_fst
    | with_reducible apply kept_ite_snd
    | with_reducible intro _
    | with_reducible refine kept_snd ?_ (by assumption)
    | with_reducible refine kept_fst ?_ (by assumption)

theorem State.admitEntry_kept (x0 x1 x2) (hx0 : Kept q a x0) : Kept q a (State.admitEntry x0 x1 x2) := by
  unfold State.admitEntry
  try dsimp only
  repeat' first
    | with_reducible assumption
    | with_reducible apply State.modCtx_kept
    | with_reducible apply State.waitBegins_kept
    | with_reducible apply State.sat_kept
    | with_reducible apply State.finish_kept
    | fail_if_no_progress (with_reducible apply kept_lit)
    | with_reducible intro _
    | split

theorem State.start_kept (x0 x1 x2) (hx0 : Kept q a x0) : Kept q a (State.start x0 x1 x2) := by
  unfold State.start
  try dsimp only
  repeat' first
    | with_reducible assumption
    | with_reducible apply State.modCtx_kept

-- Machine/Send.lean

theorem State.txPair_kept (x0 x1 x2 x3 x4) (hx0 : Kept q a x0) : Kept q a (State.txPair x0 x1 x2 x3 x4).2 := by
  unfold State.txPair
  try dsimp only
  repeat' first
    | with_reducible assumption
    | with_reducible apply State.setRelay_kept
    | exact rfl
    | split

theorem State.modTx_kept (x0 x1 x2) (hx0 : Kept q a x0) : Kept q a (State.modTx x0 x1 x2) := by
  unfold State.modTx
  try dsimp only
  repeat' first
    | with_reducible assumption
    | with_reducible apply State.setRelay_kept
    | exact rfl

theorem State.transmit_kept (x0) (hx0 : Kept q a x0) : Kept q a (State.transmit x0) := by
  unfold State.transmit
  try dsimp only
  repeat' first
    | with_reducible assumption
    | with_reducible apply State.modTx_kept
    | with_reducible apply State.inject_kept
    | with_reducible apply State.setRelay_kept
    | exact rfl
    | with_reducible apply kept_foldl
    | with_reducible intro _
    | split

theorem State.logFrame_kept (x0 x1 x2) (hx0 : Kept q a x0) : Kept q a (State.logFrame x0 x1 x2) := by
  unfold State.logFrame
  try dsimp only
  repeat' first
    | with_reducible assumption
    | with_reducible apply State.modTx_kept
    | with_reducible apply State.setRelay_kept
    | exact rfl
    | split

theorem State.keepPair_kept (x0 x1 x2) (hx0 : Kept q a x0) : Kept q a (State.keepPair x0 x1 x2) := by
  unfold State.keepPair
  try dsimp only
  repeat' first
    | with_reducible assumption
    | with_reducible apply State.modChan_kept
    | split

theorem sendFrames_kept (x0 x1 x2 x3 x4 x5 x6 x7 x8 x9) (hx9 : Kept q a x9) : Kept q a (sendFrames x0 x1 x2 x3 x4 x5 x6 x7 x8 x9).2 := by
  induction x7 generalizing x8 x9 with
  | zero =>
    unfold sendFrames
    try dsimp only
    repeat' first
      | with_reducible assumption
      | with_reducible apply State.digestMsg_kept
      | with_reducible apply State.keepPair_kept
      | with_reducible apply State.txPair_kept
      | with_reducible apply State.logFrame_kept
      | with_reducible apply kept_ite
      | with_reducible apply kept_ite_fst
      | with_reducible apply kept_ite_snd
      | with_reducible apply kept_foldl
      | with_reducible intro _
      | with_reducible refine kept_snd ?_ (by assumption)
      | with_reducible refine kept_fst ?_ (by assumption)
  | succ _ ih =>
    unfold sendFrames
    try dsimp only
    repeat' first
      | with_reducible apply ih
      | with_reducible assumption
      | with_reducible apply State.digestMsg_kept
      | with_reducible apply State.keepPair_kept
      | with_reducible apply State.txPair_kept
      | with_reducible apply State.logFrame_kept
      | with_reducible apply kept_ite
      | with_reducible apply kept_ite_fst
      | with_reducible apply kept_ite_snd
      | with_reducible apply kept_foldl
      | with_reducible intro _
      | with_reducible refine kept_snd ?_ (by assumption)
      | with_reducible refine kept_fst ?_ (by assumption)

end Sys2Proof.Machine
end

