-- ==== Sys2Proof/Laws/Kept3.lean ====
section
/-! SUPPORT. Every operation keeps what `Kept` says (the queue, the time, the canonical stores, the fault outputs):
channels, check values, contractions, Meridian, replicas and the ephemeris. -/

namespace Sys2Proof.Machine

variable {q : List Instr} {a : Nat}

-- Machine/Channels.lean

theorem State.forget_kept (x0 x1) (hx0 : Kept q a x0) : Kept q a (State.forget x0 x1) := by
  unfold State.forget
  try dsimp only
  repeat' first
    | with_reducible assumption
    | fail_if_no_progress (with_reducible apply kept_lit)

theorem State.stopWaiters_kept (x0 x1) (hx0 : Kept q a x0) : Kept q a (State.stopWaiters x0 x1) := by
  unfold State.stopWaiters
  try dsimp only
  repeat' first
    | with_reducible assumption
    | with_reducible apply State.setFld_kept
    | with_reducible apply State.setMer_kept
    | with_reducible apply State.forget_kept
    | with_reducible apply State.modGraph_kept
    | exact rfl
    | with_reducible intro _
    | split

theorem State.failNode_kept (x0 x1 x2 x3 x4) (hx0 : Kept q a x0) : Kept q a (State.failNode x0 x1 x2 x3 x4) := by
  unfold State.failNode
  try dsimp only
  repeat' first
    | with_reducible assumption
    | with_reducible apply State.forget_kept
    | with_reducible apply State.countSlice_kept
    | with_reducible apply State.wrap_kept
    | with_reducible apply State.modNode_kept
    | with_reducible apply State.modChan_kept
    | with_reducible apply State.stopWaiters_kept
    | with_reducible apply State.modGraph_kept
    | with_reducible intro _
    | split

theorem State.cut_kept (x0 x1 x2) (hx0 : Kept q a x0) : Kept q a (State.cut x0 x1 x2) := by
  unfold State.cut
  try dsimp only
  repeat' first
    | with_reducible assumption
    | with_reducible apply State.modNode_kept

theorem State.chTo_kept (x0 x1 x2) (hx0 : Kept q a x0) : Kept q a (State.chTo x0 x1 x2) := by
  unfold State.chTo
  try dsimp only
  repeat' first
    | with_reducible assumption
    | with_reducible apply State.setFld_kept

theorem State.modProg_kept (x0 x1 x2) (hx0 : Kept q a x0) : Kept q a (State.modProg x0 x1 x2) := by
  unfold State.modProg
  try dsimp only
  repeat' first
    | with_reducible assumption
    | with_reducible apply State.modChan_kept

theorem State.endProg_kept (x0 x1 x2 x3) (hx0 : Kept q a x0) : Kept q a (State.endProg x0 x1 x2 x3) := by
  unfold State.endProg
  try dsimp only
  repeat' first
    | with_reducible assumption
    | with_reducible apply State.chTo_kept
    | with_reducible apply State.modProg_kept
    | with_reducible apply State.forget_kept

theorem State.goSlot_kept (x0 x1 x2) (hx0 : Kept q a x0) : Kept q a (State.goSlot x0 x1 x2) := by
  unfold State.goSlot
  try dsimp only
  repeat' first
    | with_reducible assumption
    | with_reducible apply State.chTo_kept
    | with_reducible apply State.modProg_kept
    | with_reducible apply State.endProg_kept
    | with_reducible apply State.setFld_kept
    | with_reducible intro _
    | split

theorem State.missChan_kept (x0 x1 x2 x3 x4) (hx0 : Kept q a x0) : Kept q a (State.missChan x0 x1 x2 x3 x4) := by
  unfold State.missChan
  try dsimp only
  repeat' first
    | with_reducible assumption
    | with_reducible apply State.chTo_kept
    | fail_if_no_progress (with_reducible apply kept_lit)

theorem State.settleCh_kept (x0 x1) (hx0 : Kept q a x0) : Kept q a (State.settleCh x0 x1) := by
  unfold State.settleCh
  try dsimp only
  repeat' first
    | with_reducible assumption
    | with_reducible apply State.chTo_kept
    | with_reducible intro _
    | split

theorem State.runCh_kept (x0 x1 x2 x3) (hx0 : Kept q a x0) (hx3 : KeptM q a x3) : Kept q a (State.runCh x0 x1 x2 x3) := by
  unfold State.runCh
  try dsimp only
  repeat' first
    | with_reducible assumption
    | with_reducible apply State.settleCh_kept
    | with_reducible apply State.missChan_kept
    | with_reducible apply State.endProg_kept
    | with_reducible apply kept_on
    | split
    | with_reducible refine kept_snd ?_ (by assumption)

theorem State.discard_kept (x0 x1) (hx0 : Kept q a x0) : Kept q a (State.discard x0 x1) := by
  unfold State.discard
  try dsimp only
  repeat' first
    | with_reducible assumption
    | with_reducible apply State.modChan_kept
    | with_reducible apply State.wrap_kept
    | with_reducible apply kept_ite
    | with_reducible apply kept_ite_fst
    | with_reducible apply kept_ite_snd
    | with_reducible intro _
    | with_reducible refine kept_snd ?_ (by assumption)
    | with_reducible refine kept_fst ?_ (by assumption)

theorem State.applyOwner_kept (x0 x1) (hx0 : Kept q a x0) : Kept q a (State.applyOwner x0 x1) := by
  unfold State.applyOwner
  try dsimp only
  repeat' first
    | with_reducible assumption
    | with_reducible apply State.modChan_kept
    | with_reducible apply State.discard_kept
    | with_reducible apply State.chTo_kept
    | with_reducible apply kept_ite
    | with_reducible apply kept_ite_fst
    | with_reducible apply kept_ite_snd
    | with_reducible intro _
    | with_reducible refine kept_snd ?_ (by assumption)
    | with_reducible refine kept_fst ?_ (by assumption)

theorem State.chIdle_kept (x0 x1) (hx0 : Kept q a x0) : Kept q a (State.chIdle x0 x1) := by
  unfold State.chIdle
  try dsimp only
  repeat' first
    | with_reducible assumption
    | with_reducible apply State.modChan_kept
    | with_reducible apply State.discard_kept
    | with_reducible apply State.applyOwner_kept
    | with_reducible apply State.chTo_kept

theorem State.bindProg_kept (x0 x1 x2) (hx0 : Kept q a x0) : Kept q a (State.bindProg x0 x1 x2) := by
  unfold State.bindProg
  try dsimp only
  repeat' first
    | with_reducible assumption
    | with_reducible apply State.discard_kept
    | with_reducible apply State.modChan_kept
    | with_reducible apply State.setFld_kept
    | with_reducible apply State.chTo_kept
    | with_reducible intro _
    | split

theorem fetchSlot_kept (x0 x1) : KeptM q a (fetchSlot x0 x1) := by
  unfold fetchSlot
  try dsimp only
  repeat' first
    | with_reducible apply structRead_kept
    | with_reducible apply State.modProg_kept
    | with_reducible exact keptM_pure
    | with_reducible apply keptM_get
    | with_reducible apply keptM_modify
    | with_reducible apply keptM_bind
    | with_reducible apply keptM_forM
    | with_reducible intro _
    | split

theorem State.slotRun_kept (x0 x1 x2 x3) (hx0 : Kept q a x0) (hx3 : ∀ y0 y1 y2, Kept q a y0 → Kept q a (x3 y0 y1 y2)) : Kept q a (State.slotRun x0 x1 x2 x3) := by
  unfold State.slotRun
  try dsimp only
  repeat' first
    | with_reducible assumption
    | with_reducible apply atomically_kept
    | with_reducible apply fetchSlot_kept
    | with_reducible apply State.endProg_kept
    | apply hx3
    | with_reducible apply kept_on
    | split
    | with_reducible refine kept_snd ?_ (by assumption)

theorem lineDone_kept (x0 x1 x2) : KeptM q a (lineDone x0 x1 x2) := by
  unfold lineDone
  try dsimp only
  repeat' first
    | with_reducible assumption
    | with_reducible apply State.cut_kept
    | with_reducible apply State.goSlot_kept
    | with_reducible apply State.modProg_kept
    | with_reducible apply kept_ite
    | with_reducible apply kept_ite_fst
    | with_reducible apply kept_ite_snd
    | with_reducible exact keptM_pure
    | with_reducible exact keptM_throw
    | with_reducible apply keptM_modify
    | with_reducible intro _
    | with_reducible refine kept_snd ?_ (by assumption)
    | with_reducible refine kept_fst ?_ (by assumption)

theorem beginLine_kept (x0 x1) : KeptM q a (beginLine x0 x1) := by
  unfold beginLine
  try dsimp only
  repeat' first
    | with_reducible apply State.modChan_kept
    | with_reducible apply keptM_modify
    | with_reducible intro _

theorem remoteLine_kept (x0 x1 x2 x3 x4 x5) : KeptM q a (remoteLine x0 x1 x2 x3 x4 x5) := by
  unfold remoteLine
  try dsimp only
  repeat' first
    | with_reducible assumption
    | with_reducible apply readPieces_kept
    | with_reducible apply lineDone_kept
    | with_reducible apply sendFrames_kept
    | with_reducible apply State.transmit_kept
    | with_reducible apply State.modProg_kept
    | with_reducible apply State.modNode_kept
    | with_reducible apply State.chTo_kept
    | with_reducible apply kept_ite
    | with_reducible apply kept_ite_fst
    | with_reducible apply kept_ite_snd
    | with_reducible exact keptM_pure
    | with_reducible exact keptM_throw
    | with_reducible apply keptM_get
    | with_reducible apply keptM_set
    | with_reducible apply keptM_modify
    | with_reducible apply keptM_bind
    | with_reducible apply keptM_ite
    | with_reducible intro _
    | with_reducible refine kept_snd ?_ (by assumption)
    | with_reducible refine kept_fst ?_ (by assumption)

theorem moveLine_kept (x0 x1 x2) : KeptM q a (moveLine x0 x1 x2) := by
  unfold moveLine
  try dsimp only
  repeat' first
    | with_reducible assumption
    | with_reducible apply remoteLine_kept
    | with_reducible apply beginLine_kept
    | with_reducible apply readPieces_kept
    | with_reducible apply fpCheck_kept
    | with_reducible apply lineWrite_kept
    | with_reducible apply lineDone_kept
    | with_reducible apply keepOld_kept
    | with_reducible apply freeOverlap_kept
    | with_reducible apply kept_ite
    | with_reducible apply kept_ite_fst
    | with_reducible apply kept_ite_snd
    | with_reducible exact keptM_pure
    | with_reducible exact keptM_throw
    | with_reducible apply keptM_get
    | with_reducible apply keptM_set
    | with_reducible apply keptM_modify
    | with_reducible apply keptM_bind
    | with_reducible apply keptM_ite
    | with_reducible intro _
    | with_reducible refine kept_snd ?_ (by assumption)
    | with_reducible refine kept_fst ?_ (by assumption)

theorem moveLines_kept (x0 x1 x2) : KeptM q a (moveLines x0 x1 x2) := by
  induction x2 with
  | zero =>
    unfold moveLines
    try dsimp only
    repeat' first
      | with_reducible assumption
      | with_reducible apply moveLine_kept
      | with_reducible apply atomically_kept
      | with_reducible exact keptM_pure
      | with_reducible exact keptM_throw
      | with_reducible apply keptM_get
      | with_reducible apply keptM_bind
      | with_reducible intro _
      | split
      | with_reducible refine kept_snd ?_ (by assumption)
      | with_reducible refine kept_fst ?_ (by assumption)
  | succ _ ih =>
    unfold moveLines
    try dsimp only
    repeat' first
      | with_reducible assumption
      | with_reducible apply moveLine_kept
      | with_reducible apply atomically_kept
      | with_reducible exact keptM_pure
      | with_reducible exact keptM_throw
      | with_reducible apply keptM_get
      | with_reducible apply keptM_bind
      | with_reducible intro _
      | split
      | with_reducible refine kept_snd ?_ (by assumption)
      | with_reducible refine kept_fst ?_ (by assumption)

theorem movetLine_kept (x0 x1 x2 x3 x4 x5) : KeptM q a (movetLine x0 x1 x2 x3 x4 x5) := by
  unfold movetLine
  try dsimp only
  repeat' first
    | with_reducible assumption
    | with_reducible apply readPieces_kept
    | with_reducible apply freeShared_kept
    | with_reducible apply freeOverlap_kept
    | with_reducible apply fpCheck_kept
    | with_reducible apply keepOld_kept
    | with_reducible apply lineWrite_kept
    | with_reducible apply State.sat_kept
    | with_reducible apply kept_ite
    | with_reducible apply kept_ite_fst
    | with_reducible apply kept_ite_snd
    | with_reducible exact keptM_pure
    | with_reducible exact keptM_throw
    | with_reducible apply keptM_set
    | with_reducible apply keptM_modify
    | with_reducible apply keptM_bind
    | with_reducible apply keptM_forM
    | with_reducible intro _
    | with_reducible refine kept_snd ?_ (by assumption)
    | with_reducible refine kept_fst ?_ (by assumption)

theorem movetLines_kept (x0 x1 x2 x3 x4) (hx2 : ∀ y0 y1, KeptM q a (x2 y0 y1)) : KeptM q a (movetLines x0 x1 x2 x3 x4) := by
  induction x3 generalizing x4 with
  | nil =>
    unfold movetLines
    try dsimp only
    repeat' first
      | with_reducible assumption
      | with_reducible apply State.modProg_kept
      | with_reducible apply beginLine_kept
      | with_reducible apply atomically_kept
      | with_reducible apply State.cut_kept
      | apply hx2
      | with_reducible exact keptM_pure
      | with_reducible apply keptM_get
      | with_reducible apply keptM_modify
      | with_reducible apply keptM_bind
      | with_reducible intro _
      | split
  | cons _ _ ih =>
    unfold movetLines
    try dsimp only
    repeat' first
      | with_reducible apply ih
      | with_reducible assumption
      | with_reducible apply State.modProg_kept
      | with_reducible apply beginLine_kept
      | with_reducible apply atomically_kept
      | with_reducible apply State.cut_kept
      | apply hx2
      | with_reducible exact keptM_pure
      | with_reducible apply keptM_get
      | with_reducible apply keptM_modify
      | with_reducible apply keptM_bind
      | with_reducible intro _
      | split

theorem movetBegin_kept (x0 x1 x2 x3) : KeptM q a (movetBegin x0 x1 x2 x3) := by
  unfold movetBegin
  try dsimp only
  repeat' first
    | with_reducible assumption
    | with_reducible apply State.setFld_kept
    | with_reducible apply State.modProg_kept
    | with_reducible exact keptM_pure
    | with_reducible exact keptM_throw
    | with_reducible apply keptM_get
    | with_reducible apply keptM_set
    | with_reducible apply keptM_bind
    | with_reducible intro _
    | split

theorem slotCopyLine_kept (x0 x1 x2 x3 x4 x5) : KeptM q a (slotCopyLine x0 x1 x2 x3 x4 x5) := by
  unfold slotCopyLine
  try dsimp only
  repeat' first
    | with_reducible apply fpCheck_kept
    | with_reducible apply chanRead_kept
    | with_reducible apply keepOld_kept
    | with_reducible apply freeOverlap_kept
    | with_reducible apply lineWrite_kept
    | with_reducible apply keptM_bind
    | with_reducible intro _

theorem movetBlock_kept (x0 x1 x2 x3 x4 x5 x6 x7 x8) : KeptM q a (movetBlock x0 x1 x2 x3 x4 x5 x6 x7 x8) := by
  unfold movetBlock
  try dsimp only
  repeat' first
    | with_reducible apply movetLines_kept
    | with_reducible apply linePlan_kept
    | with_reducible apply movetLine_kept
    | with_reducible apply keptM_bind
    | with_reducible intro _

theorem movetPack_kept (x0 x1 x2 x3 x4 x5 x6 x7 x8) : KeptM q a (movetPack x0 x1 x2 x3 x4 x5 x6 x7 x8) := by
  unfold movetPack
  try dsimp only
  repeat' first
    | with_reducible assumption
    | with_reducible apply atomically_kept
    | with_reducible apply fpCheck_kept
    | with_reducible apply chanRead_kept
    | with_reducible apply movetLines_kept
    | with_reducible apply movetLine_kept
    | with_reducible apply freeOverlap_kept
    | with_reducible apply lineWrite_kept
    | with_reducible apply State.sat_kept
    | with_reducible apply kept_ite
    | with_reducible apply kept_ite_fst
    | with_reducible apply kept_ite_snd
    | with_reducible exact keptM_pure
    | with_reducible exact keptM_throw
    | with_reducible apply keptM_set
    | with_reducible apply keptM_modify
    | with_reducible apply keptM_bind
    | with_reducible apply keptM_ite
    | with_reducible apply keptM_mapM
    | with_reducible apply keptM_forM
    | with_reducible intro _
    | with_reducible refine kept_snd ?_ (by assumption)
    | with_reducible refine kept_fst ?_ (by assumption)

theorem movetList_kept (x0 x1 x2 x3 x4 x5 x6 x7 x8 x9 x10) : KeptM q a (movetList x0 x1 x2 x3 x4 x5 x6 x7 x8 x9 x10) := by
  induction x9 generalizing x10 with
  | zero =>
    unfold movetList
    try dsimp only
    repeat' first
      | with_reducible apply State.modProg_kept
      | with_reducible apply fpCheck_kept
      | with_reducible apply chanRead_kept
      | with_reducible apply atomically_kept
      | with_reducible apply movetBlock_kept
      | with_reducible exact keptM_pure
      | with_reducible exact keptM_throw
      | with_reducible apply keptM_get
      | with_reducible apply keptM_modify
      | with_reducible apply keptM_bind
      | with_reducible intro _
      | split
  | succ _ ih =>
    unfold movetList
    try dsimp only
    repeat' first
      | with_reducible apply ih
      | with_reducible apply State.modProg_kept
      | with_reducible apply fpCheck_kept
      | with_reducible apply chanRead_kept
      | with_reducible apply atomically_kept
      | with_reducible apply movetBlock_kept
      | with_reducible exact keptM_pure
      | with_reducible exact keptM_throw
      | with_reducible apply keptM_get
      | with_reducible apply keptM_modify
      | with_reducible apply keptM_bind
      | with_reducible intro _
      | split

theorem movetRun_kept (x0 x1 x2) : KeptM q a (movetRun x0 x1 x2) := by
  unfold movetRun
  try dsimp only
  repeat' first
    | with_reducible apply movetBegin_kept
    | with_reducible apply State.goSlot_kept
    | with_reducible apply movetLines_kept
    | with_reducible apply slotCopyLine_kept
    | with_reducible apply movetPack_kept
    | with_reducible apply movetList_kept
    | with_reducible apply movetBlock_kept
    | with_reducible exact keptM_pure
    | with_reducible apply keptM_get
    | with_reducible apply keptM_modify
    | with_reducible apply keptM_bind
    | with_reducible intro _
    | split

theorem State.stampRec_kept (x0 x1 x2) (hx0 : Kept q a x0) : Kept q a (State.stampRec x0 x1 x2).2 := by
  unfold State.stampRec
  try dsimp only
  repeat' first
    | with_reducible assumption
    | with_reducible apply State.modChan_kept

theorem State.release_kept (x0 x1 x2) (hx0 : Kept q a x0) : Kept q a (State.release x0 x1 x2) := by
  unfold State.release
  try dsimp only
  repeat' first
    | with_reducible assumption
    | with_reducible apply State.modChan_kept

theorem stampPlace_kept (x0 x1 x2) : KeptM q a (stampPlace x0 x1 x2) := by
  unfold stampPlace
  try dsimp only
  repeat' first
    | with_reducible assumption
    | with_reducible apply fpCheck_kept
    | with_reducible apply translate_kept
    | with_reducible apply tileCheck_kept
    | with_reducible apply kept_ite
    | with_reducible apply kept_ite_fst
    | with_reducible apply kept_ite_snd
    | with_reducible exact keptM_pure
    | with_reducible exact keptM_throw
    | with_reducible apply keptM_get
    | with_reducible apply keptM_set
    | with_reducible apply keptM_modify
    | with_reducible apply keptM_bind
    | with_reducible apply keptM_ite
    | with_reducible intro _
    | with_reducible refine kept_snd ?_ (by assumption)
    | with_reducible refine kept_fst ?_ (by assumption)

theorem stampSlot_kept (x0 x1 x2) : KeptM q a (stampSlot x0 x1 x2) := by
  unfold stampSlot
  try dsimp only
  repeat' first
    | with_reducible assumption
    | with_reducible apply stampPlace_kept
    | with_reducible apply State.chTo_kept
    | with_reducible apply State.goSlot_kept
    | with_reducible apply State.release_kept
    | with_reducible apply beginLine_kept
    | with_reducible apply State.stampRec_kept
    | with_reducible apply portWrite_kept
    | with_reducible apply tileStore_kept
    | with_reducible apply kept_ite
    | with_reducible apply kept_ite_fst
    | with_reducible apply kept_ite_snd
    | with_reducible exact keptM_pure
    | with_reducible exact keptM_throw
    | with_reducible apply keptM_get
    | with_reducible apply keptM_set
    | with_reducible apply keptM_modify
    | with_reducible apply keptM_bind
    | with_reducible apply keptM_ite
    | with_reducible intro _
    | with_reducible refine kept_snd ?_ (by assumption)
    | with_reducible refine kept_fst ?_ (by assumption)

theorem State.moveMark_kept (x0 x1 x2) (hx0 : Kept q a x0) : Kept q a (State.moveMark x0 x1 x2) := by
  unfold State.moveMark
  try dsimp only
  repeat' first
    | with_reducible assumption
    | with_reducible apply State.modNode_kept
    | with_reducible apply State.modChan_kept
    | with_reducible apply kept_ite
    | with_reducible apply kept_ite_fst
    | with_reducible apply kept_ite_snd
    | with_reducible intro _
    | with_reducible refine kept_snd ?_ (by assumption)
    | with_reducible refine kept_fst ?_ (by assumption)

theorem stampLate_kept (x0 x1 x2) : KeptM q a (stampLate x0 x1 x2) := by
  unfold stampLate
  try dsimp only
  repeat' first
    | with_reducible assumption
    | with_reducible apply portWrite_kept
    | with_reducible apply tileWrite_kept
    | with_reducible apply kept_ite
    | with_reducible apply kept_ite_fst
    | with_reducible apply kept_ite_snd
    | with_reducible exact keptM_pure
    | with_reducible exact keptM_throw
    | with_reducible apply keptM_set
    | with_reducible apply keptM_modify
    | with_reducible apply keptM_ite
    | with_reducible intro _
    | with_reducible refine kept_snd ?_ (by assumption)
    | with_reducible refine kept_fst ?_ (by assumption)

theorem State.releaseHead_kept (x0 x1) (hx0 : Kept q a x0) : Kept q a (State.releaseHead x0 x1) := by
  unfold State.releaseHead
  try dsimp only
  repeat' first
    | with_reducible assumption
    | with_reducible apply State.modChan_kept
    | with_reducible apply State.moveMark_kept
    | with_reducible apply State.chTo_kept
    | with_reducible apply State.addCounter_kept
    | with_reducible apply State.setCounter_kept
    | with_reducible apply State.stampRec_kept
    | with_reducible apply stampLate_kept
    | with_reducible apply State.endProg_kept
    | with_reducible apply kept_on
    | with_reducible intro _
    | split
    | with_reducible refine kept_snd ?_ (by assumption)

theorem State.progDone_kept (x0 x1) (hx0 : Kept q a x0) : Kept q a (State.progDone x0 x1) := by
  unfold State.progDone
  try dsimp only
  repeat' first
    | with_reducible assumption
    | with_reducible apply State.wrap_kept
    | with_reducible apply State.chIdle_kept
    | with_reducible apply State.modNode_kept
    | with_reducible apply State.failNode_kept
    | with_reducible intro _
    | split

theorem State.toParkLine_kept (x0 x1 x2) (hx0 : Kept q a x0) : Kept q a (State.toParkLine x0 x1 x2) := by
  unfold State.toParkLine
  try dsimp only
  repeat' first
    | with_reducible assumption
    | with_reducible apply State.issue_kept
    | with_reducible apply State.modNode_kept
    | with_reducible apply State.modChan_kept
    | fail_if_no_progress (with_reducible apply kept_lit)
    | with_reducible intro _
    | split

theorem State.park_kept (x0 x1) (hx0 : Kept q a x0) : Kept q a (State.park x0 x1) := by
  unfold State.park
  try dsimp only
  repeat' first
    | with_reducible assumption
    | with_reducible apply State.toParkLine_kept
    | with_reducible apply State.raise_kept
    | with_reducible apply State.chTo_kept
    | with_reducible apply State.setFld_kept
    | fail_if_no_progress (with_reducible apply kept_lit)
    | split

theorem aheadStep_kept (x0 x1) : KeptM q a (aheadStep x0 x1) := by
  unfold aheadStep
  try dsimp only
  repeat' first
    | with_reducible assumption
    | with_reducible apply moveLine_kept
    | with_reducible apply movetRun_kept
    | with_reducible apply State.goSlot_kept
    | with_reducible apply State.modProg_kept
    | with_reducible apply stampPlace_kept
    | with_reducible exact keptM_throw
    | with_reducible apply keptM_get
    | with_reducible apply keptM_modify
    | with_reducible apply keptM_bind
    | with_reducible intro _
    | split

theorem State.aheadView_kept (x0 x1) (hx0 : Kept q a x0) : Kept q a (State.aheadView x0 x1) := by
  unfold State.aheadView
  try dsimp only
  repeat' first
    | with_reducible assumption
    | with_reducible apply State.modNode_kept
    | with_reducible apply State.chTo_kept
    | fail_if_no_progress (with_reducible apply kept_lit)
    | split

theorem State.aheadWalk_kept (x0 x1 x2 x3 x4) (hx0 : Kept q a x0) : Kept q a (State.aheadWalk x0 x1 x2 x3 x4) := by
  unfold State.aheadWalk
  try dsimp only
  repeat' first
    | with_reducible assumption
    | with_reducible apply State.walkPaid_kept
    | with_reducible apply State.modChan_kept
    | with_reducible apply State.cachePtrs_kept
    | split

theorem State.aheadStage_kept (x0 x1 x2 x3 x4) (hx0 : Kept q a x0) : Kept q a (State.aheadStage x0 x1 x2 x3 x4) := by
  unfold State.aheadStage
  try dsimp only
  repeat' first
    | with_reducible assumption
    | with_reducible apply xvaRead_kept
    | with_reducible apply State.modChan_kept
    | with_reducible apply kept_on
    | with_reducible intro _
    | split
    | with_reducible refine kept_snd ?_ (by assumption)

theorem State.aheadFrom_kept (x0 x1 x2 x3 x4 x5 x6 x7 x8) (hx0 : Kept q a x0) (hx5 : Kept q a x5) : Kept q a (State.aheadFrom x0 x1 x2 x3 x4 x5 x6 x7 x8) := by
  induction x4 generalizing x0 x5 x6 x7 x8 with
  | zero =>
    unfold State.aheadFrom
    try dsimp only
    repeat' first
      | with_reducible assumption
      | with_reducible apply aheadStep_kept
      | with_reducible apply State.modChan_kept
      | with_reducible apply State.aheadView_kept
      | with_reducible apply State.aheadStage_kept
      | with_reducible apply State.aheadWalk_kept
      | with_reducible apply kept_on
      | with_reducible intro _
      | split
      | with_reducible refine kept_snd ?_ (by assumption)
  | succ _ ih =>
    unfold State.aheadFrom
    try dsimp only
    repeat' first
      | with_reducible apply ih
      | with_reducible assumption
      | with_reducible apply aheadStep_kept
      | with_reducible apply State.modChan_kept
      | with_reducible apply State.aheadView_kept
      | with_reducible apply State.aheadStage_kept
      | with_reducible apply State.aheadWalk_kept
      | with_reducible apply kept_on
      | with_reducible intro _
      | split
      | with_reducible refine kept_snd ?_ (by assumption)

theorem State.prefetch_kept (x0 x1 x2 x3) (hx0 : Kept q a x0) : Kept q a (State.prefetch x0 x1 x2 x3) := by
  unfold State.prefetch
  try dsimp only
  repeat' first
    | with_reducible assumption
    | with_reducible apply State.aheadFrom_kept
    | with_reducible apply State.aheadView_kept

-- Machine/Check.lean

theorem State.runNode_kept (x0 x1 x2 x3 x4) (hx0 : Kept q a x0) (hx4 : KeptM q a x4) : Kept q a (State.runNode x0 x1 x2 x3 x4) := by
  unfold State.runNode
  try dsimp only
  repeat' first
    | with_reducible assumption
    | with_reducible apply State.modNode_kept
    | with_reducible apply State.failNode_kept
    | fail_if_no_progress (with_reducible apply kept_lit)
    | with_reducible apply kept_on
    | split
    | with_reducible refine kept_snd ?_ (by assumption)

theorem checkBlock_kept (x0 x1 x2) : KeptM q a (checkBlock x0 x1 x2) := by
  unfold checkBlock
  try dsimp only
  repeat' first
    | with_reducible apply spRead_kept
    | with_reducible apply State.modNode_kept
    | with_reducible apply keptM_modify
    | with_reducible apply keptM_bind
    | with_reducible intro _

theorem checkInterval_kept (x0 x1 x2) : KeptM q a (checkInterval x0 x1 x2) := by
  unfold checkInterval
  try dsimp only
  repeat' first
    | with_reducible assumption
    | with_reducible apply State.cut_kept
    | with_reducible apply State.modNode_kept
    | with_reducible apply xvaWrite_kept
    | with_reducible apply translate_kept
    | with_reducible apply State.digestMsg_kept
    | with_reducible apply kept_ite
    | with_reducible apply kept_ite_fst
    | with_reducible apply kept_ite_snd
    | with_reducible exact keptM_pure
    | with_reducible exact keptM_throw
    | with_reducible apply keptM_get
    | with_reducible apply keptM_set
    | with_reducible apply keptM_modify
    | with_reducible apply keptM_bind
    | with_reducible apply keptM_ite
    | with_reducible intro _
    | with_reducible refine kept_snd ?_ (by assumption)
    | with_reducible refine kept_fst ?_ (by assumption)

theorem checkSlice_kept (x0 x1 x2 x3) : KeptM q a (checkSlice x0 x1 x2 x3) := by
  induction x3 with
  | zero =>
    unfold checkSlice
    try dsimp only
    repeat' first
      | with_reducible assumption
      | with_reducible apply checkBlock_kept
      | with_reducible apply atomically_kept
      | with_reducible apply checkInterval_kept
      | with_reducible exact keptM_pure
      | with_reducible exact keptM_throw
      | with_reducible apply keptM_get
      | with_reducible apply keptM_bind
      | with_reducible intro _
      | split
      | with_reducible refine kept_snd ?_ (by assumption)
      | with_reducible refine kept_fst ?_ (by assumption)
  | succ _ ih =>
    unfold checkSlice
    try dsimp only
    repeat' first
      | with_reducible assumption
      | with_reducible apply checkBlock_kept
      | with_reducible apply atomically_kept
      | with_reducible apply checkInterval_kept
      | with_reducible exact keptM_pure
      | with_reducible exact keptM_throw
      | with_reducible apply keptM_get
      | with_reducible apply keptM_bind
      | with_reducible intro _
      | split
      | with_reducible refine kept_snd ?_ (by assumption)
      | with_reducible refine kept_fst ?_ (by assumption)

theorem State.cvuDone_kept (x0 x1 x2) (hx0 : Kept q a x0) : Kept q a (State.cvuDone x0 x1 x2) := by
  unfold State.cvuDone
  try dsimp only
  repeat' first
    | with_reducible assumption
    | with_reducible apply State.setFld_kept
    | with_reducible apply State.wrap_kept

-- Machine/Contract.lean

theorem rdRun_kept (x0 x1 x2 x3) (hx0 : ∀ y0, KeptM q a y0 → KeptM q a (x0 y0)) : KeptM q a (rdRun x0 x1 x2 x3) := by
  unfold rdRun
  try dsimp only
  repeat' first
    | with_reducible apply spRead_kept
    | apply hx0
    | with_reducible exact keptM_pure
    | with_reducible apply keptM_bind
    | with_reducible intro _
    | split

theorem rawBlock_kept (x0 x1 x2 x3 x4) : KeptM q a (rawBlock x0 x1 x2 x3 x4) := by
  unfold rawBlock
  try dsimp only
  repeat' first
    | with_reducible apply tileRead_kept
    | with_reducible apply accFault_kept
    | with_reducible exact keptM_pure
    | with_reducible exact keptM_throw
    | with_reducible apply keptM_bind
    | with_reducible intro _
    | split

theorem opWord_kept (x0 x1 x2 x3 x4 x5 x6) : KeptM q a (opWord x0 x1 x2 x3 x4 x5 x6) := by
  unfold opWord
  try dsimp only
  repeat' first
    | with_reducible assumption
    | with_reducible apply rawBlock_kept
    | with_reducible apply spRead_kept
    | with_reducible apply kept_ite
    | with_reducible apply kept_ite_fst
    | with_reducible apply kept_ite_snd
    | with_reducible exact keptM_pure
    | with_reducible exact keptM_throw
    | with_reducible apply keptM_set
    | with_reducible apply keptM_modify
    | with_reducible apply keptM_bind
    | with_reducible apply keptM_ite
    | with_reducible intro _
    | with_reducible refine kept_snd ?_ (by assumption)
    | with_reducible refine kept_fst ?_ (by assumption)

theorem scaleRun_kept (x0 x1 x2 x3 x4 x5 x6 x7) (hx0 : ∀ y0, KeptM q a y0 → KeptM q a (x0 y0)) : KeptM q a (scaleRun x0 x1 x2 x3 x4 x5 x6 x7) := by
  unfold scaleRun
  try dsimp only
  repeat' first
    | with_reducible assumption
    | with_reducible apply rdRun_kept
    | with_reducible exact keptM_pure
    | with_reducible exact keptM_throw
    | with_reducible apply keptM_mapM
    | with_reducible intro _
    | split
    | with_reducible refine kept_snd ?_ (by assumption)
    | with_reducible refine kept_fst ?_ (by assumption)

theorem groupReads_kept (x0 x1 x2 x3 x4 x5 x6) (hx0 : ∀ y0, KeptM q a y0 → KeptM q a (x0 y0)) : KeptM q a (groupReads x0 x1 x2 x3 x4 x5 x6) := by
  unfold groupReads
  try dsimp only
  repeat' first
    | with_reducible apply opWord_kept
    | with_reducible apply scaleRun_kept
    | apply hx0
    | with_reducible exact keptM_pure
    | with_reducible apply keptM_bind
    | with_reducible apply keptM_mapM
    | with_reducible apply keptM_foldlM
    | with_reducible intro _

theorem tileReads_kept (x0 x1 x2 x3 x4 x5) (hx0 : ∀ y0, KeptM q a y0 → KeptM q a (x0 y0)) : KeptM q a (tileReads x0 x1 x2 x3 x4 x5) := by
  unfold tileReads
  try dsimp only
  repeat' first
    | with_reducible assumption
    | with_reducible apply rdRun_kept
    | with_reducible exact keptM_pure
    | with_reducible exact keptM_throw
    | with_reducible apply keptM_bind
    | with_reducible apply keptM_mapM
    | with_reducible intro _
    | split
    | with_reducible refine kept_snd ?_ (by assumption)
    | with_reducible refine kept_fst ?_ (by assumption)

theorem twinCheck_kept (x0 x1 x2 x3) : KeptM q a (twinCheck x0 x1 x2 x3) := by
  unfold twinCheck
  try dsimp only
  repeat' first
    | with_reducible assumption
    | with_reducible apply accFault_kept
    | with_reducible apply kept_ite
    | with_reducible apply kept_ite_fst
    | with_reducible apply kept_ite_snd
    | fail_if_no_progress (with_reducible apply kept_lit)
    | with_reducible exact keptM_pure
    | with_reducible exact keptM_throw
    | with_reducible apply keptM_get
    | with_reducible apply keptM_set
    | with_reducible apply keptM_modify
    | with_reducible apply keptM_bind
    | with_reducible apply keptM_ite
    | with_reducible intro _
    | with_reducible refine kept_snd ?_ (by assumption)
    | with_reducible refine kept_fst ?_ (by assumption)

theorem outRows_kept (x0 x1 x2 x3 x4) : KeptM q a (outRows x0 x1 x2 x3 x4) := by
  induction x4 with
  | zero =>
    unfold outRows
    try dsimp only
    repeat' first
      | with_reducible assumption
      | with_reducible apply atomically_kept
      | with_reducible apply State.modNode_kept
      | with_reducible apply lineWrite_kept
      | with_reducible exact keptM_pure
      | with_reducible exact keptM_throw
      | with_reducible apply keptM_get
      | with_reducible apply keptM_modify
      | with_reducible apply keptM_bind
      | with_reducible intro _
      | split
      | with_reducible refine kept_snd ?_ (by assumption)
      | with_reducible refine kept_fst ?_ (by assumption)
  | succ _ ih =>
    unfold outRows
    try dsimp only
    repeat' first
      | with_reducible assumption
      | with_reducible apply atomically_kept
      | with_reducible apply State.modNode_kept
      | with_reducible apply lineWrite_kept
      | with_reducible exact keptM_pure
      | with_reducible exact keptM_throw
      | with_reducible apply keptM_get
      | with_reducible apply keptM_modify
      | with_reducible apply keptM_bind
      | with_reducible intro _
      | split
      | with_reducible refine kept_snd ?_ (by assumption)
      | with_reducible refine kept_fst ?_ (by assumption)

theorem tileOut_kept (x0 x1 x2 x3 x4 x5 x6 x7 x8 x9 x10 x11 x12 x13) (hx0 : ∀ y0, KeptM q a y0 → KeptM q a (x0 y0)) : KeptM q a (tileOut x0 x1 x2 x3 x4 x5 x6 x7 x8 x9 x10 x11 x12 x13) := by
  unfold tileOut
  try dsimp only
  repeat' first
    | with_reducible assumption
    | with_reducible apply tileReads_kept
    | with_reducible apply twinCheck_kept
    | with_reducible apply State.wrap_kept
    | with_reducible apply State.modNode_kept
    | with_reducible apply kept_ite
    | with_reducible apply kept_ite_fst
    | with_reducible apply kept_ite_snd
    | with_reducible apply kept_foldl_snd
    | with_reducible exact keptM_pure
    | with_reducible exact keptM_throw
    | with_reducible apply keptM_modify
    | with_reducible apply keptM_bind
    | with_reducible intro _
    | with_reducible refine kept_snd ?_ (by assumption)
    | with_reducible refine kept_fst ?_ (by assumption)

theorem contrGroup_kept (x0 x1 x2 x3 x4 x5 x6 x7 x8 x9) : KeptM q a (contrGroup x0 x1 x2 x3 x4 x5 x6 x7 x8 x9) := by
  unfold contrGroup
  try dsimp only
  repeat' first
    | with_reducible assumption
    | with_reducible apply replayRead_kept
    | with_reducible apply State.replayReads_kept
    | with_reducible apply groupReads_kept
    | with_reducible apply outRows_kept
    | with_reducible apply tileOut_kept
    | with_reducible apply State.cut_kept
    | with_reducible apply State.modNode_kept
    | with_reducible apply State.readsOver_kept
    | with_reducible apply keptM_get
    | with_reducible apply keptM_modify
    | with_reducible apply keptM_bind
    | with_reducible apply keptM_forM
    | with_reducible intro _

theorem contrGroups_kept (x0 x1 x2 x3 x4 x5 x6 x7 x8) : KeptM q a (contrGroups x0 x1 x2 x3 x4 x5 x6 x7 x8) := by
  induction x8 with
  | zero =>
    unfold contrGroups
    try dsimp only
    repeat' first
      | with_reducible assumption
      | with_reducible apply contrGroup_kept
      | with_reducible exact keptM_pure
      | with_reducible exact keptM_throw
      | with_reducible apply keptM_get
      | with_reducible apply keptM_bind
      | with_reducible intro _
      | split
      | with_reducible refine kept_snd ?_ (by assumption)
      | with_reducible refine kept_fst ?_ (by assumption)
  | succ _ ih =>
    unfold contrGroups
    try dsimp only
    repeat' first
      | with_reducible assumption
      | with_reducible apply contrGroup_kept
      | with_reducible exact keptM_pure
      | with_reducible exact keptM_throw
      | with_reducible apply keptM_get
      | with_reducible apply keptM_bind
      | with_reducible intro _
      | split
      | with_reducible refine kept_snd ?_ (by assumption)
      | with_reducible refine kept_fst ?_ (by assumption)

-- Machine/Meridian.lean

theorem State.merEvent_kept (x0 x1 x2) (hx0 : Kept q a x0) : Kept q a (State.merEvent x0 x1 x2) := by
  unfold State.merEvent
  try dsimp only
  repeat' first
    | with_reducible assumption
    | with_reducible apply State.event_kept
    | with_reducible apply State.setFld_kept

theorem State.mbTo_kept (x0 x1 x2) (hx0 : Kept q a x0) : Kept q a (State.mbTo x0 x1 x2) := by
  unfold State.mbTo
  try dsimp only
  repeat' first
    | with_reducible assumption
    | with_reducible apply State.setFld_kept

theorem State.merFault_kept (x0 x1 x2) (hx0 : Kept q a x0) : Kept q a (State.merFault x0 x1 x2) := by
  unfold State.merFault
  try dsimp only
  repeat' first
    | with_reducible assumption
    | with_reducible apply State.raise_kept

theorem State.lineClear_kept (x0 x1 x2) (hx0 : Kept q a x0) : Kept q a (State.lineClear x0 x1 x2) := by
  obtain ⟨h1, h2, h3, h4, h5⟩ := hx0
  refine ⟨h1, h2, h3, h4, ?_⟩
  have he : ∀ c, (State.lineClear x0 x1 x2).coll.faults.any (·.cls == c) = x0.coll.faults.any (·.cls == c) := by
    intro c
    simp only [State.lineClear, State.setColl, List.any_map]
    congr 1
    funext f
    simp only [Function.comp]
    split <;> rfl
  show ({ (x0.lineClear x1 x2) with coll := (x0.lineClear x1 x2).coll } : State).linesOk = true
  simp only [State.linesOk, State.showsClass, he]
  exact h5

theorem State.mbStart_kept (x0 x1) (hx0 : Kept q a x0) : Kept q a (State.mbStart x0 x1) := by
  unfold State.mbStart
  try dsimp only
  repeat' first
    | with_reducible assumption
    | with_reducible apply State.mbTo_kept
    | with_reducible apply State.modBase_kept

theorem State.holdEnter_kept (x0 x1 x2) (hx0 : Kept q a x0) : Kept q a (State.holdEnter x0 x1 x2) := by
  unfold State.holdEnter
  try dsimp only
  repeat' first
    | with_reducible assumption
    | with_reducible apply State.modBase_kept
    | with_reducible apply State.merEvent_kept
    | with_reducible apply State.setFld_kept
    | with_reducible apply State.mbTo_kept

theorem State.excessEdge_kept (x0 x1) (hx0 : Kept q a x0) : Kept q a (State.excessEdge x0 x1) := by
  unfold State.excessEdge
  try dsimp only
  repeat' first
    | with_reducible assumption
    | with_reducible apply State.modBase_kept
    | with_reducible apply State.sat_kept
    | with_reducible apply State.holdEnter_kept
    | with_reducible apply kept_ite
    | with_reducible apply kept_ite_fst
    | with_reducible apply kept_ite_snd
    | with_reducible intro _
    | with_reducible refine kept_snd ?_ (by assumption)
    | with_reducible refine kept_fst ?_ (by assumption)

theorem State.holdLeave_kept (x0 x1 x2) (hx0 : Kept q a x0) : Kept q a (State.holdLeave x0 x1 x2) := by
  unfold State.holdLeave
  try dsimp only
  repeat' first
    | with_reducible assumption
    | with_reducible apply State.drawBelow_kept
    | with_reducible apply State.setBase_kept
    | with_reducible apply State.setFld_kept
    | with_reducible apply State.merEvent_kept
    | with_reducible apply State.mbTo_kept
    | with_reducible apply kept_ite_snd
    | with_reducible intro _
    | with_reducible refine kept_snd ?_ (by assumption)
    | with_reducible refine kept_fst ?_ (by assumption)

theorem State.countEdge_kept (x0 x1 x2) (hx0 : Kept q a x0) : Kept q a (State.countEdge x0 x1 x2) := by
  unfold State.countEdge
  try dsimp only
  repeat' first
    | with_reducible assumption
    | with_reducible apply State.excessEdge_kept
    | with_reducible apply State.setBase_kept
    | with_reducible apply State.merEvent_kept
    | with_reducible apply State.mbTo_kept
    | with_reducible apply State.setFld_kept
    | with_reducible apply State.holdLeave_kept
    | with_reducible intro _
    | split

theorem State.merLevels_kept (x0 x1 x2 x3) (hx0 : Kept q a x0) : Kept q a (State.merLevels x0 x1 x2 x3) := by
  unfold State.merLevels
  try dsimp only
  repeat' first
    | with_reducible assumption
    | with_reducible apply State.setBase_kept
    | with_reducible apply State.lineClear_kept
    | with_reducible apply State.excessEdge_kept
    | with_reducible apply State.sat_kept
    | with_reducible apply State.countEdge_kept
    | with_reducible intro _
    | split

theorem State.zEdge_kept (x0 x1) (hx0 : Kept q a x0) : Kept q a (State.zEdge x0 x1) := by
  unfold State.zEdge
  try dsimp only
  repeat' first
    | with_reducible assumption
    | with_reducible apply State.modBase_kept
    | with_reducible apply State.setFld_kept
    | with_reducible apply State.merEvent_kept
    | with_reducible apply State.sat_kept
    | with_reducible intro _
    | split

theorem State.mbLost_kept (x0 x1) (hx0 : Kept q a x0) : Kept q a (State.mbLost x0 x1) := by
  unfold State.mbLost
  try dsimp only
  repeat' first
    | with_reducible assumption
    | with_reducible apply State.merFault_kept
    | with_reducible apply State.mbTo_kept
    | with_reducible apply State.modBase_kept

-- Machine/Replica.lean

theorem State.sendRep_kept (x0 x1 x2) (hx0 : Kept q a x0) : Kept q a (State.sendRep x0 x1 x2) := by
  unfold State.sendRep
  try dsimp only
  repeat' first
    | with_reducible assumption
    | with_reducible apply State.inject_kept
    | with_reducible apply kept_foldl
    | with_reducible intro _

theorem State.putDigest_kept (x0 x1 x2 x3 x4 x5 x6) (hx0 : Kept q a x0) : Kept q a (State.putDigest x0 x1 x2 x3 x4 x5 x6) := by
  unfold State.putDigest
  try dsimp only
  repeat' first
    | with_reducible assumption
    | with_reducible apply State.setRep_kept

theorem State.passInterval_kept (x0 x1) (hx0 : Kept q a x0) : Kept q a (State.passInterval x0 x1) := by
  unfold State.passInterval
  try dsimp only
  repeat' first
    | with_reducible assumption
    | with_reducible apply State.setRep_kept
    | with_reducible apply State.transmit_kept
    | with_reducible apply State.setRelay_kept
    | exact rfl
    | split

theorem State.passAll_kept (x0) (hx0 : Kept q a x0) : Kept q a (State.passAll x0) := by
  unfold State.passAll
  try dsimp only
  repeat' first
    | with_reducible assumption
    | with_reducible apply State.passInterval_kept
    | with_reducible apply kept_ite
    | with_reducible apply kept_ite_fst
    | with_reducible apply kept_ite_snd
    | with_reducible apply kept_foldl
    | with_reducible intro _
    | with_reducible refine kept_snd ?_ (by assumption)
    | with_reducible refine kept_fst ?_ (by assumption)

theorem State.membersOut_kept (x0 x1 x2) (hx0 : Kept q a x0) : Kept q a (State.membersOut x0 x1 x2) := by
  unfold State.membersOut
  try dsimp only
  repeat' first
    | with_reducible assumption
    | with_reducible apply State.raise_kept
    | with_reducible apply State.nameSelfOut_kept
    | with_reducible apply State.setRep_kept
    | with_reducible apply State.grpOut_kept
    | with_reducible apply State.setFld_kept
    | with_reducible apply State.floodOut_kept
    | with_reducible apply State.transmit_kept
    | with_reducible apply State.passAll_kept
    | with_reducible apply kept_ite
    | with_reducible apply kept_ite_fst
    | with_reducible apply kept_ite_snd
    | with_reducible intro _
    | with_reducible refine kept_snd ?_ (by assumption)
    | with_reducible refine kept_fst ?_ (by assumption)

theorem State.agree_kept (x0 x1 x2) (hx0 : Kept q a x0) : Kept q a (State.agree x0 x1 x2) := by
  unfold State.agree
  try dsimp only
  repeat' first
    | with_reducible assumption
    | with_reducible apply State.membersOut_kept
    | with_reducible apply kept_ite
    | with_reducible apply kept_ite_fst
    | with_reducible apply kept_ite_snd
    | with_reducible intro _
    | with_reducible refine kept_snd ?_ (by assumption)
    | with_reducible refine kept_fst ?_ (by assumption)

theorem State.decide_kept (x0 x1 x2 x3) (hx0 : Kept q a x0) : Kept q a (State.decide x0 x1 x2 x3) := by
  unfold State.decide
  try dsimp only
  repeat' first
    | with_reducible assumption
    | with_reducible apply State.sendRep_kept
    | with_reducible apply State.setRep_kept
    | with_reducible apply State.agree_kept
    | with_reducible apply kept_ite
    | with_reducible apply kept_ite_fst
    | with_reducible apply kept_ite_snd
    | with_reducible intro _
    | with_reducible refine kept_snd ?_ (by assumption)
    | with_reducible refine kept_fst ?_ (by assumption)

theorem State.settle_kept (x0) (hx0 : Kept q a x0) : Kept q a (State.settle x0) := by
  unfold State.settle
  try dsimp only
  repeat' first
    | with_reducible assumption
    | with_reducible apply State.passInterval_kept
    | with_reducible apply State.decide_kept
    | with_reducible apply State.setRep_kept
    | with_reducible apply kept_foldl
    | with_reducible intro _
    | split

theorem State.intervalEnd_kept (x0 x1 x2 x3) (hx0 : Kept q a x0) : Kept q a (State.intervalEnd x0 x1 x2 x3) := by
  unfold State.intervalEnd
  try dsimp only
  repeat' first
    | with_reducible assumption
    | with_reducible apply State.modNode_kept
    | with_reducible apply State.putDigest_kept
    | with_reducible apply State.sendRep_kept
    | with_reducible apply State.settle_kept
    | with_reducible intro _
    | split

theorem State.failedIntervals_kept (x0) (hx0 : Kept q a x0) : Kept q a (State.failedIntervals x0) := by
  unfold State.failedIntervals
  try dsimp only
  repeat' first
    | with_reducible assumption
    | with_reducible apply State.intervalEnd_kept
    | with_reducible apply State.modNode_kept
    | with_reducible apply kept_ite
    | with_reducible apply kept_ite_fst
    | with_reducible apply kept_ite_snd
    | with_reducible apply kept_foldl
    | with_reducible intro _
    | with_reducible refine kept_snd ?_ (by assumption)
    | with_reducible refine kept_fst ?_ (by assumption)

-- Machine/Ephemeris.lean

theorem State.setEph_kept (x0 x1) (hx0 : Kept q a x0) : Kept q a (State.setEph x0 x1) := by
  unfold State.setEph
  try dsimp only
  repeat' first
    | with_reducible assumption
    | with_reducible apply State.setFld_kept
    | with_reducible apply State.setMer_kept
    | exact rfl

theorem State.ephPlace_kept (x0 x1) (hx0 : Kept q a x0) : Kept q a (State.ephPlace x0 x1) := by
  unfold State.ephPlace
  try dsimp only
  repeat' first
    | with_reducible assumption
    | with_reducible apply State.setEph_kept
    | with_reducible apply State.sat_kept
    | with_reducible intro _
    | split

theorem State.ephCommand_kept (x0 x1 x2) (hx0 : Kept q a x0) : Kept q a (State.ephCommand x0 x1 x2) := by
  unfold State.ephCommand
  try dsimp only
  repeat' first
    | with_reducible assumption
    | with_reducible apply State.setFld_kept
    | with_reducible apply State.setMer_kept
    | exact rfl
    | with_reducible apply kept_ite
    | with_reducible apply kept_ite_fst
    | with_reducible apply kept_ite_snd
    | with_reducible intro _
    | with_reducible refine kept_snd ?_ (by assumption)
    | with_reducible refine kept_fst ?_ (by assumption)

theorem State.ephResult_kept (x0) (hx0 : Kept q a x0) : Kept q a (State.ephResult x0) := by
  unfold State.ephResult
  try dsimp only
  repeat' first
    | with_reducible assumption
    | with_reducible apply State.setFld_kept
    | with_reducible apply State.setMer_kept
    | with_reducible apply State.ephPlace_kept
    | with_reducible apply State.setEph_kept
    | exact rfl
    | with_reducible intro _
    | split

theorem State.ephNext_kept (x0 x1) (hx0 : Kept q a x0) : Kept q a (State.ephNext x0 x1) := by
  unfold State.ephNext
  try dsimp only
  repeat' first
    | with_reducible assumption
    | with_reducible apply State.setEph_kept
    | with_reducible apply State.sat_kept
    | with_reducible intro _
    | split

theorem State.ephAct_kept (x0 x1) (hx0 : Kept q a x0) : Kept q a (State.ephAct x0 x1) := by
  unfold State.ephAct
  try dsimp only
  repeat' first
    | with_reducible assumption
    | with_reducible apply State.addCounter_kept
    | with_reducible apply tileWrite_kept
    | with_reducible apply State.setEph_kept
    | with_reducible apply State.event_kept
    | with_reducible apply State.sat_kept
    | with_reducible apply State.merFault_kept
    | with_reducible apply kept_on
    | with_reducible intro _
    | split
    | with_reducible refine kept_snd ?_ (by assumption)

theorem State.ephFire_kept (x0 x1) (hx0 : Kept q a x0) : Kept q a (State.ephFire x0 x1) := by
  unfold State.ephFire
  try dsimp only
  repeat' first
    | with_reducible assumption
    | with_reducible apply State.ephNext_kept
    | with_reducible apply State.setMer_kept
    | with_reducible apply State.ephAct_kept
    | exact rfl
    | with_reducible apply kept_ite
    | with_reducible apply kept_ite_fst
    | with_reducible apply kept_ite_snd
    | with_reducible intro _
    | with_reducible refine kept_snd ?_ (by assumption)
    | with_reducible refine kept_fst ?_ (by assumption)

theorem State.timedRelease_kept (x0 x1 x2) (hx0 : Kept q a x0) : Kept q a (State.timedRelease x0 x1 x2) := by
  unfold State.timedRelease
  try dsimp only
  repeat' first
    | with_reducible assumption
    | with_reducible apply State.countSlice_kept
    | with_reducible apply State.modNode_kept
    | with_reducible apply kept_ite
    | with_reducible apply kept_ite_fst
    | with_reducible apply kept_ite_snd
    | with_reducible intro _
    | with_reducible refine kept_snd ?_ (by assumption)
    | with_reducible refine kept_fst ?_ (by assumption)

theorem State.ephWaited_kept (x0) (hx0 : Kept q a x0) : Kept q a (State.ephWaited x0) := by
  unfold State.ephWaited
  try dsimp only
  repeat' first
    | with_reducible assumption
    | with_reducible apply State.timedRelease_kept
    | with_reducible apply State.ephAct_kept
    | with_reducible apply State.setMer_kept
    | exact rfl
    | with_reducible apply kept_foldl
    | with_reducible intro _
    | split

theorem State.mbOff_kept (x0 x1) (hx0 : Kept q a x0) : Kept q a (State.mbOff x0 x1) := by
  unfold State.mbOff
  try dsimp only
  repeat' first
    | with_reducible assumption
    | with_reducible apply State.setEph_kept
    | with_reducible apply State.setMer_kept
    | with_reducible apply State.failNode_kept
    | with_reducible apply State.merEvent_kept
    | with_reducible apply State.mbTo_kept
    | with_reducible apply State.modBase_kept
    | exact rfl
    | with_reducible apply kept_foldl
    | with_reducible intro _
    | split

end Sys2Proof.Machine
end

