-- ==== Sys2Proof/Laws/Kept4.lean ====
section
/-! SUPPORT. Every operation keeps what `Kept` says (the queue, the time, the canonical stores, the fault outputs):
vector operations, registration and graphs. -/

namespace Sys2Proof.Machine

variable {q : List Instr} {a : Nat}

-- Machine/Vector.lean

theorem rdElems_kept (x0 x1 x2 x3 x4) : KeptM q a (rdElems x0 x1 x2 x3 x4) := by
  unfold rdElems
  try dsimp only
  repeat' first
    | with_reducible apply replayRead_kept
    | with_reducible apply spRead_kept
    | with_reducible exact keptM_pure
    | with_reducible apply keptM_bind
    | with_reducible apply keptM_mapM
    | with_reducible intro _

theorem wrElems_kept (x0 x1 x2 x3 x4) : KeptM q a (wrElems x0 x1 x2 x3 x4) := by
  unfold wrElems
  try dsimp only
  repeat' first
    | with_reducible assumption
    | with_reducible apply lineWrite_kept
    | with_reducible apply State.sat_kept
    | with_reducible apply kept_ite
    | with_reducible apply kept_ite_fst
    | with_reducible apply kept_ite_snd
    | with_reducible exact keptM_pure
    | with_reducible exact keptM_throw
    | with_reducible apply keptM_set
    | with_reducible apply keptM_modify
    | with_reducible apply keptM_bind
    | with_reducible intro _
    | with_reducible refine kept_snd ?_ (by assumption)
    | with_reducible refine kept_fst ?_ (by assumption)

theorem bufRead_kept (x0 x1) : KeptM q a (bufRead x0 x1) := by
  unfold bufRead
  try dsimp only
  repeat' first
    | with_reducible assumption
    | with_reducible apply State.modNode_kept
    | with_reducible apply kept_ite
    | with_reducible apply kept_ite_fst
    | with_reducible apply kept_ite_snd
    | fail_if_no_progress (with_reducible apply kept_lit)
    | with_reducible exact keptM_pure
    | with_reducible exact keptM_throw
    | with_reducible apply keptM_get
    | with_reducible apply keptM_set
    | with_reducible apply keptM_modify
    | with_reducible apply keptM_bind
    | with_reducible apply keptM_ite
    | with_reducible intro _
    | with_reducible refine kept_snd ?_ (by assumption)
    | with_reducible refine kept_fst ?_ (by assumption)

theorem bufWrite_kept (x0 x1 x2) : KeptM q a (bufWrite x0 x1 x2) := by
  unfold bufWrite
  try dsimp only
  repeat' first
    | with_reducible apply State.modNode_kept
    | with_reducible apply keptM_modify
    | with_reducible intro _

theorem srcRead_kept (x0 x1 x2) : KeptM q a (srcRead x0 x1 x2) := by
  unfold srcRead
  try dsimp only
  repeat' first
    | with_reducible apply bufRead_kept
    | with_reducible apply rdElems_kept
    | with_reducible exact keptM_pure
    | with_reducible apply keptM_bind
    | with_reducible intro _
    | split

theorem dstRow_kept (x0 x1 x2 x3 x4) : KeptM q a (dstRow x0 x1 x2 x3 x4) := by
  unfold dstRow
  try dsimp only
  repeat' first
    | with_reducible apply bufWrite_kept
    | with_reducible apply bufRead_kept
    | with_reducible apply wrElems_kept
    | with_reducible exact keptM_pure
    | with_reducible apply keptM_bind
    | with_reducible intro _
    | split

theorem dstIndex_kept (x0 x1 x2 x3 x4) : KeptM q a (dstIndex x0 x1 x2 x3 x4) := by
  unfold dstIndex
  try dsimp only
  repeat' first
    | with_reducible apply wrElems_kept

theorem segments_kept (x0 x1) : KeptM q a (segments x0 x1) := by
  unfold segments
  try dsimp only
  repeat' first
    | with_reducible apply rdElems_kept
    | with_reducible exact keptM_pure
    | with_reducible apply keptM_bind
    | with_reducible intro _
    | split

theorem drawPat_kept : KeptM q a (drawPat) := by
  unfold drawPat
  try dsimp only
  repeat' first
    | with_reducible assumption
    | with_reducible apply State.drawBelow_kept
    | with_reducible exact keptM_pure
    | with_reducible apply keptM_get
    | with_reducible apply keptM_set
    | with_reducible apply keptM_bind
    | with_reducible intro _

theorem rowStep_kept (x0 x1) : KeptM q a (rowStep x0 x1) := by
  unfold rowStep
  try dsimp only
  repeat' first
    | with_reducible apply srcRead_kept
    | with_reducible apply segments_kept
    | with_reducible apply drawPat_kept
    | with_reducible apply atomically_kept
    | with_reducible apply dstRow_kept
    | with_reducible apply dstIndex_kept
    | with_reducible exact keptM_pure
    | with_reducible apply keptM_bind
    | with_reducible apply keptM_mapM
    | with_reducible apply keptM_forM
    | with_reducible intro _
    | split

theorem atomAt_kept (x0 x1 x2 x3 x4) : KeptM q a (atomAt x0 x1 x2 x3 x4) := by
  unfold atomAt
  try dsimp only
  repeat' first
    | with_reducible assumption
    | with_reducible apply State.sat_kept
    | with_reducible apply drawPat_kept
    | with_reducible apply tileCheck_kept
    | with_reducible apply eccCheck_kept
    | with_reducible apply tileStore_kept
    | with_reducible apply State.digestMsg_kept
    | with_reducible exact keptM_pure
    | with_reducible apply keptM_get
    | with_reducible apply keptM_set
    | with_reducible apply keptM_modify
    | with_reducible apply keptM_bind
    | with_reducible intro _
    | split

theorem atomStep_kept (x0 x1) : KeptM q a (atomStep x0 x1) := by
  unfold atomStep
  try dsimp only
  repeat' first
    | with_reducible apply srcRead_kept
    | with_reducible apply atomically_kept
    | with_reducible apply atomAt_kept
    | with_reducible apply dstRow_kept
    | with_reducible exact keptM_pure
    | with_reducible apply keptM_bind
    | with_reducible apply keptM_mapM
    | with_reducible intro _
    | split

theorem elemStep_kept (x0 x1) : KeptM q a (elemStep x0 x1) := by
  unfold elemStep
  try dsimp only
  repeat' first
    | with_reducible apply srcRead_kept
    | with_reducible apply atomically_kept
    | with_reducible apply dstRow_kept
    | with_reducible apply keptM_bind
    | with_reducible intro _

theorem vecEntry_kept (x0 x1) : KeptM q a (vecEntry x0 x1) := by
  unfold vecEntry
  try dsimp only
  repeat' first
    | with_reducible assumption
    | with_reducible apply atomStep_kept
    | with_reducible apply rowStep_kept
    | with_reducible apply elemStep_kept
    | with_reducible apply kept_ite
    | with_reducible apply kept_ite_fst
    | with_reducible apply kept_ite_snd
    | with_reducible exact keptM_pure
    | with_reducible exact keptM_throw
    | with_reducible apply keptM_set
    | with_reducible apply keptM_modify
    | with_reducible apply keptM_ite
    | with_reducible apply keptM_tryCatch
    | with_reducible intro _
    | with_reducible refine kept_snd ?_ (by assumption)
    | with_reducible refine kept_fst ?_ (by assumption)

theorem State.pickRow_kept (x0 x1 x2) (hx0 : Kept q a x0) : Kept q a (State.pickRow x0 x1 x2).2 := by
  unfold State.pickRow
  try dsimp only
  repeat' first
    | with_reducible assumption
    | with_reducible apply State.drawBelow_kept
    | with_reducible intro _
    | split

theorem vecStep_kept (x0 x1) : KeptM q a (vecStep x0 x1) := by
  unfold vecStep
  try dsimp only
  repeat' first
    | with_reducible assumption
    | with_reducible apply State.pickRow_kept
    | with_reducible apply State.replayReads_kept
    | with_reducible apply State.modNode_kept
    | with_reducible apply vecEntry_kept
    | with_reducible apply State.readsOver_kept
    | with_reducible exact keptM_pure
    | with_reducible apply keptM_get
    | with_reducible apply keptM_set
    | with_reducible apply keptM_modify
    | with_reducible apply keptM_bind
    | with_reducible intro _
    | split

theorem vecSlice_kept (x0 x1 x2) : KeptM q a (vecSlice x0 x1 x2) := by
  induction x2 with
  | zero =>
    unfold vecSlice
    try dsimp only
    repeat' first
      | with_reducible assumption
      | with_reducible apply vecStep_kept
      | with_reducible exact keptM_pure
      | with_reducible exact keptM_throw
      | with_reducible apply keptM_get
      | with_reducible apply keptM_bind
      | with_reducible intro _
      | split
      | with_reducible refine kept_snd ?_ (by assumption)
      | with_reducible refine kept_fst ?_ (by assumption)
  | succ _ ih =>
    unfold vecSlice
    try dsimp only
    repeat' first
      | with_reducible assumption
      | with_reducible apply vecStep_kept
      | with_reducible exact keptM_pure
      | with_reducible exact keptM_throw
      | with_reducible apply keptM_get
      | with_reducible apply keptM_bind
      | with_reducible intro _
      | split
      | with_reducible refine kept_snd ?_ (by assumption)
      | with_reducible refine kept_fst ?_ (by assumption)

-- Machine/Register.lean

theorem refuse_kept {β : Type} (x0 : Nat) : KeptM q a (refuse x0 : M β) := keptM_throw

theorem listRead_kept (x0 x1 x2) : KeptM q a (listRead x0 x1 x2) := by
  unfold listRead
  try dsimp only
  repeat' first
    | with_reducible apply structRead_kept
    | with_reducible apply refuse_kept
    | with_reducible exact keptM_throw
    | with_reducible apply keptM_tryCatch
    | with_reducible intro _
    | split

theorem regProgram_kept (x0 x1) : KeptM q a (regProgram x0 x1) := by
  unfold regProgram
  try dsimp only
  repeat' first
    | with_reducible assumption
    | with_reducible apply listRead_kept
    | with_reducible apply progScan_kept
    | with_reducible apply refuse_kept
    | with_reducible apply kept_ite
    | with_reducible apply kept_ite_fst
    | with_reducible apply kept_ite_snd
    | with_reducible exact keptM_pure
    | with_reducible exact keptM_throw
    | with_reducible apply keptM_get
    | with_reducible apply keptM_set
    | with_reducible apply keptM_modify
    | with_reducible apply keptM_bind
    | with_reducible apply keptM_ite
    | with_reducible intro _
    | with_reducible refine kept_snd ?_ (by assumption)
    | with_reducible refine kept_fst ?_ (by assumption)

theorem regCopy_kept (x0 x1) : KeptM q a (regCopy x0 x1) := by
  unfold regCopy
  try dsimp only
  repeat' first
    | with_reducible apply refuse_kept
    | with_reducible exact keptM_pure
    | with_reducible apply keptM_get
    | with_reducible apply keptM_bind
    | with_reducible intro _
    | split

theorem regContract_kept (x0 x1) : KeptM q a (regContract x0 x1) := by
  unfold regContract
  try dsimp only
  repeat' first
    | with_reducible apply refuse_kept
    | with_reducible exact keptM_pure
    | with_reducible apply keptM_get
    | with_reducible apply keptM_bind
    | with_reducible intro _
    | split

theorem vecFigs_kept (x0 x1 x2 x3) (hx0 : Kept q a x0) : Kept q a (vecFigs x0 x1 x2 x3).2 := by
  unfold vecFigs
  try dsimp only
  repeat' first
    | with_reducible assumption
    | fail_if_no_progress (with_reducible apply kept_lit)

theorem regVector_kept (x0 x1) : KeptM q a (regVector x0 x1) := by
  unfold regVector
  try dsimp only
  repeat' first
    | with_reducible assumption
    | with_reducible apply listRead_kept
    | with_reducible apply vecFigs_kept
    | with_reducible apply refuse_kept
    | with_reducible exact keptM_pure
    | with_reducible apply keptM_get
    | with_reducible apply keptM_set
    | with_reducible apply keptM_bind
    | with_reducible intro _
    | split

theorem regNode_kept (x0 x1) : KeptM q a (regNode x0 x1) := by
  unfold regNode
  try dsimp only
  repeat' first
    | with_reducible apply regProgram_kept
    | with_reducible apply regCopy_kept
    | with_reducible apply regContract_kept
    | with_reducible apply regVector_kept
    | with_reducible exact keptM_pure
    | with_reducible intro _
    | split

theorem withSlices_kept (x0 x1) : KeptM q a (withSlices x0 x1) := by
  unfold withSlices
  try dsimp only
  repeat' first
    | with_reducible apply refuse_kept
    | with_reducible exact keptM_pure
    | split

theorem regPlain_kept (x0 x1 x2) : KeptM q a (regPlain x0 x1 x2) := by
  unfold regPlain
  try dsimp only
  repeat' first
    | with_reducible assumption
    | with_reducible apply regNode_kept
    | with_reducible apply withSlices_kept
    | with_reducible apply refuse_kept
    | with_reducible apply kept_ite
    | with_reducible apply kept_ite_fst
    | with_reducible apply kept_ite_snd
    | with_reducible exact keptM_pure
    | with_reducible exact keptM_throw
    | with_reducible apply keptM_set
    | with_reducible apply keptM_modify
    | with_reducible apply keptM_bind
    | with_reducible apply keptM_ite
    | with_reducible intro _
    | with_reducible refine kept_snd ?_ (by assumption)
    | with_reducible refine kept_fst ?_ (by assumption)

theorem regStages_kept (x0 x1 x2) : KeptM q a (regStages x0 x1 x2) := by
  induction x2 with
  | nil =>
    unfold regStages
    try dsimp only
    repeat' first
      | with_reducible assumption
      | with_reducible apply regNode_kept
      | with_reducible exact keptM_pure
      | with_reducible exact keptM_throw
      | with_reducible apply keptM_set
      | with_reducible apply keptM_bind
      | with_reducible apply keptM_tryCatch
      | with_reducible intro _
      | split
      | with_reducible refine kept_snd ?_ (by assumption)
      | with_reducible refine kept_fst ?_ (by assumption)
  | cons _ _ ih =>
    unfold regStages
    try dsimp only
    repeat' first
      | with_reducible assumption
      | with_reducible apply regNode_kept
      | with_reducible exact keptM_pure
      | with_reducible exact keptM_throw
      | with_reducible apply keptM_set
      | with_reducible apply keptM_bind
      | with_reducible apply keptM_tryCatch
      | with_reducible intro _
      | split
      | with_reducible refine kept_snd ?_ (by assumption)
      | with_reducible refine kept_fst ?_ (by assumption)

theorem State.markReady_kept (x0) (hx0 : Kept q a x0) : Kept q a (State.markReady x0) := by
  unfold State.markReady
  try dsimp only
  repeat' first
    | with_reducible assumption
    | with_reducible apply State.addWait_kept
    | with_reducible apply kept_ite
    | with_reducible apply kept_ite_fst
    | with_reducible apply kept_ite_snd
    | with_reducible apply kept_foldl
    | fail_if_no_progress (with_reducible apply kept_lit)
    | with_reducible intro _
    | with_reducible refine kept_snd ?_ (by assumption)
    | with_reducible refine kept_fst ?_ (by assumption)

theorem State.putNode_kept (x0 x1 x2) (hx0 : Kept q a x0) : Kept q a (State.putNode x0 x1 x2) := by
  unfold State.putNode
  try dsimp only
  repeat' first
    | with_reducible assumption
    | with_reducible apply State.modNode_kept

theorem State.refuseNode_kept (x0 x1 x2 x3 x4) (hx0 : Kept q a x0) : Kept q a (State.refuseNode x0 x1 x2 x3 x4) := by
  unfold State.refuseNode
  try dsimp only
  repeat' first
    | with_reducible assumption
    | with_reducible apply State.modGraph_kept
    | with_reducible apply State.failNode_kept

theorem State.warmPage_kept (x0 x1 x2) (hx0 : Kept q a x0) : Kept q a (State.warmPage x0 x1 x2) := by
  unfold State.warmPage
  try dsimp only
  repeat' first
    | with_reducible assumption
    | with_reducible apply State.walkPaid_kept
    | with_reducible apply State.walked_kept
    | split

theorem State.warm_kept (x0 x1 x2) (hx0 : Kept q a x0) : Kept q a (State.warm x0 x1 x2) := by
  unfold State.warm
  try dsimp only
  repeat' first
    | with_reducible assumption
    | with_reducible apply State.warmPage_kept
    | with_reducible apply kept_foldl
    | with_reducible intro _

-- Machine/Graphs.lean

theorem State.nodeRec_kept (x0 x1 x2) (hx0 : Kept q a x0) : Kept q a (State.nodeRec x0 x1 x2) := by
  unfold State.nodeRec
  try dsimp only
  repeat' first
    | with_reducible assumption
    | with_reducible apply State.emit_kept
    | with_reducible apply State.event_kept
    | with_reducible intro _
    | split

theorem State.endGraph_kept (x0 x1) (hx0 : Kept q a x0) : Kept q a (State.endGraph x0 x1) := by
  unfold State.endGraph
  try dsimp only
  repeat' first
    | with_reducible assumption
    | with_reducible apply State.modCtx_kept
    | with_reducible apply State.dropGraph_kept
    | with_reducible apply State.finish_kept
    | split

theorem State.endEntryGraph_kept (x0 x1 x2) (hx0 : Kept q a x0) : Kept q a (State.endEntryGraph x0 x1 x2) := by
  unfold State.endEntryGraph
  try dsimp only
  repeat' first
    | with_reducible assumption
    | with_reducible apply State.modCtx_kept
    | with_reducible apply State.cvuDone_kept
    | with_reducible apply State.dropGraph_kept
    | with_reducible apply State.finish_kept
    | with_reducible intro _
    | split

theorem State.applyVs_kept (x0) (hx0 : Kept q a x0) : Kept q a (State.applyVs x0) := by
  unfold State.applyVs
  try dsimp only
  repeat' first
    | with_reducible assumption
    | with_reducible apply kept_ite
    | with_reducible apply kept_ite_fst
    | with_reducible apply kept_ite_snd
    | with_reducible apply kept_foldl
    | with_reducible refine kept_vsOwners ?_ (Sparse.wf_set (Kept.stores (by with_reducible assumption)).vsOwners)
    | with_reducible intro _
    | with_reducible refine kept_snd ?_ (by assumption)
    | with_reducible refine kept_fst ?_ (by assumption)

theorem State.retire_kept (x0 x1 x2) (hx0 : Kept q a x0) : Kept q a (State.retire x0 x1 x2) := by
  unfold State.retire
  try dsimp only
  repeat' first
    | with_reducible assumption
    | with_reducible apply State.modGraph_kept
    | with_reducible apply State.cvuDone_kept
    | with_reducible apply State.applyVs_kept
    | with_reducible apply State.nodeRec_kept
    | with_reducible apply kept_ite
    | with_reducible apply kept_ite_fst
    | with_reducible apply kept_ite_snd
    | with_reducible intro _
    | with_reducible refine kept_snd ?_ (by assumption)
    | with_reducible refine kept_fst ?_ (by assumption)

theorem State.graphDone_kept (x0 x1) (hx0 : Kept q a x0) : Kept q a (State.graphDone x0 x1) := by
  unfold State.graphDone
  try dsimp only
  repeat' first
    | with_reducible assumption
    | with_reducible apply State.endGraph_kept
    | with_reducible intro _
    | split

theorem State.completeNode_kept (x0 x1 x2) (hx0 : Kept q a x0) : Kept q a (State.completeNode x0 x1 x2) := by
  unfold State.completeNode
  try dsimp only
  repeat' first
    | with_reducible assumption
    | with_reducible apply State.endEntryGraph_kept
    | with_reducible apply State.retire_kept
    | with_reducible apply State.markReady_kept
    | with_reducible apply State.graphDone_kept
    | with_reducible apply kept_foldl
    | with_reducible intro _
    | split

theorem State.takeNode_kept (x0 x1 x2) (hx0 : Kept q a x0) : Kept q a (State.takeNode x0 x1 x2) := by
  unfold State.takeNode
  try dsimp only
  repeat' first
    | with_reducible assumption
    | with_reducible apply State.modCtx_kept
    | with_reducible apply State.modGraph_kept
    | with_reducible apply State.refuseNode_kept
    | with_reducible intro _
    | split

theorem State.fetchNodes_kept (x0 x1) (hx0 : Kept q a x0) : Kept q a (State.fetchNodes x0 x1) := by
  unfold State.fetchNodes
  try dsimp only
  repeat' first
    | with_reducible assumption
    | with_reducible apply structRead_kept
    | with_reducible apply State.takeNode_kept
    | with_reducible apply State.stopWaiters_kept
    | with_reducible apply State.modGraph_kept
    | with_reducible apply kept_foldl
    | with_reducible apply kept_on
    | with_reducible intro _
    | split
    | with_reducible refine kept_snd ?_ (by assumption)

theorem State.regFail_kept (x0 x1 x2 x3 x4) (hx0 : Kept q a x0) (hx1 : Kept q a x1) : Kept q a (State.regFail x0 x1 x2 x3 x4) := by
  unfold State.regFail
  try dsimp only
  repeat' first
    | with_reducible assumption
    | with_reducible apply State.refuseNode_kept
    | split

theorem State.register_kept (x0 x1) (hx0 : Kept q a x0) : Kept q a (State.register x0 x1) := by
  unfold State.register
  try dsimp only
  repeat' first
    | with_reducible assumption
    | with_reducible apply regStages_kept
    | with_reducible apply State.putNode_kept
    | with_reducible apply State.markReady_kept
    | with_reducible apply State.warm_kept
    | with_reducible apply State.regFail_kept
    | with_reducible apply regPlain_kept
    | with_reducible apply kept_foldl
    | with_reducible apply kept_on
    | with_reducible intro _
    | split
    | with_reducible refine kept_snd ?_ (by assumption)

theorem State.registerTimed_kept (x0 x1 x2) (hx0 : Kept q a x0) : Kept q a (State.registerTimed x0 x1 x2) := by
  unfold State.registerTimed
  try dsimp only
  repeat' first
    | with_reducible assumption
    | with_reducible apply State.failNode_kept
    | with_reducible apply State.markReady_kept
    | with_reducible apply State.countSlice_kept
    | with_reducible apply State.modNode_kept
    | with_reducible apply State.setEph_kept
    | with_reducible intro _
    | split

theorem State.passGrant_kept (x0) (hx0 : Kept q a x0) : Kept q a (State.passGrant x0) := by
  unfold State.passGrant
  try dsimp only
  repeat' first
    | with_reducible assumption
    | fail_if_no_progress (with_reducible apply kept_lit)
    | with_reducible intro _
    | split

theorem State.grantXclk_kept (x0 x1) (hx0 : Kept q a x0) : Kept q a (State.grantXclk x0 x1) := by
  unfold State.grantXclk
  try dsimp only
  repeat' first
    | with_reducible assumption
    | with_reducible apply State.drawBool_kept
    | with_reducible apply State.passGrant_kept
    | with_reducible apply kept_ite
    | with_reducible apply kept_ite_fst
    | with_reducible apply kept_ite_snd
    | fail_if_no_progress (with_reducible apply kept_lit)
    | with_reducible intro _
    | with_reducible refine kept_snd ?_ (by assumption)
    | with_reducible refine kept_fst ?_ (by assumption)

theorem State.noteGrant_kept (x0 x1 x2) (hx0 : Kept q a x0) : Kept q a (State.noteGrant x0 x1 x2) := by
  unfold State.noteGrant
  try dsimp only
  repeat' first
    | with_reducible assumption
    | fail_if_no_progress (with_reducible apply kept_lit)

theorem State.moveIdle_kept (x0 x1 x2 x3) (hx0 : Kept q a x0) : Kept q a (State.moveIdle x0 x1 x2 x3) := by
  unfold State.moveIdle
  try dsimp only
  repeat' first
    | with_reducible assumption
    | with_reducible apply State.modChan_kept
    | split

theorem State.openSlice_kept (x0 x1 x2) (hx0 : Kept q a x0) : Kept q a (State.openSlice x0 x1 x2) := by
  unfold State.openSlice
  try dsimp only
  repeat' first
    | with_reducible assumption
    | with_reducible apply State.moveIdle_kept
    | with_reducible apply State.acquires_kept
    | with_reducible apply State.modNode_kept
    | with_reducible intro _
    | split

theorem State.grant_kept (x0 x1) (hx0 : Kept q a x0) : Kept q a (State.grant x0 x1) := by
  unfold State.grant
  try dsimp only
  repeat' first
    | with_reducible assumption
    | with_reducible apply State.grantXclk_kept
    | with_reducible apply State.openSlice_kept
    | with_reducible apply State.noteGrant_kept
    | with_reducible apply kept_foldl
    | with_reducible intro _
    | split

theorem State.chainStep_kept (x0 x1 x2) (hx0 : Kept q a x0) : Kept q a (State.chainStep x0 x1 x2) := by
  unfold State.chainStep
  try dsimp only
  repeat' first
    | with_reducible assumption
    | with_reducible apply State.modNode_kept
    | with_reducible apply kept_foldl
    | with_reducible intro _
    | split

theorem State.unbind_kept (x0 x1) (hx0 : Kept q a x0) : Kept q a (State.unbind x0 x1) := by
  unfold State.unbind
  try dsimp only
  repeat' first
    | with_reducible assumption
    | with_reducible apply State.chTo_kept
    | with_reducible apply State.modChan_kept
    | split

theorem State.closeSlice_kept (x0 x1 x2 x3) (hx0 : Kept q a x0) : Kept q a (State.closeSlice x0 x1 x2 x3) := by
  unfold State.closeSlice
  try dsimp only
  repeat' first
    | with_reducible assumption
    | with_reducible apply State.unbind_kept
    | with_reducible apply State.countSlice_kept
    | with_reducible apply State.modNode_kept
    | with_reducible apply State.intervalEnd_kept
    | with_reducible apply State.applyVs_kept
    | with_reducible intro _
    | split

theorem State.stopStage_kept (x0 x1 x2) (hx0 : Kept q a x0) : Kept q a (State.stopStage x0 x1 x2) := by
  unfold State.stopStage
  try dsimp only
  repeat' first
    | with_reducible assumption
    | with_reducible apply State.unbind_kept
    | with_reducible apply State.modNode_kept
    | with_reducible intro _
    | split

theorem State.closeChain_kept (x0 x1 x2) (hx0 : Kept q a x0) : Kept q a (State.closeChain x0 x1 x2) := by
  unfold State.closeChain
  try dsimp only
  repeat' first
    | with_reducible assumption
    | with_reducible apply State.modNode_kept
    | with_reducible apply State.closeSlice_kept
    | with_reducible apply State.stopStage_kept
    | with_reducible apply kept_foldl
    | with_reducible intro _
    | split

theorem State.endSlices_kept (x0 x1 x2) (hx0 : Kept q a x0) : Kept q a (State.endSlices x0 x1 x2) := by
  unfold State.endSlices
  try dsimp only
  repeat' first
    | with_reducible assumption
    | with_reducible apply State.closeChain_kept
    | with_reducible apply State.closeSlice_kept
    | with_reducible intro _
    | split

theorem State.sliceTime_kept (x0 x1 x2) (hx0 : Kept q a x0) : Kept q a (State.sliceTime x0 x1 x2) := by
  unfold State.sliceTime
  try dsimp only
  repeat' first
    | with_reducible assumption
    | with_reducible apply State.advanceTo_kept
    | with_reducible apply State.modNode_kept
    | with_reducible intro _
    | split

theorem State.dropNode_kept (x0 x1 x2) (hx0 : Kept q a x0) : Kept q a (State.dropNode x0 x1 x2) := by
  unfold State.dropNode
  try dsimp only
  repeat' first
    | with_reducible assumption
    | with_reducible apply State.modGraph_kept
    | with_reducible apply State.setEph_kept
    | with_reducible apply State.modChan_kept
    | with_reducible apply State.discard_kept
    | with_reducible apply State.applyVs_kept
    | with_reducible apply State.applyOwner_kept
    | with_reducible apply kept_ite
    | with_reducible apply kept_ite_fst
    | with_reducible apply kept_ite_snd
    | with_reducible apply kept_foldl
    | fail_if_no_progress (with_reducible apply kept_lit)
    | with_reducible intro _
    | with_reducible refine kept_snd ?_ (by assumption)
    | with_reducible refine kept_fst ?_ (by assumption)

theorem State.abandon_kept (x0 x1) (hx0 : Kept q a x0) : Kept q a (State.abandon x0 x1) := by
  unfold State.abandon
  try dsimp only
  repeat' first
    | with_reducible assumption
    | with_reducible apply State.failedIntervals_kept
    | with_reducible apply State.dropNode_kept
    | with_reducible apply State.endEntryGraph_kept
    | with_reducible apply State.nodeRec_kept
    | with_reducible apply State.endGraph_kept
    | with_reducible apply kept_foldl
    | with_reducible intro _
    | split

end Sys2Proof.Machine
end

