-- ==== Sys2Proof/Laws/Kept5.lean ====
section
/-! SUPPORT. Every operation keeps what `Kept` says (the queue, the time, the canonical stores, the fault outputs):
entries, links and the digest. -/

namespace Sys2Proof.Machine

variable {q : List Instr} {a : Nat}

-- Machine/Entries.lean

theorem State.take_kept (x0 x1 x2 x3) (hx0 : Kept q a x0) (hx3 : ∀ y0, Kept q a (x3 y0)) : Kept q a (State.take x0 x1 x2 x3) := by
  unfold State.take
  try dsimp only
  repeat' first
    | with_reducible assumption
    | apply hx3
    | with_reducible intro _
    | split

theorem State.entryErr_kept (x0 x1 x2 x3 x4) (hx0 : Kept q a x0) (hx1 : Kept q a x1) : Kept q a (State.entryErr x0 x1 x2 x3 x4) := by
  unfold State.entryErr
  try dsimp only
  repeat' first
    | with_reducible assumption
    | with_reducible apply State.finish_kept
    | split

theorem State.submitGraph_kept (x0 x1) (hx0 : Kept q a x0) : Kept q a (State.submitGraph x0 x1) := by
  unfold State.submitGraph
  try dsimp only
  repeat' first
    | with_reducible assumption
    | with_reducible apply State.take_kept
    | with_reducible apply State.start_kept
    | fail_if_no_progress (with_reducible apply kept_lit)
    | with_reducible intro _

theorem State.oneNode_kept (x0 x1 x2 x3) (hx0 : Kept q a x0) : Kept q a (State.oneNode x0 x1 x2 x3) := by
  unfold State.oneNode
  try dsimp only
  repeat' first
    | with_reducible assumption
    | with_reducible apply State.start_kept
    | fail_if_no_progress (with_reducible apply kept_lit)

theorem State.runProgram_kept (x0 x1) (hx0 : Kept q a x0) : Kept q a (State.runProgram x0 x1) := by
  unfold State.runProgram
  try dsimp only
  repeat' first
    | with_reducible assumption
    | with_reducible apply State.take_kept
    | with_reducible apply progScan_kept
    | with_reducible apply State.entryErr_kept
    | with_reducible apply State.finish_kept
    | with_reducible apply State.oneNode_kept
    | with_reducible apply kept_on
    | with_reducible intro _
    | split
    | with_reducible refine kept_snd ?_ (by assumption)

theorem State.scanEntry_kept (x0 x1) (hx0 : Kept q a x0) : Kept q a (State.scanEntry x0 x1) := by
  unfold State.scanEntry
  try dsimp only
  repeat' first
    | with_reducible assumption
    | with_reducible apply State.take_kept
    | with_reducible apply State.finish_kept
    | with_reducible apply State.oneNode_kept
    | with_reducible intro _
    | split

theorem State.takeDesc_kept (x0 x1 x2 x3) (hx0 : Kept q a x0) (hx3 : ∀ y0, Kept q a (x3 y0)) : Kept q a (State.takeDesc x0 x1 x2 x3) := by
  unfold State.takeDesc
  try dsimp only
  repeat' first
    | with_reducible assumption
    | apply hx3
    | with_reducible intro _
    | split

theorem State.putDesc_kept (x0 x1 x2 x3 x4) (hx0 : Kept q a x0) : Kept q a (State.putDesc x0 x1 x2 x3 x4) := by
  unfold State.putDesc
  try dsimp only
  repeat' first
    | with_reducible assumption
    | with_reducible apply State.physWrite_kept
    | fail_if_no_progress (with_reducible apply kept_lit)

theorem State.createTensor_kept (x0 x1) (hx0 : Kept q a x0) : Kept q a (State.createTensor x0 x1) := by
  unfold State.createTensor
  try dsimp only
  repeat' first
    | with_reducible assumption
    | with_reducible apply State.takeDesc_kept
    | with_reducible apply structRead_kept
    | with_reducible apply State.entryErr_kept
    | with_reducible apply State.finish_kept
    | with_reducible apply State.sat_kept
    | with_reducible apply State.dueEntry_kept
    | with_reducible apply State.putDesc_kept
    | with_reducible apply kept_on
    | with_reducible intro _
    | split
    | with_reducible refine kept_snd ?_ (by assumption)

theorem State.destroyTensor_kept (x0 x1) (hx0 : Kept q a x0) : Kept q a (State.destroyTensor x0 x1) := by
  unfold State.destroyTensor
  try dsimp only
  repeat' first
    | with_reducible assumption
    | with_reducible apply State.takeDesc_kept
    | with_reducible apply State.modCtx_kept
    | with_reducible apply State.start_kept
    | with_reducible apply State.finish_kept
    | with_reducible apply kept_ite
    | with_reducible apply kept_ite_fst
    | with_reducible apply kept_ite_snd
    | with_reducible intro _
    | with_reducible refine kept_snd ?_ (by assumption)
    | with_reducible refine kept_fst ?_ (by assumption)

theorem State.handleFree_kept (x0 x1 x2) (hx0 : Kept q a x0) : Kept q a (State.handleFree x0 x1 x2) := by
  unfold State.handleFree
  try dsimp only
  repeat' first
    | with_reducible assumption
    | with_reducible apply State.modCtx_kept
    | with_reducible apply State.finish_kept
    | with_reducible intro _
    | split

theorem State.signalEntry_kept (x0 x1) (hx0 : Kept q a x0) : Kept q a (State.signalEntry x0 x1) := by
  unfold State.signalEntry
  try dsimp only
  repeat' first
    | with_reducible assumption
    | with_reducible apply State.take_kept
    | with_reducible apply State.finish_kept
    | with_reducible apply State.addCounter_kept
    | with_reducible apply State.setCounter_kept
    | with_reducible apply kept_ite
    | with_reducible apply kept_ite_fst
    | with_reducible apply kept_ite_snd
    | with_reducible intro _
    | with_reducible refine kept_snd ?_ (by assumption)
    | with_reducible refine kept_fst ?_ (by assumption)

theorem State.waitEntry_kept (x0 x1) (hx0 : Kept q a x0) : Kept q a (State.waitEntry x0 x1) := by
  unfold State.waitEntry
  try dsimp only
  repeat' first
    | with_reducible assumption
    | with_reducible apply State.take_kept
    | with_reducible apply State.ctrSettle_kept
    | with_reducible apply State.finish_kept
    | with_reducible apply State.start_kept
    | with_reducible apply kept_ite
    | with_reducible apply kept_ite_fst
    | with_reducible apply kept_ite_snd
    | fail_if_no_progress (with_reducible apply kept_lit)
    | with_reducible intro _
    | with_reducible refine kept_snd ?_ (by assumption)
    | with_reducible refine kept_fst ?_ (by assumption)

theorem State.endWait_kept (x0 x1 x2) (hx0 : Kept q a x0) : Kept q a (State.endWait x0 x1 x2) := by
  unfold State.endWait
  try dsimp only
  repeat' first
    | with_reducible assumption
    | with_reducible apply State.finish_kept
    | with_reducible apply State.countSlice_kept
    | with_reducible apply State.modNode_kept
    | with_reducible apply State.failNode_kept
    | with_reducible apply State.goSlot_kept
    | with_reducible apply State.acquires_kept
    | with_reducible apply State.endProg_kept
    | with_reducible intro _
    | split

theorem State.waitGoes_kept (x0 x1) (hx0 : Kept q a x0) : Kept q a (State.waitGoes x0 x1) := by
  unfold State.waitGoes
  try dsimp only
  repeat' first
    | with_reducible assumption
    | with_reducible apply State.ctrSettle_kept
    | with_reducible apply State.endWait_kept
    | fail_if_no_progress (with_reducible apply kept_lit)
    | with_reducible intro _
    | split

theorem State.waitEnds_kept (x0 x1) (hx0 : Kept q a x0) : Kept q a (State.waitEnds x0 x1) := by
  unfold State.waitEnds
  try dsimp only
  repeat' first
    | with_reducible assumption
    | with_reducible apply State.ctrSettle_kept
    | with_reducible apply State.advanceTo_kept
    | with_reducible apply State.endWait_kept
    | fail_if_no_progress (with_reducible apply kept_lit)
    | with_reducible intro _
    | split

theorem State.setFaults_kept (x0 x1 x2) (hx0 : Kept q a x0) : Kept q a (State.setFaults x0 x1 x2) := by
  unfold State.setFaults
  try dsimp only
  repeat' first
    | with_reducible assumption
    | with_reducible apply State.setFld_kept
    | fail_if_no_progress (with_reducible apply kept_lit)

theorem State.resolveOne_kept (x0 x1 x2 x3) (hx0 : Kept q a x0) : Kept q a (State.resolveOne x0 x1 x2 x3) := by
  unfold State.resolveOne
  try dsimp only
  repeat' first
    | with_reducible assumption
    | with_reducible apply State.endProg_kept
    | with_reducible apply State.discard_kept
    | with_reducible apply State.chTo_kept
    | with_reducible apply State.failNode_kept
    | with_reducible apply State.modNode_kept
    | with_reducible intro _
    | split

theorem State.resolve_kept (x0 x1 x2) (hx0 : Kept q a x0) : Kept q a (State.resolve x0 x1 x2) := by
  unfold State.resolve
  try dsimp only
  repeat' first
    | with_reducible assumption
    | with_reducible apply State.setFaults_kept
    | with_reducible apply State.wcDrop_kept
    | with_reducible apply State.resolveOne_kept
    | with_reducible apply State.eachChan_kept
    | with_reducible apply kept_ite
    | with_reducible apply kept_ite_fst
    | with_reducible apply kept_ite_snd
    | with_reducible apply kept_foldl
    | fail_if_no_progress (with_reducible apply kept_lit)
    | with_reducible intro _
    | with_reducible refine kept_snd ?_ (by assumption)
    | with_reducible refine kept_fst ?_ (by assumption)

theorem State.resumeFault_kept (x0 x1) (hx0 : Kept q a x0) : Kept q a (State.resumeFault x0 x1) := by
  unfold State.resumeFault
  try dsimp only
  repeat' first
    | with_reducible assumption
    | with_reducible apply State.take_kept
    | with_reducible apply State.finish_kept
    | with_reducible apply State.resolve_kept
    | with_reducible intro _
    | split

theorem State.pfTimeout_kept (x0 x1 x2) (hx0 : Kept q a x0) : Kept q a (State.pfTimeout x0 x1 x2) := by
  unfold State.pfTimeout
  try dsimp only
  repeat' first
    | with_reducible assumption
    | with_reducible apply State.advanceTo_kept
    | with_reducible apply State.raise_kept
    | with_reducible apply State.resolve_kept
    | with_reducible intro _
    | split

theorem State.cutStaged_kept (x0 x1 x2 x3) (hx0 : Kept q a x0) : Kept q a (State.cutStaged x0 x1 x2 x3) := by
  unfold State.cutStaged
  try dsimp only
  repeat' first
    | with_reducible assumption
    | with_reducible apply State.modChan_kept
    | with_reducible apply State.wrap_kept
    | with_reducible apply kept_ite
    | with_reducible apply kept_ite_fst
    | with_reducible apply kept_ite_snd
    | with_reducible intro _
    | with_reducible refine kept_snd ?_ (by assumption)
    | with_reducible refine kept_fst ?_ (by assumption)

theorem State.invalidate_kept (x0 x1) (hx0 : Kept q a x0) : Kept q a (State.invalidate x0 x1) := by
  unfold State.invalidate
  try dsimp only
  repeat' first
    | with_reducible assumption
    | with_reducible apply State.take_kept
    | with_reducible apply State.wcDrop_kept
    | with_reducible apply State.start_kept
    | with_reducible apply State.cutStaged_kept
    | with_reducible apply State.eachChan_kept
    | with_reducible apply kept_foldl
    | fail_if_no_progress (with_reducible apply kept_lit)
    | with_reducible intro _

theorem State.invalidateDone_kept (x0 x1) (hx0 : Kept q a x0) : Kept q a (State.invalidateDone x0 x1) := by
  unfold State.invalidateDone
  try dsimp only
  repeat' first
    | with_reducible assumption
    | with_reducible apply State.finish_kept
    | with_reducible intro _
    | split

theorem State.setEpoch_kept (x0 x1) (hx0 : Kept q a x0) : Kept q a (State.setEpoch x0 x1) := by
  unfold State.setEpoch
  try dsimp only
  repeat' first
    | with_reducible assumption
    | with_reducible apply State.take_kept
    | with_reducible apply State.start_kept
    | with_reducible intro _

theorem State.setEpochDone_kept (x0 x1) (hx0 : Kept q a x0) : Kept q a (State.setEpochDone x0 x1) := by
  unfold State.setEpochDone
  try dsimp only
  repeat' first
    | with_reducible assumption
    | with_reducible apply State.finish_kept
    | with_reducible apply State.modCtx_kept
    | with_reducible intro _
    | split

theorem State.registerMailbox_kept (x0 x1) (hx0 : Kept q a x0) : Kept q a (State.registerMailbox x0 x1) := by
  unfold State.registerMailbox
  try dsimp only
  repeat' first
    | with_reducible assumption
    | with_reducible apply State.take_kept
    | with_reducible apply structRead_kept
    | with_reducible apply State.entryErr_kept
    | with_reducible apply State.finish_kept
    | with_reducible apply State.modCtx_kept
    | with_reducible apply State.setRelay_kept
    | exact rfl
    | with_reducible apply kept_on
    | with_reducible intro _
    | split
    | with_reducible refine kept_snd ?_ (by assumption)

theorem State.unstall_kept (x0 x1) (hx0 : Kept q a x0) : Kept q a (State.unstall x0 x1) := by
  unfold State.unstall
  try dsimp only
  repeat' first
    | with_reducible assumption
    | with_reducible apply State.chTo_kept
    | with_reducible apply State.modNode_kept
    | with_reducible intro _
    | split

theorem State.workFails_kept (x0 x1 x2 x3) (hx0 : Kept q a x0) : Kept q a (State.workFails x0 x1 x2 x3) := by
  unfold State.workFails
  try dsimp only
  repeat' first
    | with_reducible assumption
    | with_reducible apply State.endProg_kept
    | with_reducible apply State.failNode_kept
    | split

theorem State.faulted_kept (x0 x1) (hx0 : Kept q a x0) : Kept q a (State.faulted x0 x1) := by
  unfold State.faulted
  try dsimp only
  repeat' first
    | with_reducible assumption
    | with_reducible apply State.chTo_kept
    | split

theorem State.xlatFail_kept (x0 x1 x2 x3 x4 x5) (hx0 : Kept q a x0) (hx1 : Kept q a x1) : Kept q a (State.xlatFail x0 x1 x2 x3 x4 x5) := by
  unfold State.xlatFail
  try dsimp only
  repeat' first
    | with_reducible assumption
    | with_reducible apply State.sat_kept
    | with_reducible apply State.request_kept
    | with_reducible apply State.workFails_kept
    | with_reducible apply State.faulted_kept
    | with_reducible apply State.setFaults_kept
    | with_reducible apply kept_ite
    | with_reducible apply kept_ite_fst
    | with_reducible apply kept_ite_snd
    | fail_if_no_progress (with_reducible apply kept_lit)
    | with_reducible intro _
    | with_reducible refine kept_snd ?_ (by assumption)
    | with_reducible refine kept_fst ?_ (by assumption)

theorem State.walkDone_kept (x0 x1 x2) (hx0 : Kept q a x0) : Kept q a (State.walkDone x0 x1 x2) := by
  unfold State.walkDone
  try dsimp only
  repeat' first
    | with_reducible assumption
    | with_reducible apply State.walkPaid_kept
    | with_reducible apply State.unstall_kept
    | with_reducible apply State.walked_kept
    | with_reducible apply State.xlatFail_kept
    | with_reducible apply State.drawBelow_kept
    | with_reducible apply State.workFails_kept
    | with_reducible apply State.raise_kept
    | fail_if_no_progress (with_reducible apply kept_lit)
    | with_reducible intro _
    | split

theorem execFetchTurn_kept (x0) (hx0 : Kept q a x0) : KeptO q a (execFetchTurn x0) := by
  unfold execFetchTurn
  try dsimp only
  repeat' first
    | with_reducible assumption
    | with_reducible apply State.fetchTurn_kept
    | with_reducible apply kept_ite
    | with_reducible apply kept_ite_fst
    | with_reducible apply kept_ite_snd
    | with_reducible apply keptO_next
    | with_reducible exact keptO_fault
    | with_reducible intro _
    | with_reducible refine kept_snd ?_ (by assumption)
    | with_reducible refine kept_fst ?_ (by assumption)

theorem execEntryAdmit_kept (x0 x1 x2) (hx2 : Kept q a x2) : KeptO q a (execEntryAdmit x0 x1 x2) := by
  unfold execEntryAdmit
  try dsimp only
  repeat' first
    | with_reducible assumption
    | with_reducible apply State.admitEntry_kept
    | with_reducible apply keptO_next
    | with_reducible intro _
    | split

theorem execSubmitGraph_kept (x0 x1) (hx1 : Kept q a x1) : KeptO q a (execSubmitGraph x0 x1) := by
  unfold execSubmitGraph
  try dsimp only
  repeat' first
    | with_reducible assumption
    | with_reducible apply State.submitGraph_kept
    | with_reducible apply keptO_next

theorem execRunProgram_kept (x0 x1) (hx1 : Kept q a x1) : KeptO q a (execRunProgram x0 x1) := by
  unfold execRunProgram
  try dsimp only
  repeat' first
    | with_reducible assumption
    | with_reducible apply State.runProgram_kept
    | with_reducible apply keptO_next

theorem execCreateTensor_kept (x0 x1) (hx1 : Kept q a x1) : KeptO q a (execCreateTensor x0 x1) := by
  unfold execCreateTensor
  try dsimp only
  repeat' first
    | with_reducible assumption
    | with_reducible apply State.createTensor_kept
    | with_reducible apply keptO_next

theorem execDestroyTensor_kept (x0 x1) (hx1 : Kept q a x1) : KeptO q a (execDestroyTensor x0 x1) := by
  unfold execDestroyTensor
  try dsimp only
  repeat' first
    | with_reducible assumption
    | with_reducible apply State.destroyTensor_kept
    | with_reducible apply keptO_next

theorem execHandleFree_kept (x0 x1 x2) (hx2 : Kept q a x2) : KeptO q a (execHandleFree x0 x1 x2) := by
  unfold execHandleFree
  try dsimp only
  repeat' first
    | with_reducible assumption
    | with_reducible apply State.handleFree_kept
    | with_reducible apply keptO_next

theorem execSignal_kept (x0 x1) (hx1 : Kept q a x1) : KeptO q a (execSignal x0 x1) := by
  unfold execSignal
  try dsimp only
  repeat' first
    | with_reducible assumption
    | with_reducible apply State.signalEntry_kept
    | with_reducible apply keptO_next

theorem execWait_kept (x0 x1) (hx1 : Kept q a x1) : KeptO q a (execWait x0 x1) := by
  unfold execWait
  try dsimp only
  repeat' first
    | with_reducible assumption
    | with_reducible apply State.waitEntry_kept
    | with_reducible apply keptO_next

theorem execWaitSatisfied_kept (x0 x1) (hx1 : Kept q a x1) : KeptO q a (execWaitSatisfied x0 x1) := by
  unfold execWaitSatisfied
  try dsimp only
  repeat' first
    | with_reducible assumption
    | with_reducible apply State.waitGoes_kept
    | with_reducible apply keptO_next

theorem execWaitTimeout_kept (x0 x1) (hx1 : Kept q a x1) : KeptO q a (execWaitTimeout x0 x1) := by
  unfold execWaitTimeout
  try dsimp only
  repeat' first
    | with_reducible assumption
    | with_reducible apply State.waitEnds_kept
    | with_reducible apply keptO_next

theorem execScanCheck_kept (x0 x1) (hx1 : Kept q a x1) : KeptO q a (execScanCheck x0 x1) := by
  unfold execScanCheck
  try dsimp only
  repeat' first
    | with_reducible assumption
    | with_reducible apply State.scanEntry_kept
    | with_reducible apply keptO_next

theorem execResumeFault_kept (x0 x1) (hx1 : Kept q a x1) : KeptO q a (execResumeFault x0 x1) := by
  unfold execResumeFault
  try dsimp only
  repeat' first
    | with_reducible assumption
    | with_reducible apply State.resumeFault_kept
    | with_reducible apply keptO_next

theorem execInvalidateXlat_kept (x0 x1) (hx1 : Kept q a x1) : KeptO q a (execInvalidateXlat x0 x1) := by
  unfold execInvalidateXlat
  try dsimp only
  repeat' first
    | with_reducible assumption
    | with_reducible apply State.invalidate_kept
    | with_reducible apply keptO_next

theorem execInvalidateXlatDone_kept (x0 x1) (hx1 : Kept q a x1) : KeptO q a (execInvalidateXlatDone x0 x1) := by
  unfold execInvalidateXlatDone
  try dsimp only
  repeat' first
    | with_reducible assumption
    | with_reducible apply State.invalidateDone_kept
    | with_reducible apply keptO_next

theorem execSetEpoch_kept (x0 x1) (hx1 : Kept q a x1) : KeptO q a (execSetEpoch x0 x1) := by
  unfold execSetEpoch
  try dsimp only
  repeat' first
    | with_reducible assumption
    | with_reducible apply State.setEpoch_kept
    | with_reducible apply keptO_next

theorem execSetEpochDone_kept (x0 x1) (hx1 : Kept q a x1) : KeptO q a (execSetEpochDone x0 x1) := by
  unfold execSetEpochDone
  try dsimp only
  repeat' first
    | with_reducible assumption
    | with_reducible apply State.setEpochDone_kept
    | with_reducible apply keptO_next

theorem execRegisterMailbox_kept (x0 x1) (hx1 : Kept q a x1) : KeptO q a (execRegisterMailbox x0 x1) := by
  unfold execRegisterMailbox
  try dsimp only
  repeat' first
    | with_reducible assumption
    | with_reducible apply State.registerMailbox_kept
    | with_reducible apply keptO_next

theorem execNop_kept (x0 x1) (hx1 : Kept q a x1) : KeptO q a (execNop x0 x1) := by
  unfold execNop
  try dsimp only
  repeat' first
    | with_reducible assumption
    | with_reducible apply State.take_kept
    | with_reducible apply State.finish_kept
    | with_reducible apply keptO_next
    | with_reducible intro _

theorem execWalkComplete_kept (x0 x1 x2) (hx2 : Kept q a x2) : KeptO q a (execWalkComplete x0 x1 x2) := by
  unfold execWalkComplete
  try dsimp only
  repeat' first
    | with_reducible assumption
    | with_reducible apply State.walkDone_kept
    | with_reducible apply keptO_next

theorem execPfTimeout_kept (x0 x1 x2) (hx2 : Kept q a x2) : KeptO q a (execPfTimeout x0 x1 x2) := by
  unfold execPfTimeout
  try dsimp only
  repeat' first
    | with_reducible assumption
    | with_reducible apply State.pfTimeout_kept
    | with_reducible apply keptO_next

-- Machine/Links.lean

theorem State.linkTo_kept (x0 x1 x2) (hx0 : Kept q a x0) : Kept q a (State.linkTo x0 x1 x2) := by
  unfold State.linkTo
  try dsimp only
  repeat' first
    | with_reducible assumption
    | with_reducible apply State.setFld_kept

theorem State.linkStart_kept (x0 x1) (hx0 : Kept q a x0) : Kept q a (State.linkStart x0 x1) := by
  unfold State.linkStart
  try dsimp only
  repeat' first
    | with_reducible assumption
    | with_reducible apply State.linkTo_kept
    | with_reducible apply State.modPort_kept

theorem State.linkFails_kept (x0 x1) (hx0 : Kept q a x0) : Kept q a (State.linkFails x0 x1) := by
  unfold State.linkFails
  try dsimp only
  repeat' first
    | with_reducible assumption
    | with_reducible apply State.raise_kept
    | with_reducible apply State.linkTo_kept
    | with_reducible apply State.modPort_kept
    | with_reducible apply State.linkStart_kept
    | with_reducible apply kept_ite
    | with_reducible apply kept_ite_fst
    | with_reducible apply kept_ite_snd
    | with_reducible intro _
    | with_reducible refine kept_snd ?_ (by assumption)
    | with_reducible refine kept_fst ?_ (by assumption)

theorem State.linkUp_kept (x0 x1) (hx0 : Kept q a x0) : Kept q a (State.linkUp x0 x1) := by
  unfold State.linkUp
  try dsimp only
  repeat' first
    | with_reducible assumption
    | with_reducible apply State.modPort_kept
    | with_reducible apply State.linkTo_kept
    | with_reducible apply State.raise_kept
    | with_reducible apply kept_ite
    | with_reducible apply kept_ite_fst
    | with_reducible apply kept_ite_snd
    | with_reducible apply kept_foldl
    | with_reducible intro _
    | with_reducible refine kept_snd ?_ (by assumption)
    | with_reducible refine kept_fst ?_ (by assumption)

theorem State.reroute_kept (x0 x1) (hx0 : Kept q a x0) : Kept q a (State.reroute x0 x1) := by
  unfold State.reroute
  try dsimp only
  repeat' first
    | with_reducible assumption
    | with_reducible apply State.modPort_kept
    | with_reducible apply kept_foldl
    | with_reducible apply State.routeOn_getD_kept
    | with_reducible intro _

theorem State.linkAgain_kept (x0 x1) (hx0 : Kept q a x0) : Kept q a (State.linkAgain x0 x1) := by
  unfold State.linkAgain
  try dsimp only
  repeat' first
    | with_reducible assumption
    | with_reducible apply State.lineClear_kept
    | with_reducible apply State.linkStart_kept
    | with_reducible apply State.modPort_kept
    | with_reducible apply State.reroute_kept
    | with_reducible apply kept_ite
    | with_reducible apply kept_ite_fst
    | with_reducible apply kept_ite_snd
    | with_reducible intro _
    | with_reducible refine kept_snd ?_ (by assumption)
    | with_reducible refine kept_fst ?_ (by assumption)

theorem State.linkDrop_kept (x0 x1) (hx0 : Kept q a x0) : Kept q a (State.linkDrop x0 x1) := by
  unfold State.linkDrop
  try dsimp only
  repeat' first
    | with_reducible assumption
    | with_reducible apply State.reroute_kept
    | with_reducible apply State.linkStart_kept
    | with_reducible apply State.modPort_kept
    | with_reducible apply kept_ite
    | with_reducible apply kept_ite_fst
    | with_reducible apply kept_ite_snd
    | with_reducible intro _
    | with_reducible refine kept_snd ?_ (by assumption)
    | with_reducible refine kept_fst ?_ (by assumption)

theorem State.linksStart_kept (x0) (hx0 : Kept q a x0) : Kept q a (State.linksStart x0) := by
  unfold State.linksStart
  try dsimp only
  repeat' first
    | with_reducible assumption
    | with_reducible apply State.linkAgain_kept
    | with_reducible apply kept_foldl

theorem State.modidAsk_kept (x0 x1) (hx0 : Kept q a x0) : Kept q a (State.modidAsk x0 x1) := by
  unfold State.modidAsk
  try dsimp only
  repeat' first
    | with_reducible assumption
    | with_reducible apply State.setRelay_kept
    | exact rfl

theorem State.setIdentity_kept (x0 x1 x2 x3 x4 x5 x6) (hx0 : Kept q a x0) : Kept q a (State.setIdentity x0 x1 x2 x3 x4 x5 x6) := by
  unfold State.setIdentity
  try dsimp only
  repeat' first
    | with_reducible assumption
    | with_reducible apply State.setRelay_kept
    | with_reducible apply State.linksStart_kept
    | with_reducible apply State.setFld_kept
    | exact rfl

theorem State.noIdentity_kept (x0) (hx0 : Kept q a x0) : Kept q a (State.noIdentity x0) := by
  unfold State.noIdentity
  try dsimp only
  repeat' first
    | with_reducible assumption
    | with_reducible apply State.setRelay_kept
    | with_reducible apply State.modPort_kept
    | with_reducible apply State.linkTo_kept
    | with_reducible apply State.setFld_kept
    | exact rfl
    | with_reducible apply kept_foldl
    | with_reducible intro _

theorem State.modidRead_kept (x0 x1) (hx0 : Kept q a x0) : Kept q a (State.modidRead x0 x1) := by
  unfold State.modidRead
  try dsimp only
  repeat' first
    | with_reducible assumption
    | with_reducible apply State.setRelay_kept
    | with_reducible apply State.setIdentity_kept
    | with_reducible apply State.noIdentity_kept
    | exact rfl
    | with_reducible intro _
    | split

theorem State.modidTimeout_kept (x0) (hx0 : Kept q a x0) : Kept q a (State.modidTimeout x0) := by
  unfold State.modidTimeout
  try dsimp only
  repeat' first
    | with_reducible assumption
    | with_reducible apply State.advanceTo_kept
    | with_reducible apply State.modidAsk_kept
    | with_reducible apply State.noIdentity_kept
    | with_reducible intro _
    | split

theorem State.restart_kept (x0) (hx0 : Kept q a x0) : Kept q a (State.restart x0) := by
  unfold State.restart
  try dsimp only
  repeat' first
    | with_reducible assumption
    | with_reducible apply State.setIdentity_kept
    | with_reducible apply State.modidAsk_kept
    | with_reducible apply kept_ite
    | with_reducible apply kept_ite_fst
    | with_reducible apply kept_ite_snd
    | with_reducible intro _
    | with_reducible refine kept_snd ?_ (by assumption)
    | with_reducible refine kept_fst ?_ (by assumption)

theorem State.linkIdent_kept (x0 x1 x2) (hx0 : Kept q a x0) : Kept q a (State.linkIdent x0 x1 x2) := by
  unfold State.linkIdent
  try dsimp only
  repeat' first
    | with_reducible assumption
    | with_reducible apply State.setFld_kept
    | with_reducible apply State.linkFails_kept
    | with_reducible apply State.linkTo_kept
    | with_reducible apply State.linkUp_kept
    | with_reducible apply kept_ite
    | with_reducible apply kept_ite_fst
    | with_reducible apply kept_ite_snd
    | with_reducible intro _
    | with_reducible refine kept_snd ?_ (by assumption)
    | with_reducible refine kept_fst ?_ (by assumption)

theorem State.modKey_kept (x0 x1 x2 x3) (hx0 : Kept q a x0) : Kept q a (State.modKey x0 x1 x2 x3) := by
  unfold State.modKey
  try dsimp only
  repeat' first
    | with_reducible assumption
    | with_reducible apply State.modPort_kept

theorem State.linkAuth_kept (x0 x1 x2 x3 x4) (hx0 : Kept q a x0) : Kept q a (State.linkAuth x0 x1 x2 x3 x4) := by
  unfold State.linkAuth
  try dsimp only
  repeat' first
    | with_reducible assumption
    | with_reducible apply State.linkUp_kept
    | with_reducible apply State.modKey_kept
    | with_reducible apply State.linkFails_kept
    | with_reducible apply State.sat_kept
    | with_reducible apply kept_ite
    | with_reducible apply kept_ite_fst
    | with_reducible apply kept_ite_snd
    | with_reducible intro _
    | with_reducible refine kept_snd ?_ (by assumption)
    | with_reducible refine kept_fst ?_ (by assumption)

theorem State.keyLoad_kept (x0 x1 x2) (hx0 : Kept q a x0) : Kept q a (State.keyLoad x0 x1 x2) := by
  unfold State.keyLoad
  try dsimp only
  repeat' first
    | with_reducible assumption
    | with_reducible apply State.sat_kept
    | with_reducible apply State.modKey_kept
    | with_reducible apply kept_ite
    | with_reducible apply kept_ite_fst
    | with_reducible apply kept_ite_snd
    | with_reducible intro _
    | with_reducible refine kept_snd ?_ (by assumption)
    | with_reducible refine kept_fst ?_ (by assumption)

theorem State.keyClear_kept (x0 x1 x2) (hx0 : Kept q a x0) : Kept q a (State.keyClear x0 x1 x2) := by
  unfold State.keyClear
  try dsimp only
  repeat' first
    | with_reducible assumption
    | with_reducible apply State.sat_kept
    | with_reducible apply State.modKey_kept
    | with_reducible apply kept_ite
    | with_reducible apply kept_ite_fst
    | with_reducible apply kept_ite_snd
    | with_reducible intro _
    | with_reducible refine kept_snd ?_ (by assumption)
    | with_reducible refine kept_fst ?_ (by assumption)

theorem State.keyLimit_kept (x0 x1) (hx0 : Kept q a x0) : Kept q a (State.keyLimit x0 x1) := by
  unfold State.keyLimit
  try dsimp only
  repeat' first
    | with_reducible assumption
    | with_reducible apply State.raise_kept
    | with_reducible apply State.modKey_kept
    | with_reducible apply kept_ite
    | with_reducible apply kept_ite_fst
    | with_reducible apply kept_ite_snd
    | with_reducible intro _
    | with_reducible refine kept_snd ?_ (by assumption)
    | with_reducible refine kept_fst ?_ (by assumption)

theorem State.onWire_kept (x0 x1 x2) (hx0 : Kept q a x0) : Kept q a (State.onWire x0 x1 x2) := by
  unfold State.onWire
  try dsimp only
  repeat' first
    | with_reducible assumption
    | with_reducible apply State.modPort_kept

theorem State.bufFreed_kept (x0 x1) (hx0 : Kept q a x0) : Kept q a (State.bufFreed x0 x1) := by
  unfold State.bufFreed
  try dsimp only
  repeat' first
    | with_reducible assumption
    | with_reducible apply State.modPort_kept
    | split

theorem State.frameLeaves_kept (x0 x1 x2 x3) (hx0 : Kept q a x0) : Kept q a (State.frameLeaves x0 x1 x2 x3) := by
  unfold State.frameLeaves
  try dsimp only
  repeat' first
    | with_reducible assumption
    | with_reducible apply State.modPort_kept
    | with_reducible apply State.bufFreed_kept
    | with_reducible apply State.onWire_kept
    | with_reducible apply State.modKey_kept
    | with_reducible apply kept_ite
    | with_reducible apply kept_ite_fst
    | with_reducible apply kept_ite_snd
    | with_reducible intro _
    | with_reducible refine kept_snd ?_ (by assumption)
    | with_reducible refine kept_fst ?_ (by assumption)

theorem State.slotSend_kept (x0 x1) (hx0 : Kept q a x0) : Kept q a (State.slotSend x0 x1) := by
  unfold State.slotSend
  try dsimp only
  repeat' first
    | with_reducible assumption
    | with_reducible apply State.modPort_kept
    | with_reducible apply State.onWire_kept
    | with_reducible apply State.drawBool_kept
    | with_reducible apply State.frameLeaves_kept
    | with_reducible intro _
    | split

theorem State.hopLimit_kept (x0 x1) (hx0 : Kept q a x0) : Kept q a (State.hopLimit x0 x1) := by
  unfold State.hopLimit
  try dsimp only
  repeat' first
    | with_reducible assumption
    | with_reducible apply State.inject_kept
    | with_reducible apply kept_ite
    | with_reducible apply kept_ite_fst
    | with_reducible apply kept_ite_snd
    | with_reducible intro _
    | with_reducible refine kept_snd ?_ (by assumption)
    | with_reducible refine kept_fst ?_ (by assumption)

theorem State.arrive_kept (x0 x1 x2) (hx0 : Kept q a x0) : Kept q a (State.arrive x0 x1 x2) := by
  unfold State.arrive
  try dsimp only
  repeat' first
    | with_reducible assumption
    | with_reducible apply State.sat_kept
    | with_reducible apply State.modPort_kept
    | with_reducible apply State.setFld_kept
    | with_reducible apply State.deliver_kept
    | with_reducible apply State.hopLimit_kept
    | with_reducible apply kept_ite
    | with_reducible refine State.routeOn_kept ?_ (by assumption)
    | with_reducible intro _
    | split

theorem State.maintain_kept (x0 x1 x2 x3 x4 x5 x6) (hx0 : Kept q a x0) : Kept q a (State.maintain x0 x1 x2 x3 x4 x5 x6) := by
  unfold State.maintain
  try dsimp only
  repeat' first
    | with_reducible assumption
    | with_reducible apply State.sat_kept
    | with_reducible apply State.modPort_kept
    | with_reducible apply State.setFld_kept
    | with_reducible apply kept_ite
    | with_reducible apply kept_ite_fst
    | with_reducible apply kept_ite_snd
    | with_reducible intro _
    | with_reducible refine kept_snd ?_ (by assumption)
    | with_reducible refine kept_fst ?_ (by assumption)

theorem execAonResetRelease_kept (x0) (hx0 : Kept q a x0) : KeptO q a (execAonResetRelease x0) := by
  unfold execAonResetRelease
  try dsimp only
  repeat' first
    | with_reducible assumption
    | with_reducible apply State.modidAsk_kept
    | with_reducible apply State.setPins_kept
    | exact rfl
    | with_reducible apply kept_ite
    | with_reducible apply kept_ite_fst
    | with_reducible apply kept_ite_snd
    | with_reducible apply keptO_next
    | with_reducible exact keptO_fault
    | with_reducible intro _
    | with_reducible refine kept_snd ?_ (by assumption)
    | with_reducible refine kept_fst ?_ (by assumption)

theorem execModidReadDone_kept (x0 x1) (hx1 : Kept q a x1) : KeptO q a (execModidReadDone x0 x1) := by
  unfold execModidReadDone
  try dsimp only
  repeat' first
    | with_reducible assumption
    | with_reducible apply State.modidRead_kept
    | with_reducible apply keptO_next

theorem execModidReadTimeout_kept (x0) (hx0 : Kept q a x0) : KeptO q a (execModidReadTimeout x0) := by
  unfold execModidReadTimeout
  try dsimp only
  repeat' first
    | with_reducible assumption
    | with_reducible apply State.modidTimeout_kept
    | with_reducible apply keptO_next

theorem execTrainAligned_kept (x0 x1) (hx1 : Kept q a x1) : KeptO q a (execTrainAligned x0 x1) := by
  unfold execTrainAligned
  try dsimp only
  repeat' first
    | with_reducible assumption
    | with_reducible apply State.onWire_kept
    | with_reducible apply State.linkTo_kept
    | with_reducible apply kept_ite
    | with_reducible apply kept_ite_fst
    | with_reducible apply kept_ite_snd
    | with_reducible apply keptO_next
    | with_reducible exact keptO_fault
    | with_reducible intro _
    | with_reducible refine kept_snd ?_ (by assumption)
    | with_reducible refine kept_fst ?_ (by assumption)

theorem execTrainTimeout_kept (x0 x1) (hx1 : Kept q a x1) : KeptO q a (execTrainTimeout x0 x1) := by
  unfold execTrainTimeout
  try dsimp only
  repeat' first
    | with_reducible assumption
    | with_reducible apply State.linkFails_kept
    | with_reducible apply State.advanceTo_kept
    | with_reducible apply kept_ite
    | with_reducible apply kept_ite_fst
    | with_reducible apply kept_ite_snd
    | with_reducible apply keptO_next
    | with_reducible exact keptO_fault
    | with_reducible intro _
    | with_reducible refine kept_snd ?_ (by assumption)
    | with_reducible refine kept_fst ?_ (by assumption)

theorem execFailedRetry_kept (x0 x1) (hx1 : Kept q a x1) : KeptO q a (execFailedRetry x0 x1) := by
  unfold execFailedRetry
  try dsimp only
  repeat' first
    | with_reducible assumption
    | with_reducible apply State.linkAgain_kept
    | with_reducible apply State.advanceTo_kept
    | with_reducible apply kept_ite
    | with_reducible apply kept_ite_fst
    | with_reducible apply kept_ite_snd
    | with_reducible apply keptO_next
    | with_reducible exact keptO_fault
    | with_reducible intro _
    | with_reducible refine kept_snd ?_ (by assumption)
    | with_reducible refine kept_fst ?_ (by assumption)

theorem execLinkIdentity_kept (x0 x1 x2) (hx2 : Kept q a x2) : KeptO q a (execLinkIdentity x0 x1 x2) := by
  unfold execLinkIdentity
  try dsimp only
  repeat' first
    | with_reducible assumption
    | with_reducible apply State.linkIdent_kept
    | with_reducible apply keptO_next

theorem execLinkAuth_kept (x0 x1 x2 x3 x4) (hx4 : Kept q a x4) : KeptO q a (execLinkAuth x0 x1 x2 x3 x4) := by
  unfold execLinkAuth
  try dsimp only
  repeat' first
    | with_reducible assumption
    | with_reducible apply State.linkAuth_kept
    | with_reducible apply keptO_next

theorem execLaneLockLoss_kept (x0 x1) (hx1 : Kept q a x1) : KeptO q a (execLaneLockLoss x0 x1) := by
  unfold execLaneLockLoss
  try dsimp only
  repeat' first
    | with_reducible assumption
    | with_reducible apply State.linkDrop_kept
    | with_reducible apply keptO_next

theorem execUncCodewordLimit_kept (x0 x1 x2) (hx2 : Kept q a x2) : KeptO q a (execUncCodewordLimit x0 x1 x2) := by
  unfold execUncCodewordLimit
  try dsimp only
  repeat' first
    | with_reducible assumption
    | with_reducible apply State.linkDrop_kept
    | with_reducible apply kept_ite
    | with_reducible apply kept_ite_fst
    | with_reducible apply kept_ite_snd
    | with_reducible apply keptO_next
    | with_reducible exact keptO_fault
    | with_reducible intro _
    | with_reducible refine kept_snd ?_ (by assumption)
    | with_reducible refine kept_fst ?_ (by assumption)

theorem execAuthFailLimit_kept (x0 x1 x2) (hx2 : Kept q a x2) : KeptO q a (execAuthFailLimit x0 x1 x2) := by
  unfold execAuthFailLimit
  try dsimp only
  repeat' first
    | with_reducible assumption
    | with_reducible apply State.linkDrop_kept
    | with_reducible apply kept_ite
    | with_reducible apply kept_ite_fst
    | with_reducible apply kept_ite_snd
    | with_reducible apply keptO_next
    | with_reducible exact keptO_fault
    | with_reducible intro _
    | with_reducible refine kept_snd ?_ (by assumption)
    | with_reducible refine kept_fst ?_ (by assumption)

theorem execMaintenanceTimeout_kept (x0 x1) (hx1 : Kept q a x1) : KeptO q a (execMaintenanceTimeout x0 x1) := by
  unfold execMaintenanceTimeout
  try dsimp only
  repeat' first
    | with_reducible assumption
    | with_reducible apply State.linkDrop_kept
    | with_reducible apply State.advanceTo_kept
    | with_reducible apply kept_ite
    | with_reducible apply kept_ite_fst
    | with_reducible apply kept_ite_snd
    | with_reducible apply keptO_next
    | with_reducible exact keptO_fault
    | with_reducible intro _
    | with_reducible refine kept_snd ?_ (by assumption)
    | with_reducible refine kept_fst ?_ (by assumption)

theorem execKeyCounterLimit_kept (x0 x1) (hx1 : Kept q a x1) : KeptO q a (execKeyCounterLimit x0 x1) := by
  unfold execKeyCounterLimit
  try dsimp only
  repeat' first
    | with_reducible assumption
    | with_reducible apply State.keyLimit_kept
    | with_reducible apply keptO_next

theorem execMaintenanceFrame_kept (x0 x1 x2 x3 x4 x5 x6) (hx6 : Kept q a x6) : KeptO q a (execMaintenanceFrame x0 x1 x2 x3 x4 x5 x6) := by
  unfold execMaintenanceFrame
  try dsimp only
  repeat' first
    | with_reducible assumption
    | with_reducible apply State.maintain_kept
    | with_reducible apply keptO_next

theorem execFrameSlotSend_kept (x0 x1) (hx1 : Kept q a x1) : KeptO q a (execFrameSlotSend x0 x1) := by
  unfold execFrameSlotSend
  try dsimp only
  repeat' first
    | with_reducible assumption
    | with_reducible apply State.slotSend_kept
    | with_reducible apply keptO_next

theorem execFrameForward_kept (x0 x1 x2) (hx2 : Kept q a x2) : KeptO q a (execFrameForward x0 x1 x2) := by
  unfold execFrameForward
  try dsimp only
  repeat' first
    | with_reducible assumption
    | with_reducible apply State.arrive_kept
    | with_reducible apply keptO_next

end Sys2Proof.Machine
end

