-- ==== Sys2Proof/Laws/Kept6.lean ====
section
/-! SUPPORT. Every operation keeps what `Kept` says (the queue, the time, the canonical stores, the fault outputs):
the manager and the nodes. -/

namespace Sys2Proof.Machine

variable {q : List Instr} {a : Nat}

-- Machine/Manager.lean

theorem State.refuseCmd_kept (x0 x1 x2) (hx0 : Kept q a x0) : Kept q a (State.refuseCmd x0 x1 x2) := by
  unfold State.refuseCmd
  try dsimp only
  repeat' first
    | with_reducible assumption
    | with_reducible apply State.finish_kept

theorem State.finishCmd_kept (x0 x1 x2 x3 x4) (hx0 : Kept q a x0) : Kept q a (State.finishCmd x0 x1 x2 x3 x4) := by
  unfold State.finishCmd
  try dsimp only
  repeat' first
    | with_reducible assumption
    | with_reducible apply State.finish_kept
    | split

theorem State.switchBank_kept (x0 x1) (hx0 : Kept q a x0) : Kept q a (State.switchBank x0 x1) := by
  unfold State.switchBank
  try dsimp only
  repeat' first
    | with_reducible assumption
    | with_reducible apply State.finishCmd_kept
    | with_reducible apply State.setFld_kept
    | fail_if_no_progress (with_reducible apply kept_lit)

theorem State.epochBoundary_kept (x0) (hx0 : Kept q a x0) : Kept q a (State.epochBoundary x0) := by
  unfold State.epochBoundary
  try dsimp only
  repeat' first
    | with_reducible assumption
    | with_reducible apply State.wrap_kept
    | with_reducible apply State.switchBank_kept
    | with_reducible apply kept_foldl
    | fail_if_no_progress (with_reducible apply kept_lit)

theorem State.rewind_kept (x0 x1) (hx0 : Kept q a x0) : Kept q a (State.rewind x0 x1) := by
  unfold State.rewind
  try dsimp only
  repeat' first
    | with_reducible assumption
    | with_reducible apply State.discard_kept
    | with_reducible apply State.forget_kept
    | with_reducible apply State.modTx_kept
    | with_reducible apply State.setRelay_kept
    | with_reducible apply State.modChan_kept
    | with_reducible apply State.chTo_kept
    | exact rfl
    | with_reducible apply kept_foldl
    | with_reducible intro _
    | split

theorem State.replayNode_kept (x0 x1 x2) (hx0 : Kept q a x0) : Kept q a (State.replayNode x0 x1 x2) := by
  unfold State.replayNode
  try dsimp only
  repeat' first
    | with_reducible assumption
    | with_reducible apply State.rewind_kept
    | with_reducible apply State.modNode_kept
    | with_reducible apply State.forget_kept
    | split

theorem State.replayChain_kept (x0 x1 x2) (hx0 : Kept q a x0) : Kept q a (State.replayChain x0 x1 x2) := by
  unfold State.replayChain
  try dsimp only
  repeat' first
    | with_reducible assumption
    | with_reducible apply State.replayNode_kept
    | with_reducible apply State.modNode_kept
    | with_reducible apply kept_ite
    | with_reducible apply kept_ite_fst
    | with_reducible apply kept_ite_snd
    | with_reducible apply kept_foldl
    | with_reducible intro _
    | with_reducible refine kept_snd ?_ (by assumption)
    | with_reducible refine kept_fst ?_ (by assumption)

theorem State.stopUnit_kept (x0 x1) (hx0 : Kept q a x0) : Kept q a (State.stopUnit x0 x1) := by
  unfold State.stopUnit
  try dsimp only
  repeat' first
    | with_reducible assumption
    | with_reducible apply State.replayChain_kept
    | with_reducible apply State.replayNode_kept
    | with_reducible apply kept_ite
    | with_reducible apply kept_ite_fst
    | with_reducible apply kept_ite_snd
    | with_reducible apply kept_foldl
    | with_reducible intro _
    | with_reducible refine kept_snd ?_ (by assumption)
    | with_reducible refine kept_fst ?_ (by assumption)

theorem State.eclipseBegin_kept (x0 x1 x2 x3) (hx0 : Kept q a x0) : Kept q a (State.eclipseBegin x0 x1 x2 x3) := by
  unfold State.eclipseBegin
  try dsimp only
  repeat' first
    | with_reducible assumption
    | with_reducible apply State.finishCmd_kept
    | with_reducible apply State.epochBoundary_kept
    | with_reducible apply State.modChan_kept
    | with_reducible apply State.setFld_kept
    | with_reducible apply State.stopUnit_kept
    | with_reducible apply State.drawBelow_kept
    | fail_if_no_progress (with_reducible apply kept_lit)
    | with_reducible intro _
    | split

theorem State.eclipseCmd_kept (x0) (hx0 : Kept q a x0) : Kept q a (State.eclipseCmd x0) := by
  unfold State.eclipseCmd
  try dsimp only
  repeat' first
    | with_reducible assumption
    | with_reducible apply State.take_kept
    | with_reducible apply State.eclipseBegin_kept
    | with_reducible apply State.start_kept
    | with_reducible apply State.refuseCmd_kept
    | with_reducible intro _
    | split

theorem State.eclChan_kept (x0 x1) (hx0 : Kept q a x0) : Kept q a (State.eclChan x0 x1) := by
  unfold State.eclChan
  try dsimp only
  repeat' first
    | with_reducible assumption
    | with_reducible apply State.chTo_kept
    | with_reducible apply State.setFld_kept

theorem State.applyEclipse_kept (x0 x1) (hx0 : Kept q a x0) : Kept q a (State.applyEclipse x0 x1) := by
  unfold State.applyEclipse
  try dsimp only
  repeat' first
    | with_reducible assumption
    | with_reducible apply State.modChan_kept
    | with_reducible apply State.eclChan_kept
    | with_reducible apply State.setFld_kept
    | with_reducible apply State.drawBelow_kept
    | with_reducible apply State.lineClear_kept
    | with_reducible apply State.reroute_kept
    | with_reducible apply State.linkTo_kept
    | with_reducible apply kept_foldl
    | with_reducible intro _
    | split

theorem State.eclipseDone_kept (x0 x1) (hx0 : Kept q a x0) : Kept q a (State.eclipseDone x0 x1) := by
  unfold State.eclipseDone
  try dsimp only
  repeat' first
    | with_reducible assumption
    | with_reducible apply State.epochBoundary_kept
    | with_reducible apply State.finishCmd_kept
    | with_reducible apply State.applyEclipse_kept
    | fail_if_no_progress (with_reducible apply kept_lit)
    | with_reducible intro _
    | split

theorem State.copyDone_kept (x0 x1) (hx0 : Kept q a x0) : Kept q a (State.copyDone x0 x1) := by
  unfold State.copyDone
  try dsimp only
  repeat' first
    | with_reducible assumption
    | fail_if_no_progress (with_reducible apply kept_lit)

theorem State.reenterCmd_kept (x0) (hx0 : Kept q a x0) : Kept q a (State.reenterCmd x0) := by
  unfold State.reenterCmd
  try dsimp only
  repeat' first
    | with_reducible assumption
    | with_reducible apply State.take_kept
    | with_reducible apply State.refuseCmd_kept
    | with_reducible apply State.start_kept
    | with_reducible apply kept_ite
    | with_reducible apply kept_ite_fst
    | with_reducible apply kept_ite_snd
    | fail_if_no_progress (with_reducible apply kept_lit)
    | with_reducible intro _
    | with_reducible refine kept_snd ?_ (by assumption)
    | with_reducible refine kept_fst ?_ (by assumption)

theorem State.admitChan_kept (x0 x1) (hx0 : Kept q a x0) : Kept q a (State.admitChan x0 x1) := by
  unfold State.admitChan
  try dsimp only
  repeat' first
    | with_reducible assumption
    | with_reducible apply State.modChan_kept
    | with_reducible apply State.setFld_kept
    | with_reducible apply State.applyOwner_kept
    | with_reducible apply State.chTo_kept

theorem State.admitUnit_kept (x0 x1) (hx0 : Kept q a x0) : Kept q a (State.admitUnit x0 x1) := by
  unfold State.admitUnit
  try dsimp only
  repeat' first
    | with_reducible assumption
    | with_reducible apply State.setFld_kept
    | with_reducible apply State.admitChan_kept
    | with_reducible apply State.linkAgain_kept
    | with_reducible apply kept_ite
    | with_reducible apply kept_ite_fst
    | with_reducible apply kept_ite_snd
    | with_reducible apply kept_foldl
    | fail_if_no_progress (with_reducible apply kept_lit)
    | with_reducible intro _
    | with_reducible refine kept_snd ?_ (by assumption)
    | with_reducible refine kept_fst ?_ (by assumption)

theorem State.reenterDone_kept (x0 x1 x2) (hx0 : Kept q a x0) : Kept q a (State.reenterDone x0 x1 x2) := by
  unfold State.reenterDone
  try dsimp only
  repeat' first
    | with_reducible assumption
    | with_reducible apply State.finishCmd_kept
    | with_reducible apply State.admitUnit_kept
    | with_reducible apply State.epochBoundary_kept
    | fail_if_no_progress (with_reducible apply kept_lit)
    | with_reducible intro _
    | split

theorem State.clearChan_kept (x0 x1 x2) (hx0 : Kept q a x0) : Kept q a (State.clearChan x0 x1 x2) := by
  unfold State.clearChan
  try dsimp only
  repeat' first
    | with_reducible assumption
    | with_reducible apply State.modChan_kept
    | with_reducible apply State.discard_kept
    | with_reducible apply State.chIdle_kept
    | with_reducible apply State.forget_kept
    | with_reducible apply State.applyOwner_kept
    | with_reducible intro _
    | split

theorem State.clearBegin_kept (x0 x1 x2) (hx0 : Kept q a x0) : Kept q a (State.clearBegin x0 x1 x2) := by
  unfold State.clearBegin
  try dsimp only
  repeat' first
    | with_reducible apply State.setFld_kept
    | with_reducible apply State.issue_kept
    | with_reducible apply State.clearChan_kept
    | with_reducible apply State.setFaults_kept
    | with_reducible apply State.setRep_kept
    | with_reducible apply State.modCtx_kept
    | with_reducible apply State.applyVs_kept
    | with_reducible apply kept_foldl
    | fail_if_no_progress (with_reducible apply kept_lit)
    | with_reducible refine kept_phase (by with_reducible assumption) (by simp_all [State.collUp])
    | with_reducible intro _
    | with_reducible refine kept_snd ?_ (by assumption)
    | with_reducible refine kept_fst ?_ (by assumption)

theorem State.clearState_kept (x0 x1) (hx0 : Kept q a x0) : Kept q a (State.clearState x0 x1) := by
  unfold State.clearState
  dsimp only
  refine State.setRelay_kept (State.modCtx_kept _ _ _ ?_) rfl
  have h1 : Kept q a ((x0.setEph (x0.mer.eph.filter (·.tenant != x1))).setMer
      { (x0.setEph (x0.mer.eph.filter (·.tenant != x1))).mer with
        due := (x0.setEph (x0.mer.eph.filter (·.tenant != x1))).mer.due.filter (·.e.tenant != x1) }) :=
    State.setMer_kept (State.setEph_kept _ _ hx0) rfl
  have h2 := State.wcDrop_kept _ (x0.tlb.filter (·.t == x1)) h1
  exact kept_stores h2 { h2.stores with counters := Sparse.wf_filter _ h2.stores.counters } rfl (Nat.le_refl _) rfl rfl

theorem State.clearCmd_kept (x0) (hx0 : Kept q a x0) : Kept q a (State.clearCmd x0) := by
  unfold State.clearCmd
  try dsimp only
  repeat' first
    | with_reducible assumption
    | with_reducible apply State.take_kept
    | with_reducible apply State.clearBegin_kept
    | with_reducible apply State.start_kept
    | with_reducible apply kept_ite
    | with_reducible apply kept_ite_fst
    | with_reducible apply kept_ite_snd
    | with_reducible intro _
    | with_reducible refine kept_snd ?_ (by assumption)
    | with_reducible refine kept_fst ?_ (by assumption)

theorem State.partitionCleared_kept (x0) (hx0 : Kept q a x0) : Kept q a (State.partitionCleared x0) := by
  unfold State.partitionCleared
  try dsimp only
  repeat' first
    | with_reducible assumption
    | with_reducible apply State.tileClear_kept
    | with_reducible apply State.clearState_kept
    | fail_if_no_progress (with_reducible apply kept_lit)
    | with_reducible intro _
    | split

theorem State.clearDone_kept (x0 x1) (hx0 : Kept q a x0) : Kept q a (State.clearDone x0 x1) := by
  unfold State.clearDone
  try dsimp only
  repeat' first
    | with_reducible assumption
    | with_reducible apply State.finishCmd_kept
    | with_reducible apply State.modCtx_kept
    | with_reducible apply State.clearState_kept
    | with_reducible intro _
    | split

theorem State.powerCmd_kept (x0) (hx0 : Kept q a x0) : Kept q a (State.powerCmd x0) := by
  unfold State.powerCmd
  try dsimp only
  repeat' first
    | with_reducible assumption
    | with_reducible apply State.take_kept
    | with_reducible apply State.start_kept
    | with_reducible apply State.refuseCmd_kept
    | fail_if_no_progress (with_reducible apply kept_lit)
    | with_reducible intro _
    | split

theorem State.powerStep_kept (x0) (hx0 : Kept q a x0) : Kept q a (State.powerStep x0) := by
  unfold State.powerStep
  dsimp only
  split
  · split
    · exact hx0
    · rename_i st id _ _
      have h1 : Kept q a (if (x0.ctx 8).entries.any (·.id == id) then x0.finishCmd (some id) 1 else x0) := by
        split
        · exact State.finishCmd_kept _ _ _ _ _ hx0
        · exact hx0
      refine kept_ite (fun _ => h1) (fun _ => ?_)
      have h2 : ∀ (p : Phase) (t : State), Kept q a t → Kept q a ((({ t with powerTo := none, phase := p } : State).setFld F.pwrState st).drive) :=
        fun p t h => State.drive_kept0 (State.setFld_kept0 (show Kept0 q a { t with powerTo := none, phase := p } from h.weak))
      split
      · exact h2 _ _ h1
      · exact State.setPins_kept (h2 _ _ h1) rfl rfl rfl rfl rfl
  · exact hx0

theorem State.replicaCmd_kept (x0) (hx0 : Kept q a x0) : Kept q a (State.replicaCmd x0) := by
  unfold State.replicaCmd
  try dsimp only
  repeat' first
    | with_reducible assumption
    | with_reducible apply State.take_kept
    | with_reducible apply State.setReg_kept
    | with_reducible apply State.setFld_kept
    | with_reducible apply State.finish_kept
    | with_reducible apply State.setRep_kept
    | with_reducible apply State.refuseCmd_kept
    | with_reducible intro _
    | split

theorem State.enginesChanged_kept (x0 x1) (hx0 : Kept q a x0) (hx1 : Kept q a x1) : Kept q a (State.enginesChanged x0 x1) := by
  unfold State.enginesChanged
  try dsimp only
  repeat' first
    | with_reducible assumption
    | fail_if_no_progress (with_reducible apply kept_lit)

theorem State.splitCmd_kept (x0) (hx0 : Kept q a x0) : Kept q a (State.splitCmd x0) := by
  unfold State.splitCmd
  try dsimp only
  repeat' first
    | with_reducible assumption
    | with_reducible apply State.take_kept
    | with_reducible apply State.refuseCmd_kept
    | with_reducible apply State.setFld_kept
    | with_reducible apply State.finish_kept
    | with_reducible apply State.enginesChanged_kept
    | with_reducible apply State.epochBoundary_kept
    | with_reducible apply kept_ite
    | with_reducible apply kept_ite_fst
    | with_reducible apply kept_ite_snd
    | with_reducible apply kept_foldl
    | with_reducible intro _
    | with_reducible refine kept_snd ?_ (by assumption)
    | with_reducible refine kept_fst ?_ (by assumption)

theorem State.lockCmd_kept (x0) (hx0 : Kept q a x0) : Kept q a (State.lockCmd x0) := by
  unfold State.lockCmd
  try dsimp only
  repeat' first
    | with_reducible assumption
    | with_reducible apply State.take_kept
    | with_reducible apply State.refuseCmd_kept
    | with_reducible apply State.setReg_kept
    | with_reducible apply State.finish_kept
    | with_reducible apply State.physWrite_kept
    | with_reducible apply State.dueEntry_kept
    | with_reducible apply kept_ite
    | with_reducible apply kept_ite_fst
    | with_reducible apply kept_ite_snd
    | with_reducible apply kept_foldl
    | with_reducible intro _
    | with_reducible refine kept_snd ?_ (by assumption)
    | with_reducible refine kept_fst ?_ (by assumption)

theorem State.cqStall_kept (x0 x1) (hx0 : Kept q a x0) : Kept q a (State.cqStall x0 x1) := by
  unfold State.cqStall
  try dsimp only
  repeat' first
    | with_reducible assumption
    | with_reducible apply State.advanceTo_kept
    | with_reducible apply State.event_kept
    | with_reducible apply State.modCtx_kept
    | with_reducible intro _
    | split

theorem State.creditPeriod_kept (x0) (hx0 : Kept q a x0) : Kept q a (State.creditPeriod x0) := by
  unfold State.creditPeriod
  have h : ∀ (t : State) (k l c u v : Nat), Kept q a t → Kept q a (State.setCredit { t with owed := Sparse.set (fun _ => 0) t.owed k l } c u v) :=
    fun t k l c u v h => State.setCredit_kept _ _ _ _ (kept_owed h (Sparse.wf_set h.stores.owed))
  exact State.issue_kept _ (kept_foldl (fun t x h1 => kept_foldl (fun t y h1 => h _ _ _ _ _ _ h1) h1)
    (kept_foldl (fun t x h1 => h _ _ _ _ _ _ h1) hx0))

theorem State.wcFill_kept (x0 x1 x2) (hx0 : Kept q a x0) : Kept q a (State.wcFill x0 x1 x2) := by
  unfold State.wcFill
  try dsimp only
  repeat' first
    | with_reducible assumption
    | fail_if_no_progress (with_reducible apply kept_lit)
    | with_reducible intro _
    | split

theorem State.upset_kept (x0 x1) (hx0 : Kept q a x0) : Kept q a (State.upset x0 x1) := by
  unfold State.upset
  dsimp only
  refine kept_ite (fun _ => kept_ecc hx0 (Sparse.wf_set hx0.stores.ecc)) (fun _ => kept_ite (fun _ => kept_lit hx0)
    (fun _ => kept_ite (fun _ => ?_) (fun _ => kept_ite (fun _ => State.modChan_kept _ _ _ hx0) (fun _ => hx0))))
  split
  · exact kept_lit hx0
  · exact hx0

theorem State.scrub_kept (x0 x1) (hx0 : Kept q a x0) : Kept q a (State.scrub x0 x1) := by
  unfold State.scrub
  try dsimp only
  repeat' first
    | with_reducible assumption
    | with_reducible apply State.upset_kept
    | with_reducible apply State.raise_kept
    | with_reducible apply kept_ite
    | with_reducible apply kept_ite_fst
    | with_reducible apply kept_ite_snd
    | with_reducible apply kept_foldl
    | fail_if_no_progress (with_reducible apply kept_lit)
    | with_reducible refine kept_ecc ?_ (Sparse.wf_filter _ (Kept.stores (by with_reducible assumption)).ecc)
    | with_reducible intro _
    | with_reducible refine kept_snd ?_ (by assumption)
    | with_reducible refine kept_fst ?_ (by assumption)

theorem execEclipseUnit_kept (x0) (hx0 : Kept q a x0) : KeptO q a (execEclipseUnit x0) := by
  unfold execEclipseUnit
  try dsimp only
  repeat' first
    | with_reducible assumption
    | with_reducible apply State.eclipseCmd_kept
    | with_reducible apply keptO_next

theorem execEclipseDone_kept (x0 x1) (hx1 : Kept q a x1) : KeptO q a (execEclipseDone x0 x1) := by
  unfold execEclipseDone
  try dsimp only
  repeat' first
    | with_reducible assumption
    | with_reducible apply State.eclipseDone_kept
    | with_reducible apply keptO_next

theorem execReenterUnit_kept (x0) (hx0 : Kept q a x0) : KeptO q a (execReenterUnit x0) := by
  unfold execReenterUnit
  try dsimp only
  repeat' first
    | with_reducible assumption
    | with_reducible apply State.reenterCmd_kept
    | with_reducible apply keptO_next

theorem execReenterTestDone_kept (x0 x1 x2) (hx2 : Kept q a x2) : KeptO q a (execReenterTestDone x0 x1 x2) := by
  unfold execReenterTestDone
  try dsimp only
  repeat' first
    | with_reducible assumption
    | with_reducible apply State.reenterDone_kept
    | with_reducible apply keptO_next

theorem execClearTenant_kept (x0) (hx0 : Kept q a x0) : KeptO q a (execClearTenant x0) := by
  unfold execClearTenant
  try dsimp only
  repeat' first
    | with_reducible assumption
    | with_reducible apply State.clearCmd_kept
    | with_reducible apply keptO_next

theorem execClearTenantDone_kept (x0 x1) (hx1 : Kept q a x1) : KeptO q a (execClearTenantDone x0 x1) := by
  unfold execClearTenantDone
  try dsimp only
  repeat' first
    | with_reducible assumption
    | with_reducible apply State.clearDone_kept
    | with_reducible apply keptO_next

theorem execSetPower_kept (x0) (hx0 : Kept q a x0) : KeptO q a (execSetPower x0) := by
  unfold execSetPower
  try dsimp only
  repeat' first
    | with_reducible assumption
    | with_reducible apply State.powerCmd_kept
    | with_reducible apply keptO_next

theorem execSetPowerQuiesced_kept (x0) (hx0 : Kept q a x0) : KeptO q a (execSetPowerQuiesced x0) := by
  unfold execSetPowerQuiesced
  try dsimp only
  repeat' first
    | with_reducible assumption
    | with_reducible apply State.powerStep_kept
    | with_reducible apply keptO_next

theorem execReplicaConfig_kept (x0) (hx0 : Kept q a x0) : KeptO q a (execReplicaConfig x0) := by
  unfold execReplicaConfig
  try dsimp only
  repeat' first
    | with_reducible assumption
    | with_reducible apply State.replicaCmd_kept
    | with_reducible apply keptO_next

theorem execSetSplit_kept (x0) (hx0 : Kept q a x0) : KeptO q a (execSetSplit x0) := by
  unfold execSetSplit
  try dsimp only
  repeat' first
    | with_reducible assumption
    | with_reducible apply State.splitCmd_kept
    | with_reducible apply keptO_next

theorem execLockConfig_kept (x0) (hx0 : Kept q a x0) : KeptO q a (execLockConfig x0) := by
  unfold execLockConfig
  try dsimp only
  repeat' first
    | with_reducible assumption
    | with_reducible apply State.lockCmd_kept
    | with_reducible apply keptO_next

theorem execCqStallLimit_kept (x0 x1) (hx1 : Kept q a x1) : KeptO q a (execCqStallLimit x0 x1) := by
  unfold execCqStallLimit
  try dsimp only
  repeat' first
    | with_reducible assumption
    | with_reducible apply State.cqStall_kept
    | with_reducible apply keptO_next

theorem execCreditPeriod_kept (x0) (hx0 : Kept q a x0) : KeptO q a (execCreditPeriod x0) := by
  unfold execCreditPeriod
  try dsimp only
  repeat' first
    | with_reducible assumption
    | with_reducible apply State.creditPeriod_kept
    | with_reducible apply keptO_next

theorem execWcFillReturn_kept (x0 x1 x2) (hx2 : Kept q a x2) : KeptO q a (execWcFillReturn x0 x1 x2) := by
  unfold execWcFillReturn
  try dsimp only
  repeat' first
    | with_reducible assumption
    | with_reducible apply State.wcFill_kept
    | with_reducible apply keptO_next

theorem execScrubStep_kept (x0 x1) (hx1 : Kept q a x1) : KeptO q a (execScrubStep x0 x1) := by
  unfold execScrubStep
  try dsimp only
  repeat' first
    | with_reducible assumption
    | with_reducible apply State.scrub_kept
    | with_reducible apply keptO_next

theorem execPartitionClearDone_kept (x0) (hx0 : Kept q a x0) : KeptO q a (execPartitionClearDone x0) := by
  unfold execPartitionClearDone
  try dsimp only
  repeat' first
    | with_reducible assumption
    | with_reducible apply State.partitionCleared_kept
    | with_reducible apply keptO_next

theorem execSpareCopyDone_kept (x0 x1) (hx1 : Kept q a x1) : KeptO q a (execSpareCopyDone x0 x1) := by
  unfold execSpareCopyDone
  try dsimp only
  repeat' first
    | with_reducible assumption
    | with_reducible apply State.copyDone_kept
    | with_reducible apply keptO_next

-- Machine/Nodes.lean

theorem State.signalNode_kept (x0 x1 x2) (hx0 : Kept q a x0) : Kept q a (State.signalNode x0 x1 x2) := by
  unfold State.signalNode
  try dsimp only
  repeat' first
    | with_reducible assumption
    | with_reducible apply State.addCounter_kept
    | with_reducible apply State.setCounter_kept
    | with_reducible apply State.completeNode_kept
    | with_reducible apply State.countSlice_kept
    | with_reducible apply State.modNode_kept
    | split

theorem State.waitNode_kept (x0 x1 x2) (hx0 : Kept q a x0) : Kept q a (State.waitNode x0 x1 x2) := by
  unfold State.waitNode
  try dsimp only
  repeat' first
    | with_reducible assumption
    | with_reducible apply State.ctrSettle_kept
    | with_reducible apply State.countSlice_kept
    | with_reducible apply State.modNode_kept
    | fail_if_no_progress (with_reducible apply kept_lit)
    | with_reducible intro _
    | split

theorem State.nodeCompletes_kept (x0 x1 x2) (hx0 : Kept q a x0) : Kept q a (State.nodeCompletes x0 x1 x2) := by
  unfold State.nodeCompletes
  try dsimp only
  repeat' first
    | with_reducible assumption
    | with_reducible apply State.completeNode_kept
    | with_reducible intro _
    | split

theorem State.movet_kept (x0 x1) (hx0 : Kept q a x0) : Kept q a (State.movet x0 x1) := by
  unfold State.movet
  try dsimp only
  repeat' first
    | with_reducible assumption
    | with_reducible apply State.slotRun_kept
    | with_reducible apply State.runCh_kept
    | with_reducible apply movetRun_kept
    | with_reducible intro _

theorem State.copyRun_kept (x0 x1) (hx0 : Kept q a x0) : Kept q a (State.copyRun x0 x1) := by
  unfold State.copyRun
  try dsimp only
  repeat' first
    | with_reducible assumption
    | with_reducible apply State.bindProg_kept
    | with_reducible apply State.movet_kept
    | with_reducible apply kept_ite
    | with_reducible apply kept_ite_fst
    | with_reducible apply kept_ite_snd
    | with_reducible intro _
    | with_reducible refine kept_snd ?_ (by assumption)
    | with_reducible refine kept_fst ?_ (by assumption)

theorem State.moveRun_kept (x0 x1 x2) (hx0 : Kept q a x0) : Kept q a (State.moveRun x0 x1 x2) := by
  unfold State.moveRun
  try dsimp only
  repeat' first
    | with_reducible assumption
    | with_reducible apply State.slotRun_kept
    | with_reducible apply State.runCh_kept
    | with_reducible apply moveLines_kept
    | with_reducible intro _

theorem State.loopSlot_kept (x0 x1) (hx0 : Kept q a x0) : Kept q a (State.loopSlot x0 x1) := by
  unfold State.loopSlot
  try dsimp only
  repeat' first
    | with_reducible assumption
    | with_reducible apply State.slotRun_kept
    | with_reducible apply State.goSlot_kept
    | with_reducible apply State.modProg_kept
    | with_reducible intro _

theorem State.waitSlot_kept (x0 x1) (hx0 : Kept q a x0) : Kept q a (State.waitSlot x0 x1) := by
  unfold State.waitSlot
  try dsimp only
  repeat' first
    | with_reducible assumption
    | with_reducible apply State.slotRun_kept
    | with_reducible apply State.goSlot_kept
    | with_reducible apply State.acquires_kept
    | with_reducible apply State.addWait_kept
    | with_reducible apply State.chTo_kept
    | with_reducible apply kept_ite
    | with_reducible apply kept_ite_fst
    | with_reducible apply kept_ite_snd
    | with_reducible intro _
    | with_reducible refine kept_snd ?_ (by assumption)
    | with_reducible refine kept_fst ?_ (by assumption)

theorem State.signalSlot_kept (x0 x1) (hx0 : Kept q a x0) : Kept q a (State.signalSlot x0 x1) := by
  unfold State.signalSlot
  try dsimp only
  repeat' first
    | with_reducible assumption
    | with_reducible apply State.slotRun_kept
    | with_reducible apply State.acquires_kept
    | with_reducible apply State.chTo_kept
    | with_reducible apply State.goSlot_kept
    | with_reducible apply State.release_kept
    | with_reducible apply kept_ite
    | with_reducible apply kept_ite_fst
    | with_reducible apply kept_ite_snd
    | with_reducible intro _
    | with_reducible refine kept_snd ?_ (by assumption)
    | with_reducible refine kept_fst ?_ (by assumption)

theorem State.fenceSlot_kept (x0 x1) (hx0 : Kept q a x0) : Kept q a (State.fenceSlot x0 x1) := by
  unfold State.fenceSlot
  try dsimp only
  repeat' first
    | with_reducible assumption
    | with_reducible apply State.slotRun_kept
    | with_reducible apply State.goSlot_kept
    | with_reducible apply State.acquires_kept
    | with_reducible apply kept_ite
    | with_reducible apply kept_ite_fst
    | with_reducible apply kept_ite_snd
    | with_reducible intro _
    | with_reducible refine kept_snd ?_ (by assumption)
    | with_reducible refine kept_fst ?_ (by assumption)

theorem State.stampOp_kept (x0 x1) (hx0 : Kept q a x0) : Kept q a (State.stampOp x0 x1) := by
  unfold State.stampOp
  try dsimp only
  repeat' first
    | with_reducible assumption
    | with_reducible apply State.slotRun_kept
    | with_reducible apply State.runCh_kept
    | with_reducible apply atomically_kept
    | with_reducible apply stampSlot_kept
    | with_reducible intro _

theorem State.nopSlot_kept (x0 x1) (hx0 : Kept q a x0) : Kept q a (State.nopSlot x0 x1) := by
  unfold State.nopSlot
  try dsimp only
  repeat' first
    | with_reducible assumption
    | with_reducible apply State.slotRun_kept
    | with_reducible apply State.goSlot_kept
    | with_reducible intro _

theorem State.haltSlot_kept (x0 x1) (hx0 : Kept q a x0) : Kept q a (State.haltSlot x0 x1) := by
  unfold State.haltSlot
  try dsimp only
  repeat' first
    | with_reducible assumption
    | with_reducible apply State.slotRun_kept
    | with_reducible apply State.endProg_kept
    | with_reducible intro _

theorem State.runAhead_kept (x0 x1) (hx0 : Kept q a x0) : Kept q a (State.runAhead x0 x1) := by
  unfold State.runAhead
  try dsimp only
  repeat' first
    | with_reducible assumption
    | with_reducible apply State.prefetch_kept
    | with_reducible intro _
    | split

theorem State.bpTimeout_kept (x0 x1) (hx0 : Kept q a x0) : Kept q a (State.bpTimeout x0 x1) := by
  unfold State.bpTimeout
  try dsimp only
  repeat' first
    | with_reducible assumption
    | with_reducible apply State.park_kept
    | with_reducible apply State.advance_kept
    | with_reducible intro _
    | split

theorem State.portAhead_kept (x0 x1 x2) (hx0 : Kept q a x0) : Kept q a (State.portAhead x0 x1 x2) := by
  unfold State.portAhead
  try dsimp only
  repeat' first
    | with_reducible assumption
    | with_reducible apply State.warmPage_kept
    | with_reducible apply kept_foldl
    | with_reducible intro _

theorem State.contractRun_kept (x0 x1) (hx0 : Kept q a x0) : Kept q a (State.contractRun x0 x1) := by
  unfold State.contractRun
  try dsimp only
  repeat' first
    | with_reducible assumption
    | with_reducible apply State.runNode_kept
    | with_reducible apply State.portAhead_kept
    | with_reducible apply contrGroups_kept
    | split

theorem State.vectorRun_kept (x0 x1) (hx0 : Kept q a x0) : Kept q a (State.vectorRun x0 x1) := by
  unfold State.vectorRun
  try dsimp only
  repeat' first
    | with_reducible assumption
    | with_reducible apply State.runNode_kept
    | with_reducible apply State.portAhead_kept
    | with_reducible apply vecSlice_kept
    | split

theorem State.vectorOp_kept (x0 x1 x2) (hx0 : Kept q a x0) : Kept q a (State.vectorOp x0 x1 x2) := by
  unfold State.vectorOp
  try dsimp only
  repeat' first
    | with_reducible assumption
    | with_reducible apply State.runNode_kept
    | with_reducible apply vecStep_kept
    | with_reducible intro _
    | split

theorem State.checkRun_kept (x0 x1) (hx0 : Kept q a x0) : Kept q a (State.checkRun x0 x1) := by
  unfold State.checkRun
  try dsimp only
  repeat' first
    | with_reducible assumption
    | with_reducible apply State.runNode_kept
    | with_reducible apply checkSlice_kept
    | split

theorem execNodeFetch_kept (x0 x1) (hx1 : Kept q a x1) : KeptO q a (execNodeFetch x0 x1) := by
  unfold execNodeFetch
  try dsimp only
  repeat' first
    | with_reducible assumption
    | with_reducible apply State.fetchNodes_kept
    | with_reducible apply keptO_next

theorem execNodeRegister_kept (x0 x1) (hx1 : Kept q a x1) : KeptO q a (execNodeRegister x0 x1) := by
  unfold execNodeRegister
  try dsimp only
  repeat' first
    | with_reducible assumption
    | with_reducible apply State.register_kept
    | with_reducible apply keptO_next

theorem execNodeGrant_kept (x0 x1) (hx1 : Kept q a x1) : KeptO q a (execNodeGrant x0 x1) := by
  unfold execNodeGrant
  try dsimp only
  repeat' first
    | with_reducible assumption
    | with_reducible apply State.grant_kept
    | with_reducible apply keptO_next

theorem execTransit_kept (x0 x1) (hx1 : Kept q a x1) : KeptO q a (execTransit x0 x1) := by
  unfold execTransit
  try dsimp only
  repeat' first
    | with_reducible assumption
    | with_reducible apply State.bindProg_kept
    | with_reducible apply keptO_next

theorem execDescriptorCopy_kept (x0 x1) (hx1 : Kept q a x1) : KeptO q a (execDescriptorCopy x0 x1) := by
  unfold execDescriptorCopy
  try dsimp only
  repeat' first
    | with_reducible assumption
    | with_reducible apply State.copyRun_kept
    | with_reducible apply keptO_next

theorem execContract_kept (x0 x1) (hx1 : Kept q a x1) : KeptO q a (execContract x0 x1) := by
  unfold execContract
  try dsimp only
  repeat' first
    | with_reducible assumption
    | with_reducible apply State.contractRun_kept
    | with_reducible apply keptO_next

theorem execVector_kept (x0 x1) (hx1 : Kept q a x1) : KeptO q a (execVector x0 x1) := by
  unfold execVector
  try dsimp only
  repeat' first
    | with_reducible assumption
    | with_reducible apply State.vectorRun_kept
    | with_reducible apply keptO_next

theorem execSignalNode_kept (x0 x1 x2) (hx2 : Kept q a x2) : KeptO q a (execSignalNode x0 x1 x2) := by
  unfold execSignalNode
  try dsimp only
  repeat' first
    | with_reducible assumption
    | with_reducible apply State.signalNode_kept
    | with_reducible apply keptO_next

theorem execWaitNode_kept (x0 x1 x2) (hx2 : Kept q a x2) : KeptO q a (execWaitNode x0 x1 x2) := by
  unfold execWaitNode
  try dsimp only
  repeat' first
    | with_reducible assumption
    | with_reducible apply State.waitNode_kept
    | with_reducible apply keptO_next

theorem execTimedNode_kept (x0 x1 x2) (hx2 : Kept q a x2) : KeptO q a (execTimedNode x0 x1 x2) := by
  unfold execTimedNode
  try dsimp only
  repeat' first
    | with_reducible assumption
    | with_reducible apply State.registerTimed_kept
    | with_reducible apply keptO_next

theorem execCheck_kept (x0 x1) (hx1 : Kept q a x1) : KeptO q a (execCheck x0 x1) := by
  unfold execCheck
  try dsimp only
  repeat' first
    | with_reducible assumption
    | with_reducible apply State.checkRun_kept
    | with_reducible apply keptO_next

theorem execChain_kept (x0 x1 x2) (hx2 : Kept q a x2) : KeptO q a (execChain x0 x1 x2) := by
  unfold execChain
  try dsimp only
  repeat' first
    | with_reducible assumption
    | with_reducible apply State.chainStep_kept
    | with_reducible apply keptO_next

theorem execSliceEnd_kept (x0 x1 x2) (hx2 : Kept q a x2) : KeptO q a (execSliceEnd x0 x1 x2) := by
  unfold execSliceEnd
  try dsimp only
  repeat' first
    | with_reducible assumption
    | with_reducible apply State.endSlices_kept
    | with_reducible apply keptO_next

theorem execSliceTimeLimit_kept (x0 x1 x2) (hx2 : Kept q a x2) : KeptO q a (execSliceTimeLimit x0 x1 x2) := by
  unfold execSliceTimeLimit
  try dsimp only
  repeat' first
    | with_reducible assumption
    | with_reducible apply State.sliceTime_kept
    | with_reducible apply keptO_next

theorem execNodeComplete_kept (x0 x1 x2) (hx2 : Kept q a x2) : KeptO q a (execNodeComplete x0 x1 x2) := by
  unfold execNodeComplete
  try dsimp only
  repeat' first
    | with_reducible assumption
    | with_reducible apply State.nodeCompletes_kept
    | with_reducible apply keptO_next

theorem execGraphAbandon_kept (x0 x1) (hx1 : Kept q a x1) : KeptO q a (execGraphAbandon x0 x1) := by
  unfold execGraphAbandon
  try dsimp only
  repeat' first
    | with_reducible assumption
    | with_reducible apply State.abandon_kept
    | with_reducible apply keptO_next

theorem execMove_kept (x0 x1 x2) (hx2 : Kept q a x2) : KeptO q a (execMove x0 x1 x2) := by
  unfold execMove
  try dsimp only
  repeat' first
    | with_reducible assumption
    | with_reducible apply State.moveRun_kept
    | with_reducible apply keptO_next

theorem execMovet_kept (x0 x1) (hx1 : Kept q a x1) : KeptO q a (execMovet x0 x1) := by
  unfold execMovet
  try dsimp only
  repeat' first
    | with_reducible assumption
    | with_reducible apply State.movet_kept
    | with_reducible apply keptO_next

theorem execLoop_kept (x0 x1) (hx1 : Kept q a x1) : KeptO q a (execLoop x0 x1) := by
  unfold execLoop
  try dsimp only
  repeat' first
    | with_reducible assumption
    | with_reducible apply State.loopSlot_kept
    | with_reducible apply keptO_next

theorem execWaitSlot_kept (x0 x1) (hx1 : Kept q a x1) : KeptO q a (execWaitSlot x0 x1) := by
  unfold execWaitSlot
  try dsimp only
  repeat' first
    | with_reducible assumption
    | with_reducible apply State.waitSlot_kept
    | with_reducible apply keptO_next

theorem execSignalSlot_kept (x0 x1) (hx1 : Kept q a x1) : KeptO q a (execSignalSlot x0 x1) := by
  unfold execSignalSlot
  try dsimp only
  repeat' first
    | with_reducible assumption
    | with_reducible apply State.signalSlot_kept
    | with_reducible apply keptO_next

theorem execReleasePerform_kept (x0 x1) (hx1 : Kept q a x1) : KeptO q a (execReleasePerform x0 x1) := by
  unfold execReleasePerform
  try dsimp only
  repeat' first
    | with_reducible assumption
    | with_reducible apply State.releaseHead_kept
    | with_reducible apply keptO_next

theorem execFence_kept (x0 x1) (hx1 : Kept q a x1) : KeptO q a (execFence x0 x1) := by
  unfold execFence
  try dsimp only
  repeat' first
    | with_reducible assumption
    | with_reducible apply State.fenceSlot_kept
    | with_reducible apply keptO_next

theorem execStamp_kept (x0 x1) (hx1 : Kept q a x1) : KeptO q a (execStamp x0 x1) := by
  unfold execStamp
  try dsimp only
  repeat' first
    | with_reducible assumption
    | with_reducible apply State.stampOp_kept
    | with_reducible apply keptO_next

theorem execNopSlot_kept (x0 x1) (hx1 : Kept q a x1) : KeptO q a (execNopSlot x0 x1) := by
  unfold execNopSlot
  try dsimp only
  repeat' first
    | with_reducible assumption
    | with_reducible apply State.nopSlot_kept
    | with_reducible apply keptO_next

theorem execHalt_kept (x0 x1) (hx1 : Kept q a x1) : KeptO q a (execHalt x0 x1) := by
  unfold execHalt
  try dsimp only
  repeat' first
    | with_reducible assumption
    | with_reducible apply State.haltSlot_kept
    | with_reducible apply keptO_next

theorem execProgramComplete_kept (x0 x1) (hx1 : Kept q a x1) : KeptO q a (execProgramComplete x0 x1) := by
  unfold execProgramComplete
  try dsimp only
  repeat' first
    | with_reducible assumption
    | with_reducible apply State.progDone_kept
    | with_reducible apply keptO_next

theorem execRunaheadPrefetch_kept (x0 x1) (hx1 : Kept q a x1) : KeptO q a (execRunaheadPrefetch x0 x1) := by
  unfold execRunaheadPrefetch
  try dsimp only
  repeat' first
    | with_reducible assumption
    | with_reducible apply State.runAhead_kept
    | with_reducible apply keptO_next

theorem execBpTimeout_kept (x0 x1) (hx1 : Kept q a x1) : KeptO q a (execBpTimeout x0 x1) := by
  unfold execBpTimeout
  try dsimp only
  repeat' first
    | with_reducible assumption
    | with_reducible apply State.bpTimeout_kept
    | with_reducible apply keptO_next

theorem execAdd_kept (x0 x1) (hx1 : Kept q a x1) : KeptO q a (execAdd x0 x1) := by
  unfold execAdd
  try dsimp only
  repeat' first
    | with_reducible assumption
    | with_reducible apply State.vectorOp_kept
    | with_reducible apply keptO_next

theorem execSub_kept (x0 x1) (hx1 : Kept q a x1) : KeptO q a (execSub x0 x1) := by
  unfold execSub
  try dsimp only
  repeat' first
    | with_reducible assumption
    | with_reducible apply State.vectorOp_kept
    | with_reducible apply keptO_next

theorem execMul_kept (x0 x1) (hx1 : Kept q a x1) : KeptO q a (execMul x0 x1) := by
  unfold execMul
  try dsimp only
  repeat' first
    | with_reducible assumption
    | with_reducible apply State.vectorOp_kept
    | with_reducible apply keptO_next

theorem execFma_kept (x0 x1) (hx1 : Kept q a x1) : KeptO q a (execFma x0 x1) := by
  unfold execFma
  try dsimp only
  repeat' first
    | with_reducible assumption
    | with_reducible apply State.vectorOp_kept
    | with_reducible apply keptO_next

theorem execMin_kept (x0 x1) (hx1 : Kept q a x1) : KeptO q a (execMin x0 x1) := by
  unfold execMin
  try dsimp only
  repeat' first
    | with_reducible assumption
    | with_reducible apply State.vectorOp_kept
    | with_reducible apply keptO_next

theorem execMax_kept (x0 x1) (hx1 : Kept q a x1) : KeptO q a (execMax x0 x1) := by
  unfold execMax
  try dsimp only
  repeat' first
    | with_reducible assumption
    | with_reducible apply State.vectorOp_kept
    | with_reducible apply keptO_next

theorem execAbs_kept (x0 x1) (hx1 : Kept q a x1) : KeptO q a (execAbs x0 x1) := by
  unfold execAbs
  try dsimp only
  repeat' first
    | with_reducible assumption
    | with_reducible apply State.vectorOp_kept
    | with_reducible apply keptO_next

theorem execRshift_kept (x0 x1) (hx1 : Kept q a x1) : KeptO q a (execRshift x0 x1) := by
  unfold execRshift
  try dsimp only
  repeat' first
    | with_reducible assumption
    | with_reducible apply State.vectorOp_kept
    | with_reducible apply keptO_next

theorem execCvt_kept (x0 x1) (hx1 : Kept q a x1) : KeptO q a (execCvt x0 x1) := by
  unfold execCvt
  try dsimp only
  repeat' first
    | with_reducible assumption
    | with_reducible apply State.vectorOp_kept
    | with_reducible apply keptO_next

theorem execCmplt_kept (x0 x1) (hx1 : Kept q a x1) : KeptO q a (execCmplt x0 x1) := by
  unfold execCmplt
  try dsimp only
  repeat' first
    | with_reducible assumption
    | with_reducible apply State.vectorOp_kept
    | with_reducible apply keptO_next

theorem execCmpeq_kept (x0 x1) (hx1 : Kept q a x1) : KeptO q a (execCmpeq x0 x1) := by
  unfold execCmpeq
  try dsimp only
  repeat' first
    | with_reducible assumption
    | with_reducible apply State.vectorOp_kept
    | with_reducible apply keptO_next

theorem execSelect_kept (x0 x1) (hx1 : Kept q a x1) : KeptO q a (execSelect x0 x1) := by
  unfold execSelect
  try dsimp only
  repeat' first
    | with_reducible assumption
    | with_reducible apply State.vectorOp_kept
    | with_reducible apply keptO_next

theorem execExp_kept (x0 x1) (hx1 : Kept q a x1) : KeptO q a (execExp x0 x1) := by
  unfold execExp
  try dsimp only
  repeat' first
    | with_reducible assumption
    | with_reducible apply State.vectorOp_kept
    | with_reducible apply keptO_next

theorem execLog_kept (x0 x1) (hx1 : Kept q a x1) : KeptO q a (execLog x0 x1) := by
  unfold execLog
  try dsimp only
  repeat' first
    | with_reducible assumption
    | with_reducible apply State.vectorOp_kept
    | with_reducible apply keptO_next

theorem execRsqrt_kept (x0 x1) (hx1 : Kept q a x1) : KeptO q a (execRsqrt x0 x1) := by
  unfold execRsqrt
  try dsimp only
  repeat' first
    | with_reducible assumption
    | with_reducible apply State.vectorOp_kept
    | with_reducible apply keptO_next

theorem execRecip_kept (x0 x1) (hx1 : Kept q a x1) : KeptO q a (execRecip x0 x1) := by
  unfold execRecip
  try dsimp only
  repeat' first
    | with_reducible assumption
    | with_reducible apply State.vectorOp_kept
    | with_reducible apply keptO_next

theorem execRsum_kept (x0 x1) (hx1 : Kept q a x1) : KeptO q a (execRsum x0 x1) := by
  unfold execRsum
  try dsimp only
  repeat' first
    | with_reducible assumption
    | with_reducible apply State.vectorOp_kept
    | with_reducible apply keptO_next

theorem execRmax_kept (x0 x1) (hx1 : Kept q a x1) : KeptO q a (execRmax x0 x1) := by
  unfold execRmax
  try dsimp only
  repeat' first
    | with_reducible assumption
    | with_reducible apply State.vectorOp_kept
    | with_reducible apply keptO_next

theorem execRmin_kept (x0 x1) (hx1 : Kept q a x1) : KeptO q a (execRmin x0 x1) := by
  unfold execRmin
  try dsimp only
  repeat' first
    | with_reducible assumption
    | with_reducible apply State.vectorOp_kept
    | with_reducible apply keptO_next

theorem execSoftmax_kept (x0 x1) (hx1 : Kept q a x1) : KeptO q a (execSoftmax x0 x1) := by
  unfold execSoftmax
  try dsimp only
  repeat' first
    | with_reducible assumption
    | with_reducible apply State.vectorOp_kept
    | with_reducible apply keptO_next

theorem execLayernorm_kept (x0 x1) (hx1 : Kept q a x1) : KeptO q a (execLayernorm x0 x1) := by
  unfold execLayernorm
  try dsimp only
  repeat' first
    | with_reducible assumption
    | with_reducible apply State.vectorOp_kept
    | with_reducible apply keptO_next

theorem execGroupnorm_kept (x0 x1) (hx1 : Kept q a x1) : KeptO q a (execGroupnorm x0 x1) := by
  unfold execGroupnorm
  try dsimp only
  repeat' first
    | with_reducible assumption
    | with_reducible apply State.vectorOp_kept
    | with_reducible apply keptO_next

theorem execArgmax_kept (x0 x1) (hx1 : Kept q a x1) : KeptO q a (execArgmax x0 x1) := by
  unfold execArgmax
  try dsimp only
  repeat' first
    | with_reducible assumption
    | with_reducible apply State.vectorOp_kept
    | with_reducible apply keptO_next

theorem execTopk_kept (x0 x1) (hx1 : Kept q a x1) : KeptO q a (execTopk x0 x1) := by
  unfold execTopk
  try dsimp only
  repeat' first
    | with_reducible assumption
    | with_reducible apply State.vectorOp_kept
    | with_reducible apply keptO_next

theorem execScan_kept (x0 x1) (hx1 : Kept q a x1) : KeptO q a (execScan x0 x1) := by
  unfold execScan
  try dsimp only
  repeat' first
    | with_reducible assumption
    | with_reducible apply State.vectorOp_kept
    | with_reducible apply keptO_next

theorem execScanmax_kept (x0 x1) (hx1 : Kept q a x1) : KeptO q a (execScanmax x0 x1) := by
  unfold execScanmax
  try dsimp only
  repeat' first
    | with_reducible assumption
    | with_reducible apply State.vectorOp_kept
    | with_reducible apply keptO_next

theorem execAtomadd_kept (x0 x1) (hx1 : Kept q a x1) : KeptO q a (execAtomadd x0 x1) := by
  unfold execAtomadd
  try dsimp only
  repeat' first
    | with_reducible assumption
    | with_reducible apply State.vectorOp_kept
    | with_reducible apply keptO_next

theorem execXchg_kept (x0 x1) (hx1 : Kept q a x1) : KeptO q a (execXchg x0 x1) := by
  unfold execXchg
  try dsimp only
  repeat' first
    | with_reducible assumption
    | with_reducible apply State.vectorOp_kept
    | with_reducible apply keptO_next

end Sys2Proof.Machine
end

