-- ==== Sys2Proof/Laws/Kept7.lean ====
section
/-! SUPPORT. Every operation keeps what `Kept` says (the queue, the time, the canonical stores, the fault outputs):
the windows, resets and power. -/

namespace Sys2Proof.Machine

variable {q : List Instr} {a : Nat}

-- Machine/Window.lean

theorem State.enableWrite_kept (x0 x1 x2) (hx0 : Kept q a x0) : Kept q a (State.enableWrite x0 x1 x2) := by
  unfold State.enableWrite
  try dsimp only
  repeat' first
    | with_reducible apply State.setFld_kept
    | with_reducible apply State.modCtx_kept
    | with_reducible refine kept_phase (by with_reducible assumption) (by simp_all [State.collUp])
    | split
    | with_reducible refine kept_snd ?_ (by assumption)

theorem State.zeroRings_kept (x0 x1) (hx0 : Kept q a x0) : Kept q a (State.zeroRings x0 x1) := by
  unfold State.zeroRings
  try dsimp only
  repeat' first
    | with_reducible assumption
    | with_reducible apply State.setReg_kept
    | with_reducible apply kept_foldl
    | with_reducible intro _

theorem State.enableChecked_kept (x0 x1) (hx0 : Kept q a x0) : Kept q a (State.enableChecked x0 x1) := by
  unfold State.enableChecked
  try dsimp only
  repeat' first
    | with_reducible apply State.debit_kept
    | with_reducible apply State.modCtx_kept
    | with_reducible apply State.setFld_kept
    | with_reducible apply State.zeroRings_kept
    | with_reducible apply kept_foldl
    | with_reducible refine kept_phase (by with_reducible assumption) (by simp_all [State.collUp])
    | with_reducible intro _
    | split
    | with_reducible refine kept_snd ?_ (by assumption)
    | with_reducible refine kept_fst ?_ (by assumption)

theorem State.drainEnds_kept (x0 x1) (hx0 : Kept q a x0) : Kept q a (State.drainEnds x0 x1) := by
  unfold State.drainEnds
  try dsimp only
  repeat' first
    | with_reducible assumption
    | with_reducible apply State.setFld_kept
    | with_reducible apply State.modCtx_kept
    | with_reducible apply kept_ite
    | with_reducible apply kept_ite_fst
    | with_reducible apply kept_ite_snd
    | with_reducible refine kept_phase (by with_reducible assumption) (by simp_all [State.collUp])
    | with_reducible intro _
    | with_reducible refine kept_snd ?_ (by assumption)
    | with_reducible refine kept_fst ?_ (by assumption)

theorem State.timersShift_kept (x0) (hx0 : Kept q a x0) : Kept q a (State.timersShift x0) := by
  unfold State.timersShift
  try dsimp only
  repeat' first
    | with_reducible assumption
    | with_reducible apply State.setRelay_kept
    | exact rfl
    | fail_if_no_progress (with_reducible apply kept_lit)

theorem State.wakeUp_kept (x0) (hx0 : Kept q a x0) : Kept q a (State.wakeUp x0) := by
  unfold State.wakeUp
  try dsimp only
  repeat' first
    | with_reducible assumption
    | with_reducible apply State.timersShift_kept
    | with_reducible apply State.setFld_kept
    | with_reducible apply State.setRelay_kept
    | with_reducible apply State.sendMsgs_kept
    | with_reducible apply State.flushRecs_kept
    | with_reducible apply State.ephWaited_kept
    | with_reducible apply State.sat_kept
    | exact rfl
    | with_reducible apply kept_ite
    | with_reducible apply kept_ite_fst
    | with_reducible apply kept_ite_snd
    | with_reducible apply kept_foldl
    | with_reducible refine kept_phase (by with_reducible assumption) (by simp_all [State.collUp])
    | with_reducible intro _
    | with_reducible refine kept_snd ?_ (by assumption)
    | with_reducible refine kept_fst ?_ (by assumption)

theorem State.faultAcked_kept (x0 x1) (hx0 : Kept q a x0) : Kept q a (State.faultAcked x0 x1) := by
  unfold State.faultAcked
  try dsimp only
  repeat' first
    | with_reducible assumption
    | with_reducible apply State.ack_kept
    | with_reducible apply State.sat_kept
    | with_reducible apply kept_ite
    | with_reducible apply kept_ite_fst
    | with_reducible apply kept_ite_snd
    | with_reducible intro _
    | with_reducible refine kept_snd ?_ (by assumption)
    | with_reducible refine kept_fst ?_ (by assumption)

theorem State.vspAcked_kept (x0 x1) (hx0 : Kept q a x0) : Kept q a (State.vspAcked x0 x1) := by
  unfold State.vspAcked
  try dsimp only
  repeat' first
    | with_reducible assumption
    | with_reducible apply State.vspShow_kept
    | with_reducible apply State.ack_kept
    | with_reducible apply kept_ite
    | with_reducible apply kept_ite_fst
    | with_reducible apply kept_ite_snd
    | with_reducible apply kept_foldl
    | with_reducible intro _
    | with_reducible refine kept_snd ?_ (by assumption)
    | with_reducible refine kept_fst ?_ (by assumption)

theorem State.fqHeadWrite_kept (x0 x1) (hx0 : Kept q a x0) : Kept q a (State.fqHeadWrite x0 x1) := by
  unfold State.fqHeadWrite
  try dsimp only
  repeat' first
    | with_reducible assumption
    | with_reducible apply State.setFld_kept
    | with_reducible apply State.sat_kept
    | with_reducible apply kept_ite
    | with_reducible apply kept_ite_fst
    | with_reducible apply kept_ite_snd
    | with_reducible intro _
    | with_reducible refine kept_snd ?_ (by assumption)
    | with_reducible refine kept_fst ?_ (by assumption)

theorem State.peekWord_kept (x0) (hx0 : Kept q a x0) : Kept q a (State.peekWord x0) := by
  unfold State.peekWord
  try dsimp only
  repeat' first
    | with_reducible assumption
    | with_reducible apply State.setFld_kept
    | with_reducible apply State.setReg_kept
    | with_reducible apply kept_foldl
    | with_reducible intro _

theorem State.sharedOff_kept (x0) (hx0 : Kept q a x0) : Kept q a (State.sharedOff x0) := by
  unfold State.sharedOff
  try dsimp only
  repeat' first
    | with_reducible assumption
    | with_reducible apply kept_ite
    | with_reducible apply kept_ite_fst
    | with_reducible apply kept_ite_snd
    | fail_if_no_progress (with_reducible apply kept_lit)
    | with_reducible intro _
    | with_reducible refine kept_snd ?_ (by assumption)
    | with_reducible refine kept_fst ?_ (by assumption)

theorem State.ownerWrite_kept (x0 x1) (hx0 : Kept q a x0) : Kept q a (State.ownerWrite x0 x1) := by
  unfold State.ownerWrite
  try dsimp only
  repeat' first
    | with_reducible assumption
    | with_reducible apply State.applyOwner_kept
    | with_reducible apply kept_ite
    | with_reducible apply kept_ite_fst
    | with_reducible apply kept_ite_snd
    | with_reducible intro _
    | with_reducible refine kept_snd ?_ (by assumption)
    | with_reducible refine kept_fst ?_ (by assumption)

theorem State.keyWrite_kept (x0 x1 x2 x3 x4 x5) (hx0 : Kept q a x0) : Kept q a (State.keyWrite x0 x1 x2 x3 x4 x5) := by
  unfold State.keyWrite
  try dsimp only
  repeat' first
    | with_reducible assumption
    | with_reducible apply State.keyLoad_kept
    | with_reducible apply State.keyClear_kept
    | with_reducible apply State.modKey_kept
    | with_reducible intro _
    | split

theorem State.wrote_kept (x0 x1 x2 x3 x4) (hx0 : Kept q a x0) : Kept q a (State.wrote x0 x1 x2 x3 x4) := by
  unfold State.wrote
  try dsimp only
  repeat' first
    | with_reducible assumption
    | with_reducible apply State.enableWrite_kept
    | with_reducible apply State.sendMsgs_kept
    | with_reducible apply State.ownerWrite_kept
    | with_reducible apply State.applyVs_kept
    | with_reducible apply State.restart_kept
    | with_reducible apply State.linkAgain_kept
    | with_reducible apply State.keyWrite_kept
    | with_reducible apply State.mbStart_kept
    | with_reducible apply State.mbOff_kept
    | with_reducible apply State.ephCommand_kept
    | with_reducible apply State.drive_kept
    | with_reducible apply State.faultAcked_kept
    | with_reducible apply State.setColl_kept
    | with_reducible apply State.setReg_kept
    | with_reducible apply State.fqHeadWrite_kept
    | with_reducible apply State.vspAcked_kept
    | with_reducible apply State.wakeUp_kept
    | with_reducible apply State.peekWord_kept
    | exact rfl
    | with_reducible apply kept_ite
    | with_reducible intro _

theorem State.regWrite_kept (x0 x1 x2 x3) (hx0 : Kept q a x0) : Kept q a (State.regWrite x0 x1 x2 x3) := by
  unfold State.regWrite
  try dsimp only
  repeat' first
    | with_reducible assumption
    | with_reducible apply State.sat_kept
    | with_reducible apply State.sharedOff_kept
    | with_reducible apply State.setReg_kept
    | with_reducible apply State.wrote_kept
    | with_reducible apply kept_ite
    | with_reducible apply kept_ite_fst
    | with_reducible apply kept_ite_snd
    | with_reducible intro _
    | with_reducible refine kept_snd ?_ (by assumption)
    | with_reducible refine kept_fst ?_ (by assumption)

theorem State.hostWrite_kept (x0 x1 x2 x3) (hx0 : Kept q a x0) : Kept q a (State.hostWrite x0 x1 x2 x3) := by
  unfold State.hostWrite
  try dsimp only
  repeat' first
    | with_reducible assumption
    | with_reducible apply State.sat_kept
    | with_reducible apply State.regWrite_kept
    | with_reducible apply kept_ite
    | with_reducible apply kept_ite_fst
    | with_reducible apply kept_ite_snd
    | fail_if_no_progress (with_reducible apply kept_lit)
    | with_reducible intro _
    | with_reducible refine kept_snd ?_ (by assumption)
    | with_reducible refine kept_fst ?_ (by assumption)

theorem State.tailBell_kept (x0 x1 x2 x3) (hx0 : Kept q a x0) : Kept q a (State.tailBell x0 x1 x2 x3) := by
  unfold State.tailBell
  try dsimp only
  repeat' first
    | with_reducible assumption
    | with_reducible apply State.sat_kept
    | with_reducible apply State.setFld_kept
    | with_reducible apply kept_ite
    | with_reducible apply kept_ite_fst
    | with_reducible apply kept_ite_snd
    | with_reducible intro _
    | with_reducible refine kept_snd ?_ (by assumption)
    | with_reducible refine kept_fst ?_ (by assumption)

theorem State.headBell_kept (x0 x1 x2 x3) (hx0 : Kept q a x0) : Kept q a (State.headBell x0 x1 x2 x3) := by
  unfold State.headBell
  try dsimp only
  repeat' first
    | with_reducible assumption
    | with_reducible apply State.setFld_kept
    | with_reducible apply State.flushRecs_kept
    | with_reducible apply State.sat_kept
    | with_reducible apply kept_ite
    | with_reducible apply kept_ite_fst
    | with_reducible apply kept_ite_snd
    | with_reducible intro _
    | with_reducible refine kept_snd ?_ (by assumption)
    | with_reducible refine kept_fst ?_ (by assumption)

theorem State.doorbell_kept (x0 x1 x2 x3 x4) (hx0 : Kept q a x0) : Kept q a (State.doorbell x0 x1 x2 x3 x4) := by
  unfold State.doorbell
  try dsimp only
  repeat' first
    | with_reducible assumption
    | with_reducible apply State.tailBell_kept
    | with_reducible apply State.headBell_kept
    | with_reducible apply State.sat_kept
    | with_reducible apply kept_ite
    | with_reducible apply kept_ite_fst
    | with_reducible apply kept_ite_snd
    | fail_if_no_progress (with_reducible apply kept_lit)
    | with_reducible intro _
    | with_reducible refine kept_snd ?_ (by assumption)
    | with_reducible refine kept_fst ?_ (by assumption)

theorem State.readReg_kept (x0 x1) (hx0 : Kept q a x0) : Kept q a (State.readReg x0 x1).2 := by
  unfold State.readReg
  try dsimp only
  repeat' first
    | with_reducible assumption
    | with_reducible apply State.drawBelow_kept
    | with_reducible apply kept_ite_snd
    | with_reducible intro _
    | with_reducible refine kept_snd ?_ (by assumption)
    | with_reducible refine kept_fst ?_ (by assumption)

theorem State.hostRead_kept (x0 x1 x2) (hx0 : Kept q a x0) : Kept q a (State.hostRead x0 x1 x2).2 := by
  unfold State.hostRead
  try dsimp only
  repeat' first
    | with_reducible assumption
    | with_reducible apply State.sat_kept
    | with_reducible apply State.readReg_kept
    | with_reducible apply State.setColl_kept
    | exact rfl
    | with_reducible apply kept_ite
    | with_reducible apply kept_ite_fst
    | with_reducible apply kept_ite_snd
    | with_reducible intro _
    | with_reducible refine kept_snd ?_ (by assumption)
    | with_reducible refine kept_fst ?_ (by assumption)

theorem State.readAccess_kept (x0 x1 x2) (hx0 : Kept q a x0) : Kept q a (State.readAccess x0 x1 x2) := by
  unfold State.readAccess
  try dsimp only
  repeat' first
    | with_reducible assumption
    | with_reducible apply State.hostRead_kept
    | with_reducible apply kept_ite
    | with_reducible apply kept_ite_fst
    | with_reducible apply kept_ite_snd
    | fail_if_no_progress (with_reducible apply kept_lit)
    | with_reducible intro _
    | with_reducible refine kept_snd ?_ (by assumption)
    | with_reducible refine kept_fst ?_ (by assumption)

theorem State.heldAccess_kept (x0 x1) (hx0 : Kept q a x0) : Kept q a (State.heldAccess x0 x1) := by
  unfold State.heldAccess
  try dsimp only
  repeat' first
    | with_reducible assumption
    | with_reducible apply State.readAccess_kept
    | with_reducible apply State.doorbell_kept
    | with_reducible apply State.hostWrite_kept
    | with_reducible apply kept_ite
    | with_reducible apply kept_ite_fst
    | with_reducible apply kept_ite_snd
    | with_reducible intro _
    | with_reducible refine kept_snd ?_ (by assumption)
    | with_reducible refine kept_fst ?_ (by assumption)

theorem execRegisterWrite_kept (x0 x1 x2 x3 x4) (hx4 : Kept q a x4) : KeptO q a (execRegisterWrite x0 x1 x2 x3 x4) := by
  unfold execRegisterWrite
  try dsimp only
  repeat' first
    | with_reducible assumption
    | with_reducible apply State.hostWrite_kept
    | with_reducible apply State.hostStores_kept
    | with_reducible apply keptO_next

theorem execTailDoorbell_kept (x0 x1 x2 x3 x4 x5) (hx5 : Kept q a x5) : KeptO q a (execTailDoorbell x0 x1 x2 x3 x4 x5) := by
  unfold execTailDoorbell
  try dsimp only
  repeat' first
    | with_reducible assumption
    | with_reducible apply State.doorbell_kept
    | with_reducible apply State.hostStores_kept
    | with_reducible apply keptO_next

theorem execHeadDoorbell_kept (x0 x1 x2 x3 x4) (hx4 : Kept q a x4) : KeptO q a (execHeadDoorbell x0 x1 x2 x3 x4) := by
  unfold execHeadDoorbell
  try dsimp only
  repeat' first
    | with_reducible assumption
    | with_reducible apply State.doorbell_kept
    | with_reducible apply keptO_next

theorem execEnable_kept (x0 x1) (hx1 : Kept q a x1) : KeptO q a (execEnable x0 x1) := by
  unfold execEnable
  try dsimp only
  repeat' first
    | with_reducible assumption
    | with_reducible apply State.hostWrite_kept
    | with_reducible apply keptO_next

theorem execEnableCheckComplete_kept (x0 x1) (hx1 : Kept q a x1) : KeptO q a (execEnableCheckComplete x0 x1) := by
  unfold execEnableCheckComplete
  try dsimp only
  repeat' first
    | with_reducible assumption
    | with_reducible apply State.enableChecked_kept
    | with_reducible apply keptO_next

theorem execDisable_kept (x0 x1) (hx1 : Kept q a x1) : KeptO q a (execDisable x0 x1) := by
  unfold execDisable
  try dsimp only
  repeat' first
    | with_reducible assumption
    | with_reducible apply State.hostWrite_kept
    | with_reducible apply keptO_next

theorem execDrainEnd_kept (x0 x1) (hx1 : Kept q a x1) : KeptO q a (execDrainEnd x0 x1) := by
  unfold execDrainEnd
  try dsimp only
  repeat' first
    | with_reducible assumption
    | with_reducible apply State.drainEnds_kept
    | with_reducible apply keptO_next

theorem execMcEnable_kept (x0) (hx0 : Kept q a x0) : KeptO q a (execMcEnable x0) := by
  unfold execMcEnable
  try dsimp only
  repeat' first
    | with_reducible assumption
    | with_reducible apply State.hostWrite_kept
    | with_reducible apply keptO_next

theorem execOwnerWrite_kept (x0 x1 x2) (hx2 : Kept q a x2) : KeptO q a (execOwnerWrite x0 x1 x2) := by
  unfold execOwnerWrite
  try dsimp only
  repeat' first
    | with_reducible assumption
    | with_reducible apply State.hostWrite_kept
    | with_reducible apply keptO_next

theorem execVsOwnerWrite_kept (x0 x1 x2) (hx2 : Kept q a x2) : KeptO q a (execVsOwnerWrite x0 x1 x2) := by
  unfold execVsOwnerWrite
  try dsimp only
  repeat' first
    | with_reducible assumption
    | with_reducible apply State.hostWrite_kept
    | with_reducible apply keptO_next

theorem execFqBaseWrite_kept (x0 x1) (hx1 : Kept q a x1) : KeptO q a (execFqBaseWrite x0 x1) := by
  unfold execFqBaseWrite
  try dsimp only
  repeat' first
    | with_reducible assumption
    | with_reducible apply State.hostWrite_kept
    | with_reducible apply keptO_next

theorem execFqHeadWrite_kept (x0 x1) (hx1 : Kept q a x1) : KeptO q a (execFqHeadWrite x0 x1) := by
  unfold execFqHeadWrite
  try dsimp only
  repeat' first
    | with_reducible assumption
    | with_reducible apply State.hostWrite_kept
    | with_reducible apply keptO_next

theorem execFqStickyRead_kept (x0 x1 x2) (hx0 : Kept q a x0) : KeptO q a (execFqStickyRead x0 x1 x2) := by
  unfold execFqStickyRead
  try dsimp only
  repeat' first
    | with_reducible assumption
    | with_reducible apply State.readAccess_kept
    | with_reducible apply keptO_next

theorem execFaultAck_kept (x0 x1) (hx1 : Kept q a x1) : KeptO q a (execFaultAck x0 x1) := by
  unfold execFaultAck
  try dsimp only
  repeat' first
    | with_reducible assumption
    | with_reducible apply State.hostWrite_kept
    | with_reducible apply keptO_next

theorem execVesperPendClear_kept (x0 x1) (hx1 : Kept q a x1) : KeptO q a (execVesperPendClear x0 x1) := by
  unfold execVesperPendClear
  try dsimp only
  repeat' first
    | with_reducible assumption
    | with_reducible apply State.hostWrite_kept
    | with_reducible apply keptO_next

theorem execRestart_kept (x0) (hx0 : Kept q a x0) : KeptO q a (execRestart x0) := by
  unfold execRestart
  try dsimp only
  repeat' first
    | with_reducible assumption
    | with_reducible apply State.hostWrite_kept
    | with_reducible apply keptO_next

theorem execRetrain_kept (x0 x1) (hx1 : Kept q a x1) : KeptO q a (execRetrain x0 x1) := by
  unfold execRetrain
  try dsimp only
  repeat' first
    | with_reducible assumption
    | with_reducible apply State.hostWrite_kept
    | with_reducible apply keptO_next

theorem execKeyLoad_kept (x0 x1 x2) (hx2 : Kept q a x2) : KeptO q a (execKeyLoad x0 x1 x2) := by
  unfold execKeyLoad
  try dsimp only
  repeat' first
    | with_reducible assumption
    | with_reducible apply State.hostWrite_kept
    | with_reducible apply keptO_next

theorem execKeyClear_kept (x0 x1 x2) (hx2 : Kept q a x2) : KeptO q a (execKeyClear x0 x1 x2) := by
  unfold execKeyClear
  try dsimp only
  repeat' first
    | with_reducible assumption
    | with_reducible apply State.hostWrite_kept
    | with_reducible apply keptO_next

theorem execEphInsert_kept (x0) (hx0 : Kept q a x0) : KeptO q a (execEphInsert x0) := by
  unfold execEphInsert
  try dsimp only
  repeat' first
    | with_reducible assumption
    | with_reducible apply State.hostWrite_kept
    | with_reducible apply keptO_next

theorem execEphRemove_kept (x0 x1) (hx1 : Kept q a x1) : KeptO q a (execEphRemove x0 x1) := by
  unfold execEphRemove
  try dsimp only
  repeat' first
    | with_reducible assumption
    | with_reducible apply State.hostWrite_kept
    | with_reducible apply keptO_next

theorem execWake_kept (x0) (hx0 : Kept q a x0) : KeptO q a (execWake x0) := by
  unfold execWake
  try dsimp only
  repeat' first
    | with_reducible assumption
    | with_reducible apply State.hostWrite_kept
    | with_reducible apply keptO_next

theorem execPeek_kept (x0 x1) (hx1 : Kept q a x1) : KeptO q a (execPeek x0 x1) := by
  unfold execPeek
  try dsimp only
  repeat' first
    | with_reducible assumption
    | with_reducible apply State.hostWrite_kept
    | with_reducible apply keptO_next

theorem execSharedDisable_kept (x0) (hx0 : Kept q a x0) : KeptO q a (execSharedDisable x0) := by
  unfold execSharedDisable
  try dsimp only
  repeat' first
    | with_reducible assumption
    | with_reducible apply State.hostWrite_kept
    | with_reducible apply keptO_next

theorem execSharedClearDone_kept (x0) (hx0 : Kept q a x0) : KeptO q a (execSharedClearDone x0) := by
  unfold execSharedClearDone
  try dsimp only
  repeat' first
    | with_reducible assumption
    | with_reducible apply State.setFld_kept
    | with_reducible apply State.tileClear_kept
    | fail_if_no_progress (with_reducible apply kept_lit)
    | with_reducible apply keptO_next
    | with_reducible intro _
    | split

theorem execMbEnable_kept (x0 x1) (hx1 : Kept q a x1) : KeptO q a (execMbEnable x0 x1) := by
  unfold execMbEnable
  try dsimp only
  repeat' first
    | with_reducible assumption
    | with_reducible apply State.hostWrite_kept
    | with_reducible apply keptO_next

theorem execMbDisable_kept (x0 x1) (hx1 : Kept q a x1) : KeptO q a (execMbDisable x0 x1) := by
  unfold execMbDisable
  try dsimp only
  repeat' first
    | with_reducible assumption
    | with_reducible apply State.hostWrite_kept
    | with_reducible apply keptO_next

-- Machine/Power.lean

theorem State.coreReset_kept0 {s : State} (h : Kept0 q a s) : Kept0 q a s.coreReset :=
  State.setFld_kept0 (kept0_stores h { h.stores with
    regs := Sparse.wf_filter _ h.stores.regs, counters := rfl, credit := rfl, owed := rfl, ctxs := rfl, chans := rfl, vsOwners := rfl, bases := rfl }
    rfl (Nat.le_refl _) rfl)

theorem State.coreReset_kept (x0) (hx0 : Kept q a x0) : Kept q a (State.coreReset x0) :=
  (State.coreReset_kept0 hx0.weak).down rfl rfl rfl rfl

theorem State.spareBank_kept (x0 x1) (hx0 : Kept q a x0) : Kept q a (State.spareBank x0 x1) := by
  unfold State.spareBank
  try dsimp only
  repeat' first
    | with_reducible assumption
    | with_reducible apply State.drawBelow_kept
    | with_reducible apply State.sat_kept
    | with_reducible apply State.setFld_kept
    | split

theorem State.testBanks_kept (x0 x1) (hx0 : Kept q a x0) : Kept q a (State.testBanks x0 x1) := by
  unfold State.testBanks
  try dsimp only
  repeat' first
    | with_reducible assumption
    | with_reducible apply State.raise_kept
    | with_reducible apply State.setFld_kept
    | with_reducible apply State.spareBank_kept
    | with_reducible apply kept_foldl
    | with_reducible intro _
    | split

theorem State.spareCol_kept (x0 x1 x2) (hx0 : Kept q a x0) : Kept q a (State.spareCol x0 x1 x2) := by
  unfold State.spareCol
  try dsimp only
  repeat' first
    | with_reducible assumption
    | with_reducible apply State.drawBelow_kept
    | with_reducible apply State.sat_kept
    | with_reducible apply State.setFld_kept
    | split

theorem State.failUnit_kept (x0 x1) (hx0 : Kept q a x0) : Kept q a (State.failUnit x0 x1) := by
  unfold State.failUnit
  try dsimp only
  repeat' first
    | with_reducible assumption
    | with_reducible apply State.applyEclipse_kept
    | with_reducible apply State.setFld_kept
    | split

theorem State.testCols_kept (x0 x1 x2) (hx0 : Kept q a x0) : Kept q a (State.testCols x0 x1 x2) := by
  unfold State.testCols
  try dsimp only
  repeat' first
    | with_reducible assumption
    | with_reducible apply State.setFld_kept
    | with_reducible apply State.spareCol_kept
    | with_reducible apply State.failUnit_kept
    | with_reducible apply kept_ite
    | with_reducible apply kept_ite_fst
    | with_reducible apply kept_ite_snd
    | with_reducible apply kept_foldl
    | with_reducible intro _
    | with_reducible refine kept_snd ?_ (by assumption)
    | with_reducible refine kept_fst ?_ (by assumption)

theorem State.selfTest_kept (x0 x1 x2) (hx0 : Kept q a x0) : Kept q a (State.selfTest x0 x1 x2) := by
  unfold State.selfTest
  try dsimp only
  repeat' first
    | with_reducible assumption
    | with_reducible apply State.testBanks_kept
    | with_reducible apply State.testCols_kept
    | with_reducible apply State.failUnit_kept
    | with_reducible apply State.setFld_kept
    | with_reducible apply kept_foldl
    | with_reducible intro _
    | split

theorem State.bringUp_kept {s : State} {failed : List Nat} (h : Kept0 q a s) (hf : s.coll.faults = [])
    (h3 : s.pins.fltCor = false) (h4 : s.pins.fltCon = false) (h5 : s.pins.fltFat = false) : Kept q a (s.bringUp failed) := by
  unfold State.bringUp
  dsimp only
  have h0 : ∀ (k : Bool), Kept q a ({ s with
      phase := .bringup, bringAt := s.aon, retained := false, tmLost := false, pins := { s.pins with quiet := false }
      regs := if k then s.regs else s.regs.filter (fun r => !(0x1000 ≤ r.1 && r.1 < 0x1400))
      tile := if k then s.tile else [], ecc := if k then s.ecc else [] } : State) := by
    intro k
    obtain ⟨k1, k2, k3, k4⟩ := h
    refine ⟨k1, k2, ?_, ?_, ?_⟩
    · simp only [State.memOk, Bool.and_eq_true] at k3 ⊢
      cases k
      · exact ⟨k3.1, rfl⟩
      · exact k3
    · cases k
      · exact stores_iff.mpr { (show Kept0 q a s from ⟨k1, k2, k3, k4⟩).stores with
          regs := Sparse.wf_filter _ (show Kept0 q a s from ⟨k1, k2, k3, k4⟩).stores.regs, ecc := rfl }
      · exact k4
    · simp [State.linesOk, State.showsClass, hf, h3, h4, h5]
  repeat' first
    | exact h0 _
    | with_reducible apply State.drive_kept
    | with_reducible apply kept_foldl
    | with_reducible apply kept_ite
    | with_reducible apply State.raise_kept
    | with_reducible apply State.selfTest_kept
    | with_reducible apply State.setFld_kept
    | with_reducible apply State.setReg_kept
    | with_reducible intro _
    | with_reducible assumption

theorem State.array_kept0 {s : State} {k : Bool} (h : Kept0 q a s) : Kept0 q a (s.array k) := by
  cases k
  · refine ⟨h.1, h.2.1, ?_, stores_iff.mpr { h.stores with ecc := rfl }⟩
    have := h.2.2.1
    simp only [State.memOk, Bool.and_eq_true] at this ⊢
    exact ⟨this.1, rfl⟩
  · exact h

theorem State.coreReset_array_kept {s : State} {k : Bool} {p : Phase} (h : Kept0 q a s)
    (hp : (({ s.coreReset.array k with phase := p } : State)).collUp = false) : Kept q a { s.coreReset.array k with phase := p } := by
  cases k <;> exact Kept0.down (kept0_phase (State.array_kept0 (State.coreReset_kept0 h))) hp rfl rfl rfl

theorem State.coreReset_array_kept' {s : State} {k : Bool} (h : Kept0 q a s) : Kept q a (s.coreReset.array k) := by
  cases k <;> exact (State.array_kept0 (State.coreReset_kept0 h)).down rfl rfl rfl rfl

theorem State.array_kept (x0 x1) (hx0 : Kept q a x0) : Kept q a (State.array x0 x1) := by
  unfold State.array
  split
  · exact kept_lit hx0
  · exact kept_lit (s := { x0 with tile := [], ecc := [] }) (kept_mems (s := { x0 with ecc := [] }) (kept_ecc hx0 rfl) hx0.mem.1 rfl rfl (Nat.le_refl _) rfl rfl)

theorem State.powerJudge_kept0 {s : State} {failed : List Nat} (h : Kept0 q a s) : Kept q a (s.powerJudge failed) := by
  have h0 : ∀ p, Kept0 q a (s.setPins p) := fun p => kept0_pins h
  unfold State.powerJudge
  dsimp only
  split
  · split
    · exact State.drive_kept0 (h0 _)
    · exact State.bringUp_kept (State.coreReset_kept0 (h0 _)) rfl rfl rfl rfl
  · exact State.coreReset_array_kept (h0 _) rfl
  · exact State.coreReset_array_kept (h0 _) rfl
  · exact (State.coreReset_kept0 (h0 _)).down rfl rfl rfl rfl
  · exact (State.coreReset_kept0 (h0 _)).down rfl rfl rfl rfl
  · exact State.coreReset_array_kept' (h0 _)

theorem State.powerJudge_kept (x0 x1) (hx0 : Kept q a x0) : Kept q a (State.powerJudge x0 x1) := by
  exact State.powerJudge_kept0 hx0.weak

theorem State.sendReady_kept (x0) (hx0 : Kept q a x0) : Kept q a (State.sendReady x0) := by
  unfold State.sendReady
  try dsimp only
  repeat' first
    | with_reducible assumption
    | with_reducible apply State.inject_kept
    | with_reducible apply kept_foldl
    | with_reducible intro _

theorem State.bringReady_kept (x0) (hx0 : Kept q a x0) : Kept q a (State.bringReady x0) := by
  unfold State.bringReady
  try dsimp only
  repeat' first
    | with_reducible assumption
    | with_reducible apply State.setFld_kept
    | with_reducible apply State.sendMsgs_kept
    | with_reducible apply State.sendReady_kept
    | with_reducible apply State.setRelay_kept
    | exact rfl
    | with_reducible apply kept_ite
    | with_reducible apply kept_ite_fst
    | with_reducible apply kept_ite_snd
    | with_reducible refine kept_phase (by with_reducible assumption) (by simp_all [State.collUp])
    | with_reducible intro _
    | with_reducible refine kept_snd ?_ (by assumption)
    | with_reducible refine kept_fst ?_ (by assumption)

theorem State.clkRestart_kept (x0 x1) (hx0 : Kept q a x0) : Kept q a (State.clkRestart x0 x1) := by
  unfold State.clkRestart
  split
  · exact hx0
  · dsimp only
    have h1 := State.advance_kept x0 x1 hx0
    have h2 : Kept q a ({ x0.advance x1 with pins := { (x0.advance x1).pins with clkRun := true }, captured := [], heldAcc := [] } : State) :=
      kept_lit (s := { x0.advance x1 with pins := { (x0.advance x1).pins with clkRun := true } }) (kept_pins h1 rfl rfl rfl rfl rfl)
    refine State.sendMsgs_kept _ (kept_foldl (fun t x h => ?_) (kept_foldl (fun t x h => ?_) h2))
    · split
      · exact State.heldAccess_kept _ _ h
      · split
        · exact State.heldAccess_kept _ _ (State.drawBool_kept _ h)
        · exact State.drawBool_kept _ h
    · exact State.raise_kept _ _ h

theorem State.aonReset_kept (x0) (hx0 : Kept q a x0) : Kept q a (State.aonReset x0) := by
  unfold State.aonReset
  dsimp only
  have h1 : Kept q a { x0 with pins := { x0.pins with aonRstN := false } } := kept_pins hx0 rfl rfl rfl rfl rfl
  have h2 := kept_regs h1 (Sparse.wf_filter (fun x => !Reg.relayDomain x.1) h1.stores.regs)
  have h3 := kept_relay h2 (r := { coreReady := x0.relay.coreReady, inbox := x0.relay.inbox, tx := x0.relay.tx, log := x0.relay.log, rx := x0.relay.rx }) rfl
  exact kept_foldl (fun t x h => State.lineClear_kept _ _ _ h) (State.setFld_kept _ _ _ (State.setFld_kept _ _ _ h3))

theorem State.writeFails_kept (x0 x1) (hx0 : Kept q a x0) : Kept q a (State.writeFails x0 x1) := by
  unfold State.writeFails
  try dsimp only
  repeat' first
    | with_reducible assumption
    | with_reducible apply State.raise_kept
    | with_reducible apply State.endProg_kept
    | with_reducible apply State.failNode_kept
    | with_reducible apply State.modCtx_kept
    | with_reducible intro _
    | split

theorem State.entryWritten_kept (x0 x1) (hx0 : Kept q a x0) : Kept q a (State.entryWritten x0 x1) := by
  unfold State.entryWritten
  try dsimp only
  repeat' first
    | with_reducible assumption
    | with_reducible apply State.finish_kept
    | with_reducible intro _
    | split

theorem State.recAnswer_kept (x0 x1 x2 x3) (hx0 : Kept q a x0) : Kept q a (State.recAnswer x0 x1 x2 x3) := by
  unfold State.recAnswer
  try dsimp only
  repeat' first
    | with_reducible assumption
    | with_reducible apply State.raise_kept
    | with_reducible apply State.issue_kept
    | with_reducible apply State.putCells_kept
    | with_reducible apply State.event_kept
    | with_reducible apply kept_ite
    | with_reducible apply kept_ite_fst
    | with_reducible apply kept_ite_snd
    | with_reducible apply kept_foldl
    | fail_if_no_progress (with_reducible apply kept_lit)
    | with_reducible intro _
    | with_reducible refine kept_snd ?_ (by assumption)
    | with_reducible refine kept_fst ?_ (by assumption)

theorem State.writeAnswer_kept (x0 x1 x2) (hx0 : Kept q a x0) : Kept q a (State.writeAnswer x0 x1 x2) := by
  unfold State.writeAnswer
  try dsimp only
  repeat' first
    | with_reducible assumption
    | with_reducible apply State.recAnswer_kept
    | with_reducible apply State.entryWritten_kept
    | with_reducible apply State.writeFails_kept
    | with_reducible apply State.issue_kept
    | with_reducible apply State.putCells_kept
    | fail_if_no_progress (with_reducible apply kept_lit)
    | with_reducible intro _
    | split

theorem State.readsAnswer_kept (x0 x1 x2) (hx0 : Kept q a x0) : Kept q a (State.readsAnswer x0 x1 x2) := by
  unfold State.readsAnswer
  try dsimp only
  repeat' first
    | with_reducible assumption
    | fail_if_no_progress (with_reducible apply kept_lit)

theorem State.poisons_kept (x0 x1 x2) (hx0 : Kept q a x0) : Kept q a (State.poisons x0 x1 x2) := by
  unfold State.poisons
  try dsimp only
  repeat' first
    | with_reducible assumption
    | fail_if_no_progress (with_reducible apply kept_lit)

theorem execCoreResetAssert_kept (x0) (hx0 : Kept q a x0) : KeptO q a (execCoreResetAssert x0) := by
  exact keptO_next (State.powerJudge_kept0 (kept0_pins hx0.weak))

theorem execCoreResetRelease_kept (x0 x1) (hx1 : Kept q a x1) : KeptO q a (execCoreResetRelease x0 x1) := by
  exact keptO_next (State.powerJudge_kept0 (kept0_pins hx1.weak))

theorem execBringupReady_kept (x0) (hx0 : Kept q a x0) : KeptO q a (execBringupReady x0) := by
  unfold execBringupReady
  try dsimp only
  repeat' first
    | with_reducible assumption
    | with_reducible apply State.bringReady_kept
    | with_reducible apply keptO_next

theorem execPowerInputChange_kept (x0 x1 x2 x3 x4 x5) (hx5 : Kept q a x5) : KeptO q a (execPowerInputChange x0 x1 x2 x3 x4 x5) := by
  exact keptO_next (State.powerJudge_kept0 (kept0_pins hx5.weak))

theorem execThermTrip_kept (x0) (hx0 : Kept q a x0) : KeptO q a (execThermTrip x0) := by
  unfold execThermTrip
  try dsimp only
  repeat' first
    | with_reducible assumption
    | with_reducible apply State.raise_kept
    | with_reducible apply State.setPins_kept
    | exact rfl
    | with_reducible apply kept_ite
    | with_reducible apply kept_ite_fst
    | with_reducible apply kept_ite_snd
    | with_reducible apply keptO_next
    | with_reducible exact keptO_fault
    | with_reducible intro _
    | with_reducible refine kept_snd ?_ (by assumption)
    | with_reducible refine kept_fst ?_ (by assumption)

theorem execXhClkStop_kept (x0) (hx0 : Kept q a x0) : KeptO q a (execXhClkStop x0) := by
  unfold execXhClkStop
  try dsimp only
  repeat' first
    | with_reducible assumption
    | with_reducible apply State.setPins_kept
    | exact rfl
    | with_reducible apply keptO_next
    | with_reducible exact keptO_fault
    | split

theorem execXhClkRestart_kept (x0 x1) (hx1 : Kept q a x1) : KeptO q a (execXhClkRestart x0 x1) := by
  unfold execXhClkRestart
  try dsimp only
  repeat' first
    | with_reducible assumption
    | with_reducible apply State.clkRestart_kept
    | with_reducible apply keptO_next

theorem execTimeCounterDecrease_kept (x0 x1) (hx1 : Kept q a x1) : KeptO q a (execTimeCounterDecrease x0 x1) := by
  unfold execTimeCounterDecrease
  try dsimp only
  repeat' first
    | with_reducible assumption
    | with_reducible apply State.merFault_kept
    | with_reducible apply kept_ite
    | with_reducible apply kept_ite_fst
    | with_reducible apply kept_ite_snd
    | fail_if_no_progress (with_reducible apply kept_lit)
    | with_reducible apply keptO_next
    | with_reducible exact keptO_fault
    | with_reducible intro _
    | with_reducible refine kept_snd ?_ (by assumption)
    | with_reducible refine kept_fst ?_ (by assumption)

theorem execPortResponse_kept (x0 x1) (hx1 : Kept q a x1) : KeptO q a (execPortResponse x0 x1) := by
  unfold execPortResponse
  try dsimp only
  repeat' first
    | with_reducible assumption
    | with_reducible apply State.writeAnswer_kept
    | with_reducible apply State.readsAnswer_kept
    | with_reducible apply State.poisons_kept
    | with_reducible apply keptO_next
    | split

theorem execMessageAccept_kept (x0 x1) (hx1 : Kept q a x1) : KeptO q a (execMessageAccept x0 x1) := by
  unfold execMessageAccept
  try dsimp only
  repeat' first
    | with_reducible assumption
    | with_reducible apply State.sendMsg_kept
    | with_reducible apply kept_ite
    | with_reducible apply kept_ite_fst
    | with_reducible apply kept_ite_snd
    | fail_if_no_progress (with_reducible apply kept_lit)
    | with_reducible apply keptO_next
    | with_reducible exact keptO_fault
    | with_reducible intro _
    | with_reducible refine kept_snd ?_ (by assumption)
    | with_reducible refine kept_fst ?_ (by assumption)

theorem execAonResetAssert_kept (x0) (hx0 : Kept q a x0) : KeptO q a (execAonResetAssert x0) := by
  unfold execAonResetAssert
  try dsimp only
  repeat' first
    | with_reducible assumption
    | with_reducible apply State.aonReset_kept
    | with_reducible apply keptO_next

end Sys2Proof.Machine
end

