-- ==== Sys2Proof/Laws/Kept8.lean ====
section
/-! SUPPORT. Every operation keeps what `Kept` says (the queue, the time, the canonical stores, the fault outputs):
received frames and timers. -/

namespace Sys2Proof.Machine

variable {q : List Instr} {a : Nat}

-- Machine/Receive.lean

theorem State.takeFrame_kept (x0 x1 x2) (hx0 : Kept q a x0) (hx2 : ∀ y0 y1, Kept q a y1 → Kept q a (x2 y0 y1)) : Kept q a (State.takeFrame x0 x1 x2) := by
  unfold State.takeFrame
  try dsimp only
  repeat' first
    | with_reducible assumption
    | with_reducible apply State.setRelay_kept
    | apply hx2
    | exact rfl
    | with_reducible intro _
    | split

theorem State.answer_kept (x0 x1 x2 x3 x4) (hx0 : Kept q a x0) : Kept q a (State.answer x0 x1 x2 x3 x4) := by
  unfold State.answer
  try dsimp only
  repeat' first
    | with_reducible assumption
    | with_reducible apply State.inject_kept

theorem State.modRx_kept (x0 x1 x2) (hx0 : Kept q a x0) : Kept q a (State.modRx x0 x1 x2) := by
  unfold State.modRx
  try dsimp only
  repeat' first
    | with_reducible assumption
    | with_reducible apply State.setRelay_kept
    | exact rfl

theorem State.nackSeq.go_kept (x0 x1 x2 x3) (hx0 : Kept q a x0) : Kept q a (State.nackSeq.go x0 x1 x2 x3) := by
  unfold State.nackSeq.go
  try dsimp only
  repeat' first
    | with_reducible assumption
    | with_reducible apply State.answer_kept
    | with_reducible apply State.modRx_kept

theorem State.nackSeq_kept (x0 x1 x2 x3) (hx0 : Kept q a x0) : Kept q a (State.nackSeq x0 x1 x2 x3) := by
  unfold State.nackSeq
  try dsimp only
  repeat' first
    | with_reducible assumption
    | with_reducible apply State.nackSeq.go_kept
    | with_reducible intro _
    | split

theorem State.ackPair_kept (x0 x1 x2) (hx0 : Kept q a x0) : Kept q a (State.ackPair x0 x1 x2) := by
  unfold State.ackPair
  try dsimp only
  repeat' first
    | with_reducible assumption
    | with_reducible apply State.answer_kept
    | with_reducible apply State.modRx_kept
    | split

theorem State.acceptFrame_kept (x0 x1 x2 x3) (hx0 : Kept q a x0) : Kept q a (State.acceptFrame x0 x1 x2 x3) := by
  unfold State.acceptFrame
  try dsimp only
  repeat' first
    | with_reducible assumption
    | with_reducible apply State.modRx_kept
    | with_reducible apply State.answer_kept
    | with_reducible apply State.sat_kept
    | with_reducible apply tileWrite_kept
    | with_reducible apply State.addCounter_kept
    | with_reducible apply State.ackPair_kept
    | with_reducible exact keptM_pure
    | with_reducible apply kept_on
    | with_reducible intro _
    | split
    | with_reducible refine kept_snd ?_ (by assumption)

theorem State.checkFrame_kept (x0 x1 x2 x3) (hx0 : Kept q a x0) : Kept q a (State.checkFrame x0 x1 x2 x3) := by
  unfold State.checkFrame
  try dsimp only
  repeat' first
    | with_reducible assumption
    | with_reducible apply State.answer_kept
    | with_reducible apply State.nackSeq_kept
    | with_reducible apply State.sat_kept
    | with_reducible apply State.acceptFrame_kept
    | with_reducible intro _
    | split

theorem State.receiveFrame_kept (x0 x1) (hx0 : Kept q a x0) : Kept q a (State.receiveFrame x0 x1) := by
  unfold State.receiveFrame
  try dsimp only
  repeat' first
    | with_reducible assumption
    | with_reducible apply State.answer_kept
    | with_reducible apply State.sat_kept
    | with_reducible apply State.checkFrame_kept
    | with_reducible apply State.setRelay_kept
    | exact rfl
    | with_reducible intro _
    | split

theorem State.ackDelay_kept (x0 x1) (hx0 : Kept q a x0) : Kept q a (State.ackDelay x0 x1) := by
  unfold State.ackDelay
  try dsimp only
  repeat' first
    | with_reducible assumption
    | with_reducible apply State.advanceTo_kept
    | with_reducible apply State.inject_kept
    | with_reducible apply State.modRx_kept
    | with_reducible intro _
    | split

theorem State.wakeChans_kept (x0) (hx0 : Kept q a x0) : Kept q a (State.wakeChans x0) := by
  unfold State.wakeChans
  try dsimp only
  repeat' first
    | with_reducible assumption
    | with_reducible apply State.chTo_kept
    | with_reducible apply kept_foldl
    | with_reducible intro _
    | split

theorem State.freeLog_kept (x0 x1 x2) (hx0 : Kept q a x0) : Kept q a (State.freeLog x0 x1 x2) := by
  unfold State.freeLog
  try dsimp only
  repeat' first
    | with_reducible assumption
    | with_reducible apply State.wakeChans_kept
    | with_reducible apply State.setRelay_kept
    | exact rfl

theorem State.resend_kept (x0 x1 x2) (hx0 : Kept q a x0) : Kept q a (State.resend x0 x1 x2) := by
  unfold State.resend
  try dsimp only
  repeat' first
    | with_reducible assumption
    | with_reducible apply State.inject_kept
    | with_reducible apply State.modTx_kept
    | with_reducible apply State.sat_kept
    | with_reducible apply kept_ite
    | with_reducible apply kept_ite_fst
    | with_reducible apply kept_ite_snd
    | with_reducible apply kept_foldl
    | with_reducible intro _
    | with_reducible refine kept_snd ?_ (by assumption)
    | with_reducible refine kept_fst ?_ (by assumption)

theorem State.acked_kept (x0 x1) (hx0 : Kept q a x0) : Kept q a (State.acked x0 x1) := by
  unfold State.acked
  try dsimp only
  repeat' first
    | with_reducible assumption
    | with_reducible apply State.modTx_kept
    | with_reducible apply State.freeLog_kept
    | with_reducible apply State.sendRep_kept
    | with_reducible intro _
    | split

theorem State.endSender_kept (x0 x1 x2 x3) (hx0 : Kept q a x0) : Kept q a (State.endSender x0 x1 x2 x3) := by
  unfold State.endSender
  try dsimp only
  repeat' first
    | with_reducible assumption
    | with_reducible apply State.endProg_kept
    | with_reducible apply State.modChan_kept
    | with_reducible apply State.failNode_kept
    | with_reducible intro _
    | split

theorem State.renumber_kept (x0 x1) (hx0 : Kept q a x0) : Kept q a (State.renumber x0 x1) := by
  unfold State.renumber
  try dsimp only
  repeat' first
    | with_reducible assumption
    | with_reducible apply State.setRelay_kept
    | with_reducible apply State.sat_kept
    | with_reducible apply State.transmit_kept
    | with_reducible apply State.modTx_kept
    | exact rfl
    | split

theorem State.nackTaken_kept (x0 x1) (hx0 : Kept q a x0) : Kept q a (State.nackTaken x0 x1) := by
  unfold State.nackTaken
  try dsimp only
  repeat' first
    | with_reducible assumption
    | with_reducible apply State.resend_kept
    | with_reducible apply State.modTx_kept
    | with_reducible apply State.renumber_kept
    | with_reducible apply State.endSender_kept
    | with_reducible apply State.wakeChans_kept
    | with_reducible apply State.setRelay_kept
    | with_reducible apply State.drawBelow_kept
    | exact rfl
    | with_reducible intro _
    | split

theorem State.memberLost_kept (x0 x1) (hx0 : Kept q a x0) : Kept q a (State.memberLost x0 x1) := by
  unfold State.memberLost
  try dsimp only
  repeat' first
    | with_reducible assumption
    | with_reducible apply State.decide_kept
    | with_reducible apply State.raise_kept
    | with_reducible apply kept_ite
    | with_reducible apply kept_ite_fst
    | with_reducible apply kept_ite_snd
    | with_reducible intro _
    | with_reducible refine kept_snd ?_ (by assumption)
    | with_reducible refine kept_fst ?_ (by assumption)

theorem State.notReadyTaken_kept (x0 x1) (hx0 : Kept q a x0) : Kept q a (State.notReadyTaken x0 x1) := by
  unfold State.notReadyTaken
  try dsimp only
  repeat' first
    | with_reducible assumption
    | with_reducible apply State.memberLost_kept
    | with_reducible apply State.drawBelow_kept
    | with_reducible apply State.modTx_kept
    | with_reducible intro _
    | split

theorem State.retryPair_kept (x0 x1 x2) (hx0 : Kept q a x0) : Kept q a (State.retryPair x0 x1 x2) := by
  unfold State.retryPair
  try dsimp only
  repeat' first
    | with_reducible assumption
    | with_reducible apply State.modTx_kept
    | with_reducible apply State.advanceTo_kept
    | with_reducible apply State.transmit_kept
    | with_reducible apply State.resend_kept
    | with_reducible intro _
    | split

theorem State.readyTaken_kept (x0 x1) (hx0 : Kept q a x0) : Kept q a (State.readyTaken x0 x1) := by
  unfold State.readyTaken
  try dsimp only
  repeat' first
    | with_reducible assumption
    | with_reducible apply State.drawBelow_kept
    | with_reducible apply State.modTx_kept
    | with_reducible apply kept_foldl
    | with_reducible intro _
    | split

theorem State.ackLate_kept (x0 x1) (hx0 : Kept q a x0) : Kept q a (State.ackLate x0 x1) := by
  unfold State.ackLate
  try dsimp only
  repeat' first
    | with_reducible assumption
    | with_reducible apply State.resend_kept
    | with_reducible apply State.advanceTo_kept
    | with_reducible intro _
    | split

theorem State.nrLimit_kept (x0 x1) (hx0 : Kept q a x0) : Kept q a (State.nrLimit x0 x1) := by
  unfold State.nrLimit
  try dsimp only
  repeat' first
    | with_reducible assumption
    | with_reducible apply State.modTx_kept
    | with_reducible apply State.advanceTo_kept
    | with_reducible apply State.park_kept
    | with_reducible apply kept_foldl
    | with_reducible intro _
    | split

theorem State.takeReplica_kept (x0 x1 x2) (hx0 : Kept q a x0) (hx2 : ∀ y0 y1 y2, Kept q a y2 → Kept q a (x2 y0 y1 y2)) : Kept q a (State.takeReplica x0 x1 x2) := by
  unfold State.takeReplica
  try dsimp only
  repeat' first
    | with_reducible assumption
    | with_reducible apply State.takeFrame_kept
    | with_reducible apply State.setRep_kept
    | apply hx2
    | with_reducible apply kept_ite
    | with_reducible apply kept_ite_fst
    | with_reducible apply kept_ite_snd
    | with_reducible intro _
    | with_reducible refine kept_snd ?_ (by assumption)
    | with_reducible refine kept_fst ?_ (by assumption)

theorem State.digestTaken_kept (x0) (hx0 : Kept q a x0) : Kept q a (State.digestTaken x0) := by
  unfold State.digestTaken
  try dsimp only
  repeat' first
    | with_reducible assumption
    | with_reducible apply State.takeReplica_kept
    | with_reducible apply State.settle_kept
    | with_reducible apply State.putDigest_kept
    | with_reducible intro _

theorem State.heartbeatTaken_kept (x0) (hx0 : Kept q a x0) : Kept q a (State.heartbeatTaken x0) := by
  unfold State.heartbeatTaken
  try dsimp only
  repeat' first
    | with_reducible assumption
    | with_reducible apply State.takeReplica_kept
    | with_reducible apply State.setRep_kept
    | with_reducible intro _

theorem State.heartbeatSend_kept (x0) (hx0 : Kept q a x0) : Kept q a (State.heartbeatSend x0) := by
  unfold State.heartbeatSend
  try dsimp only
  repeat' first
    | with_reducible assumption
    | with_reducible apply State.sendRep_kept
    | with_reducible apply kept_ite
    | with_reducible apply kept_ite_fst
    | with_reducible apply kept_ite_snd
    | with_reducible intro _
    | with_reducible refine kept_snd ?_ (by assumption)
    | with_reducible refine kept_fst ?_ (by assumption)

theorem State.memberSilent_kept (x0 x1) (hx0 : Kept q a x0) : Kept q a (State.memberSilent x0 x1) := by
  unfold State.memberSilent
  try dsimp only
  repeat' first
    | with_reducible assumption
    | with_reducible apply State.memberLost_kept
    | with_reducible apply State.advanceTo_kept
    | with_reducible intro _
    | split

theorem State.verdictTaken_kept (x0) (hx0 : Kept q a x0) : Kept q a (State.verdictTaken x0) := by
  unfold State.verdictTaken
  try dsimp only
  repeat' first
    | with_reducible assumption
    | with_reducible apply State.takeReplica_kept
    | with_reducible apply State.setRep_kept
    | with_reducible apply State.agree_kept
    | with_reducible intro _

theorem State.ackReportTaken_kept (x0) (hx0 : Kept q a x0) : Kept q a (State.ackReportTaken x0) := by
  unfold State.ackReportTaken
  try dsimp only
  repeat' first
    | with_reducible assumption
    | with_reducible apply State.takeReplica_kept
    | with_reducible apply State.freeLog_kept
    | with_reducible apply kept_foldl
    | with_reducible intro _
    | split

theorem State.noticeTaken_kept (x0) (hx0 : Kept q a x0) : Kept q a (State.noticeTaken x0) := by
  unfold State.noticeTaken
  try dsimp only
  repeat' first
    | with_reducible assumption
    | with_reducible apply State.setRelay_kept
    | with_reducible apply State.floodOut_kept
    | with_reducible apply State.grpOut_kept
    | with_reducible apply State.setFld_kept
    | with_reducible apply State.setRep_kept
    | with_reducible apply State.raise_kept
    | with_reducible apply State.transmit_kept
    | with_reducible apply State.passAll_kept
    | exact rfl
    | with_reducible intro _
    | split

theorem State.auditEnds_kept (x0 x1 x2 x3) (hx0 : Kept q a x0) : Kept q a (State.auditEnds x0 x1 x2 x3) := by
  unfold State.auditEnds
  try dsimp only
  repeat' first
    | with_reducible assumption
    | with_reducible apply State.raise_kept
    | with_reducible apply State.modNode_kept
    | with_reducible apply State.passInterval_kept
    | with_reducible apply State.decide_kept
    | with_reducible apply kept_foldl
    | with_reducible intro _
    | split

theorem execData_kept (x0) (hx0 : Kept q a x0) : KeptO q a (execData x0) := by
  unfold execData
  try dsimp only
  repeat' first
    | with_reducible assumption
    | with_reducible apply State.takeFrame_kept
    | with_reducible apply State.receiveFrame_kept
    | with_reducible apply keptO_next
    | with_reducible intro _

theorem execBatch_kept (x0) (hx0 : Kept q a x0) : KeptO q a (execBatch x0) := by
  unfold execBatch
  try dsimp only
  repeat' first
    | with_reducible assumption
    | with_reducible apply State.takeFrame_kept
    | with_reducible apply State.receiveFrame_kept
    | with_reducible apply keptO_next
    | with_reducible intro _

theorem execAck_kept (x0) (hx0 : Kept q a x0) : KeptO q a (execAck x0) := by
  unfold execAck
  try dsimp only
  repeat' first
    | with_reducible assumption
    | with_reducible apply State.takeFrame_kept
    | with_reducible apply State.acked_kept
    | with_reducible apply keptO_next
    | with_reducible intro _

theorem execAckDelayTimeout_kept (x0 x1) (hx1 : Kept q a x1) : KeptO q a (execAckDelayTimeout x0 x1) := by
  unfold execAckDelayTimeout
  try dsimp only
  repeat' first
    | with_reducible assumption
    | with_reducible apply State.ackDelay_kept
    | with_reducible apply keptO_next

theorem execAckTimeout_kept (x0 x1) (hx1 : Kept q a x1) : KeptO q a (execAckTimeout x0 x1) := by
  unfold execAckTimeout
  try dsimp only
  repeat' first
    | with_reducible assumption
    | with_reducible apply State.ackLate_kept
    | with_reducible apply keptO_next

theorem execNack_kept (x0) (hx0 : Kept q a x0) : KeptO q a (execNack x0) := by
  unfold execNack
  try dsimp only
  repeat' first
    | with_reducible assumption
    | with_reducible apply State.takeFrame_kept
    | with_reducible apply State.nackTaken_kept
    | with_reducible apply keptO_next
    | with_reducible intro _

theorem execNackRetryTimeout_kept (x0 x1) (hx1 : Kept q a x1) : KeptO q a (execNackRetryTimeout x0 x1) := by
  unfold execNackRetryTimeout
  try dsimp only
  repeat' first
    | with_reducible assumption
    | with_reducible apply State.retryPair_kept
    | with_reducible apply keptO_next

theorem execNotReady_kept (x0) (hx0 : Kept q a x0) : KeptO q a (execNotReady x0) := by
  unfold execNotReady
  try dsimp only
  repeat' first
    | with_reducible assumption
    | with_reducible apply State.takeFrame_kept
    | with_reducible apply State.notReadyTaken_kept
    | with_reducible apply keptO_next
    | with_reducible intro _

theorem execRetryAfterExpiry_kept (x0 x1) (hx1 : Kept q a x1) : KeptO q a (execRetryAfterExpiry x0 x1) := by
  unfold execRetryAfterExpiry
  try dsimp only
  repeat' first
    | with_reducible assumption
    | with_reducible apply State.retryPair_kept
    | with_reducible apply keptO_next

theorem execNrLimitTimeout_kept (x0 x1) (hx1 : Kept q a x1) : KeptO q a (execNrLimitTimeout x0 x1) := by
  unfold execNrLimitTimeout
  try dsimp only
  repeat' first
    | with_reducible assumption
    | with_reducible apply State.nrLimit_kept
    | with_reducible apply keptO_next

theorem execReady_kept (x0) (hx0 : Kept q a x0) : KeptO q a (execReady x0) := by
  unfold execReady
  try dsimp only
  repeat' first
    | with_reducible assumption
    | with_reducible apply State.takeFrame_kept
    | with_reducible apply State.readyTaken_kept
    | with_reducible apply keptO_next
    | with_reducible intro _

theorem execDigest_kept (x0) (hx0 : Kept q a x0) : KeptO q a (execDigest x0) := by
  unfold execDigest
  try dsimp only
  repeat' first
    | with_reducible assumption
    | with_reducible apply State.digestTaken_kept
    | with_reducible apply keptO_next

theorem execAuditComplete_kept (x0 x1 x2 x3) (hx3 : Kept q a x3) : KeptO q a (execAuditComplete x0 x1 x2 x3) := by
  unfold execAuditComplete
  try dsimp only
  repeat' first
    | with_reducible assumption
    | with_reducible apply State.auditEnds_kept
    | with_reducible apply keptO_next

theorem execHeartbeat_kept (x0) (hx0 : Kept q a x0) : KeptO q a (execHeartbeat x0) := by
  unfold execHeartbeat
  try dsimp only
  repeat' first
    | with_reducible assumption
    | with_reducible apply State.heartbeatTaken_kept
    | with_reducible apply keptO_next

theorem execHeartbeatPeriod_kept (x0) (hx0 : Kept q a x0) : KeptO q a (execHeartbeatPeriod x0) := by
  unfold execHeartbeatPeriod
  try dsimp only
  repeat' first
    | with_reducible assumption
    | with_reducible apply State.heartbeatSend_kept
    | with_reducible apply keptO_next

theorem execMemberLostTimeout_kept (x0 x1) (hx1 : Kept q a x1) : KeptO q a (execMemberLostTimeout x0 x1) := by
  unfold execMemberLostTimeout
  try dsimp only
  repeat' first
    | with_reducible assumption
    | with_reducible apply State.memberSilent_kept
    | with_reducible apply keptO_next

theorem execVerdict_kept (x0) (hx0 : Kept q a x0) : KeptO q a (execVerdict x0) := by
  unfold execVerdict
  try dsimp only
  repeat' first
    | with_reducible assumption
    | with_reducible apply State.verdictTaken_kept
    | with_reducible apply keptO_next

theorem execMemberOut_kept (x0) (hx0 : Kept q a x0) : KeptO q a (execMemberOut x0) := by
  unfold execMemberOut
  try dsimp only
  repeat' first
    | with_reducible assumption
    | with_reducible apply State.noticeTaken_kept
    | with_reducible apply kept_ite
    | with_reducible apply kept_ite_fst
    | with_reducible apply kept_ite_snd
    | with_reducible apply keptO_next
    | with_reducible exact keptO_fault
    | with_reducible intro _
    | with_reducible refine kept_snd ?_ (by assumption)
    | with_reducible refine kept_fst ?_ (by assumption)

theorem execAckReport_kept (x0) (hx0 : Kept q a x0) : KeptO q a (execAckReport x0) := by
  unfold execAckReport
  try dsimp only
  repeat' first
    | with_reducible assumption
    | with_reducible apply State.ackReportTaken_kept
    | with_reducible apply keptO_next

-- Machine/Times.lean

theorem State.stuckExpire_kept (x0 x1) (hx0 : Kept q a x0) : Kept q a (State.stuckExpire x0 x1) := by
  unfold State.stuckExpire
  try dsimp only
  repeat' first
    | with_reducible assumption
    | with_reducible apply State.merFault_kept
    | with_reducible apply State.modBase_kept
    | with_reducible apply State.advanceTo_kept
    | with_reducible intro _
    | split

theorem State.silence_kept (x0 x1) (hx0 : Kept q a x0) : Kept q a (State.silence x0 x1) := by
  unfold State.silence
  try dsimp only
  repeat' first
    | with_reducible assumption
    | with_reducible apply State.holdEnter_kept
    | with_reducible apply State.advanceTo_kept
    | with_reducible apply kept_ite
    | with_reducible apply kept_ite_fst
    | with_reducible apply kept_ite_snd
    | with_reducible intro _
    | with_reducible refine kept_snd ?_ (by assumption)
    | with_reducible refine kept_fst ?_ (by assumption)

theorem State.holdExpire_kept (x0 x1) (hx0 : Kept q a x0) : Kept q a (State.holdExpire x0 x1) := by
  unfold State.holdExpire
  try dsimp only
  repeat' first
    | with_reducible assumption
    | with_reducible apply State.mbLost_kept
    | with_reducible apply State.advanceTo_kept
    | with_reducible apply kept_ite
    | with_reducible apply kept_ite_fst
    | with_reducible apply kept_ite_snd
    | with_reducible intro _
    | with_reducible refine kept_snd ?_ (by assumption)
    | with_reducible refine kept_fst ?_ (by assumption)

theorem State.releaseDue_kept (x0 x1) (hx0 : Kept q a x0) : Kept q a (State.releaseDue x0 x1) := by
  unfold State.releaseDue
  try dsimp only
  repeat' first
    | with_reducible assumption
    | with_reducible apply State.ephNext_kept
    | with_reducible apply State.setMer_kept
    | with_reducible apply State.nodeCompletes_kept
    | with_reducible apply State.timedRelease_kept
    | exact rfl
    | with_reducible intro _
    | split

theorem State.ephDue_kept {s t : State} {i k : Nat} {e : Eph} (h : Kept q a s) (he : s.ephDue i k = some (e, t)) : Kept q a t := by
  unfold State.ephDue at he
  split at he
  · split at he
    · split at he
      · cases he; exact State.advanceTo_kept _ _ h
      · cases he
    · cases he
  · cases he

theorem State.ephRow_kept (x0 x1 x2) (hx0 : Kept q a x0) : Kept q a (State.ephRow x0 x1 x2) := by
  unfold State.ephRow
  repeat' first
    | with_reducible assumption
    | with_reducible apply State.releaseDue_kept
    | with_reducible apply State.ephFire_kept
    | with_reducible refine State.ephDue_kept ?_ (by assumption)
    | split

theorem State.checkFails_kept (x0 x1 x2) (hx0 : Kept q a x0) : Kept q a (State.checkFails x0 x1 x2) := by
  unfold State.checkFails
  try dsimp only
  repeat' first
    | with_reducible assumption
    | with_reducible apply State.drawBelow_kept
    | with_reducible apply State.endProg_kept
    | with_reducible apply State.failNode_kept
    | with_reducible intro _
    | split

theorem State.faultRaise_kept (x0 x1 x2 x3 x4 x5) (hx0 : Kept q a x0) : Kept q a (State.faultRaise x0 x1 x2 x3 x4 x5) := by
  unfold State.faultRaise
  try dsimp only
  repeat' first
    | with_reducible assumption
    | with_reducible apply State.raise_kept
    | with_reducible apply State.checkFails_kept
    | with_reducible apply State.sat_kept
    | with_reducible apply kept_ite
    | with_reducible apply kept_ite_fst
    | with_reducible apply kept_ite_snd
    | with_reducible intro _
    | with_reducible refine kept_snd ?_ (by assumption)
    | with_reducible refine kept_fst ?_ (by assumption)

theorem State.react_kept (x0 x1) (hx0 : Kept q a x0) : Kept q a (State.react x0 x1) := by
  unfold State.react
  try dsimp only
  repeat' first
    | with_reducible assumption
    | with_reducible apply State.eclipseBegin_kept
    | with_reducible apply State.clearBegin_kept
    | with_reducible apply State.raise_kept
    | with_reducible apply State.nameSelfOut_kept
    | fail_if_no_progress (with_reducible apply kept_lit)
    | with_reducible intro _
    | split

theorem State.report_kept (x0 x1) (hx0 : Kept q a x0) : Kept q a (State.report x0 x1) := by
  unfold State.report
  try dsimp only
  repeat' first
    | with_reducible assumption
    | with_reducible apply State.vspShow_kept
    | with_reducible apply State.mkRec_kept
    | with_reducible apply State.overflowed_kept
    | with_reducible apply State.overflow_kept
    | with_reducible apply State.iqPush_kept
    | with_reducible apply kept_ite
    | with_reducible apply kept_ite_fst
    | with_reducible apply kept_ite_snd
    | with_reducible intro _
    | with_reducible refine kept_snd ?_ (by assumption)
    | with_reducible refine kept_fst ?_ (by assumption)

theorem State.reactExpire_kept (x0 x1) (hx0 : Kept q a x0) : Kept q a (State.reactExpire x0 x1) := by
  unfold State.reactExpire
  try dsimp only
  repeat' first
    | with_reducible assumption
    | with_reducible apply State.advanceTo_kept
    | with_reducible apply State.report_kept
    | with_reducible apply State.ack_kept
    | with_reducible apply State.react_kept
    | with_reducible intro _
    | split

theorem State.twilight_kept (x0) (hx0 : Kept q a x0) : Kept q a (State.twilight x0) := by
  unfold State.twilight
  try dsimp only
  repeat' first
    | with_reducible assumption
    | with_reducible apply State.endTwilight_kept
    | with_reducible apply kept_ite
    | with_reducible apply kept_ite_fst
    | with_reducible apply kept_ite_snd
    | with_reducible intro _
    | with_reducible refine kept_snd ?_ (by assumption)
    | with_reducible refine kept_fst ?_ (by assumption)

theorem State.condEnds_kept (x0 x1 x2) (hx0 : Kept q a x0) : Kept q a (State.condEnds x0 x1 x2) := by
  unfold State.condEnds
  try dsimp only
  repeat' first
    | with_reducible assumption
    | with_reducible apply State.lineClear_kept
    | with_reducible apply State.setPins_kept
    | with_reducible apply State.modBase_kept
    | with_reducible apply State.twilight_kept
    | exact rfl
    | with_reducible apply kept_ite
    | with_reducible apply kept_ite_fst
    | with_reducible apply kept_ite_snd
    | with_reducible apply kept_foldl
    | with_reducible intro _
    | with_reducible refine kept_snd ?_ (by assumption)
    | with_reducible refine kept_fst ?_ (by assumption)

theorem execMeridianEdge_kept (x0 x1 x2 x3 x4) (hx4 : Kept q a x4) : KeptO q a (execMeridianEdge x0 x1 x2 x3 x4) := by
  unfold execMeridianEdge
  try dsimp only
  repeat' first
    | with_reducible assumption
    | with_reducible apply State.advance_kept
    | with_reducible apply State.merLevels_kept
    | with_reducible apply kept_ite
    | with_reducible apply kept_ite_fst
    | with_reducible apply kept_ite_snd
    | with_reducible apply keptO_next
    | with_reducible exact keptO_fault
    | with_reducible intro _
    | with_reducible refine kept_snd ?_ (by assumption)
    | with_reducible refine kept_fst ?_ (by assumption)

theorem execZIndexEdge_kept (x0 x1 x2) (hx2 : Kept q a x2) : KeptO q a (execZIndexEdge x0 x1 x2) := by
  unfold execZIndexEdge
  try dsimp only
  repeat' first
    | with_reducible assumption
    | with_reducible apply State.advance_kept
    | with_reducible apply State.zEdge_kept
    | with_reducible apply kept_ite
    | with_reducible apply kept_ite_fst
    | with_reducible apply kept_ite_snd
    | with_reducible apply keptO_next
    | with_reducible exact keptO_fault
    | with_reducible intro _
    | with_reducible refine kept_snd ?_ (by assumption)
    | with_reducible refine kept_fst ?_ (by assumption)

theorem execStuckTimeout_kept (x0 x1) (hx1 : Kept q a x1) : KeptO q a (execStuckTimeout x0 x1) := by
  unfold execStuckTimeout
  try dsimp only
  repeat' first
    | with_reducible assumption
    | with_reducible apply State.stuckExpire_kept
    | with_reducible apply keptO_next

theorem execHoldoverEnter_kept (x0 x1) (hx1 : Kept q a x1) : KeptO q a (execHoldoverEnter x0 x1) := by
  unfold execHoldoverEnter
  try dsimp only
  repeat' first
    | with_reducible assumption
    | with_reducible apply State.silence_kept
    | with_reducible apply keptO_next

theorem execHoldLimit_kept (x0 x1) (hx1 : Kept q a x1) : KeptO q a (execHoldLimit x0 x1) := by
  unfold execHoldLimit
  try dsimp only
  repeat' first
    | with_reducible assumption
    | with_reducible apply State.holdExpire_kept
    | with_reducible apply keptO_next

theorem execMeridianGlitch_kept (x0 x1) (hx1 : Kept q a x1) : KeptO q a (execMeridianGlitch x0 x1) := by
  unfold execMeridianGlitch
  try dsimp only
  repeat' first
    | with_reducible assumption
    | with_reducible apply State.sat_kept
    | with_reducible apply kept_ite
    | with_reducible apply kept_ite_fst
    | with_reducible apply kept_ite_snd
    | with_reducible apply keptO_next
    | with_reducible exact keptO_fault
    | with_reducible intro _
    | with_reducible refine kept_snd ?_ (by assumption)
    | with_reducible refine kept_fst ?_ (by assumption)

theorem execEphRelease_kept (x0 x1) (hx1 : Kept q a x1) : KeptO q a (execEphRelease x0 x1) := by
  unfold execEphRelease
  try dsimp only
  repeat' first
    | with_reducible assumption
    | with_reducible apply State.ephRow_kept
    | with_reducible apply keptO_next

theorem execEphAdd_kept (x0 x1) (hx1 : Kept q a x1) : KeptO q a (execEphAdd x0 x1) := by
  unfold execEphAdd
  try dsimp only
  repeat' first
    | with_reducible assumption
    | with_reducible apply State.ephRow_kept
    | with_reducible apply keptO_next

theorem execEphStamp_kept (x0 x1) (hx1 : Kept q a x1) : KeptO q a (execEphStamp x0 x1) := by
  unfold execEphStamp
  try dsimp only
  repeat' first
    | with_reducible assumption
    | with_reducible apply State.ephRow_kept
    | with_reducible apply keptO_next

theorem execEphDeadline_kept (x0 x1) (hx1 : Kept q a x1) : KeptO q a (execEphDeadline x0 x1) := by
  unfold execEphDeadline
  try dsimp only
  repeat' first
    | with_reducible assumption
    | with_reducible apply State.ephRow_kept
    | with_reducible apply keptO_next

theorem execEphCmdDone_kept (x0) (hx0 : Kept q a x0) : KeptO q a (execEphCmdDone x0) := by
  unfold execEphCmdDone
  try dsimp only
  repeat' first
    | with_reducible assumption
    | with_reducible apply State.ephResult_kept
    | with_reducible apply kept_ite
    | with_reducible apply kept_ite_fst
    | with_reducible apply kept_ite_snd
    | with_reducible apply keptO_next
    | with_reducible exact keptO_fault
    | with_reducible intro _
    | with_reducible refine kept_snd ?_ (by assumption)
    | with_reducible refine kept_fst ?_ (by assumption)

theorem execFaultRaise_kept (x0 x1 x2 x3 x4 x5) (hx5 : Kept q a x5) : KeptO q a (execFaultRaise x0 x1 x2 x3 x4 x5) := by
  unfold execFaultRaise
  try dsimp only
  repeat' first
    | with_reducible assumption
    | with_reducible apply State.faultRaise_kept
    | with_reducible apply keptO_next

theorem execFaultLineTest_kept (x0 x1) (hx1 : Kept q a x1) : KeptO q a (execFaultLineTest x0 x1) := by
  unfold execFaultLineTest
  try dsimp only
  repeat' first
    | with_reducible assumption
    | with_reducible apply State.raise_kept
    | with_reducible apply kept_ite
    | with_reducible apply kept_ite_fst
    | with_reducible apply kept_ite_snd
    | with_reducible apply kept_foldl
    | with_reducible apply keptO_next
    | with_reducible exact keptO_fault
    | with_reducible intro _
    | with_reducible refine kept_snd ?_ (by assumption)
    | with_reducible refine kept_fst ?_ (by assumption)

theorem execReactionTimeout_kept (x0 x1) (hx1 : Kept q a x1) : KeptO q a (execReactionTimeout x0 x1) := by
  unfold execReactionTimeout
  try dsimp only
  repeat' first
    | with_reducible assumption
    | with_reducible apply State.reactExpire_kept
    | with_reducible apply keptO_next

theorem execFaultSpill_kept (x0) (hx0 : Kept q a x0) : KeptO q a (execFaultSpill x0) := by
  unfold execFaultSpill
  try dsimp only
  repeat' first
    | with_reducible assumption
    | with_reducible apply State.spill_kept
    | with_reducible apply kept_ite
    | with_reducible apply kept_ite_fst
    | with_reducible apply kept_ite_snd
    | with_reducible apply keptO_next
    | with_reducible exact keptO_fault
    | with_reducible intro _
    | with_reducible refine kept_snd ?_ (by assumption)
    | with_reducible refine kept_fst ?_ (by assumption)

theorem execTwilightEnd_kept (x0) (hx0 : Kept q a x0) : KeptO q a (execTwilightEnd x0) := by
  unfold execTwilightEnd
  try dsimp only
  repeat' first
    | with_reducible assumption
    | with_reducible apply State.twilight_kept
    | with_reducible apply State.advanceTo_kept
    | with_reducible apply kept_ite
    | with_reducible apply kept_ite_fst
    | with_reducible apply kept_ite_snd
    | with_reducible apply keptO_next
    | with_reducible exact keptO_fault
    | with_reducible intro _
    | with_reducible refine kept_snd ?_ (by assumption)
    | with_reducible refine kept_fst ?_ (by assumption)

theorem execFaultLineClear_kept (x0 x1 x2) (hx2 : Kept q a x2) : KeptO q a (execFaultLineClear x0 x1 x2) := by
  unfold execFaultLineClear
  try dsimp only
  repeat' first
    | with_reducible assumption
    | with_reducible apply State.condEnds_kept
    | with_reducible apply keptO_next

theorem execPwrEstUpdate_kept (x0) (hx0 : Kept q a x0) : KeptO q a (execPwrEstUpdate x0) := by
  unfold execPwrEstUpdate
  try dsimp only
  repeat' first
    | with_reducible assumption
    | with_reducible apply State.drawBelow_kept
    | with_reducible apply State.setFld_kept
    | with_reducible apply kept_ite
    | with_reducible apply kept_ite_fst
    | with_reducible apply kept_ite_snd
    | with_reducible apply keptO_next
    | with_reducible exact keptO_fault
    | with_reducible intro _
    | with_reducible refine kept_snd ?_ (by assumption)
    | with_reducible refine kept_fst ?_ (by assumption)

end Sys2Proof.Machine
end

