-- ==== Sys2Proof/WellFormed.lean ====
section
/-! DEFINITION. Well-formed commands: every operand fits the field, the range or the record that it stands for. A command that is not
well-formed is no command of the outside world; the meanings are defined on it all the same. -/

namespace Sys2Proof

/-- The host stores inside the physical address space (R12). -/
def HostStore.wf (x : HostStore) : Bool := decide (x.pa + x.bytes.length ≤ 2 ^ 48)

/-- Reads are answered for an aligned 64-byte block (R12). -/
def PortAnswer.wf : PortAnswer → Bool
  | .write _ _ => true
  | .reads pa _ | .poison pa _ => decide (pa < 2 ^ 48) && pa % 64 == 0

/-- Every header field fits its bits, and the payload is 256 bytes long (R310). -/
def Frame.wf (f : Frame) : Bool :=
  decide (f.typ < 16) && decide (f.vl < 4) && decide (f.dl < 2) && decide (f.alive < 256) && decide (f.dstChip < 4096)
    && decide (f.dstTenant < 8) && decide (f.srcChip < 4096) && decide (f.srcTenant < 8) && decide (f.mailbox < 65536)
    && decide (f.offset < 2 ^ 20) && decide (f.lenM1 < 256) && decide (f.keySel < 4) && decide (f.pairSeq < 2 ^ 24)
    && decide (f.hops < 64) && decide (f.detour < 4) && decide (f.word < 2 ^ 32) && f.payload.length == 256

/-- The widths in bytes of an access to the windows; R16 and R17 say what one of another width than 4 and 8 does. -/
def accWidth (width : Nat) : Bool := width == 1 || width == 2 || width == 4 || width == 8

/-- A command is well-formed. Bounds: unit numbers (R376), causes (R267), vectors (R20), register and doorbell offsets (R17, R418), ways of
the weight cache (R176), places of upsets (log entry 61), ephemeris indices (R352), the identity records (R315, R316), maintenance payloads
(R313), the time that the clock may stand (R408); identifiers that the block gives out itself are unbounded. -/
def Instr.wf : Instr → Bool
  | .coreResetAssert => true
  | .coreResetRelease failed => failed.all (fun u => decide (u < 0x308))
  | .bringupReady => true
  | .aonResetRelease => true
  | .modidReadDone rec => rec.length == 64
  | .modidReadTimeout => true
  | .powerInputChange _ _ _ _ _ => true
  | .thermTrip => true
  | .xhClkStop => true
  | .xhClkRestart ns => decide (ns ≤ 1000000)
  | .timeCounterDecrease _ => true
  | .portResponse a => a.wf
  | .messageAccept v => decide (v < 75)
  | .registerWrite off width _ stores => decide (off < 0x100000) && accWidth width && stores.all (·.wf)
  | .tailDoorbell _ off width _ stores => decide (off < 0x1000) && accWidth width && stores.all (·.wf)
  | .headDoorbell _ off width _ => decide (off < 0x1000) && accWidth width
  | .enable _ => true
  | .enableCheckComplete _ => true
  | .disable _ => true
  | .drainEnd _ => true
  | .mcEnable => true
  | .ownerWrite _ _ => true
  | .vsOwnerWrite _ _ => true
  | .fqBaseWrite _ => true
  | .fqHeadWrite _ => true
  | .fqStickyRead off width => decide (off < 0x100000) && accWidth width
  | .faultAck _ => true
  | .vesperPendClear _ => true
  | .restart => true
  | .retrain _ => true
  | .keyLoad _ _ => true
  | .keyClear _ _ => true
  | .ephInsert => true
  | .ephRemove _ => true
  | .wake => true
  | .peek _ => true
  | .sharedDisable => true
  | .sharedClearDone => true
  | .mbEnable _ => true
  | .mbDisable _ => true
  | .fetchTurn => true
  | .entryAdmit _ _ => true
  | .submitGraph _ => true
  | .runProgram _ => true
  | .createTensor _ => true
  | .destroyTensor _ => true
  | .handleFree _ h => decide (h < 2 ^ 32)
  | .signal _ => true
  | .wait _ => true
  | .waitSatisfied _ => true
  | .waitTimeout _ => true
  | .scanCheck _ => true
  | .resumeFault _ => true
  | .invalidateXlat _ => true
  | .invalidateXlatDone _ => true
  | .setEpoch _ => true
  | .setEpochDone _ => true
  | .registerMailbox _ => true
  | .nop _ => true
  | .eclipseUnit => true
  | .eclipseDone u => decide (u < 0x308)
  | .reenterUnit => true
  | .reenterTestDone u _ => decide (u < 0x308)
  | .clearTenant => true
  | .clearTenantDone _ => true
  | .setPower => true
  | .setPowerQuiesced => true
  | .replicaConfig => true
  | .setSplit => true
  | .lockConfig => true
  | .cqStallLimit _ => true
  | .nodeFetch _ => true
  | .nodeRegister _ => true
  | .nodeGrant u => decide (u < 0x100)
  | .transit _ => true
  | .descriptorCopy _ => true
  | .contract _ => true
  | .vector _ => true
  | .signalNode _ _ => true
  | .waitNode _ _ => true
  | .timedNode _ _ => true
  | .check _ => true
  | .chain _ _ => true
  | .sliceEnd _ _ => true
  | .sliceTimeLimit _ _ => true
  | .nodeComplete _ _ => true
  | .graphAbandon _ => true
  | .move _ _ => true
  | .movet _ => true
  | .loop _ => true
  | .waitSlot _ => true
  | .signalSlot _ => true
  | .releasePerform _ => true
  | .fence _ => true
  | .stamp _ => true
  | .nopSlot _ => true
  | .halt _ => true
  | .programComplete _ => true
  | .runaheadPrefetch _ => true
  | .walkComplete _ _ => true
  | .pfTimeout _ _ => true
  | .bpTimeout _ => true
  | .creditPeriod => true
  | .wcFillReturn _ way => decide (way < 16)
  | .scrubStep upsets => upsets.all (fun x => decide (x.1 < 10485824))
  | .partitionClearDone => true
  | .spareCopyDone bank => decide (bank < 520)
  | .add _ => true
  | .sub _ => true
  | .mul _ => true
  | .fma _ => true
  | .min _ => true
  | .max _ => true
  | .abs _ => true
  | .rshift _ => true
  | .cvt _ => true
  | .cmplt _ => true
  | .cmpeq _ => true
  | .select _ => true
  | .exp _ => true
  | .log _ => true
  | .rsqrt _ => true
  | .recip _ => true
  | .rsum _ => true
  | .rmax _ => true
  | .rmin _ => true
  | .softmax _ => true
  | .layernorm _ => true
  | .groupnorm _ => true
  | .argmax _ => true
  | .topk _ => true
  | .scan _ => true
  | .scanmax _ => true
  | .atomadd _ => true
  | .xchg _ => true
  | .frameSlotSend _ => true
  | .frameForward _ f => f.wf
  | .data => true
  | .batch => true
  | .ack => true
  | .ackDelayTimeout _ => true
  | .ackTimeout _ => true
  | .nack => true
  | .nackRetryTimeout _ => true
  | .notReady => true
  | .retryAfterExpiry _ => true
  | .nrLimitTimeout _ => true
  | .ready => true
  | .maintenanceFrame _ credits alive slotCtr keySel _ => credits.length == 8 && credits.all (fun x => decide (x < 256)) && alive.length == 4 && alive.all (fun x => decide (x < 256))
      && decide (slotCtr < 2 ^ 64) && decide (keySel < 4)
  | .maintenanceTimeout _ => true
  | .laneLockLoss _ => true
  | .uncCodewordLimit _ _ => true
  | .authFailLimit _ _ => true
  | .trainAligned _ => true
  | .trainTimeout _ => true
  | .failedRetry _ => true
  | .linkIdentity _ rec => rec.length == 256
  | .linkAuth _ partnerKeyId partnerCtr _ => decide (partnerKeyId < 2 ^ 32) && decide (partnerCtr < 2 ^ 64)
  | .keyCounterLimit _ => true
  | .digest => true
  | .auditComplete ours _ others => ours.length == 12 && others.all (fun o => decide (o.1 < 3) && o.2.1.length == 12)
  | .heartbeat => true
  | .heartbeatPeriod => true
  | .memberLostTimeout _ => true
  | .verdict => true
  | .memberOut => true
  | .ackReport => true
  | .meridianEdge _ _ _ _ => true
  | .zIndexEdge _ _ => true
  | .stuckTimeout _ => true
  | .holdoverEnter _ => true
  | .holdLimit _ => true
  | .ephRelease idx => decide (idx < 1024)
  | .ephAdd idx => decide (idx < 1024)
  | .ephStamp idx => decide (idx < 1024)
  | .ephDeadline idx => decide (idx < 1024)
  | .faultRaise u cause ctx _ _ => decide (u < 0x308) && decide (cause < 0x10000) && decide (ctx < 16)
  | .faultLineTest broken => broken.all (fun u => decide (u < 0x308))
  | .reactionTimeout _ => true
  | .faultSpill => true
  | .twilightEnd => true
  | .pwrEstUpdate => true
  | .aonResetAssert => true
  | .faultLineClear u cause => decide (u < 0x308) && decide (cause < 0x10000)
  | .ephCmdDone => true
  | .meridianGlitch _ => true

end Sys2Proof
end

