-- ==== Sys2Proof/Tests/Slice0.lean ====
section
/-! SUPPORT. Tests: for each statement a state and operands that meet its hypotheses, clause by clause, and for most of
them what the command answers there; a refused term for each check of well-formedness; and the manual's own worked values. Each is about one step
at most. -/

-- The tests are evaluated one after another: each needs a stack of its own, and all at once they need too much memory.
set_option Elab.async false

open Sys2Proof Sys2Proof.Machine BitVec

def wUp : State := { State.reset with
  phase := .x0
  pins := { State.reset.pins with aonRstN := true, rstN := true, coreReq := true, coreAck := true, tmReq := true, tmAck := true, isoN := true, quiet := false }
  tmLost := false, relay := { coreReady := true } }
def wSet (s : State) (l : List (Fld × Nat)) : State := l.foldl (fun s x => s.setFld x.1 x.2) s
def wFrame : Frame := { typ := 1, vl := 1, dl := 0, enc := false, alive := 1, dstChip := 0, dstTenant := 0, srcChip := 1, srcTenant := 0, mailbox := 0, offset := 0, lenM1 := 255, keySel := 0, pairSeq := 0, hops := 1, detour := 0, word := 0, payload := List.replicate 256 0, ok := true }
def wRec : List Byte := let b := leBytes 4 0xC0A57E11 ++ [1] ++ leBytes 2 0x111 ++ [0] ++ leBytes 2 0x011 ++ leBytes 2 0 ++ leBytes 4 7 ++ leBytes 8 99 ++ List.replicate 36 0
  b ++ leBytes 4 (crc32c b)
def wEph (a : Nat) (p : Nat := 0) (nd : Option (Nat × Nat) := none) : Eph := { idx := 3, tenant := 2, base := 1, action := a, late := 0, missFault := true, pos := BitVec.ofNat 48 (50 * 65536), counter := 70, missCounter := 71, value := 5, period := BitVec.ofNat 48 p, vinc := 1, stBase := 1048576, stLog2 := 2, fires := 5, node := nd }
def wMer (a : Nat) (p : Nat := 0) (nd : Option (Nat × Nat) := none) : State := (wSet (wUp.setMer { wUp.mer with eph := [wEph a p nd] }) [(F.mbState 1, 2), (F.tmEn 2, 1), (F.tmBase 2, 1), (F.tmLimit 2, 2)]).modBase 1 (fun x => { x with edges := 3, trkNum := 100, count := 60 })
def wNode (i k : Nat) (st : NodeSt) : Node := { idx := i, bytes := leBytes 1 k ++ List.replicate 63 0, seq := 9, st := st }
def wGraph (l : List Node) : Graph := { id := 40, ctx := 2, sq := 1, tag := 7, irq := false, quiet := false, xva := 4096, count := 2, prio := 0, nodes := l, fetchedN := l.length }
def wMC (op : Nat) (body : List Byte) (s : State := wUp) : State :=
  (wSet s [(F.cqLog2 8 0, 6), (F.sqLog2 8 0, 6)]).setCtx 8 { phase := .enabled, entries := [{ id := 9, sq := 0, bytes := leBytes 1 op ++ List.replicate 7 0 ++ body ++ List.replicate (56 - body.length) 0 }] }
def wMCs (op : Nat) (body : List Byte) (s : State := wUp) : State := let t := wMC op body s; t.modCtx 8 (fun x => { x with entries := x.entries.map (fun e => { e with started := true }) })
def wPrg (b : List Byte) (f : Prog → Prog := id) : State :=
  let p : Prog := { g := 40, n := 0, ctx := 2, cls := 0, seq := 9, checked := false, ranges := [], slots := [b, List.replicate 16 0, List.replicate 16 0] }
  (wSet { wUp with graphs := [wGraph [{ wNode 0 1 .opened with units := [5], slices := [3] }, wNode 1 4 .registered]] } [(F.chState 5, 2), (F.chOwner 5, 2)]).setChan 5 { owner := 2, prog := some (f p) }
def wOn (n : Node) (f : State → State := id) : State := { f (wSet wUp [(F.tmEn 2, 1), (F.tmBase 2, 1), (F.tmLimit 2, 2)]) with graphs := [wGraph [n, wNode 9 4 .registered]] }
def wBody (i k : Nat) (st : NodeSt) (b : List Byte) : Node := { idx := i, bytes := [BitVec.ofNat 8 k] ++ List.replicate 23 0 ++ b ++ List.replicate (40 - b.length) 0, seq := 9, st := st }
def wDesc (n : Nat) : Desc := { dtype := 6, layout := 0, rank := 1, space := 1, vol := false, rep := 0, shardIndex := 0, group := 0, fill := 0, allocBase := 1048576, allocLen := 4096, groupDim := 0, slotSize := 0, origin := 0, scale := noHandle, scale2 := noHandle, base := noHandle, spillOff := 0, spillBlocks := 0, dims := [{ size := n, stride := 0, mode := 0, bcyc := 0, cnt := 0 }] }
def wVop (op : Nat) (e : List Byte) (n : Nat := 2) : State :=
  let nd : Node := { wBody 0 3 .opened (List.replicate 8 0 ++ leBytes 2 2 ++ [0, 0] ++ leBytes 4 7 ++ (List.replicate 6 (leBytes 4 noHandle)).flatten) with
    units := [0xC3], slices := [2], ops := [[BitVec.ofNat 8 op] ++ e ++ List.replicate (15 - e.length) 0, List.replicate 16 0],
    vec := { row := some 0, bufs := [List.replicate n 3, List.replicate n 5, List.replicate n 7, List.replicate n 0] } }
  (wOn nd).modCtx 2 (fun x => { x with handles := [{ h := 7, d := wDesc n }] })
def wVat (op : Nat) (e : List Byte) : State := let s := wVop op e 1; (s.modNode 40 0 (fun n => { n with vec := { n.vec with bufs := [[0], [5], [7], [0]] } })).tileWr 1048576 [1, 2, 3, 4]
def wProgOn (b : List (List Byte)) (f : State → State := id) : State := f ((wPrg []).modChan 5 (fun c => { c with prog := c.prog.map (fun p => { p with slots := b }) }))
def wMb : Mailbox := { idx := 7, srcAny := false, slogEn := false, winBase := 1048576, winLen := 4096, counter := 70, srcGroup := 1, srcTenant := 0, slogBase := 1048576, slogLog2 := 0 }
def wData (typ : Nat) (off word? : Nat) (seq : Nat := 5) : Frame :=
  let f : Frame := { wFrame with typ := typ, dstTenant := 2, mailbox := 7, offset := off, lenM1 := if typ = 2 then 31 else 0, pairSeq := seq, payload := (if typ = 2 then batchPayload ⟨1, 2, 0, false⟩ 0 0 9 0 3 else List.replicate 256 (0x5A : Byte)) }
  { f with word := if word? = 0 then crc32c (frameMsg f (if typ = 2 then batchSeq f else 9)) else 1 }
def wRx (f : Frame) (left : Nat := 3) (un : Nat := 0) : State :=
  let s := (wSet wUp [(F.tmEn 2, 1), (F.tmBase 2, 1), (F.tmLimit 2, 2), (F.enable 2, 1), (F.linkState 0, 4), (F.fabValid, 1), (F.dims, 0x111)]).modCtx 2 (fun x => { x with mailboxes := [wMb] })
  s.setRelay { s.relay with inbox := [f, wFrame], rx := [{ srcGroup := 1, srcTenant := 0, dstTenant := 2, mailbox := 7, synced := true, expected := 5, nodeSeq := 9, left := left, unacked := un }] }
def wTx (f : Frame) (x : TxPair → TxPair := id) : State :=
  let s := wSet (wPrg [0]) [(F.fabValid, 1), (F.dims, 0x111), (F.linkState 0, 4), (F.ackTimeout, 7), (F.nrLimit 2, 3)]
  let d (q typ : Nat) : LogFrame := { pair := 0, frame := { wFrame with typ := typ, dstChip := 1, srcChip := 0, srcTenant := 2, mailbox := 7, pairSeq := q }, sent := true, passed := true, chan := 5, g := 40, n := 0, no := 0, t := 2 }
  s.setRelay { s.relay with inbox := [f, wFrame], tx := [x { srcTenant := 2, dstChip := 1, dstTenant := 0, mailbox := 7, nextSeq := 9, adv := 4 }], log := [d 5 2, d 6 1, d 7 1] }
def wAns (typ seq word : Nat) : Frame := { wFrame with typ := typ, srcChip := 1, srcTenant := 0, dstTenant := 2, mailbox := 7, pairSeq := seq, word := word }
def wRepF (rt : Nat) (rest : List Byte) (m : Nat := 1) : Frame := { wFrame with typ := 7, payload := repPayload rt m 3 4 rest }
def wRep (f : Frame) (r : Replica → Replica := id) : State :=
  let s := wTx f
  s.setRep (r { size := 2, groupId := 3, member := 0, members := [0, 1, 2], repTenants := 4, inService := 3, active := 0, gen := 4, lastHeard := [(1, 7)] })
def wDig (t seq num sum cnt fl : Nat) : List Byte := leBytes 1 t ++ [0, 0, 0] ++ leBytes 4 seq ++ leBytes 4 0 ++ leBytes 2 num ++ leBytes 8 sum ++ leBytes 4 cnt ++ leBytes 1 fl
def wIv (own : Option (Nat × Nat)) (ds : List (Nat × Digest)) (au : Bool := false) : Interval := { t := 2, own := own, seq := 9, num := 1, digests := ds, audit := au }
def wVer (out : Nat) (m : Nat := 1) : Frame := wRepF 2 (List.replicate 27 0 ++ leBytes 1 out) m
def wNotice (gen out : Nat) (r : Replica → Replica := id) : State := let s := wRep wFrame r
  s.setRelay { s.relay with notices := [(none, { wRepF 3 (List.replicate 27 0 ++ leBytes 1 out) with payload := repPayload 3 1 3 gen (List.replicate 27 0 ++ leBytes 1 out) }), (some 2, wFrame)] }
def wEn (op : Nat) (body : List Byte) (t : Nat := 2) : Entry := { id := 9, sq := 0, bytes := leBytes 1 op ++ List.replicate 7 0 ++ body ++ List.replicate (56 - body.length) 0 }
def wTenBase (s : State := wUp) : State := { wSet s [(F.cqLog2 2 0, 6), (F.sqLog2 2 0, 6), (F.schedWeight 2, 1), (F.tmEn 2, 1), (F.tmBase 2, 1), (F.tmLimit 2, 2), (F.ctrBase 2, 1), (F.ctrLen 2, 1), (F.dtLog2 2, 8), (F.dtBase 2, 7)] with
  tlb := [⟨2, 4096, 4096, 8192, true, true, false, false⟩] }
def wTen (op : Nat) (body : List Byte) (s : State := wUp) : State :=
  (wTenBase s).setCtx 2 { phase := .enabled, entries := [wEn op body] }
def wTenS (op : Nat) (body : List Byte) (s : State := wUp) : State :=
  (wTenBase s).setCtx 2 { phase := .enabled, entries := [{ wEn op body with started := true }] }
def wFet (e : Entry) : State := (wTenBase).setCtx 2 { phase := .enabled, fetched := [e] }
def wImg : List Byte := [BitVec.ofNat 8 6, BitVec.ofNat 8 9] ++ List.replicate 6 (0 : Byte) ++ leBytes 8 1048576 ++ leBytes 5 4096 ++ List.replicate 11 (0 : Byte) ++ leBytes 4 noHandle ++ leBytes 4 noHandle ++ leBytes 4 noHandle ++ List.replicate 12 (0 : Byte) ++ leBytes 4 4 ++ leBytes 5 0 ++ List.replicate 63 (0 : Byte)
def wMbI : List Byte := [BitVec.ofNat 8 3] ++ List.replicate 3 (0 : Byte) ++ leBytes 4 1048576 ++ leBytes 4 4096 ++ leBytes 2 70 ++ List.replicate 50 (0 : Byte)
def wWait (w : Who) (f : State → State := id) (to_ : Nat := 5) : State :=
  let s := f (wTenS 6 []); { s with waits := [{ t := 2, who := w, counter := 70, cond := 0, value := 4, start := 3, timeoutUs := to_ }] }
def wPf (l : List Who) (cause : Nat := 1) : PFault := ⟨2, 64, cause, 1, true, l, 5, 5, 4096, 0, 0⟩
def wWalkS (n : Nat) (iv : List (Nat × Nat)) : State :=
  let s := wSet (wPrg [1]) [(F.chState 5, 4), (F.ptRoot 2, 16)]
  let s := if n = 0 then s else (((s.sysWr 65536 (leBytes 8 (1 + 17 * 4096))).sysWr 69632 (leBytes 8 (1 + 18 * 4096))).sysWr 73728 (leBytes 8 (1 + 19 * 4096))).sysWr (77824 + 8) (leBytes 8 (0x3F + 2 ^ 63 * 0 + 20 * 4096))
  { s with walks := [{ t := 2, xva := 4096, write := true, who := .chan 5, inval := iv }] }

/-- What holds of the next state that a command answers. -/
def wNext (o : Host.Outcome State Fault Refusal) (f : State → Bool) : Bool := match o with | .next t => f t | _ => false
def wTxn (rec : Bool) (stage : Nat) (who : Option Who := none) : Txn :=
  { port := 1, unit := 0xE1, who := who, isRec := rec, pa := 0x100, bytes := [7, 8, 9], cells := [(0x100, 7)], stage := stage, sent := true }

theorem test_meets_CoreReleaseBringsUp : (
(let s : State := { State.reset with pins := { State.reset.pins with coreReq := true, tmReq := true, isoN := true } };
    decide (s.pins.coreReq = true ∧ s.pins.tmReq = true ∧ s.pins.tmRet = false ∧ s.pins.isoN = true ∧ s.coreRuns = false) && (let failed : List Nat := [72, 3]; true))
  && (let s : State := { wUp with phase := .bringup };
    decide (s.phase = .bringup ∧ s.pins.clkRun = true ∧ s.fld F.bringupErr = 0xFFFF ∧ s.coll.fatal = false))) = true := by decide +kernel

theorem test_meets_ThermalTripIsRecorded : (
(let s : State := wUp;
    decide (s.collUp = true ∧ s.eclipsed 0xDE = false ∧ (∀ f ∈ s.coll.faults, f.unit ≠ 0xDE)))) = true := by decide +kernel

theorem test_meets_ClockStopsInIdleAlone : (
(let s : State := { wUp with phase := .x1 };
    decide ((s.phase = .x1 ∨ s.coreRuns = false)))
  && (let s : State := wUp;
    decide (s.phase ≠ .x1 ∧ s.coreRuns = true))
  && (let s : State := { wUp with pins := { wUp.pins with clkRun := false }, captured := [(0xDE, 0x50, 15, true)] };
    decide (s.pins.clkRun = false ∧ s.heldAcc = []) && (let ns : Nat := 2; true))) = true := by decide +kernel

theorem test_meets_MessagesAndRecordsLeave : (
  (let s : State := { wUp with msgWait := [64] }
   decide (64 ∈ s.msgWait ∧ s.fld (irqFld Reg.irqPend 64) = 0) && wNext (exec (.messageAccept 64) s) (fun t => t.msgWait == []))
  && (let s : State := { wUp with txns := [wTxn true 1] }
      decide (s.coreRuns = true ∧ s.pins.clkRun = true)
        && wNext (exec (.portResponse (.write 0 false)) s) (fun t => t.txns.map (·.stage) == [2] && Sparse.get (fun _ => 0) t.sys 0x101 == 8
            && Sparse.get (fun _ => 0) t.sys 0x100 == 0))
  && (let s : State := { wUp with txns := [wTxn true 2] }
      decide (s.coreRuns = true ∧ s.pins.clkRun = true)
        && wNext (exec (.portResponse (.write 0 false)) s) (fun t => t.txns == [] && Sparse.get (fun _ => 0) t.sys 0x100 == 7))
  && (let s : State := { wUp with txns := [wTxn false 0 (some (.node 40 1))] }
      decide (s.coreRuns = true ∧ s.pins.clkRun = true)
        && wNext (exec (.portResponse (.write 0 false)) s) (fun t => t.txns == [] && Sparse.get (fun _ => 0) t.sys 0x100 == 7))
  && wNext (exec (.portResponse (.poison 200 true)) wUp) (fun t => t.poison == [3])) = true := by decide +kernel

theorem test_meets_CountedEdgeMovesItsBase : (
(let s : State := wSet wUp [(F.mbState 1, 2), (F.mbMode 1, 2), (F.mbQmul 1, 4)];
    decide (s.merUp = true) && (let b : Fin 4 := 1; decide ((s.fld (F.mbState b) = 1 ∨ s.fld (F.mbState b) = 2) ∧ s.fld (F.mbInvA b) = 0 ∧ s.fld (F.mbInvB b) = 0 ∧ (s.base b).stuck = false) && (let dt : Nat := 2; decide (((s.base b).edges = 0 ∨ (s.base b).lastEdge + 40 ≤ s.aon + dt) ∧ s.fld (F.mbMode b) = 2 ∧ (s.base b).a = false) && (let pa : Bool := true; decide (pa = true) && (let pb : Bool := true; true)))))
  && (let s : State := (wSet wUp [(F.mbState 1, 1), (F.mbMode 1, 1), (F.mbQmul 1, 4)]).modBase 1 (fun x => { x with edges := 1 });
    decide (s.merUp = true) && (let b : Fin 4 := 1; decide ((s.fld (F.mbState b) = 1 ∨ s.fld (F.mbState b) = 2) ∧ s.fld (F.mbInvA b) = 0 ∧ s.fld (F.mbInvB b) = 0 ∧ (s.base b).stuck = false) && (let dt : Nat := 50; decide (((s.base b).edges = 0 ∨ (s.base b).lastEdge + 40 ≤ s.aon + dt) ∧ s.fld (F.mbMode b) = 1 ∧ s.fld (F.mbQmul b) = 4 ∧ s.fld (F.mbDir b) = 0) && (let pa : Bool := true; decide (pa ≠ (s.base b).a) && (let pb : Bool := false; decide (pb = (s.base b).b))))))) = true := by decide +kernel

theorem test_meets_GlitchesAndIndexEdges : (
(let s : State := wUp;
    decide (s.merUp = true) && (let b : Fin 4 := 2; true))
  && (let s : State := (wSet wUp [(F.mbState 1, 1), (F.mbMode 1, 2), (F.mbQmul 1, 4)]).modBase 1 (fun x => { x with edges := 3, lastEdge := 0, trkNum := 100 });
    decide (s.merUp = true) && (let b : Fin 4 := 1; decide (s.fld (F.mbState b) = 1 ∧ s.fld (F.mbMode b) = 2 ∧ s.fld (F.mbInvA b) = 0 ∧ (s.base b).a = false ∧ 0 < (s.base b).edges) && (let dt : Nat := 2; decide (s.aon + dt < (s.base b).lastEdge + 40) && (let pb : Bool := true; true))))
  && (let s : State := (wSet wUp [(F.mbState 1, 2), (F.mbMode 1, 1), (F.mbZMode 1, 2), (F.mbZPeriod 1, 4)]).modBase 1 (fun x => { x with edges := 1, trkNum := 7, count := 99, lastZ := some 3 });
    decide (s.merUp = true) && (let b : Fin 4 := 1; decide (s.fld (F.mbState b) ≠ 0 ∧ s.fld (F.mbMode b) = 1 ∧ s.fld (F.mbZMode b) ≠ 0) && (let dt : Nat := 2; true)))) = true := by decide +kernel

theorem test_meets_SilenceHoldsThenFreezes : (
(let s : State := (wSet wUp [(F.mbState 1, 2), (F.mbMode 1, 1), (F.mbHoldUs 1, 2)]).modBase 1 (fun x => { x with edges := 2, trkNum := 7, count := 99 });
    decide (s.merUp = true) && (let b : Fin 4 := 1; decide (s.fld (F.mbState b) = 2 ∧ s.fld (F.mbHoldUs b) ≠ 0)))
  && (let s : State := (wSet wUp [(F.mbState 1, 3), (F.mbMode 1, 1), (F.mbHoldUs 1, 2)]).modBase 1 (fun x => { x with edges := 2, trkNum := 7, count := 99 });
    decide (s.merUp = true) && (let b : Fin 4 := 1; decide (s.fld (F.mbState b) = 3 ∧ s.pins.clkRun = true ∧ s.eclipsed 0xDC = false ∧ (∀ f ∈ s.coll.faults, f.unit ≠ 0xDC))))) = true := by decide +kernel

theorem test_meets_StuckInputAndClockFaults : (
(let s : State := (wSet wUp [(F.mbState 1, 2), (F.mbMode 1, 2), (F.mbStuckUs 1, 2)]).modBase 1 (fun x => { x with edges := 2, trkNum := 7, a := true });
    decide (s.pins.clkRun = true ∧ s.eclipsed 0xDC = false ∧ (∀ f ∈ s.coll.faults, f.unit ≠ 0xDC) ∧ s.merUp = true) && (let b : Fin 4 := 1; decide (s.fld (F.mbState b) ≠ 0 ∧ s.fld (F.mbStuckUs b) ≠ 0 ∧ s.fld (F.mbMode b) = 2 ∧ (s.base b).a = true ∧ (s.base b).stuck = false)))
  && (let s : State := { wUp with tc := 9 };
    decide (s.pins.clkRun = true ∧ s.eclipsed 0xDC = false ∧ (∀ f ∈ s.coll.faults, f.unit ≠ 0xDC) ∧ s.collUp = true) && (let tc : W64 := 0x0000000000000002#64; decide (tc.toNat < s.tc.toNat)))) = true := by decide +kernel

theorem test_meets_EnableChecksAndDrains : (
(let s : State := { wUp with phase := .bringup };
    decide (s.pins.clkRun = true ∧ s.windowOpen = true) && (let t : Fin 8 := 2; decide ((s.ctx t).phase = .disabled)))
  && (let s : State := { wUp with phase := .bringup };
    decide (s.pins.clkRun = true ∧ s.windowOpen = true ∧ (s.ctx 8).phase = .disabled))
  && (let s : State := (wSet wUp [(F.enable 3, 1)]).modCtx 3 (fun x => { x with phase := .enabled });
    decide (s.pins.clkRun = true ∧ s.windowOpen = true) && (let t : Fin 8 := 3; decide ((s.ctx t).phase = .enabled)))
  && (let s : State := wUp.modCtx 3 (fun x => { x with phase := .checking });
    decide (s.pins.clkRun = true ∧ s.phase = .x0) && (let c : Fin 9 := 3; decide ((s.ctx c).phase = .checking)))
  && (let s : State := wUp.modCtx 3 (fun x => { x with phase := .draining, reEnable := true });
    decide (s.pins.clkRun = true ∧ s.phase = .x0) && (let c : Fin 9 := 3; decide ((s.ctx c).phase = .draining ∧ s.ctxDrained c = true)))) = true := by decide +kernel

theorem test_meets_OwnerChangesWhenFree : (
  (let s : State := wUp.modChan 2 (fun c => { c with stampSeq := 4 })
   decide (s.windowOpen = true ∧ s.pins.clkRun = true ∧ (s.chan 2).owner ≠ 3 ∧ s.chSt 2 ≤ 1 ∧ (s.chan 2).prog = none ∧ (s.chan 2).idle = []
        ∧ s.eclipsed 2 = false)
     && wNext (exec (.ownerWrite 2 3) s) (fun t => (t.chan 2).owner == 3 && (t.chan 2).stampSeq == 0 && t.fld (F.chState 2) == 1
          && t.fld (F.chOwner 2) == 3))
  && (let s : State := wPrg [0]
      decide (s.windowOpen = true ∧ s.pins.clkRun = true ∧ 1 < s.chSt 5)
        && wNext (exec (.ownerWrite 5 15) s) (fun t => t.chans == s.chans && t.fld (F.chOwner 5) == 15))
  && (let s : State := wUp
      decide (s.fld (F.chOwner 2) ≠ 8) && wNext (exec (.ownerWrite 2 8) s) (fun t => t.fld F.badAcc == 1 && t.fld (F.chOwner 2) == 15))
  && (let s : State := wUp
      decide (s.vsBusy 2 = false) && wNext (exec (.vsOwnerWrite 2 7) s) (fun t => t.vsOwn 2 == 7))
  && (let s : State := wVop 1 [0x8A, 0xF9, 1]
      decide (s.vsBusy 3 = true) && wNext (exec (.vsOwnerWrite 3 7) s) (fun t => t.vsOwn 3 == s.vsOwn 3 && t.fld (F.vsOwner 3) == 7))
  && (let s : State := wUp
      decide (s.fld (F.vsOwner 2) ≠ 14) && wNext (exec (.vsOwnerWrite 2 14) s) (fun t => t.fld F.badAcc == 1))) = true := by decide +kernel

theorem test_meets_FaultQueueRegisters : (
  (let s : State := wSet wUp [(F.fqTail, 5)]
   decide (s.windowOpen = true ∧ s.pins.clkRun = true ∧ s.coreLock = false)
     && wNext (exec (.fqBaseWrite (6 + 5 * 4096)) s) (fun t => t.fld F.fqLog2 == 6 && t.fld F.fqAddr == 5 && t.fld F.fqTail == 0))
  && (let s : State := wSet wUp [(F.fqTail, 5)]
      decide (headOk (s.fld F.fqTail) (s.fld F.fqHead) 5 = true) && wNext (exec (.fqHeadWrite 5) s) (fun t => t.fld F.fqHead == 5))
  && (let s : State := wSet wUp [(F.fqTail, 5)]
      decide (headOk (s.fld F.fqTail) (s.fld F.fqHead) 6 = false)
        && wNext (exec (.fqHeadWrite 6) s) (fun t => t.fld F.fqHead == 0 && t.fld F.badAcc == 1))
  && wNext (exec .fqStickyRead wUp) (fun t => t.coll.stickyRead)
  && (decide (Reg.timed (Reg.schedCfg / 8 * 8) = 0) && wNext (exec (.fqStickyRead Reg.schedCfg 4) wUp) (fun t => t == wUp))
  && wNext (exec (.fqStickyRead 0x70042 4) wUp) (fun t => t.fld F.badAcc == 1 && t.coll == wUp.coll)
  && wNext (exec (.fqStickyRead 0x70040 2) wUp) (fun t => t.fld F.badAcc == 1)) = true := by decide +kernel

theorem test_meets_FaultsAreAcknowledged : (
  (let s : State := wUp.raise { unit := 3, cause := 0x17, line := true }
   decide (s.windowOpen = true ∧ s.pins.clkRun = true ∧ s.vesper = false ∧ ∃ f ∈ s.coll.faults, f.id = 0 ∧ f.acked = false)
     && wNext (exec (.faultAck 0) s) (fun t => t.coll.faults.all (·.acked) && t.pins == s.pins))
  && (let s : State := wUp.raise { unit := 3, cause := 0x17, line := true }
      decide (∀ f ∈ s.coll.faults, f.id = 2 → f.acked = true)
        && wNext (exec (.faultAck 2) s) (fun t => t.coll == s.coll && t.fld F.ackErr == 1))
  && (let s : State := (wSet wUp [(F.vesper, 1), (F.vspIen 3, 1), (F.vspPend 3, 1)]).raise { unit := 3, cause := 0x17 }
      decide (s.windowOpen = true ∧ s.pins.clkRun = true ∧ s.vesper = true)
        && wNext (exec (.vesperPendClear 3) s) (fun t => t.fld (F.vspPend 3) == 0 && t.fld (F.vspIen 3) == 1 && t.coll.faults.all (·.acked))))
    = true := by decide +kernel

theorem test_meets_KeySlotsLoadAndClear : (
  (let s : State := wUp.modKey 2 1 (fun k => { k with words := [(0, 7)], saltW := 3, ctr := 9 })
   decide (s.windowOpen = true ∧ s.pins.clkRun = true ∧ s.fld (F.txKeySel 2) ≠ 1)
     && wNext (exec (.keyLoad 2 1) s) (fun t => (t.keySlot 2 1).key == [7, 0, 0, 0] && (t.keySlot 2 1).salt == 3 && (t.keySlot 2 1).ctr == 0
          && (t.keySlot 2 1).loaded))
  && (let s : State := wUp.modKey 2 1 (fun k => { k with loaded := true, key := [7, 0, 0, 0], words := [(0, 8)] })
      decide (s.fld (F.txKeySel 2) ≠ 1)
        && wNext (exec (.keyClear 2 1) s) (fun t => (t.keySlot 2 1).key == [] && (t.keySlot 2 1).words == [(0, 8)] && !(t.keySlot 2 1).loaded))
  && (decide (wUp.fld (F.txKeySel 2) = 0) && wNext (exec (.keyLoad 2 0) wUp) (fun t => t.relay == wUp.relay && t.fld F.badAcc == 1)
        && wNext (exec (.keyClear 2 0) wUp) (fun t => t.relay == wUp.relay && t.fld F.badAcc == 1))) = true := by decide +kernel

theorem test_meets_EphemerisCommands : (
  (let s : State := wUp
   decide (s.windowOpen = true ∧ s.pins.clkRun = true ∧ s.mer.cmd = none)
     && wNext (exec .ephInsert s) (fun t => t.fld F.ephBusy == 1) && wNext (exec (.ephRemove 2) s) (fun t => t.mer.cmd.any (·.2.1 == 2)))
  && (let s : State := wUp.setMer { wUp.mer with cmd := some (1, 0, []) }
      decide (s.mer.cmd ≠ none) && wNext (exec .ephInsert s) (fun t => t.fld F.ephLost == 1))
  && (let s : State := wUp.setMer { wUp.mer with cmd := some (2, 3, []), eph := [wEph 1] }
      decide (s.mer.cmd = some (2, 3, [])) && wNext (exec .ephCmdDone s) (fun t => t.mer.eph == [] && t.mer.cmd == none))
  && (let b : List Byte := List.replicate 32 0
      let s : State := wUp.setMer { wUp.mer with cmd := some (1, 0, b) }
      decide (s.mer.cmd = some (1, 0, b) ∧ s.ephCheck b ≠ 0) && wNext (exec .ephCmdDone s) (fun t => t.fld F.ephErr == 2))
  && (let b : List Byte := [1, 2, 0, 0, 50, 0, 0, 0, 70] ++ List.replicate 23 0
      let s : State := (wSet wUp [(F.enable 2, 1), (F.ctrBase 2, 1), (F.ctrLen 2, 1), (F.ephQuota 2, 4), (F.mbState 0, 1)]).setMer { wUp.mer with cmd := some (1, 0, b), eph := [{ wEph 1 with idx := 0 }] }
      decide (s.mer.cmd = some (1, 0, b) ∧ s.ephCheck b = 0 ∧ (ephOf b s.ephFree).late = 0)
        && wNext (exec .ephCmdDone s) (fun t => t.mer.eph.map (·.idx) == [0, 1] && t.fld F.ephIdx == 1 && t.fld F.ephErr == 0))) = true := by decide +kernel

theorem test_meets_WakePeekAndSharedPartition : (
(let s : State := wUp;
    decide (s.pins.clkRun = true ∧ s.phase = .x0))
  && (let s : State := { wUp with phase := .x1 };
    decide (s.pins.clkRun = true ∧ s.phase = .x1))
  && (let s : State := (wSet wUp [(F.peekEn, 1)]).tileWr 320 [1, 2, 3];
    decide (s.pins.clkRun = true ∧ s.windowOpen = true ∧ s.relay.dbgLock = false ∧ s.fld F.peekEn = 1) && (let w : BitVec 20 := 0x00002#20; decide (s.inShared (64 * w.toNat) = false ∧ (∀ t : Fin 8, s.fld (F.enable t) = 1 → s.inOwn t (64 * w.toNat) = false) ∧ s.eccIn (64 * w.toNat) 64 = [])))
  && (let s : State := wSet wUp [(F.shrEn, 1), (F.shrBase, 2), (F.shrLimit, 3)];
    decide (s.pins.clkRun = true ∧ s.windowOpen = true ∧ s.coreLock = false ∧ s.fld F.shrEn = 1 ∧ s.clears.any (·.tenant.isNone) = false))
  && (let s : State := { (wSet wUp [(F.shrEn, 1)]).tileWr 5 [1, 2, 3] with clears := [⟨6, 100, none⟩] };
    decide (s.pins.clkRun = true ∧ s.phase = .x0) && ((s.clears.find? (·.tenant.isNone)).any fun c => true))) = true := by decide +kernel

theorem test_meets_BasesStartAndStop : (
  (let s : State := wSet { wUp with phase := .bringup } [(F.mbPosInit 2, 6), (F.mbMode 2, 1), (F.mbQmul 2, 4)]
   decide (s.windowOpen = true ∧ s.pins.clkRun = true ∧ s.coreLock = false ∧ s.fld (F.mbEn 2) = 0)
     && wNext (exec (.mbEnable 2) s) (fun t => t.fld (F.mbEn 2) == 1 && t.fld (F.mbState 2) == 1 && (t.base 2).count == 6 && (t.base 2).edges == 0))
  && (let s : State := wSet (wMer 1) [(F.mbEn 1, 1), (F.mbQmul 1, 4), (F.mbMode 1, 1)]
      decide (s.windowOpen = true ∧ s.pins.clkRun = true ∧ s.coreLock = false ∧ s.fld (F.mbEn 1) = 1
          ∧ s.mer.eph.all (fun e => e.base != 1 || e.node.isNone) = true)
        && wNext (exec (.mbDisable 1) s) (fun t => t.fld (F.mbEn 1) == 0 && t.fld (F.mbState 1) == 0 && t.mbPos 1 == 0 && t.mer.eph == []))
  && (let s : State := wSet wUp [(F.mbEn 1, 1), (F.mbQmul 1, 4), (F.mbMode 1, 1)]
      wNext (exec (.mbEnable 1) s) (fun t => t.mer == s.mer && t.regs == s.regs) && wNext (exec (.mbDisable 3) s) (fun t => t.mer == s.mer && t.regs == s.regs))
  && (let s : State := { wSet wUp [(F.mbEn 1, 1), (F.mbQmul 1, 4), (F.mbMode 1, 1)] with coreLock := true }
      wNext (exec (.mbEnable 2) s) (fun t => t.fld (F.mbEn 2) == 0 && t.fld F.lockViol == 1)
        && wNext (exec (.mbDisable 1) s) (fun t => t.fld (F.mbEn 1) == 1 && t.fld F.lockViol == 1))) = true := by decide +kernel

theorem test_meets_HostStoresAndDoorbells : (
  (let s : State := { wUp with phase := .bringup }
   decide (s.windowOpen = true ∧ s.pins.clkRun = true ∧ s.coreLock = false ∧ s.eMarked Reg.msgAddr (s.reg Reg.msgAddr ^^^ 0x1000) = false
        ∧ Reg.legal Reg.msgAddr (s.reg Reg.msgAddr) 0x1000 = true)
     && wNext (exec (.registerWrite Reg.msgAddr 8 0x1000 [⟨4096, [7], false⟩]) s) (fun t => t.reg Reg.msgAddr == 0x1000 && Sparse.get (fun _ => 0) t.sys 4096 == 7))
  && ([Reg.msgAddr, Reg.msgData, Reg.schedCfg, Reg.bwCfg, Reg.tmCfg, 0x60400, 0x71008].all (fun off =>
        decide (wUp.eMarked off (wUp.reg off ^^^ wUp.reg off) = false ∧ Reg.legal off (wUp.reg off) (wUp.reg off) = true)))
  && wNext (exec (.registerWrite 0x60404 4 5 []) wUp) (fun t => t.reg 0x60400 == 5 <<< 32)
  && (let s : State := { wUp with coreLock := true }
      decide ((s.reg Reg.msgData ^^^ 5) &&& 0xFFFFFFFF ≠ 0)
        && wNext (exec (.registerWrite Reg.msgData 8 5 []) s) (fun t => t.reg Reg.msgData == s.reg Reg.msgData && t.fld F.lockViol == 1))
  && wNext (exec (.registerWrite 0x3002 4 1 []) wUp) (fun t => t.fld F.badAcc == 1)
  && (let s : State := (wSet wUp [(F.sqLog2 3 1, 6)]).modCtx 3 (fun x => { x with phase := .enabled })
      decide ((s.ctx (pageCtx 4)).phase = .enabled ∧ s.sqUsed (pageCtx 4) 1 = true)
        && wNext (exec (.tailDoorbell 4 8 4 64 []) s) (fun t => t.fld (F.sqTail 3 1) == 64)
        && wNext (exec (.tailDoorbell 4 8 4 65 []) s) (fun t => t.fld (F.sqTail 3 1) == 0 && t.fld (F.dbErr 3) == 1))
  && (let s : State := { (wSet wUp [(F.cqLog2 3 1, 6), (F.cqTail 3 1, 5)]).modCtx 3 (fun x => { x with phase := .draining }) with phase := .x1 }
      decide ((s.ctx (pageCtx 4)).phase = .draining ∧ s.cqUsed (pageCtx 4) 1 = true
          ∧ headOk (s.fld (F.cqTail (pageCtx 4) 1)) (s.fld (F.cqHead (pageCtx 4) 1)) 5 = true)
        && wNext (exec (.headDoorbell 4 0x108 8 5) s) (fun t => t.fld (F.cqHead 3 1) == 5)
        && wNext (exec (.headDoorbell 4 0x108 8 6) s) (fun t => t.fld (F.cqHead 3 1) == 0 && t.fld (F.dbErr 3) == 1))
  && ([(4, 8), (0, 8), (4, 0x204), (4, 0x110)].all (fun x =>
        wNext (exec (.tailDoorbell (Fin.ofNat 9 x.1) x.2 4 0 []) wUp) (fun t => t.fld (F.dbErr (pageCtx x.1)) == 1)))) = true := by decide +kernel

theorem test_meets_RelayReadsItsIdentity : (
  (decide (State.reset.pins.aonRstN = false)
     && wNext (exec .aonResetRelease State.reset) (fun t => t.relay.mgmt == some (0x50, 0, 64) && t.relay.modid == .reading 1 0))
  && (let s : State := wUp.setRelay { wUp.relay with modid := .reading 2 5 }
      wNext (exec .modidReadTimeout s) (fun t => t.relay.modid == .reading 3 5000005 && t.relay.mgmt == some (0x50, 0, 64)))
  && (let s : State := (wSet wUp [(F.linkState 2, 4), (F.fabValid, 1)]).setRelay { wUp.relay with modid := .reading 3 5 }
      wNext (exec .modidReadTimeout s) (fun t => t.relay.modid == .failed && t.fld (F.linkState 2) == 0))
  && (let s : State := wUp.setRelay { wUp.relay with modid := .reading 1 5 }
      decide (modidOk (slice wRec 0 64) = true ∧ modidOk (slice [1, 2] 0 64) = false)
        && wNext (exec (.modidReadDone wRec) s) (fun t => t.relay.modid == .valid && t.fld F.chipId == 0x11 && t.fld F.dims == 0x111)
        && wNext (exec (.modidReadDone [1, 2]) s) (fun t => t.relay.modid == .failed))
  && (decide (wUp.windowOpen = true ∧ wUp.fld F.ovrEn = 0) && wNext (exec .restart wUp) (fun t => t.relay.modid == .reading 1 wUp.aon))
  && (let s : State := wSet wUp [(F.ovrEn, 1)]
      decide (s.windowOpen = true ∧ s.pins.aonRstN = true ∧ s.fld F.ovrEn = 1)
        && wNext (exec .restart s) (fun t => t.relay.modid == .valid && t.fld F.fabValid == 1))
  && wNext (exec .aonResetAssert (wSet wUp [(F.ovrEn, 1)])) (fun t => t.relay.modid == .idle && t.fld F.ovrEn == 0)) = true := by decide +kernel

theorem test_meets_PortsTrain : (
  (let s : State := wSet wUp [(F.linkState 2, 1), (F.fabValid, 1), (F.dims, 0x111)]
   decide (s.pins.aonRstN = true ∧ s.fld (F.linkState 2) = 1 ∧ (s.port 2).attempts < 2)
     && wNext (exec (.trainAligned 2) s) (fun t => t.fld (F.linkState 2) == 2 && (t.port 2).wire.any (·.1.payload.take 2 == [0x4E, 0xCA]))
     && wNext (exec (.trainTimeout 2) s) (fun t => t.aon == 15000000 && (t.port 2).attempts == 1))
  && (let s : State := (wSet wUp [(F.linkState 2, 1)]).modPort 2 (fun x => { x with attempts := 2 })
      decide (2 ≤ (s.port 2).attempts ∧ s.collUp = true ∧ s.eclipsed 0xEA = false)
        && wNext (exec (.trainTimeout 2) s) (fun t => t.fld (F.linkState 2) == 5 && t.coll.faults.map (·.cause) == [0x40]))
  && ([2, 3].all (fun st => let s : State := wSet wUp [(F.linkState 2, st)]
        wNext (exec (.trainTimeout 2) s) (fun t => t.aon == 20000000 && (t.port 2).attempts == 1)))
  && (let s : State := (wSet wUp [(F.linkState 2, 5), (F.fabValid, 1), (F.dims, 0x111)]).raise { unit := 0xEA, cause := 0x40, line := true }
      wNext (exec (.failedRetry 2) s) (fun t => t.aon == 1000000000 && t.coll.faults.all (!·.line)))
  && (decide (wUp.windowOpen = true) && wNext (exec (.retrain 2) (wUp.modPort 2 (fun x => { x with attempts := 2 }))) (fun t => (t.port 2).attempts == 0))
  && (let s : State := (wSet wUp [(F.encEn 2, 1)]).modKey 2 0 (fun k => { k with loaded := true, ctr := 2 ^ 48 })
      decide (s.keyDead 2 = true ∧ (s.keySlot 2 (s.fld (F.txKeySel 2))).told = false)
        && wNext (exec (.keyCounterLimit 2) s) (fun t => t.coll.faults.map (·.cause) == [0x42]))) = true := by decide +kernel

theorem test_meets_LinkIdentityDecides : (
(let s : State := wSet wUp [(F.linkState 2, 2), (F.fabValid, 1), (F.dims, 0x111), (F.encEn 2, 1)];
    decide (s.pins.aonRstN = true) && (let p : Fin 6 := 2; decide (s.fld (F.linkState p) = 2) && (let rc : List Byte := [0x4e#8, 0xca#8, 0x21#8, 0x0a#8, 0x00#8, 0x00#8, 0x10#8, 0x30#8, 0x11#8, 0x11#8, 0x00#8, 0x00#8, 0x00#8, 0x00#8, 0x00#8, 0x00#8, 0x05#8, 0x00#8, 0x00#8, 0x00#8, 0x00#8, 0x00#8, 0x00#8, 0x00#8]; decide (s.identCheck p rc = 0 ∧ s.fld (F.encEn p) = 1))))
  && (let s : State := wSet wUp [(F.linkState 2, 2), (F.fabValid, 1), (F.dims, 0x111)];
    decide (s.pins.aonRstN = true) && (let p : Fin 6 := 2; decide (s.fld (F.linkState p) = 2) && (let rc : List Byte := [0x4e#8, 0xca#8, 0x21#8, 0x0a#8, 0x00#8, 0x00#8, 0x10#8, 0x30#8, 0x11#8, 0x01#8, 0x00#8, 0x00#8, 0x00#8, 0x00#8, 0x00#8, 0x00#8, 0x05#8, 0x00#8, 0x00#8, 0x00#8, 0x00#8, 0x00#8, 0x00#8, 0x00#8]; decide (s.identCheck p rc = 0 ∧ s.fld (F.encEn p) = 0))))
  && (let s : State := wSet wUp [(F.linkState 2, 2), (F.fabValid, 1), (F.dims, 0x111), (F.encEn 2, 1)];
    decide (s.pins.aonRstN = true) && (let p : Fin 6 := 2; decide (s.fld (F.linkState p) = 2) && (let rc : List Byte := [0x01#8, 0x02#8, 0x03#8]; decide (s.identCheck p rc ≠ 0))))
  && (let s : State := (wSet wUp [(F.linkState 2, 3), (F.fabValid, 1), (F.encEn 2, 1)]).modKey 2 0 (fun k => { k with loaded := true, keyId := 5, ctr := 100 });
    decide (s.pins.aonRstN = true) && (let p : Fin 6 := 2; decide (s.fld (F.linkState p) = 3 ∧ (s.keySlot p (s.fld (F.txKeySel p))).loaded = true) && (let keyId : Nat := 5; decide ((s.keySlot p (s.fld (F.txKeySel p))).keyId = keyId) && (let ctr : Nat := 2; true))))
  && (let s : State := (wSet wUp [(F.linkState 2, 3), (F.fabValid, 1), (F.encEn 2, 1)]).modKey 2 0 (fun k => { k with loaded := true, keyId := 5, ctr := 100 });
    decide (s.pins.aonRstN = true) && (let p : Fin 6 := 2; decide (s.fld (F.linkState p) = 3) && (let keyId : Nat := 2; let ctr : Nat := 2; true)))) = true := by decide +kernel

theorem test_meets_LinkLossRetrains : (
(let s : State := wSet wUp [(F.linkState 2, 4), (F.fabValid, 1), (F.dims, 0x111)];
    decide (s.pins.aonRstN = true) && (let p : Fin 6 := 2; decide (s.fld (F.linkState p) = 4)))
  && (let s : State := wSet wUp [(F.linkState 2, 4), (F.fabValid, 1)];
    decide (s.pins.aonRstN = true) && (let p : Fin 6 := 2; decide (s.fld (F.linkState p) = 4) && (let n : Nat := 17; decide (s.fld (F.uncLimit p) < n))))
  && (let s : State := wSet wUp [(F.linkState 2, 4), (F.fabValid, 1)];
    decide (s.pins.aonRstN = true) && (let p : Fin 6 := 2; decide (s.fld (F.linkState p) = 4) && (let n : Nat := 17; decide (s.fld (F.authLimit p) < n))))
  && (let s : State := wSet wUp [(F.linkState 2, 4), (F.fabValid, 1)];
    decide (s.pins.aonRstN = true) && (let p : Fin 6 := 2; decide (s.fld (F.linkState p) = 4)))) = true := by decide +kernel

theorem test_meets_PortsCarryFrames : (
  (let q : Queued := { f := wFrame, own := false, src := some (3, 1, 0) }
   let s : State := ((wSet wUp [(F.linkState 2, 4)]).modPort 2 (fun x => { x with outQ := [q] })).modPort 3 (fun x => { x with held := [(2, 5)] })
   decide (s.pins.aonRstN = true ∧ s.fld (F.linkState 2) = 4 ∧ s.fld (F.encEn 2) = 0 ∧ (s.port 2).slotNo < 63
        ∧ ((s.port 2).outQ.any (·.own) && (s.port 2).outQ.any (fun q => !q.own)) = false ∧ (s.pick (s.port 2) true).1 = some q)
     && wNext (exec (.frameSlotSend 2) s) (fun t => (t.port 2).outQ == [] && (t.port 2).used 1 0 == 1 && (t.port 2).slotNo == 1
          && Sparse.get (fun _ => 0) (t.port 3).held 2 == 4 && (t.port 2).wire.any (fun w => w.1.alive == 1 && !w.1.enc)))
  && (let s : State := (wSet wUp [(F.linkState 2, 4)]).modPort 2 (fun x => { x with outQ := [{ f := wFrame }, { f := wFrame, own := false, src := some (3, 1, 0) }] })
      decide (s.fld (F.encEn 2) = 0 ∧ ∀ fwd : Bool, (s.pick (s.port 2) fwd).1.isSome = true))
  && (let s : State := ((wSet wUp [(F.linkState 2, 4), (F.encEn 2, 1)]).modPort 2 (fun x => { x with outQ := [{ f := wFrame }] })).modKey 2 0
        (fun k => { k with loaded := true, ctr := 7 })
      decide (s.fld (F.encEn 2) = 1 ∧ (s.keySlot 2 (s.fld (F.txKeySel 2))).loaded = true ∧ s.keyDead 2 = false
          ∧ (s.pick (s.port 2) true).1.isSome = true)
        && wNext (exec (.frameSlotSend 2) s) (fun t => (t.keySlot 2 0).ctr == 8 && (t.port 2).outQ == []))
  && (let s : State := (wSet wUp [(F.linkState 2, 4)]).modPort 2 (fun x => { x with slotNo := 63, freed := [(2, 3)], outQ := [{ f := wFrame }] })
      wNext (exec (.frameSlotSend 2) s) (fun t => (t.port 2).slotNo == 0 && (t.port 2).freed == [] && (t.port 2).wire.any (fun w => w.1.typ == 8
        && w.1.payload.take 3 == [0, 0, 3]) && (t.port 2).outQ == [{ f := wFrame }]))
  && (let s : State := wSet wUp [(F.linkState 2, 4)]
      wNext (exec (.frameSlotSend 2) s) (fun t => (t.port 2).slotNo == 1 && (t.port 2).wire.any (·.1.typ == 0))
        && wNext (exec (.frameForward 2 { wFrame with ok := false }) s) (fun t => t.fld (F.badFrame 2) == 1 && t.relay == s.relay)
        && (decide (wFrame.dstChip = s.self ∧ s.relay.coreReady = true ∧ s.phase = .x0)
            && wNext (exec (.frameForward 2 wFrame) s) (fun t => t.relay.inbox == [wFrame])))
  && (let s : State := { wSet wUp [(F.linkState 2, 4)] with phase := .x1 }
      wNext (exec (.frameForward 2 wFrame) s) (fun t => t.relay.inbox == [] && t.relay.holdQ == [wFrame]))
  && (let s : State := wSet wUp [(F.linkState 2, 4), (F.linkState 3, 4), (F.dims, 0x111), (F.fabValid, 1)]
      let f : Frame := { wFrame with dstChip := 16 }
      decide (f.dstChip ≠ s.self ∧ f.hops < 48)
        && wNext (exec (.frameForward 2 f) s) (fun t => t.relay.inbox == [] && (t.port (s.choosePort (some 2) 16 0).1).outQ.any (fun q => !q.own
            && q.f.dstChip == 16) && Sparse.get (fun _ => 0) (t.port 2).held 2 == 1))
  && (let s : State := (wSet wUp [(F.linkState 2, 4)]).modPort 2 (fun x => { x with credits := [(2, 5)] })
      wNext (exec (.maintenanceFrame 2 [0, 0, 2, 0, 0, 0, 0, 0] [0, 0, 0, 0] 9 1 true) s) (fun t => (t.port 2).used 1 0 == 3 && (t.port 2).rxCtr == 9
        && t.fld (F.partnerReady 2) == 1))) = true := by decide +kernel

theorem test_meets_NopCompletesWithItsRecord : (
(let s : State := wTen 0x0C [];
    decide (s.engines = true) && (let c : Fin 9 := 2; (s.oldest c 0x0C).any fun e => decide ((s.ctx c).entries.find? (·.id == e.id) = some e ∧ e.corr = 0 ∧ e.quiet = false ∧ (s.ctx c).holdQ = [] ∧ (s.ctx c).held = [] ∧ s.cqFree c (s.cqOf c e.sq) = true)))) = true := by decide +kernel

theorem test_meets_EntriesAreFetchedAndAdmitted : (
  (let s : State := wSet { (wTenBase).setCtx 2 { phase := .enabled, nextSq := 3 } with fetchTenant := 2 } [(F.sqLog2 2 1, 6), (F.sqTail 2 1, 7), (F.sqHead 2 1, 5)]
   decide (s.granting = true ∧ (s.ctx s.fetchTenant).turns < s.turnsOf s.fetchTenant ∧ s.nextRing s.fetchTenant = some 1 ∧ s.badRd = []
        ∧ s.poison = [] ∧ s.cpu = [])
     && wNext (exec .fetchTurn s) (fun t => t.fld (F.sqHead 2 1) == 7 && (t.ctx 2).fetched.length == 2))
  && (let s : State := wFet (wEn 0x0C [])
      (s.admissible 2 0).any (fun e => decide (s.entryCheck 2 e = none))
        && wNext (exec (.entryAdmit 2 0) s) (fun t => (t.ctx 2).entries.map (·.id) == [9] && (t.ctx 2).fetched == []))
  && (let s : State := wFet (wEn 6 (leBytes 2 70 ++ [0, 0] ++ leBytes 4 4))
      (s.admissible 2 0).any (fun e => decide (s.entryCheck 2 e = none ∧ e.opcode = 6))
        && wNext (exec (.entryAdmit 2 0) s) (fun t => t.waits.map (fun w => (w.counter, w.value)) == [(70, 4)]))
  && (let s : State := wFet (wEn 0x41 [])
      (s.admissible 2 0).any (fun e => decide (s.entryCheck 2 e = some (0x12, 0)))
        && wNext (exec (.entryAdmit 2 0) s) (fun t => (t.ctx 2).entries == [] && t.fld (F.privViol 2) == 1))) = true := by decide +kernel

theorem test_meets_GraphEntriesStartGraphs : (
(let s : State := wTen 1 (leBytes 8 4096 ++ leBytes 4 3);
    decide (s.engines = true) && (let t : Fin 8 := 2; (s.oldest t 0x01).any fun e => true))
  && (let s : State := (wTen 2 (leBytes 8 4096 ++ leBytes 2 2)).sysWr 8192 [0xF];
    decide (s.engines = true) && (let t : Fin 8 := 2; (s.oldest t 0x02).any fun e => (match (progScan (entryReq t e) (e.field 8 8) (e.field 16 2)).on s with | (.ok slots, s1) => (fillSlices (256 * s.sliceLimit t) (progCosts (s1.handle t) slots) 0 0).any fun l => true | _ => false)))
  && (let s : State := wTen 7 (leBytes 8 1048576 ++ leBytes 8 100 ++ [0, 1]);
    decide (s.engines = true) && (let t : Fin 8 := 2; (s.oldest t 0x07).any fun e => (fillSlices (256 * s.sliceLimit t) ((List.range ({ idx := 0, bytes := scanBytes e, seq := 0 } : Node).ckCount).map (fun i => 256 * checkCost ({ idx := 0, bytes := scanBytes e, seq := 0 } : Node).ckStart ({ idx := 0, bytes := scanBytes e, seq := 0 } : Node).ckLen i)) 0 0).any fun l => true))) = true := by decide +kernel

theorem test_meets_DescriptorsComeAndGo : (
  (let s : State := (wTen 3 (leBytes 8 4096 ++ leBytes 4 5)).sysWr 8192 wImg
   ((s.oldestDesc 2).any fun e => decide (e.opcode = 3) && (match (structRead (entryReq 2 e) (e.field 8 8) 128).on s with
        | (.ok b, s1) => decide (b.length = 128 ∧ s1.descCheck 2 (e.field 16 4) b = none) | _ => false))
     && wNext (exec (.createTensor 2) s) (fun t => (t.ctx 2).handles == [] && t.txns.length == 1))
  && (let e : Entry := { wEn 3 (leBytes 8 4096 ++ leBytes 4 5) with started := true, due := some (1, .handle { h := 5, d := wDesc 2 }) }
      let s : State := { (wTenBase).setCtx 2 { phase := .enabled, entries := [e] } with txns := [wTxn false 0 (some (.entry 9))] }
      decide (s.coreRuns = true ∧ s.coll.fatal = false ∧ s.entryAt e.id = some (2, e) ∧ s.cqFree 2 (s.cqOf 2 e.sq) = true)
        && wNext (exec (.portResponse (.write 0 false)) s) (fun t => (t.ctx 2).handles.map (·.h) == [5] && (t.ctx 2).entries == []
            && Sparse.get (fun _ => 0) t.sys 0x100 == 7))
  && (let s : State := wTen 3 (leBytes 8 4096 ++ leBytes 4 5)
      ((s.oldestDesc 2).any fun e => match (structRead (entryReq 2 e) (e.field 8 8) 128).on s with
          | (.ok b, s1) => (s1.descCheck 2 (e.field 16 4) b).isSome | _ => false)
        && wNext (exec (.createTensor 2) s) (fun t => t.fld (F.descRef 2) == 1 && (t.ctx 2).entries == []))
  && (let s : State := (wTen 4 (leBytes 8 4096 ++ leBytes 4 7)).modCtx 2 (fun x => { x with handles := [{ h := 7, d := wDesc 2 }] })
      ((s.oldestDesc 2).any fun e => decide (e.opcode = 4 ∧ (s.ctx 2).handles.any (fun x => x.h == e.field 16 4 && x.retiring.isNone) = true))
        && wNext (exec (.destroyTensor 2) s) (fun t => (t.ctx 2).handles.map (·.retiring) == [some 9]))
  && (let s : State := wTen 4 (leBytes 8 4096 ++ leBytes 4 7)
      ((s.oldestDesc 2).any fun e => decide (e.opcode = 4 ∧ (s.ctx 2).handles.any (fun x => x.h == e.field 16 4 && x.retiring.isNone) = false))
        && wNext (exec (.destroyTensor 2) s) (fun t => (t.ctx 2).handles == [] && (t.ctx 2).entries == []))
  && (let s : State := (wTenS 4 (leBytes 8 4096 ++ leBytes 4 7)).modCtx 2 (fun x => { x with handles := [{ h := 7, d := wDesc 2, retiring := some 9 }] })
      decide (s.bound 2 7 = false) && wNext (exec (.handleFree 2 7) s) (fun t => (t.ctx 2).handles == [] && (t.ctx 2).entries == []))) = true := by decide +kernel

theorem test_meets_CountersAndWaits : (
  (let s : State := (wTen 5 (leBytes 2 70 ++ [0, 0] ++ leBytes 4 6))
   decide (s.engines = true ∧ s.ctrNow.find? (·.counter == 70) = none) && wNext (exec (.signal 2) s) (fun t => t.counter 70 == 6 && t.counter 71 == 0))
  && (let s : State := { wTen 5 (leBytes 2 70 ++ [0, 0] ++ leBytes 4 6) with ctrNow := [{ counter := 70, base := 3, adds := 2 }], counters := [(70, 5)] }
      ((s.ctrNow.find? (·.counter == 70)).any fun x => decide ((x.push none 6).stands.getLastD 0 = 11)))
  && (let s : State := { wTen 5 (leBytes 2 70 ++ [1, 0] ++ leBytes 4 6) with ctrNow := [{ counter := 70, base := 3, adds := 2 }], counters := [(70, 5)] }
      ((s.ctrNow.find? (·.counter == 70)).any fun x => decide ((x.push (some (s.entryRank 2 (wEn 5 []))) 6).stands.getLastD 0 = 8)))
  && (let s : State := { wWait (.entry 9) with counters := [(70, 4)] }
      let e : Entry := { wEn 6 [] with started := false }
      let s : State := s.setCtx 2 { phase := .enabled, entries := [e] }
      ((s.oldest 2 6).isSome && (s.ctrSettle (e.field 8 2)).waits.any (fun w => w.who == .entry e.id && (s.ctrSettle (e.field 8 2)).waitMet w))
        && wNext (exec (.wait 2) s) (fun t => t.waits == [] && (t.ctx 2).entries == []))
  && (let s : State := (wWait (.entry 9)).setCtx 2 { phase := .enabled, entries := [wEn 6 []] }
      ((s.oldest 2 6).isSome && !(s.ctrSettle 0).waits.any (fun w => w.who == .entry 9 && (s.ctrSettle 0).waitMet w))
        && wNext (exec (.wait 2) s) (fun t => t.waits == s.waits && (t.ctx 2).entries.map (·.started) == [true]))
  && (let s : State := { wWait (.entry 9) with counters := [(70, 4)] }
      decide (((s.ctrSettle 70).waits[0]?).map (s.ctrSettle 70).waitMet = some true ∧ (s.ctx 2).entries.any (·.id == 9) = true)
        && wNext (exec (.waitSatisfied 0) s) (fun t => t.waits == [] && (t.ctx 2).entries == []))
  && (let s : State := wWait (.entry 9)
      decide (((s.ctrSettle 70).waits[0]?).map (s.ctrSettle 70).waitMet = some false ∧ (s.waits.map (·.timeoutUs)) = [5])
        && wNext (exec (.waitTimeout 0) s) (fun t => t.waits == [] && (t.ctx 2).entries == [] && t.aon == 5003))) = true := by decide +kernel

theorem test_meets_FaultsOfPagesResolve : (
(let s : State := { wTen 8 (leBytes 4 64 ++ [0]) with pfaults := [wPf []] };
    decide (s.engines = true) && (let t : Fin 8 := 2; (s.oldest t 0x08).any fun e => let f : PFault := { t := 2, id := 0x00000040#32, cause := 1, page := 1, write := true, who := [], start := 5, unit := 5, xva := 4096, pte := 0x0000000000000000#64, level := 0 }; (s.pfaults.find? (fun f => f.t == t.val && f.id.toNat == e.field 8 4)).any fun q0 => decide (q0 = f) && (true)))
  && (let s : State := { wSet (wPrg [1]) [(F.pfTimeout 2, 3), (F.chState 5, 5)] with pfaults := [wPf [.chan 5]] };
    decide (s.engines = true) && (let t : Fin 8 := 2; let f : PFault := { t := 2, id := 0x00000040#32, cause := 1, page := 1, write := true, who := [Sys2Proof.Machine.Who.chan 5], start := 5, unit := 5, xva := 4096, pte := 0x0000000000000000#64, level := 0 }; let id : W32 := 0x00000040#32; (s.pfaults.find? (fun f => f.t == t.val && f.id == id)).any fun q0 => decide (q0 = f) && (decide (s.powerTo = none ∧ s.fld (F.pfTimeout t) ≠ 0 ∧ (∀ r ∈ s.coll.iq, r.id ≠ id)))))) = true := by decide +kernel

theorem test_meets_TranslationsAreInvalidated : (
  (let s : State := wTen 9 (leBytes 8 4096 ++ leBytes 4 1)
   ((s.oldest 2 9).isSome) && wNext (exec (.invalidateXlat 2) s) (fun t => t.tlb == [] && s.tlb.length == 1))
  && (let s : State := wTenS 9 []
      ((s.ctx 2).entries.find? (fun e => e.opcode == 9 && e.started)).isSome && s.txns.isEmpty && s.chans.isEmpty
        && wNext (exec (.invalidateXlatDone 2) s) (fun t => (t.ctx 2).entries == []))) = true := by decide +kernel

theorem test_meets_EpochsAndMailboxes : (
(let s : State := wTen 0x0A (leBytes 4 6);
    decide (s.engines = true) && (let t : Fin 8 := 2; (s.oldest t 0x0A).any fun e => true))
  && (let s : State := wTenS 0x0A (leBytes 4 6);
    decide (s.engines = true) && (let t : Fin 8 := 2; ((s.ctx t).entries.head?).any fun e => decide (e.opcode = 0x0A ∧ e.started = true)))
  && (let s : State := (wTen 0x0B (leBytes 8 4096 ++ leBytes 2 7)).sysWr 8192 wMbI;
    decide (s.engines = true) && (let t : Fin 8 := 2; (s.oldest t 0x0B).any fun e => (match (structRead (entryReq t e) (e.field 8 8) 64).on s with | (.ok b, s1) => decide (s1.mbxBad t b = none) | _ => false)))) = true := by decide +kernel

/-- A walk caches the three table pointers (R264); when the root entry goes, a walk still goes through them (R275), one from the root
(R269) fails, and without the tenant's pointers the walk fails too. -/
theorem test_walkCacheServesWalks :
    (let s := wWalkS 1 []
     match s.walk 2 4096 true with
     | .ok x =>
       let u := (s.walked 2 4096 true x).sysWr 65536 (leBytes 8 0)
       let v : State := { u with ptrs := u.ptrs.filter (·.t != 2) }
       u.ptrs.map (·.level) == [3, 2, 1] && u.walk 2 4096 true == .ok x && u.walkRoot 2 4096 true == .fail 1 3 0
         && v.walk 2 4096 true == .fail 1 3 0
     | .fail _ _ _ => false) = true := by decide +kernel

theorem test_meets_WalksReturn : (
(let s : State := wWalkS 1 [];
    decide (s.engines = true) && (let i : Nat := 0; (s.walks[i]?).any fun w => (match w.who with | .chan ch => decide (ch < 64 ∧ s.chSt ch = 4) && ((match s.walk w.t w.xva w.write with | .ok x => decide (w.inval = []) | _ => false)) | _ => false)))
  && (let s : State := wWalkS 1 [];
    decide (s.engines = true) && (let i : Nat := 0; (s.walks[i]?).any fun w => (match w.who with | .chan ch => decide (ch < 64 ∧ s.chSt ch = 4) | _ => false)))
  && (let s : State := wWalkS 1 [];
    decide (s.engines = true) && (let i : Nat := 0; (s.walks[i]?).any fun w => (match w.who with | .chan ch => decide (ch < 64 ∧ s.chSt ch = 4) | _ => false)))) = true := by decide +kernel

theorem test_meets_StaleWalksInstallNothing : (
(let s : State := wTen 9 (leBytes 8 4096 ++ leBytes 4 1);
    decide (s.engines = true) && (let t : Fin 8 := 2; (s.oldest t 0x09).any fun e => true))
  && (let s : State := wWalkS 1 [(0, 2^48)];
    decide (s.engines = true) && (let i : Nat := 0; (s.walks[i]?).any fun w => (match s.walk w.t w.xva w.write with | .ok x => decide ((∃ r ∈ w.inval, overlaps (x.xva, x.xva + x.len) r = true)) | _ => false)))) = true := by decide +kernel

theorem test_meets_EphemerisEntriesFire : (
  (let s : State := { wMer 1 with phase := .x1 }
   ((s.reachAt 1 (wEph 1).pos).isSome && decide (s.merUp = true ∧ s.ephFirst (wEph 1) = true))
     && wNext (exec (.ephAdd 3) s) (fun t => t.counters == [] && t.mer.due.length == 1))
  && (let s : State := wMer 1
      ((s.reachAt 1 (wEph 1).pos).isSome && decide (s.ephFirst (wEph 1) = true ∧ s.pins.clkRun = true ∧ s.ctrNow = []))
        && wNext (exec (.ephAdd 3) s) (fun t => t.counter 70 == 5 && t.mer.eph == []))
  && (let s : State := { wMer 1 with ctrNow := [{ counter := 70, base := 3, adds := 2 }], counters := [(70, 5)] }
      (s.ctrNow.find? (·.counter == (wEph 1).counter)).isSome)
  && (let s : State := wMer 2
      decide (s.ephFirst (wEph 2) = true ∧ s.tileOkRange 2 true 1048592 16 = true ∧ s.eccIn 1048592 16 = [] ∧ s.upsets.contains 0xDC = false)
        && wNext (exec (.ephStamp 3) s) (fun t => t.tileRd 1048592 16 != List.replicate 16 0 && t.tileRd 1048576 16 == List.replicate 16 0))
  && (let s : State := wMer 3
      decide (s.ephFirst (wEph 3) = true ∧ reached (s.counter 70) 5 = false)
        && wNext (exec (.ephDeadline 3) s) (fun t => t.counter 71 == 1 && t.fld (F.dlMiss 2) == 1))
  && (let s : State := { wMer 3 with counters := [(70, 9)] }
      decide (reached (s.counter 70) 5 = true) && wNext (exec (.ephDeadline 3) s) (fun t => t.counters == s.counters))
  && (let s : State := { wMer 0 0 (some (40, 1)) with graphs := [wGraph [wNode 1 6 .registered]] }
      decide (s.ephFirst (wEph 0 0 (some (40, 1))) = true) && (s.graph 40).any (fun x => x.fail.isNone && x.stopped.isNone)
        && wNext (exec (.ephRelease 3) s) (fun t => t.mer.eph == [] && (t.node 40 1).all (fun x => x.st == .between && x.slices.isEmpty))))
    = true := by decide +kernel

theorem test_meets_FaultsAreRaised : (
(let s : State := wUp;
    decide (s.collUp = true ∧ s.pins.clkRun = true) && (let u : Nat := 2; decide (unitAssigned u = true) && (let cause : Nat := 23; decide (causeClass cause ≠ 0 ∧ s.eclipsed u = false ∧ (∀ f ∈ s.coll.faults, f.unit ≠ u)) && (let ctx : Nat := 2; let merged : Nat := 2; let hold : Bool := true; true))))
  && (let s : State := (wUp.raise { unit := 3, cause := 0x15 });
    decide (s.collUp = true ∧ s.pins.clkRun = true) && (let u : Nat := 3; decide (unitAssigned u = true) && (let cause : Nat := 23; decide (causeClass cause ≠ 0 ∧ causeClass cause < 4 ∧ (cause < 0x70 ∨ 0x73 < cause) ∧ s.eclipsed u = false) && ((s.coll.faults).any fun x => decide (x.unit = u ∧ x.cls = causeClass cause ∧ x.acked = false ∧ (∀ f ∈ s.coll.faults, f.unit = u → f.line = false)) && (let ctx : Nat := 2; true)))))
  && (let s : State := wUp;
    decide (s.collUp = true ∧ s.pins.clkRun = true ∧ s.rep.groupId < 4096) && (let broken : List Nat := [3, 239]; (broken).any fun u => decide (unitAssigned u = true ∧ s.eclipsed u = false ∧ (∀ f ∈ s.coll.faults, f.unit ≠ u))))
  && (let s : State := wUp.raise { unit := 3, cause := 0x17, line := true };
    decide (s.collUp = true ∧ s.pins.clkRun = true) && (let u : Nat := 2; let cause : Nat := 2; true))) = true := by decide +kernel

theorem test_meets_FaultTimersAndSpill : (
(let s : State := (wSet wUp [(F.reactUs 0xC3, 50), (F.reactAct 0xC3, 1)]).raise { unit := 0xC3, cause := 0x17, ctx := 2 };
    decide (s.collUp = true ∧ s.pins.clkRun = true) && (let id : W32 := 0x00000000#32; let f : FaultSt := { id := 0x00000000#32, unit := 195, cause := 23, cls := 3, ctx := 2, line := false, acked := false, timer := true, since := 0 }; (s.coll.faults.find? (fun f => f.id == id && f.timer)).any fun q0 => decide (q0 = f) && (decide (s.coll.iq.length ≤ 250 ∧ s.rep.groupId < 4096))))
  && (let s : State := (wSet wUp [(F.fqLog2, 6), (F.fqAddr, 5), (F.fqTail, 65), (F.fqHead, 64)]).raise { unit := 0xC3, cause := 0x17, ctx := 2 };
    decide (s.collUp = true ∧ s.pins.clkRun = true ∧ s.phase = .x0) && ((s.coll.iq.head?).any fun r => decide (s.coll.ovfPend = none ∧ s.fld F.fqLog2 ≠ 0 ∧ (s.fld F.fqTail + 2 ^ 32 - s.fld F.fqHead) % 2 ^ 32 < 2 ^ s.fld F.fqLog2)))
  && (let s : State := (wSet wUp [(F.twilightMs, 3)]).raise { unit := 0x105, cause := 0x10 };
    decide (s.collUp = true ∧ s.pins.clkRun = true ∧ s.fld F.faultState = 1 ∧ (∀ f ∈ s.coll.faults, f.cls = 4 ∨ f.settled = true) ∧ (∀ f ∈ s.coll.faults, f.unit < 0x308)))
  && (let s : State := wUp;
    decide (s.collUp = true ∧ s.pins.clkRun = true ∧ s.windowOpen = true))) = true := by decide +kernel

theorem test_meets_UnitsLeaveAndReturn : (
(let s : State := wMC 0x40 (leBytes 2 0xE1);
    decide (s.engines = true ∧ (s.ctx 8).holdQ = [] ∧ (s.ctx 8).held = []) && ((s.oldest 8 0x40).any fun e => decide (s.eclipseCode (e.field 8 2) ≠ 0)))
  && (let s : State := wMC 0x40 (leBytes 2 0xC3);
    decide (s.engines = true ∧ (s.ctx 8).holdQ = [] ∧ (s.ctx 8).held = []) && ((s.oldest 8 0x40).any fun e => decide (s.eclipseCode (e.field 8 2) = 0 ∧ (e.field 8 2 < 64 → s.eclipsed (e.field 8 2) = false) ∧ (isBank (e.field 8 2) = true → (s.bankServes (e.field 8 2 - 0x100)).isSome = true))))
  && (let s : State := { wMCs 0x40 (leBytes 2 0xC3) with eclWait := [⟨0xC3, some 9⟩] };
    decide (s.engines = true ∧ (s.ctx 8).holdQ = [] ∧ (s.ctx 8).held = []) && (let u : Fin 0x308 := 195; (s.eclWait.find? (·.unit == u.val)).any fun w => decide (s.unitStopped u = true ∧ (∀ c ∈ s.copies, c.done = false ∧ 0x100 + c.from_ ≠ u.val))))
  && (let s : State := { wMCs 0x40 (leBytes 2 0x105) with eclWait := [⟨0x105, some 9⟩], copies := [{ logical := 5, from_ := 5, into := 515, entry := 9 }] };
    decide (s.engines = true ∧ (s.ctx 8).holdQ = [] ∧ (s.ctx 8).held = []) && (let b : Nat := 2; true))
  && (let s : State := { wMCs 0x40 (leBytes 2 0x105) with eclWait := [⟨0x105, some 9⟩], copies := [{ logical := 5, from_ := 5, into := 515, entry := 9, done := true }] };
    decide (s.engines = true ∧ (s.ctx 8).holdQ = [] ∧ (s.ctx 8).held = []) && (let b : Fin 520 := 5; (s.eclWait.find? (·.unit == 0x100 + b.val)).any fun w => (match s.copies with | [c] => decide (c.from_ = b.val ∧ c.done = true ∧ c.logical < 512 ∧ c.into < 520) | _ => false)))
  && (let s : State := wMC 0x41 (leBytes 2 0xC3) (wSet wUp [(F.ecl 0xC3, 1)]);
    decide (s.engines = true ∧ (s.ctx 8).holdQ = [] ∧ (s.ctx 8).held = []) && ((s.oldest 8 0x41).any fun e => decide (s.eclipsed (e.field 8 2) = true ∧ (e.field 8 2 < 64 → s.eclipsed (0x40 + e.field 8 2 / 16) = false))))
  && (let s : State := wMC 0x41 (leBytes 2 0xC3);
    decide (s.engines = true ∧ (s.ctx 8).holdQ = [] ∧ (s.ctx 8).held = []) && ((s.oldest 8 0x41).any fun e => decide (s.eclipsed (e.field 8 2) = false)))
  && (let s : State := { wMCs 0x41 (leBytes 2 0xC3) (wSet wUp [(F.ecl 0xC3, 1)]) with reenter := [⟨0xC3, some 9⟩] };
    decide (s.engines = true ∧ (s.ctx 8).holdQ = [] ∧ (s.ctx 8).held = []) && (let u : Fin 0x308 := 195; (s.reenter.find? (·.unit == u.val)).any fun w => decide ((∀ c ∈ s.copies, c.done = false))))
  && (let s : State := { wMCs 0x41 (leBytes 2 0xC3) (wSet wUp [(F.ecl 0xC3, 1)]) with reenter := [⟨0xC3, some 9⟩] };
    decide (s.engines = true ∧ (s.ctx 8).holdQ = [] ∧ (s.ctx 8).held = []) && (let u : Fin 0x308 := 195; (s.reenter.find? (·.unit == u.val)).any fun w => decide ((∀ c ∈ s.copies, c.done = false))))) = true := by decide +kernel

theorem test_meets_TenantsAreCleared : (
(let s : State := wMC 0x42 [2] (wPrg [0]);
    decide (s.engines = true) && ((s.oldest 8 0x42).any fun e => decide ((s.ctx (bits (e.field 8 1) 0 3)).clearing = none)))
  && (let s : State := { (wUp.tileWr 5 [1, 2, 3]).modCtx 2 (fun x => { x with clearing := some 9 }) with clears := [⟨6, 100, some 2⟩] };
    decide (s.engines = true) && ((s.clears.find? (·.tenant.isSome)).any fun c => (c.tenant).any fun v => ((s.ctx v).clearing).any fun id => decide (s.clearQuiet id = true)))
  && (let s : State := (wMCs 0x42 [2]).modCtx 2 (fun x => { x with clearing := some 9, cancelled := 3 });
    decide (s.engines = true) && (let v : Fin 8 := 2; ((s.ctx v).clearing).any fun id => decide (s.clearQuiet id = true ∧ s.clears.any (·.tenant == some v.val) = false)))) = true := by decide +kernel

theorem test_meets_PowerIsLowered : (
  (let s : State := wMC 0x43 [1] (wPrg [0])
   ((s.oldest 8 0x43).any fun e => decide (s.powerCode (bits (e.field 8 1) 0 2) = 0))
     && wNext (exec .setPower s) (fun t => t.powerTo == some (1, 9) && !t.granting && t.graphs.all (·.nodes.all (fun n => n.st != .opened || n.endSlice))))
  && (let s : State := wMC 0x43 [2] (wPrg [0])
      ((s.oldest 8 0x43).any fun e => decide (s.powerCode (bits (e.field 8 1) 0 2) ≠ 0))
        && wNext (exec .setPower s) (fun t => t.powerTo == none && (t.ctx 8).entries == []))
  && ([1, 2, 3].all (fun st : Fin 4 => let s : State := { wUp with powerTo := some (st, 9) }
      decide (s.quiesced st = true ∧ s.powerWaits = false ∧ s.msgWait = [] ∧ s.wcFills = [] ∧ s.walks = [])
        && wNext (exec .setPowerQuiesced s) (fun t => t.powerTo == none && t.fld F.pwrState == st && t.pins.quiet == decide (st ≠ 1))))
  && (let s : State := { wUp with powerTo := some (2, 9), msgWait := [64] }
      decide (s.msgWait ≠ []) && wNext (exec .setPowerQuiesced s) (fun t => t == s))
  && (let s : State := { wMCs 0x43 [1] with powerTo := some (1, 9) }
      decide (s.quiesced 1 = true ∧ s.cqFree 8 0 = true)
        && wNext (exec .setPowerQuiesced s) (fun t => t.txns.map (·.isRec) == [true] && t.phase == .x0 && (t.ctx 8).entries == []))) = true := by decide +kernel

theorem test_meets_ManagerSettings : (
(let s : State := wMC 0x44 (leBytes 2 (5 + 2 ^ 14) ++ leBytes 2 0 ++ leBytes 2 0x010 ++ leBytes 2 0 ++ [1, 3, 0, 0] ++ leBytes 4 7) (wSet wUp [(F.dims, 0x111), (F.fabValid, 1)]);
    decide (s.engines = true ∧ (s.ctx 8).holdQ = [] ∧ (s.ctx 8).held = [] ∧ (∀ c ∈ s.copies, c.done = false)) && ((s.oldest 8 0x44).any fun e => decide (s.replicaCode (bits (e.field 8 2) 0 12) (bits (e.field 8 2) 12 2) (bits (e.field 8 2) 14 2) [bits (e.field 10 2) 0 12, bits (e.field 12 2) 0 12, bits (e.field 14 2) 0 12] (e.field 16 1) (bits (e.field 17 1) 0 3) (bits (e.field 17 1) 3 2) (e.field 20 4) = 0)))
  && (let s : State := wMC 0x44 (leBytes 2 5 ++ List.replicate 10 0 ++ leBytes 4 0);
    decide (s.engines = true ∧ (s.ctx 8).holdQ = [] ∧ (s.ctx 8).held = [] ∧ (∀ c ∈ s.copies, c.done = false)) && ((s.oldest 8 0x44).any fun e => decide (s.replicaCode (bits (e.field 8 2) 0 12) (bits (e.field 8 2) 12 2) (bits (e.field 8 2) 14 2) [bits (e.field 10 2) 0 12, bits (e.field 12 2) 0 12, bits (e.field 14 2) 0 12] (e.field 16 1) (bits (e.field 17 1) 0 3) (bits (e.field 17 1) 3 2) (e.field 20 4) ≠ 0)))
  && (let s : State := wMC 0x45 [1, 3, 2, 1, 0, 0, 0, 0, 3];
    decide (s.engines = true ∧ (s.ctx 8).holdQ = [] ∧ (s.ctx 8).held = [] ∧ (∀ c ∈ s.copies, c.done = false)) && ((s.oldest 8 0x45).any fun e => decide ((¬(bits (e.field 8 1) 0 2 = 1 ∧ (s.eclipsed 0x48 = true ∨ s.eclipsed 0x49 = true))))))
  && (let s : State := wMC 0x45 [1, 3] (wSet wUp [(F.ecl 0x48, 1)]);
    decide (s.engines = true ∧ (s.ctx 8).holdQ = [] ∧ (s.ctx 8).held = [] ∧ (∀ c ∈ s.copies, c.done = false)) && ((s.oldest 8 0x45).any fun e => decide (bits (e.field 8 1) 0 2 = 1 ∧ (s.eclipsed 0x48 = true ∨ s.eclipsed 0x49 = true))))
  && (let s : State := wMC 0x46 [2];
    decide (s.engines = true ∧ (s.ctx 8).holdQ = [] ∧ (s.ctx 8).held = [] ∧ (∀ c ∈ s.copies, c.done = false)) && ((s.oldest 8 0x46).any fun e => decide (s.coreLock = false ∧ (∀ v : Fin 8, s.fld (F.enable v) = 1 → s.enableCheck v = 0) ∧ (∀ x ∈ (s.ctx 8).entries, x.opcode = 0x46 → x.started = false) ∧ bits (e.field 16 8) 0 48 = 0 ∧ s.cqFree 8 (s.cqOf 8 e.sq) = true)))
  && (let s : State := wMC 0x46 ([2, 0, 0, 0, 0, 0, 0, 0] ++ leBytes 8 192);
    decide (s.engines = true ∧ (s.ctx 8).holdQ = [] ∧ (s.ctx 8).held = [] ∧ (∀ c ∈ s.copies, c.done = false)) && ((s.oldest 8 0x46).any fun e => decide (s.coreLock = false ∧ (∀ v : Fin 8, s.fld (F.enable v) = 1 → s.enableCheck v = 0) ∧ (∀ x ∈ (s.ctx 8).entries, x.opcode = 0x46 → x.started = false) ∧ bits (e.field 16 8) 0 48 ≠ 0)))
  && (let e : Entry := { wEn 0x46 [2] with started := true, due := some (0, .lock 2) };
    let s : State := { (wMC 0x46 [2]).setCtx 8 { phase := .enabled, entries := [e] } with txns := [wTxn false 0 (some (.entry 9))] };
    decide (s.engines = true ∧ (s.ctx 8).holdQ = [] ∧ (s.ctx 8).held = [] ∧ (∀ c ∈ s.copies, c.done = false) ∧ s.pins.clkRun = true ∧ s.coreRuns = true ∧ e.bad = none ∧ s.entryAt e.id = some (8, e) ∧ s.cqFree 8 (s.cqOf 8 e.sq) = true) && wNext (exec (.portResponse (.write 0 false)) s) (fun t => t.coreLock && t.relay.lockCount == 1))
  && (let s : State := { wMC 0x46 [2] with coreLock := true };
    decide (s.engines = true ∧ (s.ctx 8).holdQ = [] ∧ (s.ctx 8).held = [] ∧ (∀ c ∈ s.copies, c.done = false)) && ((s.oldest 8 0x46).any fun e => decide (s.coreLock = true)))) = true := by decide +kernel

theorem test_meets_StallsCreditAndCaches : (
  (let s : State := (wSet wUp [(F.cqStallLimit 2, 3), (irqFld Reg.irqEn 66, 1)]).modCtx 2 (fun x => { x with waitAt := some 5 })
   decide (s.engines = true ∧ (s.ctx 2).waitAt = some 5 ∧ (s.ctx 2).stallTold = false)
     && wNext (exec (.cqStallLimit 2) s) (fun t => t.aon == 3000005 && (t.ctx 2).stallTold && t.msgWait == [66]))
  && (let s : State := { wUp with owed := [(8, 64)] }
      decide (∀ x ∈ s.txns, x.sent = true)
        && wNext (exec .creditPeriod s) (fun t => t.owes 8 == 64 - s.classCredit 0 && t.creditOf 1 8 == Nat.min (s.creditOf 1 8 + s.classCredit 1) (Nat.max (4 * s.classCredit 1) 1048576)))
  && (let s : State := { wUp with txns := [wTxn false 0 (some (.node 40 1)), { wTxn false 0 (some (.node 40 1)) with sent := false }], owed := [(35, 5)] }
      wNext (exec .creditPeriod s) (fun t => t.txns.map (·.pa) == s.txns.map (·.pa) && t.sys == s.sys))
  && (let s : State := { wSet wUp [(F.wcWays 2, 0xF0)] with wcFills := [⟨2, 77, [7]⟩], wc := [⟨4, 77, [], []⟩, ⟨5, 77, [], []⟩] }
      decide (bit (s.fld (F.wcWays 2)) 4 = true ∧ s.eclipsed 0xDA = false)
        && wNext (exec (.wcFillReturn 0 4) s) (fun t => t.wc == [⟨4, 77, [7], []⟩] && t.wcFills == []))
  && (let s : State := { wSet wUp [(F.wcWays 2, 0)] with wcFills := [⟨2, 77, [7]⟩] }
      decide (∀ w : Fin 16, bit (s.fld (F.wcWays 2)) w = false) && wNext (exec (.wcFillReturn 0 4) s) (fun t => t.wc == [] && t.wcFills == []))
  && (let s : State := { wSet wUp [(F.scrubStep, 1)] with ecc := [(3, 1)] }
      decide (s.phase = .x0 ∧ s.fld F.scrubStep ≠ 0 ∧ s.ecc.filter (fun x => rowOf x.1 == s.scrubRow) = [(3, 1)] ∧ s.bankUnit 24 < 0x308
          ∧ s.eclipsed (s.bankUnit 24) = false)
        && wNext (exec (.scrubStep []) s) (fun t => t.scrubRow == 1 && t.ecc == [] && t.coll.faults.map (·.cause) == [0x10]))
  && (let s : State := wSet (wProgOn [[1, 4]]) [(F.chState 5, 4), (F.bpTimeout 2, 7)]
      decide (s.engines = true ∧ s.powerTo = none ∧ s.chSt 5 = 4 ∧ s.walking (.chan 5) = false ∧ s.eclipsed 5 = false
          ∧ (mvOf (instrAt [[1, 4]] 0)).dsp = 2 ∧ s.held (.node 40 0) = false)
        && wNext (exec (.bpTimeout 5) s) (fun t => t.aon == 7000 && t.fld (F.chState 5) == 6 && t.pfaults.map (·.cause) == [0x17]
            && (t.chan 5).prog == (s.chan 5).prog))
  && (let s : State := wSet (wProgOn [[1]] (fun s => s.modChan 5 (fun c => { c with back := c.prog.map (fun p => ({ p with line := 3 }, wNode 0 1 .opened)) }))) [(F.chState 5, 4), (F.bpTimeout 2, 7)]
      let s : State := { s with txns := List.replicate 64 (wTxn false 0) ++ [{ wTxn false 0 (some (.node 40 0)) with sent := false }] }
      decide (s.held (.node 40 0) = true ∧ s.walking (.chan 5) = false)
        && s.txns.any (fun x => x.who == some (.node 40 0) && !x.sent && 64 ≤ (s.txns.filter (fun y => y.sent && y.port == x.port)).length)
        && wNext (exec (.bpTimeout 5) s) (fun t => (t.chan 5).prog.any (·.line == 3) && t.txns.all (·.sent)))) = true := by decide +kernel

theorem test_meets_NodesEnterTheWindow : (
  (let s : State := { wTenBase with graphs := [{ wGraph [] with count := 2, fetchedN := 0 }], regs := (wSet wTenBase [(F.winQuota 2, 16384)]).regs }
   (s.granting && (s.graph 40).any (fun gr => decide (gr.entryOnly = false ∧ gr.fail = none ∧ gr.stopped = none
        ∧ Nat.min (Nat.min (4 - (gr.xva + 64 * gr.fetchedN) / 64 % 4) (gr.count - gr.fetchedN))
            (Nat.min (s.fld (F.winQuota gr.ctx) - s.inFlight (some gr.ctx)) (131072 - s.inFlight none)) = 2)
        && (match (structRead { t := gr.ctx, unit := 0xD8, who := .entry gr.id } (gr.xva + 64 * gr.fetchedN) 128).on s with | (.ok _, _) => true | _ => false)))
     && wNext (exec (.nodeFetch 40) s) (fun t => (t.graph 40).any (fun g => 0 < g.fetchedN)))
  && (let s : State := wSet { wUp with graphs := [{ wGraph [] with count := 2, fetchedN := 0 }] } [(F.winQuota 2, 16384)]
      (s.graph 40).any (fun gr => match (structRead { t := gr.ctx, unit := 0xD8, who := .entry gr.id } (gr.xva + 64 * gr.fetchedN) 128).on s with
          | (.error (.stop _ _), _) => true | _ => false)
        && wNext (exec (.nodeFetch 40) s) (fun t => (t.graph 40).any (fun g => g.stopped.isSome && g.fetchedN == 0)))
  && (let s : State := (wSet · [(F.sbQuota 2, 512)]) (wOn (wBody 0 7 .fetched (leBytes 8 1048576 ++ leBytes 8 100 ++ [0, 1])))
      (s.nextNode 40).any (fun (gr, n) => decide (n.kind = 7)
          && (match (regPlain { t := gr.ctx, unit := 0xD8, who := .node 40 n.idx } n (s.sliceLimit gr.ctx)).on s with
              | (.ok (f, _), s1) => s1.sbFits gr.ctx (scoreboard f.fp).length | _ => false))
        && wNext (exec (.nodeRegister 40) s) (fun t => (t.node 40 0).any (fun x => x.st == .registered && x.slices == [1])))
  && (let s : State := wOn (wBody 0 3 .fetched (List.replicate 40 0))
      (s.nextNode 40).any (fun (gr, n) => match (regPlain { t := gr.ctx, unit := 0xD8, who := .node 40 n.idx } n (s.sliceLimit gr.ctx)).on s with
          | (.error (.stop _ _), _) => true | _ => false)
        && wNext (exec (.nodeRegister 40) s) (fun t => (t.node 40 0).all (·.st != .registered)))
  && (let s : State := { wUp with graphs := [wGraph [wBody 0 8 .fetched [2]]] }
      (s.nextNode 40).any (fun (gr, n) => decide (n.kind = 8 ∧ (gr.stages n).length ≠ n.field 24 1))
        && wNext (exec (.nodeRegister 40) s) (fun t => t == s))
  && (let s : State := wOn { wBody 0 7 .registered (leBytes 8 1048576 ++ leBytes 8 100 ++ [0, 1]) with age := some 1, slices := [1] }
      let l := s.graphs.flatMap (fun g => (g.nodes.filter (s.competes g)).map (fun n => (g, n)))
      (s.granting && l.map (·.2.idx) == [0] && l.all (fun x => s.grantFor (some 210) [] x.1 x.2 == some [(0, [210])])))
  && (let s : State := { wOn { wBody 0 7 .registered (leBytes 8 1048576 ++ leBytes 8 100 ++ [0, 1]) with age := some 1, slices := [1] } with powerTo := some (1, 9) }
      decide (s.granting = false) && wNext (exec (.nodeGrant 210) s) (fun t => t == s))
  && (let s : State := wOn (wBody 0 7 .fetched [])
      s.graphs.all (fun g => g.nodes.all (fun n => !s.competes g n)))) = true := by decide +kernel

theorem test_meets_CounterNodes : (
  (let s : State := wOn { wBody 0 4 .registered [70, 0, 0, 0, 5] with age := some 1 }
   ((s.readyNode 40 0 4).any fun (_, nd) => decide (nd.field 26 1 = 0 ∧ s.ctrNow = []))
     && wNext (exec (.signalNode 40 0) s) (fun t => t.counter 70 == 5 && t.node 40 0 == none))
  && (let s : State := wOn { wBody 0 4 .registered [70, 0, 1, 0, 5] with age := some 1 } (fun s => { s with counters := [(70, 9)] })
      (s.readyNode 40 0 4).isSome && wNext (exec (.signalNode 40 0) s) (fun t => t.counter 70 == 5))
  && (let s : State := wOn { wBody 0 4 .registered [70, 0, 2, 0, 5] with age := some 1 }
      (s.readyNode 40 0 4).isSome && wNext (exec (.signalNode 40 0) s) (fun t => t.counters == [] && t.node 40 0 == none))
  && (let w : Wait := { t := 2, who := .node 40 0, counter := 70, cond := 1, value := 5, start := 3, timeoutUs := 0 }
      let s : State := { wOn { wBody 0 5 .registered [70, 0, 1, 0, 5] with age := some 1 } with waits := [w], counters := [(70, 5)] }
      ((s.readyNode 40 0 5).isSome && (s.ctrSettle 70).waits.any (fun w => w.who == .node 40 0 && (s.ctrSettle 70).waitMet w))
        && wNext (exec (.waitNode 40 0) s) (fun t => t.waits == [] && (t.node 40 0).any (fun x => x.st == .between)))
  && (let w : Wait := { t := 2, who := .node 40 0, counter := 70, cond := 1, value := 5, start := 3, timeoutUs := 0 }
      let s : State := { wOn { wBody 0 5 .registered [70, 0, 1, 0, 5] with age := some 1 } with waits := [w] }
      (s.readyNode 40 0 5).isSome && wNext (exec (.waitNode 40 0) s) (fun t => t.waits == [w] && (t.node 40 0).any (fun x => x.st == .waiting)))
  && (let s : State := wOn (wBody 0 6 .fetched [1, 0, 0, 0, 9])
      (s.nextNode 40).any (fun (_, nd) => decide (nd.idx = 0 ∧ nd.kind = 6 ∧ s.fld (F.mbState (bits (nd.field 24 1) 0 2)) = 0))
        && wNext (exec (.timedNode 40 0) s) (fun t => (t.node 40 0).any (fun x => x.st == .failed && x.status == 0x17)))
  && ([0, 1].all (fun late => let s : State := (wSet (wOn (wBody 0 6 .fetched [1, late, 0, 0, 9])) [(F.mbState 1, 1), (F.mbMode 1, 1), (F.mbQmul 1, 1)]).modBase 1 (fun x => { x with count := 60, edges := 3 })
      (s.nextNode 40).any (fun (_, nd) => posReached (s.mbPos (bits (nd.field 24 1) 0 2)) (BitVec.ofNat 48 (nd.field 28 4 * 65536 + nd.field 32 2)))
        && wNext (exec (.timedNode 40 0) s) (fun t => (t.node 40 0).any (fun x => x.status == (if late = 0 then 3 else 0x17)))))
  && ([0, 4].all (fun q => let s : State := wSet (wOn (wBody 0 6 .fetched [1, 0, 0, 0, 9])) [(F.mbState 1, 1), (F.mbMode 1, 1), (F.mbQmul 1, 1), (F.ephQuota 2, q)]
      (s.nextNode 40).any (fun (gr, nd) => !posReached (s.mbPos (bits (nd.field 24 1) 0 2)) (BitVec.ofNat 48 (nd.field 28 4 * 65536 + nd.field 32 2))
          && s.ephFull gr.ctx == decide (q = 0))
        && wNext (exec (.timedNode 40 0) s) (fun t => if q = 0 then t == s else t.mer.eph.map (·.node) == [some (40, 0)])))) = true := by decide +kernel

theorem test_meets_SlicesAndNodesEnd : (
  (let s : State := wOn { wBody 0 7 .opened (leBytes 8 1048576 ++ leBytes 8 100 ++ [0, 1]) with slices := [1, 2], units := [0xD2], pos := 1 }
   (s.graph 40).any (fun gr => (s.node 40 0).any fun nd => decide (nd.idx = 0 ∧ gr.id = 40 ∧ s.engines = true ∧ nd.inChain = false
        ∧ s.sliceEnds 40 nd = true ∧ s.compares gr.ctx = false ∧ nd.kind = 7))
     && wNext (exec (.sliceEnd 40 0) s) (fun t => (t.node 40 0).any (fun x => x.st == .between && x.slices == [2] && x.run == 1)))
  && (let s : State := (wProgOn [[0]] id).modNode 40 0 (fun n => { n with endSlice := true })
      (s.graph 40).any (fun gr => (s.node 40 0).any fun nd => decide (s.sliceEnds 40 nd = true ∧ s.compares gr.ctx = false ∧ nd.kind = 1
          ∧ nd.units.find? (· < 64) = some 5))
        && wNext (exec (.sliceEnd 40 0) s) (fun t => (t.chan 5).prog == none && (t.chan 5).idle.length == 1 && t.fld (F.chState 5) == 1))
  && (let s : State := wOn { wBody 0 7 .opened (leBytes 8 1048576 ++ leBytes 8 100 ++ [0, 1]) with slices := [1, 2], units := [0xD2] }
      (s.node 40 0).any (fun nd => decide (s.sliceEnds 40 nd = false)) && wNext (exec (.sliceEnd 40 0) s) (fun t => t == s)
        && wNext (exec (.sliceTimeLimit 40 0) s) (fun t => t.aon == 100000 && (t.node 40 0).any (·.endSlice)))
  && (let s : State := wOn { wBody 0 7 .between [] with units := [0xD2] }
      (s.graph 40).any (fun gr => (s.node 40 0).any fun nd => decide (s.canComplete gr nd = true)))
  && (let s : State := wOn (wBody 0 7 .opened [])
      (s.graph 40).any (fun gr => (s.node 40 0).any fun nd => decide (s.canComplete gr nd = false)) && wNext (exec (.nodeComplete 40 0) s) (fun t => t == s))
  && (let s : State := (wOn { wBody 0 7 .failed [] with units := [0xD2], status := 0x15 }).modGraph 40 (fun g => { g with fail := some (0, 0x18, 0) })
      (s.graph 40).any (fun gr => decide (s.coll.fatal = false ∧ s.rep.size = 0 ∧ gr.fail.isSome = true
          ∧ ∀ x ∈ gr.nodes, gr.droppable x = true ∨ (x.st = .failed ∧ s.nodeQuiet 40 x.idx = true)))
        && wNext (exec (.graphAbandon 40) s) (fun t => t.graph 40 == none))) = true := by decide +kernel

theorem test_meets_NodesRunOnUnits : (
  (let s : State := wOn { wNode 0 1 .opened with units := [5], slices := [3], prog := [[0]] }
   ((s.holder 5).any fun (_, nd) => decide ((s.chan 5).prog = none ∧ s.engines = true ∧ nd.kind = 1 ∧ nd.field 24 1 = 0 ∧ s.eclipsed 5 = false))
     && wNext (exec (.transit 5) s) (fun t => t.fld (F.chState 5) == 2 && (t.chan 5).prog.any (fun p => p.slots == [[0]] && p.pc == 0)))
  && (let s : State := (wOn { wBody 0 1 .opened [1] with units := [5], slices := [3], prog := [[2]] }).setChan 5 { owner := 2 }
      let s := wSet s [(F.chState 5, 1), (F.chOwner 5, 2)]
      decide ((s.bindProg 5 1).isCopy 5 = true) && ((s.bindProg 5 1).atSlot 5 2).isSome)
  && (let s : State := (wOn { wBody 0 2 .opened (leBytes 4 7 ++ leBytes 4 7 ++ leBytes 4 7 ++ leBytes 4 noHandle ++ leBytes 4 noHandle ++ leBytes 4 noHandle) with
          units := [0x48], slices := [1] }).modCtx 2 (fun x => { x with handles := [{ h := 7, d := { wDesc 2 with rank := 2, dims := [⟨2, 8, 0, 0, 0⟩, ⟨2, 0, 0, 0, 0⟩] } }] })
      ((s.onUnit 0x48 2).any fun (gr, nd) => (contrOf (s.boundDesc gr.ctx) nd).isSome)
        && (match exec (.contract 0) s with | .next _ => true | _ => false))
  && (let s : State := wOn { wBody 0 2 .opened (leBytes 4 7) with units := [0x48], slices := [1] }
      ((s.onUnit 0x48 2).any fun (gr, nd) => (contrOf (s.boundDesc gr.ctx) nd).isNone) && wNext (exec (.contract 0) s) (fun t => t == s))
  && (let s : State := wVop 1 [0x8A, 0xF9, 1]
      (s.onUnit 0xC3 3).isSome)
  && (let s : State := (wOn { wBody 0 7 .opened (leBytes 8 1048576 ++ leBytes 8 100 ++ [0, 1]) with slices := [1], units := [0xD2] }).tileWr 1048576 [1, 2, 3]
      ((s.onUnit 0xD2 7).any fun (gr, nd) => decide (s.graph gr.id = some gr ∧ s.node gr.id nd.idx = some nd ∧ nd.slices = [1] ∧ nd.pos = 0 ∧ nd.total = 0
          ∧ nd.sub = 0 ∧ nd.endSlice = false ∧ nd.inBuf = (0, 0) ∧ nd.ckSpace = 1 ∧ nd.ckCount = 1 ∧ nd.ckResult = 0 ∧ nd.ckCmp = false
          ∧ s.held (.node gr.id nd.idx) = false ∧ s.tileOkRange gr.ctx false nd.ckStart nd.ckLen = true ∧ s.eccIn nd.ckStart nd.ckLen = [] ∧ s.tileOld = []))
        && wNext (exec (.check 2) s) (fun t => (t.node 40 0).any (fun x => x.pos == 1 && x.crc == crc 0 ([1, 2, 3] ++ List.replicate 97 0))))
  && (let s : State := { wUp with graphs := [wGraph [wBody 0 8 .opened [2], { wNode 1 7 .opened with slices := [1], pos := 3, hw := 2 }, { wNode 2 7 .opened with slices := [1] }]] }
      (s.graph 40).any (fun gr => (s.node 40 0).any fun nd => decide (nd.kind = 8 ∧ nd.st = .opened ∧ (gr.nodes.map (·.idx)).Nodup ∧ (gr.stages nd).length = 2))
        && wNext (exec (.chain 40 0) s) (fun t => (t.node 40 2).any (fun z => (s.node 40 1).any (fun x => z.hw == x.handed))))) = true := by decide +kernel

theorem test_meets_SlotsRun : (
  (let s : State := wProgOn [[0], [0]]
   ((s.atSlot 5 0).any fun (p, _) => decide (p.inHand = true))
     && ((s.atSlot 5 0).any fun (p, _) => match (atomically (.node p.g p.n) (fetchSlot 5 p)).on s with | (.ok (), _) => true | _ => false)
     && wNext (exec (.nopSlot 5) s) (fun t => t.standsAt 5 1))
  && (let s : State := wProgOn [[3, 0, 1]]
      (s.atSlot 5 3).isSome && wNext (exec (.loop 5) s) (fun t => (s.atSlot 5 3).any fun (p, b) => t.standsAt 5 (loopNext b p.pc p.iters).1))
  && (let s : State := { wProgOn [[5, 1, 70, 0, 9]] with counters := [(70, 9)] }
      ((s.atSlot 5 5).any fun (_, b) => condHolds (fieldAt b 1 1) (s.counter (fieldAt b 2 2)) (BitVec.ofNat 32 (fieldAt b 4 4)))
        && wNext (exec (.waitSlot 5) s) (fun t => t.standsAt 5 1 && t.waits == []))
  && (let s : State := wProgOn [[5, 1, 70, 0, 9]]
      ((s.atSlot 5 5).any fun (_, b) => !condHolds (fieldAt b 1 1) (s.counter (fieldAt b 2 2)) (BitVec.ofNat 32 (fieldAt b 4 4)))
        && wNext (exec (.waitSlot 5) s) (fun t => t.fld (F.chState 5) == 3 && t.waits == [⟨2, .chan 5, 70, 1, 9, 0, 0, false⟩]))
  && (let s : State := wProgOn [[6, 0, 70, 0, 9]]
      ((s.atSlot 5 6).any fun (p, _) => decide (s.fld (F.ordProfile p.ctx) ≠ 1 ∧ (s.chan 5).relq.length < 8))
        && wNext (exec (.signalSlot 5) s) (fun t => t.standsAt 5 1 && (t.chan 5).relq.map (fun o => (o.op, o.a, o.v)) == [(0, 70, 9)]))
  && (let s : State := (wProgOn [[6, 0, 70, 0, 9]]).modChan 5 (fun c => { c with relq := List.replicate 8 { g := 40, n := 0, op := 0, a := 70, barrier := 0 } })
      (s.atSlot 5 6).isSome && wNext (exec (.signalSlot 5) s) (fun t => t.fld (F.chState 5) == 4 && t.chans == s.chans))
  && (let s : State := wSet ((wProgOn [[6, 0, 70, 0, 9]]).modChan 5 (fun c => { c with relq := [{ g := 40, n := 0, op := 0, a := 70, barrier := 0 }] })) [(F.ordProfile 2, 1)]
      ((s.atSlot 5 6).any fun (p, _) => decide (s.fld (F.ordProfile p.ctx) = 1 ∧ s.drained p = false)) && wNext (exec (.signalSlot 5) s) (fun t => t == s))
  && (let s : State := wProgOn [[7]]
      ((s.atSlot 5 7).any fun (p, _) => s.drained p) && wNext (exec (.fence 5) s) (fun t => t.standsAt 5 1))
  && (let s : State := (wProgOn [[7]]).modChan 5 (fun c => { c with relq := [{ g := 40, n := 0, op := 0, a := 70, barrier := 0 }] })
      ((s.atSlot 5 7).any fun (p, _) => !s.drained p) && wNext (exec (.fence 5) s) (fun t => t == s))
  && (let s : State := wSet (wProgOn [[8, 1, 0, 0, 0, 0, 0, 0] ++ leBytes 6 1048576]) [(F.tmEn 2, 1), (F.tmBase 2, 1), (F.tmLimit 2, 2)]
      ((s.atSlot 5 8).any fun (p, b) => decide (p.checked = false ∧ fieldAt b 1 1 = 1 ∧ s.tileOkRange p.ctx true (fieldAt b 8 6) 16 = true
          ∧ s.eccIn (fieldAt b 8 6) 16 = [] ∧ s.upsets.contains 5 = false))
        && wNext (exec (.stamp 5) s) (fun t => t.standsAt 5 1 && t.tileRd 1048576 16 == (s.stampRec 5 2).1 && (t.chan 5).stampSeq == 1))
  && (let s : State := wSet (wProgOn [[8, 3, 0, 0, 0, 0, 0, 0] ++ leBytes 6 1048576]) [(F.tmEn 2, 1), (F.tmBase 2, 1), (F.tmLimit 2, 2)]
      ((s.atSlot 5 8).any fun (p, b) => decide (p.checked = false ∧ fieldAt b 1 1 = 3 ∧ s.tileOkRange p.ctx true (fieldAt b 8 6) 16 = true))
        && wNext (exec (.stamp 5) s) (fun t => t.standsAt 5 1 && t.tile == s.tile && (t.chan 5).relq.map (fun o => (o.op, o.a)) == [(2, 1048576)]))
  && (let s : State := wProgOn [[0xF]]
      (s.atSlot 5 0xF).isSome && wNext (exec (.halt 5) s) (fun t => t.fld (F.chState 5) == 7 && (t.chan 5).prog.any (·.ended)))
  && (let s : State := wProgOn [[1]]
      ((s.atSlot 5 1).any fun (p, b) => p.inHand && (match (moveLines 5 p.pc (mvOf b).lines).on s with | (.ok (), _) => true | _ => false)))
  && (let s : State := wProgOn [[1, 0x02, 0x09, 0, 64, 0, 0, 0, 0, 0x10, 0, 0, 0, 0, 1, 0], leBytes 6 1048576 ++ leBytes 3 8 ++ leBytes 3 8 ++ [0, 0, 0, 0]]
      ((s.atSlot 5 1).any fun (p, _) => match (moveLines 5 p.pc 1).on s with | (.error (.miss _ _), _) => true | _ => false)
        && wNext (exec (.move 5 1) s) (fun t => t.walks.length == 1))
  && (let s : State := wProgOn [[2]]
      ((s.atSlot 5 2).any fun (p, _) => p.inHand))
  && (let s : State := wPrg [0] (fun p => { p with xva := some 4096 })
      let s := s.modChan 5 (fun c => { c with prog := c.prog.map (fun p => { p with slots := [[0], [0]] }) })
      ((s.atSlot 5 0).any fun (p, _) => !p.inHand && (match (atomically (.node p.g p.n) (fetchSlot 5 p)).on s with | (.error (.stop _ _), _) => true | _ => false))
        && wNext (exec (.nopSlot 5) s) (fun t => t.fld (F.chState 5) == 7))) = true := by decide +kernel

theorem test_meets_ReleasesAndProgramsEnd : (
  (let s : State := (wProgOn [[7]]).modChan 5 (fun c => { c with relq := [{ g := 40, n := 0, op := 0, a := 70, v := 4, barrier := 0 }] })
   (((s.chan 5).relq.head?).any fun o => decide (s.engines = true ∧ s.writesDone o.g o.n o.barrier = true ∧ s.awaits o.g o.n o.iv = false ∧ s.ctrNow = []))
     && wNext (exec (.releasePerform 5) s) (fun t => t.counter 70 == 4 && (t.chan 5).relq == []))
  && (let s : State := (wSet (wProgOn [[7]]) [(F.tmEn 2, 1), (F.tmBase 2, 1), (F.tmLimit 2, 2)]).modChan 5 (fun c =>
        { c with relq := [{ g := 40, n := 0, op := 2, a := 1048576, space := 1, barrier := 0 }] })
      (((s.chan 5).relq.head?).any fun o => (s.graph o.g).any fun gr => decide (s.writesDone o.g o.n o.barrier = true
          ∧ s.tileOkRange gr.ctx true o.a 16 = true ∧ s.eccIn o.a 16 = [] ∧ s.upsets.contains 5 = false))
        && wNext (exec (.releasePerform 5) s) (fun t => t.tileRd 1048576 16 == (s.stampRec 5 2).1 && (t.chan 5).relq == []))
  && (let s : State := { (wProgOn [[7]]).modChan 5 (fun c => { c with relq := [{ g := 40, n := 0, op := 0, a := 70, barrier := 3 }] }) with
        txns := [{ wTxn false 0 (some (.node 40 0)) with no := 1 }] }
      (((s.chan 5).relq.head?).any fun o => !s.writesDone o.g o.n o.barrier) && wNext (exec (.releasePerform 5) s) (fun t => t == s))
  && (let s : State := wSet (wPrg [] (fun p => { p with ended := true })) [(F.chState 5, 7)]
      (((s.chan 5).prog).any fun p => (s.node p.g p.n).isSome && decide (s.drained p = true ∧ s.fld (F.chOwner 5) = (s.chan 5).owner ∧ p.status < 0x10))
        && wNext (exec (.programComplete 5) s) (fun t => (t.chan 5).prog == none && t.fld (F.chState 5) == 1 && t.fld (F.chDone 5) == 1
            && (t.node 40 0).any (fun y => y.slices.isEmpty)))
  && (let s : State := wSet (wPrg [] (fun p => { p with ended := true, status := 0x15, detail := 3 })) [(F.chState 5, 7)]
      (((s.chan 5).prog).any fun p => decide (s.drained p = true ∧ 0x10 ≤ p.status) && s.chans.all (fun c => c.2.idle.isEmpty))
        && wNext (exec (.programComplete 5) s) (fun t => (t.node 40 0).any (fun y => y.st == .failed && y.status == 0x15 && y.detail == 3)))
  && (let w := wWalkS 1 []
      let s : State := wSet { wProgOn [[1, 0x02, 0x09, 0, 64, 0, 0, 0, 0, 0x10, 0, 0, 0, 0, 1, 0], leBytes 6 1048576 ++ leBytes 3 8 ++ leBytes 3 8 ++ [0, 0, 0, 0]] with
        sys := w.sys } [(F.ptRoot 2, 16)]
      (match (aheadStep 5 (s.isCopy 5)).on (s.aheadView 5) with
        | (.error (.miss a w), _) => decide (s.trailErr 2 a w = none) && (match s.walk 2 a w with | .ok _ => true | _ => false)
        | _ => false)
        && wNext (exec (.runaheadPrefetch 5) s) (fun t => (t.chan 5).pre.length == 1 && (t.chan 5).staged == []))
  && (let s : State := { wProgOn [[1, 0x02, 0x09, 0, 64, 0, 0, 0, 0, 0x10, 0, 0, 0, 0, 1, 0], leBytes 6 1048576 ++ leBytes 3 8 ++ leBytes 3 8 ++ [0, 0, 0, 0]] with
        tlb := [⟨2, 4096, 4096, 8192, true, false, false, false⟩], credit := (List.range 36).map (fun k => (k, 2 ^ 30)) }
      (((s.chan 5).prog).any fun p => match (aheadStep 5 (s.isCopy 5)).on (s.aheadView 5) with
          | (.error (.want a n _), _) => decide (n ≤ 65536 ∧ s.fld (F.ordProfile p.ctx) ≠ 1)
              && (match (xvaRead (s.chReq 5 p) a n).on s with | (.ok _, s1) => !s.starved s1 | _ => false)
          | _ => false)
        && wNext (exec (.runaheadPrefetch 5) s) (fun t => (t.chan 5).staged.map (·.xva) == [4096]))
  && (let s : State := wSet (wPrg [] (fun p => { p with ended := true })) [(F.chState 5, 7)]
      (match (aheadStep 5 (s.isCopy 5)).on (s.aheadView 5) with | (.error .wait, _) => true | _ => false)
        && wNext (exec (.runaheadPrefetch 5) s) (fun t => t == s))) = true := by decide +kernel

theorem test_meets_VectorOperations : (
(let s : State := wVop 1 [0x8A, 0xF9, 1];
    let i : Fin 16 := 3; (s.onUnit (0xC0 + i) 3).any fun (gr, nd) => decide (s.graph gr.id = some gr ∧ s.node gr.id nd.idx = some nd) && (((s.vecNode gr nd).map (·.2)).any fun t0 => (nd.vec.row).any fun r => decide (nd.stageOf r = 0xC0 + i.val ∧ nd.pos < nd.slices.headD 0 ∧ nd.endSlice = false) && ((nd.ops[nd.vec.op]?).any fun e => decide (nd.vec.op + 1 < nd.ops.length ∧ nd.vec.bufs.length = 4 ∧ s.held (.node gr.id nd.idx) = false) && (([(Instr.add, 0x01), (Instr.sub, 0x02), (Instr.mul, 0x03), (Instr.fma, 0x04), (Instr.min, 0x05), (Instr.max, 0x06), (Instr.abs, 0x07), (Instr.rshift, 0x08), (Instr.cvt, 0x09), (Instr.cmplt, 0x0A), (Instr.cmpeq, 0x0B), (Instr.select, 0x0C), (Instr.exp, 0x0D), (Instr.log, 0x0E), (Instr.rsqrt, 0x0F), (Instr.recip, 0x10)] : List ((Fin 16 → Instr) × Nat)).any fun x => decide (VOp.op e = x.2 ∧ (8 ≤ VOp.d e ∧ VOp.d e ≤ 11) ∧ (∀ c ∈ [VOp.s0 e, VOp.s1 e, VOp.s2 e], (8 ≤ c ∧ c ≤ 11 ∧ nd.vec.bufs.getD (c - 8) [] ≠ []) ∨ c = 12 ∨ c = 15))))))
  && (let s : State := wVop 0x11 [0x8B, 0xFF, 1];
    let i : Fin 16 := 3; (s.onUnit (0xC0 + i) 3).any fun (gr, nd) => decide (s.graph gr.id = some gr ∧ s.node gr.id nd.idx = some nd) && (((s.vecNode gr nd).map (·.2)).any fun t0 => (nd.vec.row).any fun r => decide (nd.stageOf r = 0xC0 + i.val ∧ nd.pos < nd.slices.headD 0 ∧ nd.endSlice = false) && ((nd.ops[nd.vec.op]?).any fun e => decide (nd.vec.op + 1 < nd.ops.length ∧ nd.vec.bufs.length = 4 ∧ s.held (.node gr.id nd.idx) = false) && (([(Instr.rsum, 0x11), (Instr.rmax, 0x12), (Instr.rmin, 0x13), (Instr.softmax, 0x14), (Instr.layernorm, 0x15), (Instr.groupnorm, 0x16), (Instr.argmax, 0x17), (Instr.topk, 0x18), (Instr.scan, 0x19), (Instr.scanmax, 0x1A)] : List ((Fin 16 → Instr) × Nat)).any fun x => decide (VOp.op e = x.2 ∧ VOp.seg e = false ∧ (8 ≤ VOp.d e ∧ VOp.d e ≤ 11) ∧ (x.2 = 0x18 → 8 ≤ VOp.s2 e ∧ VOp.s2 e ≤ 11 ∧ VOp.s2 e ≠ VOp.d e) ∧ (∀ c ∈ [VOp.s0 e, VOp.s1 e, VOp.s2 e], (8 ≤ c ∧ c ≤ 11 ∧ (nd.vec.bufs.getD (c - 8) []).length = t0.size t0.inner) ∨ c = 12 ∨ c = 15) ∧ (nd.vec.bufs.getD (VOp.d e - 8) []).length = t0.size t0.inner ∧ 0 < t0.size t0.inner)))))
  && (let s : State := wVop 1 [0x8A, 0xF9, 1];
    let i : Fin 16 := 3; (s.onUnit (0xC0 + i) 3).any fun (gr, nd) => decide (s.graph gr.id = some gr ∧ s.node gr.id nd.idx = some nd) && (((s.vecNode gr nd).map (·.2)).any fun t0 => (nd.vec.row).any fun r => decide (nd.stageOf r = 0xC0 + i.val ∧ nd.pos < nd.slices.headD 0 ∧ nd.endSlice = false) && ((nd.ops[nd.vec.op]?).any fun e => decide (nd.vec.op + 1 < nd.ops.length ∧ nd.vec.bufs.length = 4 ∧ s.held (.node gr.id nd.idx) = false) && (([(Instr.add, 0x01), (Instr.sub, 0x02), (Instr.mul, 0x03), (Instr.fma, 0x04), (Instr.min, 0x05), (Instr.max, 0x06), (Instr.abs, 0x07), (Instr.rshift, 0x08), (Instr.cvt, 0x09), (Instr.cmplt, 0x0A), (Instr.cmpeq, 0x0B), (Instr.select, 0x0C), (Instr.exp, 0x0D), (Instr.log, 0x0E), (Instr.rsqrt, 0x0F), (Instr.recip, 0x10), (Instr.rsum, 0x11), (Instr.rmax, 0x12), (Instr.rmin, 0x13), (Instr.softmax, 0x14), (Instr.layernorm, 0x15), (Instr.groupnorm, 0x16), (Instr.argmax, 0x17), (Instr.topk, 0x18), (Instr.scan, 0x19), (Instr.scanmax, 0x1A), (Instr.atomadd, 0x1B), (Instr.xchg, 0x1C)] : List ((Fin 16 → Instr) × Nat)).any fun x => decide (VOp.op e = x.2)))))
  && (let s : State := wVat 0x1B [0x80, 0xF9, 1];
    let i : Fin 16 := 3; (s.onUnit (0xC0 + i) 3).any fun (gr, nd) => decide (s.graph gr.id = some gr ∧ s.node gr.id nd.idx = some nd) && (((s.vecNode gr nd).map (·.2)).any fun t0 => (nd.vec.row).any fun r => decide (nd.stageOf r = 0xC0 + i.val ∧ nd.pos < nd.slices.headD 0 ∧ nd.endSlice = false) && ((nd.ops[nd.vec.op]?).any fun e => decide (nd.vec.op + 1 < nd.ops.length ∧ nd.vec.bufs.length = 4 ∧ s.held (.node gr.id nd.idx) = false) && (([(Instr.atomadd, 0x1B), (Instr.xchg, 0x1C)] : List ((Fin 16 → Instr) × Nat)).any fun x => decide (VOp.op e = x.2 ∧ (x.2 = 0x1C → 8 ≤ VOp.s2 e ∧ VOp.s2 e ≤ 11) ∧ VOp.wide e = false ∧ t0.size t0.inner = 1 ∧ (8 ≤ VOp.s0 e ∧ VOp.s0 e ≤ 11) ∧ (8 ≤ VOp.s1 e ∧ VOp.s1 e ≤ 11) ∧ (nd.vec.bufs.getD (VOp.s0 e - 8) []).length = 1 ∧ (nd.vec.bufs.getD (VOp.s1 e - 8) []).length = 1) && ((match (s.vecNode gr nd).map (fun y => y.1.getD (VOp.d e) none) with | some (some d) => (d.locate ((addrAt d ((rowsOf t0).getD r [])).set d.inner (iv ((nd.vec.operand 1 e (VOp.s0 e)).getD 0 0)))).any fun o => decide (s.tileOkRange gr.ctx true (o / 8) 4 = true ∧ s.eccIn (o / 8) 4 = [] ∧ s.upsets.contains (0xC0 + i.val) = false) | _ => false))))))) = true := by decide +kernel

theorem test_meets_ReceivedFrames : (
(let s : State := wRx (wData 1 256 0);
    decide (s.engines = true) && ((match s.relay.inbox with | f :: l => decide (f.srcChip ≠ s.self ∧ s.fld (F.enable f.dstTenant) = 1) && (((s.ctx f.dstTenant).mailboxes.find? (·.idx == f.mailbox)).any fun m => decide (s.markedOut f.srcChip = false ∧ (m.srcAny = true ∨ m.srcGroup = s.sourceOf f.srcChip ∧ m.srcTenant = f.srcTenant)) && ((s.rxIdx f).any fun i => (s.relay.rx[i]?).any fun x => decide (x.synced = true ∧ f.payload.length = 256 ∧ f.lenM1 < 256 ∧ f.typ = 1 ∧ f.pairSeq % 2 ^ 24 = x.expected ∧ f.word = crc32c (frameMsg f x.nodeSeq) ∧ f.offset + f.lenM1 + 1 ≤ m.winLen ∧ s.tileOkRange f.dstTenant true (m.winBase + f.offset) (f.lenM1 + 1) = true ∧ s.eccIn (m.winBase + f.offset) (f.lenM1 + 1) = [] ∧ s.upsets.contains 0xDF = false ∧ s.ctrNow = []))) | _ => false)))
  && (let s : State := wRx (wData 1 4096 0);
    decide (s.engines = true) && ((match s.relay.inbox with | f :: l => decide (f.srcChip ≠ s.self ∧ s.fld (F.enable f.dstTenant) = 1) && (((s.ctx f.dstTenant).mailboxes.find? (·.idx == f.mailbox)).any fun m => decide (s.markedOut f.srcChip = false ∧ (m.srcAny = true ∨ m.srcGroup = s.sourceOf f.srcChip ∧ m.srcTenant = f.srcTenant)) && ((s.rxIdx f).any fun i => (s.relay.rx[i]?).any fun x => decide (x.synced = true ∧ f.payload.length = 256 ∧ f.lenM1 < 256 ∧ f.typ = 1 ∧ f.pairSeq % 2 ^ 24 = x.expected ∧ f.word = crc32c (frameMsg f x.nodeSeq) ∧ m.winLen < f.offset + f.lenM1 + 1 ∧ f.dstTenant < 8))) | _ => false)))
  && (let s : State := wRx (wData 1 256 1);
    decide (s.engines = true) && ((match s.relay.inbox with | f :: l => decide (f.srcChip ≠ s.self ∧ s.fld (F.enable f.dstTenant) = 1) && (((s.ctx f.dstTenant).mailboxes.find? (·.idx == f.mailbox)).any fun m => decide (s.markedOut f.srcChip = false ∧ (m.srcAny = true ∨ m.srcGroup = s.sourceOf f.srcChip ∧ m.srcTenant = f.srcTenant)) && ((s.rxIdx f).any fun i => (s.relay.rx[i]?).any fun x => decide (x.synced = true ∧ f.payload.length = 256 ∧ f.lenM1 < 256 ∧ f.typ = 1 ∧ (f.pairSeq % 2 ^ 24 ≠ x.expected ∨ f.word ≠ crc32c (frameMsg f x.nodeSeq))))) | _ => false)))
  && (let s : State := wRx (wData 2 0 0);
    decide (s.engines = true) && ((match s.relay.inbox with | f :: l => decide (f.srcChip ≠ s.self ∧ s.fld (F.enable f.dstTenant) = 1) && (((s.ctx f.dstTenant).mailboxes.find? (·.idx == f.mailbox)).any fun m => decide (s.markedOut f.srcChip = false ∧ (m.srcAny = true ∨ m.srcGroup = s.sourceOf f.srcChip ∧ m.srcTenant = f.srcTenant)) && ((s.rxIdx f).any fun i => (s.relay.rx[i]?).any fun x => decide (x.synced = true ∧ f.payload.length = 256 ∧ f.lenM1 < 256 ∧ f.typ = 2 ∧ f.pairSeq % 2 ^ 24 = x.expected ∧ f.word = crc32c (frameMsg f (batchSeq f)) ∧ x.stale (BitVec.ofNat 32 (fieldAt f.payload 20 4)) (batchSeq f) (BitVec.ofNat 8 (fieldAt f.payload 15 1)) = false ∧ m.slogEn = false))) | _ => false)))
  && (let s : State := wRx { wData 1 0 0 with mailbox := 8 };
    decide (s.engines = true) && ((match s.relay.inbox with | f :: l => decide (f.srcChip ≠ s.self ∧ f.typ = 1 ∧ (s.fld (F.enable f.dstTenant) = 0 ∨ (s.ctx f.dstTenant).mailboxes.find? (·.idx == f.mailbox) = none)) | _ => false)))
  && (let s : State := wRx { wData 1 0 0 with srcTenant := 1 };
    decide (s.engines = true) && ((match s.relay.inbox with | f :: l => decide (f.srcChip ≠ s.self ∧ f.typ = 1 ∧ f.dstTenant < 8 ∧ s.fld (F.enable f.dstTenant) = 1) && (((s.ctx f.dstTenant).mailboxes.find? (·.idx == f.mailbox)).any fun m => decide ((s.markedOut f.srcChip = true ∨ m.srcAny = false ∧ (m.srcGroup ≠ s.sourceOf f.srcChip ∨ m.srcTenant ≠ f.srcTenant)))) | _ => false)))) = true := by decide +kernel

theorem test_meets_SenderAnswers : (
(let s : State := wTx (wAns 3 6 0);
    decide (s.engines = true) && ((match s.relay.inbox with | f :: l => decide (f.typ = 3) && ((s.txOf f).any fun i => decide (s.rep.size = 0 ∧ s.relay.log.any (fun l => l.pair == i && l.sent && seqReached f.pairSeq l.frame.pairSeq) = true)) | _ => false)))
  && (let s : State := wTx { wAns 3 6 0 with mailbox := 9 };
    decide (s.engines = true) && ((match s.relay.inbox with | f :: l => decide (f.typ = 3 ∧ s.txOf f = none) | _ => false)))
  && (let s : State := wTx (wAns 4 6 1);
    decide (s.engines = true) && ((match s.relay.inbox with | f :: l => decide (f.typ = 4 ∧ bits f.word 0 8 = 1) && ((s.txOf f).any fun i => (s.relay.tx[i]?).any fun x => decide (x.waitUntil = none ∧ s.transmits = true)) | _ => false)))
  && (let s : State := wTx (wAns 4 6 4);
    decide (s.engines = true) && ((match s.relay.inbox with | f :: l => decide (f.typ = 4) && ((s.nacked f).any fun g => (s.relay.tx[g.pair]?).any fun x => decide (bits f.word 0 8 = 4)) | _ => false)))
  && (let s : State := wTx (wAns 4 6 5);
    decide (s.engines = true) && ((match s.relay.inbox with | f :: l => decide (f.typ = 4) && ((s.nacked f).any fun g => (s.relay.tx[g.pair]?).any fun x => decide (bits f.word 0 8 = 5)) | _ => false)))
  && (let s : State := wTx (wAns 4 6 2);
    decide (s.engines = true) && ((match s.relay.inbox with | f :: l => decide (f.typ = 4) && ((s.nacked f).any fun g => (s.relay.tx[g.pair]?).any fun x => decide (g.chan < 64) && (((s.chan g.chan).prog).any fun p => decide (p.g = g.g ∧ p.n = g.n ∧ (p.ended = false ∨ p.status < 0x10) ∧ (bits f.word 0 8 = 2 ∨ bits f.word 0 8 = 3 ∨ bits f.word 0 8 = 9)))) | _ => false)))
  && (let s : State := wTx (wAns 4 6 7);
    decide (s.engines = true) && ((match s.relay.inbox with | f :: l => decide (f.typ = 4) && ((s.nacked f).any fun g => (s.relay.tx[g.pair]?).any fun x => decide (g.chan < 64) && (((s.chan g.chan).prog).any fun p => decide (p.g = g.g ∧ p.n = g.n ∧ (p.ended = false ∨ p.status < 0x10) ∧ (bits f.word 0 8 = 7 ∨ bits f.word 0 8 = 8)))) | _ => false)))
  && (let s : State := wTx (wAns 5 6 2000);
    decide (s.engines = true) && ((match s.relay.inbox with | f :: l => decide (f.typ = 5) && ((s.txOf f).any fun i => (s.relay.tx[i]?).any fun x => decide (x.waitUntil = none ∧ s.rep.size = 0 ∧ s.relay.log.any (fun l => l.pair == i && l.sent && l.frame.pairSeq == f.pairSeq) = true)) | _ => false)))
  && (let s : State := wTx (wAns 6 0 0) (fun x => { x with waitUntil := some 900, nrSince := some 3 });
    decide (s.engines = true) && ((match s.relay.inbox with | f :: l => decide (f.typ = 6) && (let i : Nat := 0; (s.relay.tx[i]?).any fun x => decide (x.dstChip = f.srcChip ∧ x.waitUntil.isSome = true ∧ x.nack4 = false)) | _ => false)))
  && (let s : State := wRx (wData 1 0 0) 2 4;
    decide (s.engines = true) && (let i : Nat := 0; (s.relay.rx[i]?).any fun x => decide (0 < x.unacked)))
  && (let s : State := wTx wFrame;
    decide (s.engines = true) && (let i : Nat := 0; (s.relay.tx[i]?).any fun x => decide (x.waitUntil = none ∧ s.transmits = true ∧ s.relay.log.any (fun l => l.pair == i && l.sent) = true)))
  && (let s : State := wTx wFrame (fun x => { x with waitUntil := some 900, nack4 := true });
    decide (s.engines = true) && (let i : Nat := 0; (s.relay.tx[i]?).any fun x => (x.waitUntil).any fun u => decide (x.nack4 = true)))
  && (let s : State := wTx wFrame (fun x => { x with waitUntil := some 900, back := 6 });
    decide (s.engines = true) && (let i : Nat := 0; (s.relay.tx[i]?).any fun x => (x.waitUntil).any fun u => decide (x.nack4 = false)))
  && (let s : State := wTx wFrame (fun x => { x with nrSince := some 3 });
    decide (s.engines = true) && (let i : Nat := 0; (s.relay.tx[i]?).any fun x => (x.nrSince).any fun u => decide (s.powerTo = none)))) = true := by decide +kernel

theorem test_meets_ReplicaProtocol : (
(let s : State := wRep (wRepF 0 (wDig 2 9 1 77 8 0));
    decide (s.engines = true ∧ s.inGroup = true) && ((match s.relay.inbox with | f :: l => decide (f.typ = 7) && (let m : Nat := 1; decide (bits (fieldAt f.payload 0 1) 4 2 = m ∧ fieldAt f.payload 2 2 = s.rep.groupId ∧ s.partners.contains m = true ∧ bits (fieldAt f.payload 0 1) 0 4 = 0 ∧ s.rep.intervals = [])) | _ => false)))
  && (let s : State := wRep (wRepF 0 (wDig 2 9 1 77 8 0)) (fun r => { r with intervals := [wIv (some (40, 0)) [(0, ⟨77, 8, false, false⟩)]] });
    decide (s.engines = true ∧ s.inGroup = true) && ((match s.relay.inbox with | f :: l => decide (f.typ = 7) && (let m : Nat := 1; decide (bits (fieldAt f.payload 0 1) 4 2 = m ∧ fieldAt f.payload 2 2 = s.rep.groupId ∧ s.partners.contains m = true ∧ bits (fieldAt f.payload 0 1) 0 4 = 0) && ((match s.rep.intervals with | [v] => decide (v.is (bits (fieldAt f.payload 8 1) 0 3) (BitVec.ofNat 32 (fieldAt f.payload 12 4)) (fieldAt f.payload 20 2) = true ∧ v.own.isSome = true ∧ v.audit = false) && ((match v.digests with | [(q0, d)] => decide (q0 = s.rep.member) && (decide (d.failed = false ∧ s.svcMembers.length = 2 ∧ s.svcMembers.contains s.rep.member = true ∧ d.sum.toNat = fieldAt f.payload 22 8 ∧ d.cnt.toNat = fieldAt f.payload 30 4 ∧ bit (fieldAt f.payload 34 1) 0 = false)) | _ => false)) | _ => false))) | _ => false)))
  && (let s : State := wRep (wRepF 1 (List.replicate 26 0 ++ leBytes 1 4));
    decide (s.engines = true ∧ s.inGroup = true) && ((match s.relay.inbox with | f :: l => decide (f.typ = 7) && (let m : Nat := 1; decide (bits (fieldAt f.payload 0 1) 4 2 = m ∧ fieldAt f.payload 2 2 = s.rep.groupId ∧ s.partners.contains m = true ∧ bits (fieldAt f.payload 0 1) 0 4 = 1)) | _ => false)))
  && (let s : State := wRep (wVer 4) (fun r => { r with size := 3, inService := 7 });
    decide (s.engines = true ∧ s.inGroup = true) && ((match s.relay.inbox with | f :: l => decide (f.typ = 7) && (let m : Nat := 1; decide (bits (fieldAt f.payload 0 1) 4 2 = m ∧ fieldAt f.payload 2 2 = s.rep.groupId ∧ s.partners.contains m = true ∧ bits (fieldAt f.payload 0 1) 0 4 = 2 ∧ s.rep.verdicts = [] ∧ bit (bits (fieldAt f.payload 35 1) 0 3) s.rep.member = false ∧ s.svcMembers.contains s.rep.member = true ∧ m ≠ s.rep.member)) | _ => false)))
  && (let s : State := wRep (wVer 4) (fun r => { r with size := 3, inService := 7, verdicts := [(0, 4)] });
    decide (s.engines = true ∧ s.inGroup = true) && ((match s.relay.inbox with | f :: l => decide (f.typ = 7) && (let m : Nat := 1; decide (bits (fieldAt f.payload 0 1) 4 2 = m ∧ fieldAt f.payload 2 2 = s.rep.groupId ∧ s.partners.contains m = true ∧ bits (fieldAt f.payload 0 1) 0 4 = 2 ∧ s.rep.verdicts = [(s.rep.member, bits (fieldAt f.payload 35 1) 0 3)] ∧ s.rep.size = 3 ∧ s.rep.member < 3 ∧ s.rep.inService = 7 ∧ m ≠ s.rep.member ∧ bits (fieldAt f.payload 35 1) 0 3 = 7 - 2 ^ m - 2 ^ s.rep.member)) | _ => false)))
  && (let s : State := wRep (wRepF 4 (List.replicate 28 (0 : Byte) ++ leBytes 1 1 ++ List.replicate 7 (0 : Byte) ++ leBytes 8 (1 + (2 <<< 15) + (7 <<< 18) + (6 <<< 34))));
    decide (s.engines = true ∧ s.inGroup = true) && ((match s.relay.inbox with | f :: l => decide (f.typ = 7) && (let m : Nat := 1; decide (bits (fieldAt f.payload 0 1) 4 2 = m ∧ fieldAt f.payload 2 2 = s.rep.groupId ∧ s.partners.contains m = true ∧ bits (fieldAt f.payload 0 1) 0 4 = 4 ∧ fieldAt f.payload 36 1 = 1) && ((s.txIdx (bits (fieldAt f.payload 44 8) 15 3) (bits (fieldAt f.payload 44 8) 0 12) (bits (fieldAt f.payload 44 8) 12 3) (bits (fieldAt f.payload 44 8) 18 16)).any fun i => true)) | _ => false)))
  && (let s : State := wRep wFrame;
    decide (s.engines = true ∧ s.inGroup = true) && ((match s.partners with | [m] => decide (s.rep.members.getD m 0 ≠ s.self) | _ => false)))
  && (let s : State := wRep wFrame;
    decide (s.engines = true ∧ s.inGroup = true) && (let m : Fin 3 := 1; (match s.partners with | [q0] => decide (q0 = m.val) && (decide (s.rep.verdicts = []) && ((s.rep.lastHeard.find? (·.1 == m.val)).any fun (q0, since) => decide (q0 = m.val) && (decide (s.collUp = true ∧ s.pins.clkRun = true ∧ s.eclipsed 0xEF = false ∧ (∀ f ∈ s.coll.faults, f.unit ≠ 0xEF) ∧ s.coll.iq.length ≤ 250)))) | _ => false)))
  && (let s : State := wNotice 0 1;
    decide (s.pins.aonRstN = true) && ((match s.relay.notices with | (arr, f) :: l => decide (serialBelow 32 (s.fld (F.fabGen (bits (fieldAt f.payload 2 2) 0 12))) (fieldAt f.payload 4 4) = false) | _ => false)))
  && (let s : State := wNotice 9 2 (fun r => { r with size := 0 });
    decide (s.pins.aonRstN = true) && ((match s.relay.notices with | (arr, f) :: l => decide (serialBelow 32 (s.fld (F.fabGen (bits (fieldAt f.payload 2 2) 0 12))) (fieldAt f.payload 4 4) = true ∧ s.rep.size = 0) | _ => false)))
  && (let s : State := wNotice 9 1;
    decide (s.pins.aonRstN = true) && ((match s.relay.notices with | (arr, f) :: l => decide (serialBelow 32 (s.fld (F.fabGen (bits (fieldAt f.payload 2 2) 0 12))) (fieldAt f.payload 4 4) = true ∧ s.rep.size ≠ 0 ∧ s.rep.out = false ∧ s.rep.groupId = bits (fieldAt f.payload 2 2) 0 12 ∧ bit (bits (fieldAt f.payload 35 1) 0 3) s.rep.member = true ∧ s.collUp = true ∧ s.pins.clkRun = true ∧ s.eclipsed 0xEF = false ∧ (∀ f ∈ s.coll.faults, f.unit ≠ 0xEF)) | _ => false)))
  && (let s : State := wRep wFrame (fun r => { r with intervals := [wIv none [] true] });
    decide (s.engines = true ∧ s.inGroup = true) && ((s.rep.intervals.find? (·.audit)).any fun v => decide (v.own = none ∧ s.collUp = true ∧ s.pins.clkRun = true ∧ s.eclipsed 0xEF = false ∧ (∀ f ∈ s.coll.faults, f.unit ≠ 0xEF)) && (let ours : List Byte := [0x00#8]; let evidence : Bool := true; let others : List (Nat × List Byte × Bool) := [(1, [0x4d#8, 0x00#8, 0x00#8, 0x00#8, 0x00#8, 0x00#8, 0x00#8, 0x00#8, 0x08#8, 0x00#8, 0x00#8, 0x00#8], false)]; true)))
  && (let s : State := wRep wFrame (fun r => { r with intervals := [wIv (some (40, 0)) [(0, ⟨77, 8, false, false⟩)] true] });
    decide (s.engines = true ∧ s.inGroup = true) && ((s.rep.intervals.find? (·.audit)).any fun v => (v.own).any fun (g, n) => (s.node g n).any fun nd => decide (nd.atomic = false ∧ nd.selfRw = false) && (let ours : List Byte := [0x4d#8, 0x00#8, 0x00#8, 0x00#8, 0x00#8, 0x00#8, 0x00#8, 0x00#8, 0x08#8, 0x00#8, 0x00#8, 0x00#8]; let others : List (Nat × List Byte × Bool) := [(1, [0x4d#8, 0x00#8, 0x00#8, 0x00#8, 0x00#8, 0x00#8, 0x00#8, 0x00#8, 0x08#8, 0x00#8, 0x00#8, 0x00#8], false)]; decide ((∀ o ∈ others, slice o.2.1 0 12 = slice ours 0 12) ∧ (v.digests.find? (·.1 == s.rep.member)).map (fun d => leBytes 8 d.2.sum.toNat ++ leBytes 4 d.2.cnt.toNat) = some (slice ours 0 12)) && (let evidence : Bool := true; true))))) = true := by decide +kernel

-- the general statements: states and commands that meet their hypotheses

theorem test_meets_StepRunsTheFrontCommand :
    ({ State.reset with pending := [.aonResetAssert, .thermTrip] } : State).pending = .aonResetAssert :: [.thermTrip] := by decide +kernel
theorem test_meets_IdleStepLetsTimePass : State.reset.pending = [] := by decide +kernel
theorem test_meets_EveryCommandCompletes : Instr.ephInsert ≠ .xhClkStop := by decide
theorem test_meets_StepKeepsOk :
    (let s := { wUp with pending := [.ownerWrite 5 2] }
     s.ok && (match step s with | .next _ => true | _ => false)) = true := by decide +kernel
theorem test_meets_StepTakesOneCommand :
    (let s := { wUp with pending := [.coreResetAssert, .wake] }
     match step s with | .next t => t.pending == [.wake] | _ => false) = true := by decide +kernel
theorem test_meets_TimeNeverGoesBack :
    (match step State.reset with | .next t => t.aon == State.reset.aon + 1 | _ => false) = true := by decide +kernel

-- the well-formedness checks: a well-formed command, and an ill-formed one for each check

theorem test_wf_accepts :
    ([.wake, .registerWrite 0x3001 2 1 [], .scrubStep [(8388608 + 0x48, true)], .registerWrite 0x3000 8 1 [⟨4096, [1, 2, 3], false⟩], .portResponse (.reads 128 false), .data, .eclipseDone 0x307,
      .frameForward 0 wFrame, .xhClkRestart 1000000, .ephRelease 1023] : List Instr).all Instr.wf = true := by decide +kernel
theorem test_wf_refuses_units :
    ([.coreResetRelease [0x308], .eclipseDone 0x308, .reenterTestDone 0x308 true, .nodeGrant 0x100, .faultRaise 0x308 1 0 0 0,
      .faultRaise 1 0x10000 0 0 0, .faultRaise 1 1 16 0 0, .faultLineTest [0x308], .faultLineClear 0x308 1, .faultLineClear 1 0x10000,
      .spareCopyDone 520] : List Instr).all (fun i => !i.wf) = true := by decide +kernel
theorem test_wf_refuses_boundary :
    ([.modidReadDone (List.replicate 63 0), .xhClkRestart 1000001, .portResponse (.reads 100 false), .portResponse (.reads (2 ^ 48) false), .portResponse (.poison 100 true),
      .messageAccept 75] : List Instr).all (fun i => !i.wf) = true := by decide +kernel
theorem test_wf_refuses_accesses :
    ([.registerWrite 0x100000 8 0 [], .registerWrite 0 3 0 [], .registerWrite 0 8 0 [⟨2 ^ 48, [0], false⟩], .tailDoorbell 0 0x1000 8 0 [],
      .fqStickyRead 0x100000 8, .fqStickyRead 0 3, .tailDoorbell 0 0 3 0 [], .tailDoorbell 0 0 8 0 [⟨2 ^ 48, [0], false⟩], .headDoorbell 0 0x1000 8 0, .headDoorbell 0 0 3 0,
      .handleFree 2 (2 ^ 32)] : List Instr).all (fun i => !i.wf) = true := by decide +kernel
theorem test_wf_refuses_memory :
    ([.wcFillReturn 0 16, .scrubStep [(10485824, false)], .ephRelease 1024, .ephAdd 1024, .ephStamp 1024, .ephDeadline 1024]
      : List Instr).all (fun i => !i.wf) = true := by decide +kernel
theorem test_wf_refuses_frames :
    ([{ wFrame with typ := 16 }, { wFrame with vl := 4 }, { wFrame with dl := 2 }, { wFrame with alive := 256 },
      { wFrame with dstChip := 4096 }, { wFrame with dstTenant := 8 }, { wFrame with srcChip := 4096 }, { wFrame with srcTenant := 8 },
      { wFrame with mailbox := 65536 }, { wFrame with offset := 2 ^ 20 }, { wFrame with lenM1 := 256 }, { wFrame with keySel := 4 },
      { wFrame with pairSeq := 2 ^ 24 }, { wFrame with hops := 64 }, { wFrame with detour := 4 }, { wFrame with word := 2 ^ 32 },
      { wFrame with payload := [] }] : List Frame).all (fun f => !(Instr.frameForward 0 f).wf) = true := by decide +kernel
theorem test_wf_refuses_links :
    ([.maintenanceFrame 0 [] [0, 0, 0, 0] 0 0 true, .maintenanceFrame 0 [0, 0, 0, 0, 0, 0, 0, 256] [0, 0, 0, 0] 0 0 true,
      .maintenanceFrame 0 (List.replicate 8 0) [] 0 0 true, .maintenanceFrame 0 (List.replicate 8 0) [0, 0, 0, 256] 0 0 true,
      .maintenanceFrame 0 (List.replicate 8 0) (List.replicate 4 0) (2 ^ 64) 0 true,
      .maintenanceFrame 0 (List.replicate 8 0) (List.replicate 4 0) 0 4 true, .linkIdentity 0 [], .linkAuth 0 (2 ^ 32) 0 true,
      .linkAuth 0 0 (2 ^ 64) true] : List Instr).all (fun i => !i.wf) = true := by decide +kernel

-- the manual's own worked values

/-- The Check column of R365, over the bytes "123456789". -/
theorem test_crc_check_values :
    (crc 0 [0x31, 0x32, 0x33, 0x34, 0x35, 0x36, 0x37, 0x38, 0x39], crc 1 [0x31, 0x32, 0x33, 0x34, 0x35, 0x36, 0x37, 0x38, 0x39])
      = (0xE3069283, 0x995DC9BBDF1939FA) := by decide +kernel
/-- Words 511 of row 0 and 510 of row 1 lie in one bank (the text after R185). -/
theorem test_bank_hash : (bankOf (511 * 64), bankOf (32768 + 510 * 64)) = (511, 511) := by decide +kernel
/-- The rows of "one beat of casts" that have a floating-point source, for `round` 0, 1 and 2. -/
theorem test_casts_from_binary32 :
    [0x3F980000, 0x3BE00000, 0x43FA0000, 0xC3EB0000].map (fun p => [0, 1, 2].map (fun r => castPat 0xB 7 r p))
      = [[0x3A, 0x39, 0x3A], [0x04, 0x03, 0x04], [0x7F, 0x7E, 0x7E], [0xFF, 0xFE, 0xFE]]
      ∧ [0, 1, 2].map (fun r => castPat 0xB 3 r 0x40600000) = [4, 3, 4] := by decide +kernel
/-- The rows of the same table that narrow an integer. -/
theorem test_casts_from_integers :
    [0, 1, 2].map (fun r => castPat 6 3 r 0x12C) = [0x2C, 0x2C, 0x7F]
      ∧ [0, 1, 2].map (fun r => castPat 6 3 r 0xFFFFFF38) = [0x38, 0x38, 0x80]
      ∧ [0, 1, 2].map (fun r => castPat 4 3 r 0xC8) = [0xC8, 0xC8, 0x7F] := by decide +kernel
/-- 1.0 + 2^−18, the accumulator of "one e4m3 chunk". -/
theorem test_binary32_sum : fAdd 0x3F800000 0x36800000 = 0x3F800020 := by decide +kernel
/-- A counter that has wrapped past a target has reached it (R282). -/
theorem test_counter_wrap : (condHolds 0 2 0xFFFFFFFE, condHolds 0 0xFFFFFFFE 2, condHolds 1 2 0xFFFFFFFE) = (true, false, false) := by
  decide +kernel
/-- X2 with the tile memory retained keeps its bytes (R7). -/
theorem test_retention_keeps_tile :
    (match exec (.powerInputChange false false true false false) (wUp.tileWr 1048576 [7]) with
     | .next t => t.tileByte 1048576 == 7 && t.phase == .x2
     | _ => false) = true := by decide +kernel
end

section
/-! A refutation of `Obligations.HostStoresAndDoorbells` (O27). Its clause on HEAD_DOORBELL lets the state hold any record that waits
for a slot (R65). The type of records does not bound the ring that a record names, and a doorbell in X0 writes every waiting record whose ring
has a free slot. The counts of a tenant's completion ring `k` stand at 0x280 + 8k of its page (R426), so those of a "ring 16" stand at 0x300,
where the tenant's count of bad doorbells is: writing a record of that ring counts one although the doorbell is legal. The block
queues its records with the ring of `State.cqOf`, below 16; a premise that every waiting record names such a ring is what the clause lacks. -/

namespace Sys2Proof.Machine

/-- A waiting record of tenant 0 that names ring 16. -/
def recOfRing16 : Rec :=
  { ctx := 0, cq := 16, sq := 0, status := 1, tag := 0, opcode := 0, detail := 0, result := 0, irq := false }

/-- X0 with tenant 0 enabled, its ring CQ0 of 64 slots in use, and `recOfRing16` waiting. What stands where a ring 16 would have its
size is the head of SQ0, here 6, so that this ring too has 64 slots, all of them free. -/
def waitsForRing16 : State :=
  (({ State.reset with phase := .x0 }.setFld (F.cqLog2 0 0) 6).setFld (F.sqHead 0 0) 6).setCtx 0
    { phase := .enabled, holdQ := [recOfRing16] }

theorem waitsForRing16_dbErr : waitsForRing16.fld (F.dbErr 0) = 0 := by decide +kernel

theorem headDoorbell_writes_recOfRing16 :
    waitsForRing16.doorbell 1 0x100 8 0 = (waitsForRing16.setFld (F.cqHead 0 0) 0).flushRecs 0 := by decide +kernel

theorem flushRecs_recOfRing16_dbErr :
    ((waitsForRing16.setFld (F.cqHead 0 0) 0).flushRecs 0).fld (F.dbErr 0) = 1 := by decide +kernel

/-- Refutes O27: the legal doorbell for CQ0 with head 0 in `waitsForRing16` writes the record of ring 16, which raises the count of bad
doorbells from 0 to 1. -/
theorem not_hostStoresAndDoorbells : ¬ Obligations.HostStoresAndDoorbells := by
  rintro ⟨-, -, -, -, -, headDoorbell, -⟩
  obtain ⟨t, ht, -, hcount, -⟩ := headDoorbell waitsForRing16 1 0 8 0 (by decide) (by decide) (by decide) (by decide)
    (by decide) (by decide) (by decide)
  obtain rfl : waitsForRing16.doorbell 1 0x100 8 0 = t := Host.Outcome.next.inj ht
  have counted : (waitsForRing16.doorbell 1 0x100 8 0).fld (F.dbErr 0) = waitsForRing16.fld (F.dbErr 0) := hcount
  rw [headDoorbell_writes_recOfRing16, flushRecs_recOfRing16_dbErr, waitsForRing16_dbErr] at counted
  exact absurd counted (by decide)

end Sys2Proof.Machine
end

section
/-! What every step keeps: the property of Laws/Kept, command by command, and the obligations that speak of `step` itself (O5, O2, O4, O3). -/

namespace Sys2Proof.Machine

/-- Whatever the command, what it answers keeps the canonical stores and the fault outputs. -/
theorem exec_kept {q : List Instr} {a : Nat} {s : State} (c : Instr) (h : Kept q a s) : KeptO q a (exec c s) := by
  cases c with
  | coreResetAssert => exact execCoreResetAssert_kept _ h
  | coreResetRelease => exact execCoreResetRelease_kept _ _ h
  | bringupReady => exact execBringupReady_kept _ h
  | aonResetRelease => exact execAonResetRelease_kept _ h
  | modidReadDone => exact execModidReadDone_kept _ _ h
  | modidReadTimeout => exact execModidReadTimeout_kept _ h
  | powerInputChange => exact execPowerInputChange_kept _ _ _ _ _ _ h
  | thermTrip => exact execThermTrip_kept _ h
  | xhClkStop => exact execXhClkStop_kept _ h
  | xhClkRestart => exact execXhClkRestart_kept _ _ h
  | timeCounterDecrease => exact execTimeCounterDecrease_kept _ _ h
  | portResponse => exact execPortResponse_kept _ _ h
  | messageAccept => exact execMessageAccept_kept _ _ h
  | registerWrite => exact execRegisterWrite_kept _ _ _ _ _ h
  | tailDoorbell => exact execTailDoorbell_kept _ _ _ _ _ _ h
  | headDoorbell => exact execHeadDoorbell_kept _ _ _ _ _ h
  | enable => exact execEnable_kept _ _ h
  | enableCheckComplete => exact execEnableCheckComplete_kept _ _ h
  | disable => exact execDisable_kept _ _ h
  | drainEnd => exact execDrainEnd_kept _ _ h
  | mcEnable => exact execMcEnable_kept _ h
  | ownerWrite => exact execOwnerWrite_kept _ _ _ h
  | vsOwnerWrite => exact execVsOwnerWrite_kept _ _ _ h
  | fqBaseWrite => exact execFqBaseWrite_kept _ _ h
  | fqHeadWrite => exact execFqHeadWrite_kept _ _ h
  | fqStickyRead => exact execFqStickyRead_kept _ _ _ h
  | faultAck => exact execFaultAck_kept _ _ h
  | vesperPendClear => exact execVesperPendClear_kept _ _ h
  | restart => exact execRestart_kept _ h
  | retrain => exact execRetrain_kept _ _ h
  | keyLoad => exact execKeyLoad_kept _ _ _ h
  | keyClear => exact execKeyClear_kept _ _ _ h
  | ephInsert => exact execEphInsert_kept _ h
  | ephRemove => exact execEphRemove_kept _ _ h
  | wake => exact execWake_kept _ h
  | peek => exact execPeek_kept _ _ h
  | sharedDisable => exact execSharedDisable_kept _ h
  | sharedClearDone => exact execSharedClearDone_kept _ h
  | mbEnable => exact execMbEnable_kept _ _ h
  | mbDisable => exact execMbDisable_kept _ _ h
  | fetchTurn => exact execFetchTurn_kept _ h
  | entryAdmit => exact execEntryAdmit_kept _ _ _ h
  | submitGraph => exact execSubmitGraph_kept _ _ h
  | runProgram => exact execRunProgram_kept _ _ h
  | createTensor => exact execCreateTensor_kept _ _ h
  | destroyTensor => exact execDestroyTensor_kept _ _ h
  | handleFree => exact execHandleFree_kept _ _ _ h
  | signal => exact execSignal_kept _ _ h
  | wait => exact execWait_kept _ _ h
  | waitSatisfied => exact execWaitSatisfied_kept _ _ h
  | waitTimeout => exact execWaitTimeout_kept _ _ h
  | scanCheck => exact execScanCheck_kept _ _ h
  | resumeFault => exact execResumeFault_kept _ _ h
  | invalidateXlat => exact execInvalidateXlat_kept _ _ h
  | invalidateXlatDone => exact execInvalidateXlatDone_kept _ _ h
  | setEpoch => exact execSetEpoch_kept _ _ h
  | setEpochDone => exact execSetEpochDone_kept _ _ h
  | registerMailbox => exact execRegisterMailbox_kept _ _ h
  | nop => exact execNop_kept _ _ h
  | eclipseUnit => exact execEclipseUnit_kept _ h
  | eclipseDone => exact execEclipseDone_kept _ _ h
  | reenterUnit => exact execReenterUnit_kept _ h
  | reenterTestDone => exact execReenterTestDone_kept _ _ _ h
  | clearTenant => exact execClearTenant_kept _ h
  | clearTenantDone => exact execClearTenantDone_kept _ _ h
  | setPower => exact execSetPower_kept _ h
  | setPowerQuiesced => exact execSetPowerQuiesced_kept _ h
  | replicaConfig => exact execReplicaConfig_kept _ h
  | setSplit => exact execSetSplit_kept _ h
  | lockConfig => exact execLockConfig_kept _ h
  | cqStallLimit => exact execCqStallLimit_kept _ _ h
  | nodeFetch => exact execNodeFetch_kept _ _ h
  | nodeRegister => exact execNodeRegister_kept _ _ h
  | nodeGrant => exact execNodeGrant_kept _ _ h
  | transit => exact execTransit_kept _ _ h
  | descriptorCopy => exact execDescriptorCopy_kept _ _ h
  | contract => exact execContract_kept _ _ h
  | vector => exact execVector_kept _ _ h
  | signalNode => exact execSignalNode_kept _ _ _ h
  | waitNode => exact execWaitNode_kept _ _ _ h
  | timedNode => exact execTimedNode_kept _ _ _ h
  | check => exact execCheck_kept _ _ h
  | chain => exact execChain_kept _ _ _ h
  | sliceEnd => exact execSliceEnd_kept _ _ _ h
  | sliceTimeLimit => exact execSliceTimeLimit_kept _ _ _ h
  | nodeComplete => exact execNodeComplete_kept _ _ _ h
  | graphAbandon => exact execGraphAbandon_kept _ _ h
  | move => exact execMove_kept _ _ _ h
  | movet => exact execMovet_kept _ _ h
  | loop => exact execLoop_kept _ _ h
  | waitSlot => exact execWaitSlot_kept _ _ h
  | signalSlot => exact execSignalSlot_kept _ _ h
  | releasePerform => exact execReleasePerform_kept _ _ h
  | fence => exact execFence_kept _ _ h
  | stamp => exact execStamp_kept _ _ h
  | nopSlot => exact execNopSlot_kept _ _ h
  | halt => exact execHalt_kept _ _ h
  | programComplete => exact execProgramComplete_kept _ _ h
  | runaheadPrefetch => exact execRunaheadPrefetch_kept _ _ h
  | walkComplete => exact execWalkComplete_kept _ _ _ h
  | pfTimeout => exact execPfTimeout_kept _ _ _ h
  | bpTimeout => exact execBpTimeout_kept _ _ h
  | creditPeriod => exact execCreditPeriod_kept _ h
  | wcFillReturn => exact execWcFillReturn_kept _ _ _ h
  | scrubStep => exact execScrubStep_kept _ _ h
  | partitionClearDone => exact execPartitionClearDone_kept _ h
  | spareCopyDone => exact execSpareCopyDone_kept _ _ h
  | add => exact execAdd_kept _ _ h
  | sub => exact execSub_kept _ _ h
  | mul => exact execMul_kept _ _ h
  | fma => exact execFma_kept _ _ h
  | min => exact execMin_kept _ _ h
  | max => exact execMax_kept _ _ h
  | abs => exact execAbs_kept _ _ h
  | rshift => exact execRshift_kept _ _ h
  | cvt => exact execCvt_kept _ _ h
  | cmplt => exact execCmplt_kept _ _ h
  | cmpeq => exact execCmpeq_kept _ _ h
  | select => exact execSelect_kept _ _ h
  | exp => exact execExp_kept _ _ h
  | log => exact execLog_kept _ _ h
  | rsqrt => exact execRsqrt_kept _ _ h
  | recip => exact execRecip_kept _ _ h
  | rsum => exact execRsum_kept _ _ h
  | rmax => exact execRmax_kept _ _ h
  | rmin => exact execRmin_kept _ _ h
  | softmax => exact execSoftmax_kept _ _ h
  | layernorm => exact execLayernorm_kept _ _ h
  | groupnorm => exact execGroupnorm_kept _ _ h
  | argmax => exact execArgmax_kept _ _ h
  | topk => exact execTopk_kept _ _ h
  | scan => exact execScan_kept _ _ h
  | scanmax => exact execScanmax_kept _ _ h
  | atomadd => exact execAtomadd_kept _ _ h
  | xchg => exact execXchg_kept _ _ h
  | frameSlotSend => exact execFrameSlotSend_kept _ _ h
  | frameForward => exact execFrameForward_kept _ _ _ h
  | data => exact execData_kept _ h
  | batch => exact execBatch_kept _ h
  | ack => exact execAck_kept _ h
  | ackDelayTimeout => exact execAckDelayTimeout_kept _ _ h
  | ackTimeout => exact execAckTimeout_kept _ _ h
  | nack => exact execNack_kept _ h
  | nackRetryTimeout => exact execNackRetryTimeout_kept _ _ h
  | notReady => exact execNotReady_kept _ h
  | retryAfterExpiry => exact execRetryAfterExpiry_kept _ _ h
  | nrLimitTimeout => exact execNrLimitTimeout_kept _ _ h
  | ready => exact execReady_kept _ h
  | maintenanceFrame => exact execMaintenanceFrame_kept _ _ _ _ _ _ _ h
  | maintenanceTimeout => exact execMaintenanceTimeout_kept _ _ h
  | laneLockLoss => exact execLaneLockLoss_kept _ _ h
  | uncCodewordLimit => exact execUncCodewordLimit_kept _ _ _ h
  | authFailLimit => exact execAuthFailLimit_kept _ _ _ h
  | trainAligned => exact execTrainAligned_kept _ _ h
  | trainTimeout => exact execTrainTimeout_kept _ _ h
  | failedRetry => exact execFailedRetry_kept _ _ h
  | linkIdentity => exact execLinkIdentity_kept _ _ _ h
  | linkAuth => exact execLinkAuth_kept _ _ _ _ _ h
  | keyCounterLimit => exact execKeyCounterLimit_kept _ _ h
  | digest => exact execDigest_kept _ h
  | auditComplete => exact execAuditComplete_kept _ _ _ _ h
  | heartbeat => exact execHeartbeat_kept _ h
  | heartbeatPeriod => exact execHeartbeatPeriod_kept _ h
  | memberLostTimeout => exact execMemberLostTimeout_kept _ _ h
  | verdict => exact execVerdict_kept _ h
  | memberOut => exact execMemberOut_kept _ h
  | ackReport => exact execAckReport_kept _ h
  | meridianEdge => exact execMeridianEdge_kept _ _ _ _ _ h
  | zIndexEdge => exact execZIndexEdge_kept _ _ _ h
  | stuckTimeout => exact execStuckTimeout_kept _ _ h
  | holdoverEnter => exact execHoldoverEnter_kept _ _ h
  | holdLimit => exact execHoldLimit_kept _ _ h
  | ephRelease => exact execEphRelease_kept _ _ h
  | ephAdd => exact execEphAdd_kept _ _ h
  | ephStamp => exact execEphStamp_kept _ _ h
  | ephDeadline => exact execEphDeadline_kept _ _ h
  | faultRaise => exact execFaultRaise_kept _ _ _ _ _ _ h
  | faultLineTest => exact execFaultLineTest_kept _ _ h
  | reactionTimeout => exact execReactionTimeout_kept _ _ h
  | faultSpill => exact execFaultSpill_kept _ h
  | twilightEnd => exact execTwilightEnd_kept _ h
  | pwrEstUpdate => exact execPwrEstUpdate_kept _ h
  | aonResetAssert => exact execAonResetAssert_kept _ h
  | faultLineClear => exact execFaultLineClear_kept _ _ _ h
  | ephCmdDone => exact execEphCmdDone_kept _ h
  | meridianGlitch => exact execMeridianGlitch_kept _ _ h

/-- A state with `State.ok` has the property that passes through every operation, whatever the queue. -/
theorem kept_of_ok {s : State} (rest : List Instr) (h : s.ok = true) : Kept rest s.aon { s with pending := rest } := by
  simp only [State.ok, Bool.and_eq_true] at h
  obtain ⟨⟨hm, hs⟩, hl⟩ := h
  exact ⟨rfl, Nat.le_refl _, hm, hs, hl⟩

theorem Kept.ok {q : List Instr} {a : Nat} {s : State} (h : Kept q a s) : s.ok = true := by
  obtain ⟨-, -, hm, hs, hl⟩ := h
  simp only [State.ok, hm, hs, hl, Bool.and_self]

/-- Settles O5: `exec_kept` for a command, `State.advance_kept` for the idle step. -/
theorem stepKeepsOk : Obligations.StepKeepsOk := by
  unfold Obligations.StepKeepsOk
  intro s t hs ht
  unfold step at ht
  split at ht
  · next hq =>
    cases ht
    exact (State.advance_kept _ 1 (kept_of_ok s.pending hs)).ok
  · next c rest hq => exact (exec_kept c (kept_of_ok rest hs) t ht).ok

/-- Settles O2. -/
theorem idleStepLetsTimePass : Obligations.IdleStepLetsTimePass := by
  unfold Obligations.IdleStepLetsTimePass
  intro s hs
  unfold step
  split
  · rfl
  · next c rest hq => exact absurd (hs.symm.trans hq) (by simp)

/-- Settles O4: each arm of `exec` but the one of XH_CLK_STOP answers `.next` by its definition. -/
theorem everyCommandCompletes : Obligations.EveryCommandCompletes := by
  unfold Obligations.EveryCommandCompletes
  intro c s hc
  cases c
  case xhClkStop => exact absurd rfl hc
  all_goals exact ⟨_, rfl⟩

/-- Settles O3: the reset state lists nothing, so every part reads as its default. -/
theorem resetHoldsTheSpecsValues : Obligations.ResetHoldsTheSpecsValues := by
  unfold Obligations.ResetHoldsTheSpecsValues
  decide

end Sys2Proof.Machine
end

section
/-! Resets, power inputs and clocks (O8, O9, O10, O11, O12, O13). -/

namespace Sys2Proof.Machine

/-- What a store reads as when only the keys of `p` are left in it. -/
theorem Sparse.get_filter_key {α : Type} (d : Nat → α) (p : Nat → Bool) (l : List (Nat × α)) (k : Nat) :
    Sparse.get d (l.filter (fun e => p e.1)) k = if p k then Sparse.get d l k else d k := by
  induction l with
  | nil => simp [Sparse.get]
  | cons e l ih =>
    by_cases he : p e.1 = true
    · rw [List.filter_cons, if_pos he, Sparse.get, Sparse.get, ih]
      by_cases hk : e.1 = k
      · rw [if_pos hk, if_pos hk, if_pos (hk ▸ he)]
      · rw [if_neg hk, if_neg hk]
    · rw [List.filter_cons, if_neg he, ih, Sparse.get]
      by_cases hk : e.1 = k
      · rw [if_neg (hk ▸ he), if_neg (hk ▸ he)]
      · rw [if_neg hk]

variable (s : State)

/-- Core reset leaves the surviving registers, with the count of the not-ready log at 0; the others read their reset values (R410). -/
theorem State.coreReset_reg (off : Nat) (h : off ≠ Reg.relayStat) :
    s.coreReset.reg off = if Reg.survives off then s.reg off else Reg.resetValue off := by
  rw [State.coreReset, State.setFld, State.reg_setReg, if_neg (show F.nrLogCount.off ≠ off from Ne.symm h)]
  exact Sparse.get_filter_key _ _ _ _

/-- With xh_rst_n low every combination of the power inputs resets the core; they differ in the phase, in which the core does not run,
and in the tile-memory array (R25, R27). -/
theorem State.powerJudge_rstN_low (failed : List Nat) (h : s.pins.rstN = false) :
    ∃ ph kept lost tile ecc, (ph = .inReset ∨ ph = .x2 ∨ ph = .x3) ∧
      s.powerJudge failed = { (s.setPins { s.pins with coreAck := s.pins.coreReq, tmAck := s.pins.tmReq || s.pins.tmRet }).coreReset with
        phase := ph, retained := kept, tmLost := lost, tile := tile, ecc := ecc } := by
  unfold State.powerJudge
  simp only [h]
  split
  · simp_all
  · exact ⟨.x2, _, _, _, _, by simp, rfl⟩
  · exact ⟨.x3, _, _, _, _, by simp, rfl⟩
  · exact ⟨.inReset, _, _, _, _, by simp, rfl⟩
  · exact ⟨.inReset, _, _, _, _, by simp, rfl⟩
  · unfold State.array
    split
    · exact ⟨.inReset, _, _, _, _, by simp, rfl⟩
    · exact ⟨.inReset, _, _, _, _, by simp, rfl⟩


/-- Settles O8: with xh_rst_n low the core is in reset, whatever the power inputs. -/
theorem coreResetEndsTheWork : Obligations.CoreResetEndsTheWork := by
  unfold Obligations.CoreResetEndsTheWork
  intro s
  obtain ⟨ph, kept, lost, tile, ecc, hph, ht⟩ := (s.setPins { s.pins with rstN := false }).powerJudge_rstN_low [] rfl
  have reg : ∀ off, off ≠ Reg.relayStat → ((s.setPins { s.pins with rstN := false }).powerJudge []).reg off
      = if Reg.survives off then s.reg off else Reg.resetValue off := by
    intro off h
    rw [ht]
    exact State.coreReset_reg _ off h
  have up : ((s.setPins { s.pins with rstN := false }).powerJudge []).collUp = false := by
    rw [ht]
    rcases hph with rfl | rfl | rfl <;> rfl
  refine ⟨_, rfl, ?_, up, ?_, ?_, ?_, ?_, ?_, ?_, ?_, ?_, ?_, ?_, fun off hr hs => ?_, fun off hr ho => ?_⟩
  iterate 11 · rw [ht]; rfl
  · have hne : off ≠ Reg.relayStat := by rintro rfl; exact absurd hr (by decide)
    rw [reg off hne, if_neg (by simpa [Reg.survives, hr] using hs)]
  · rw [reg off ho, if_pos (by simp [Reg.survives, hr])]

/-- Settles O12: the loss of the core's supply comes with xh_rst_n low, which resets the core. -/
theorem faultStateIsLostAtReset : Obligations.FaultStateIsLostAtReset := by
  unfold Obligations.FaultStateIsLostAtReset
  have lost : ∀ t : State, t.pins.rstN = false → (t.powerJudge []).coll = {} ∧ (t.powerJudge []).pins.fltCor = false
      ∧ (t.powerJudge []).pins.fltCon = false ∧ (t.powerJudge []).pins.fltFat = false ∧ (t.powerJudge []).pins.errN = true := by
    intro t h
    obtain ⟨ph, kept, lost, tile, ecc, -, ht⟩ := t.powerJudge_rstN_low [] h
    rw [ht]
    exact ⟨rfl, rfl, rfl, rfl, rfl⟩
  exact fun s => ⟨⟨_, rfl, lost _ rfl⟩, fun tmReq tmRet isoN => ⟨_, rfl, lost _ rfl⟩⟩

/-- Settles O9. -/
theorem powerInputsLeadToX2AndX3 : Obligations.PowerInputsLeadToX2AndX3 := by
  unfold Obligations.PowerInputsLeadToX2AndX3
  refine fun s => ⟨⟨_, rfl, rfl, rfl, rfl, rfl, fun h => ⟨?_, fun a => rfl⟩⟩, ⟨_, rfl, rfl, rfl, rfl, rfl, rfl, fun a => rfl⟩⟩
  show (!s.tmLost) = true
  rw [h]
  rfl

/-- XH_CLK_RESTART with no access held: time passes, xh_clk runs, and the captured faults are reported (R39, R408). -/
theorem State.clkRestart_rest (ns : Nat) (hr : s.pins.clkRun = false) (ha : s.heldAcc = []) : (s.clkRestart ns).rest
    = ({ s.advance ns with pins := { s.pins with clkRun := true }, captured := [], heldAcc := [] } : State).rest := by
  unfold State.clkRestart
  rw [if_neg (by simp [hr])]
  dsimp only
  rw [State.sendMsgs_rest, show (s.advance ns).heldAcc = [] from ha, List.foldl_nil]
  exact rest_foldl fun t x => t.raise_rest _

/-- Settles O13: the restart lets time pass, and the reports that follow change neither the clocks nor xh_clk. -/
theorem clockStopsInIdleAlone : Obligations.ClockStopsInIdleAlone := by
  unfold Obligations.ClockStopsInIdleAlone
  intro s
  refine ⟨fun h => ?_, fun hp hr => ?_, fun ns hr ha => ?_⟩
  · show execXhClkStop s = _
    rw [execXhClkStop, if_pos (by simpa using h)]
    rfl
  · show execXhClkStop s = _
    rw [execXhClkStop, if_neg (by simp [hp, hr])]
  · have frame := frame_of_rest (s.clkRestart_rest ns hr ha)
    simp only at frame
    exact ⟨_, rfl, by simp only [frame], by simp only [frame]; rfl, by simp only [frame]; rfl⟩

/-- While xh_clk stands the relay domain keeps a reported fault (R39). -/
theorem State.raise_clkStopped (f : FaultReq) (hu : s.collUp = true) (hc : s.pins.clkRun = false) :
    s.raise f = { s with captured := s.captured ++ [(f.unit, f.cause, f.ctx, f.line)] } := by
  unfold State.raise
  rw [if_neg (by simp [hu]), if_pos (by simp [hc])]

/-- Settles O11: a rising edge raises the fault, and a report changes nothing of the core's work. -/
theorem thermalTripIsRecorded : Obligations.ThermalTripIsRecorded := by
  unfold Obligations.ThermalTripIsRecorded
  intro s hu he hn
  show ∃ t, execThermTrip s = .next t ∧ _
  by_cases ht : s.pins.therm = true
  · rw [execThermTrip, if_pos ht]
    exact ⟨s, rfl, by simp [ht]⟩
  · have first : ((s.setPins { s.pins with therm := true }).newFault { unit := 0xDE, cause := 0x50, line := true }).cls = 3 :=
      State.newFault_first _ _ hn
    rw [execThermTrip, if_neg ht]
    refine ⟨_, rfl, ?_⟩
    simp only [State.raise_frame, State.setPins_frame, State.setPins_pins, true_and, ht, false_implies, and_true, true_implies,
      Bool.false_eq_true]
    refine ⟨fun hc => ⟨_, State.raise_adds _ _ hu hc he (by decide) hn, rfl, rfl, rfl, first, rfl⟩, fun hc => ?_⟩
    exact congrArg State.captured (State.raise_clkStopped (s.setPins { s.pins with therm := true }) _ hu hc)

/-- With the supplies on, the clamps released and xh_rst_n high a core that does not run begins bring-up (R27, R411). -/
theorem State.powerJudge_bringUp (failed : List Nat) (hcore : s.pins.coreReq = true) (htm : s.pins.tmReq = true)
    (hret : s.pins.tmRet = false) (hiso : s.pins.isoN = true) (hrst : s.pins.rstN = true) (hrun : s.coreRuns = false) :
    s.powerJudge failed
      = (s.setPins { s.pins with coreAck := s.pins.coreReq, tmAck := s.pins.tmReq || s.pins.tmRet }).coreReset.bringUp failed := by
  unfold State.powerJudge
  simp only [hcore, htm, hret, hiso, hrst]
  exact if_neg (ne_true_of_eq_false hrun)

theorem frame_of_stay {s t : State} (h : t.stay = s.stay) : t.phase = s.phase ∧ t.bringAt = s.bringAt ∧ t.pins.rstN = s.pins.rstN
    ∧ t.pins.quiet = s.pins.quiet ∧ t.sys = s.sys ∧ t.tile = s.tile :=
  ⟨(congrArg State.phase h :), (congrArg State.bringAt h :), (congrArg (·.pins.rstN) h :), (congrArg (·.pins.quiet) h :),
    (congrArg State.sys h :), (congrArg State.tile h :)⟩

/-- What bring-up leaves: phase, time, tile memory, system memory and the reset input (R410, R411). -/
theorem State.bringUp_frame (failed : List Nat) :
    (s.bringUp failed).phase = .bringup ∧ (s.bringUp failed).bringAt = s.aon ∧ (s.bringUp failed).pins.rstN = s.pins.rstN
      ∧ (s.bringUp failed).pins.quiet = false ∧ (s.bringUp failed).sys = s.sys
      ∧ (s.bringUp failed).tile = (if s.retained && !s.tmLost then s.tile else []) :=
  frame_of_stay (s.bringUp_stay failed)

/-- The READY frames change only what a report changes. -/
theorem State.sendReady_rest : s.sendReady.rest = s.rest := rest_foldl fun t _ => t.inject_rest _ none

/-- Bring-up without a failure ends in X0, and its reports change nothing of the core's work (R339, R411). -/
theorem State.bringReady_rest (hp : s.phase = .bringup) (hc : s.pins.clkRun = true) (hb : s.fld F.bringupErr = 0xFFFF)
    (hf : s.coll.fatal = false) : s.bringReady.rest = ({ s with phase := .x0 } : State).rest := by
  unfold State.bringReady
  rw [if_pos (by simp [hp, hc, hb, hf])]
  dsimp only
  rw [State.sendMsgs_rest, State.sendReady_rest, State.setRelay_rest, State.setFld_rest]

/-- Settles O10. -/
theorem coreReleaseBringsUp : Obligations.CoreReleaseBringsUp := by
  unfold Obligations.CoreReleaseBringsUp
  refine fun s => ⟨fun failed hcore htm hret hiso hrun => ?_, fun hp hc hb hf => ?_⟩
  · refine ⟨_, rfl, ?_⟩
    rw [State.powerJudge_bringUp (s.setPins { s.pins with rstN := true }) failed hcore htm hret hiso rfl hrun]
    generalize hu : State.coreReset _ = u
    obtain ⟨hphase, hat, hrst, hquiet, hsys, htile⟩ := u.bringUp_frame failed
    have keep : (u.bringUp failed).tile = if s.retained && !s.tmLost then s.tile else [] := by rw [htile, ← hu]; rfl
    refine ⟨hphase, by rw [hat, ← hu]; rfl, by rw [hrst, ← hu]; rfl, hquiet, by rw [hsys, ← hu]; rfl, fun hk hl a => ?_, fun h a => ?_⟩
    · rw [State.tileByte, keep, if_pos (by simp [hk, hl])]
      rfl
    · rw [State.tileByte, keep, if_neg (by rcases h with h | h <;> simp [h])]
      rfl
  · have frame := frame_of_rest (s.bringReady_rest hp hc hb hf)
    simp only at frame
    exact ⟨_, rfl, by simp only [frame, and_self]⟩

end Sys2Proof.Machine
end

section
/-! What the collector and Meridian record (O18). -/

namespace Sys2Proof.Machine

variable (s : State)

/-- Meridian samples its inputs while the core runs (R33). -/
theorem State.collUp_of_merUp (h : s.merUp = true) : s.collUp = true := by
  simp only [State.merUp, State.collUp, Bool.or_eq_true] at h ⊢
  rcases h with h | h <;> simp [h]

/-- With the collector running, a fault of a unit that has none uncleared is recorded with its cause's class (R376, R378). -/
theorem State.raise_records (f : FaultReq) (hu : s.collUp = true) (hc : s.pins.clkRun = true) (he : s.eclipsed f.unit = false)
    (h0 : causeClass f.cause ≠ 0) (hn : ∀ x ∈ s.coll.faults, x.unit ≠ f.unit) :
    ∃ x ∈ (s.raise f).coll.faults, x.id = s.coll.nextId ∧ x.unit = f.unit ∧ x.cause = f.cause ∧ x.cls = causeClass f.cause
      ∧ x.line = f.line ∧ x.ctx = f.ctx ∧ x.acked = false :=
  ⟨s.newFault f, s.raise_adds f hu hc he h0 hn, rfl, rfl, rfl, s.newFault_first f hn, rfl, rfl, rfl⟩

/-- A line trigger whose input is active beyond `stuck_us` is stuck, and Meridian reports it (R344). -/
theorem State.stuckExpire_lineTrigger (b : Nat) (hm : s.merUp = true) (hst : s.fld (F.mbState b) ≠ 0) (hus : s.fld (F.mbStuckUs b) ≠ 0)
    (hmode : s.fld (F.mbMode b) = 2) (ha : (s.base b).a = true) (hk : (s.base b).stuck = false) :
    s.stuckExpire b = (((s.advanceTo ((s.base b).activeAt + 1000 * s.fld (F.mbStuckUs b))).modBase b
      (fun x => { x with stuck := true })).merFault 0x30 true) := by
  simp [State.stuckExpire, hmode, ha, hm, hus, hst, hk]

/-- Settles O18: both rows report a contained fault of unit 0x0DC in a state whose collector is the one before. -/
theorem stuckInputAndClockFaults : Obligations.StuckInputAndClockFaults := by
  unfold Obligations.StuckInputAndClockFaults
  intro s hc he hn
  refine ⟨fun b hm hst hus hmode ha hk => ⟨_, congrArg Host.Outcome.next (s.stuckExpire_lineTrigger b hm hst hus hmode ha hk), ?_⟩, fun tc hu hlt => ?_⟩
  · obtain ⟨f, hf, -, hunit, hcause, hcls, hline, -⟩ := State.raise_records
      ((s.advanceTo ((s.base b).activeAt + 1000 * s.fld (F.mbStuckUs b))).modBase b (fun x => { x with stuck := true }))
      { unit := 0xDC, cause := 0x30, line := true } (s.collUp_of_merUp hm) hc he (by decide) hn
    refine ⟨?_, ?_, f, hf, hunit, hcause, hcls, hline⟩
    · simp only [State.merFault, State.raise_frame, State.modBase_frame, State.advanceTo_aon]
    · simp only [State.merFault, State.raise_frame, State.modBase, State.base_setBase]
  · obtain ⟨f, hf, -, hunit, hcause, hcls, -⟩ := State.raise_records { s with tc := tc } { unit := 0xDC, cause := 0x33 } hu hc he
      (by decide) hn
    refine ⟨State.merFault { s with tc := tc } 0x33, ?_, ?_, ?_, f, hf, hunit, hcause, hcls⟩
    · show execTimeCounterDecrease tc s = _
      rw [execTimeCounterDecrease, if_pos hlt]
    · simp only [State.merFault, State.raise_frame]
    · simp only [State.merFault, State.raise_frame]

end Sys2Proof.Machine
end

section
/-! Accesses of the host in the register window, and the registers of the fault ring (O21). -/

namespace Sys2Proof.Machine

/-- A field that a write selects and that may be written takes the value written (R6). -/
theorem bits_written (off : Nat) (old v m : W64) (locked : Bool) (lo w : Nat)
    (hw : ∀ i < w, (m &&& (Reg.mask off (·.t == .rw) ||| if locked then 0 else Reg.mask off (·.t == .rwl))).getLsbD (lo + i) = true)
    (hc : ∀ i < w, (Reg.mask off (·.t == .w1c)).getLsbD (lo + i) = false) :
    bits (Reg.written off old v m locked).toNat lo w = bits v.toNat lo w := by
  refine Nat.eq_of_testBit_eq fun i => ?_
  rw [bits_testBit, bits_testBit, BitVec.testBit_toNat, BitVec.testBit_toNat]
  by_cases hi : i < w
  · simp only [Reg.written]
    generalize m &&& (Reg.mask off (·.t == .rw) ||| if locked then 0 else Reg.mask off (·.t == .rwl)) = wm at hw ⊢
    have h1 := hw i hi
    simp only [BitVec.getLsbD_and, BitVec.getLsbD_or, BitVec.getLsbD_not, h1, hc i hi, BitVec.lt_of_getLsbD h1, decide_true,
      Bool.not_true, Bool.and_false, Bool.and_true, Bool.false_or, Bool.not_false]
  · simp [hi]

/-- A write that selects no bit leaves the register. -/
theorem written_none (off : Nat) (old v : W64) (locked : Bool) : Reg.written off old v 0 locked = old := by
  simp only [Reg.written, BitVec.ofNat_eq_ofNat, BitVec.zero_and, BitVec.and_zero, BitVec.or_zero, BitVec.not_zero, BitVec.and_allOnes]

variable (s : State)

theorem State.fld_setReg_self (f : Fld) (v : W64) : (s.setReg f.off v).fld f = bits v.toNat f.lo f.w := by
  rw [State.fld, State.reg_setReg_self]

theorem State.fld_setReg_ne (o : Nat) (f : Fld) (v : W64) (h : o ≠ f.off) : (s.setReg o v).fld f = s.fld f := by
  rw [State.fld, State.reg_setReg, if_neg h, State.fld]

/-- A register written with the value that it holds. -/
theorem State.fld_setReg_same (o : Nat) (f : Fld) : (s.setReg o (s.reg o)).fld f = s.fld f := by
  by_cases h : o = f.off
  · rw [h, State.fld_setReg_self, State.fld]
  · exact s.fld_setReg_ne o f _ h

/-- A write of a whole register in the open window (R16, R19). -/
theorem State.hostWrite_word (off : Nat) (v : W64) (hw : s.windowOpen = true) (hc : s.pins.clkRun = true) (h8 : off % 8 = 0)
    (hl : off < 0x100000) : s.hostWrite off 8 v = s.regWrite off (~~~0) v := by
  unfold State.hostWrite
  rw [if_neg (by simp [hw]), if_neg (by simp [hc]), if_neg (by simp [h8]; omega)]
  have : off / 8 * 8 = off := by omega
  simp [h8, this]

/-- A write of the lower half of a register in the open window (R16, R19). -/
theorem State.hostWrite_low (off : Nat) (v : W64) (hw : s.windowOpen = true) (hc : s.pins.clkRun = true) (h8 : off % 8 = 0)
    (hl : off < 0x100000) : s.hostWrite off 4 v = s.regWrite off 0xFFFFFFFF v := by
  unfold State.hostWrite
  rw [if_neg (by simp [hw]), if_neg (by simp [hc]), if_neg (by simp; omega)]
  have : off / 8 * 8 = off := by omega
  simp [h8, this]

/-- The lock that covers a register (R443). -/
def State.lockOf (s : State) (off : Nat) : Bool := if Reg.relayDomain off then s.relay.locked else s.coreLock

/-- A write that no check refuses and no lock meets changes its register and has its effect (R6, R421, R443). -/
theorem State.regWrite_accepted (off : Nat) (m v new : W64) (hnew : (s.reg off &&& ~~~m) ||| (v &&& m) = new)
    (hdebug : Reg.debug off = false) (he : s.eMarked off (s.reg off ^^^ new) = false) (hb : s.baseLive off (s.reg off ^^^ new) = false)
    (hlegal : Reg.legal off (s.reg off) new = true) (hfault : off ≠ Reg.faultCfg) (hshared : off ≠ Reg.tmShared)
    (hlock : s.lockOf off = true → (s.reg off ^^^ new) &&& Reg.mask off (·.t == .rwl) = 0 ∧ off ≠ Reg.fqBase) :
    s.regWrite off m v
      = (s.setReg off (Reg.written off (s.reg off) v (m &&& ~~~(Reg.own off)) (s.lockOf off))).wrote off m v (s.reg off) := by
  have lock : (s.lockOf off && (s.reg off ^^^ new) &&& Reg.mask off (·.t == .rwl) != 0) = false := by
    by_cases h : s.lockOf off = true
    · simp [h, (hlock h).1]
    · simp [h]
  unfold State.regWrite
  simp only [hnew, hdebug, he, hb, hlegal, beq_false_of_ne hfault, beq_false_of_ne hshared, Bool.false_and, Bool.not_true, Bool.or_false,
    Bool.false_eq_true, if_false]
  have kept : (if (s.lockOf off && (s.reg off ^^^ new) &&& Reg.mask off (·.t == .rwl) != 0) = true then s.sat F.lockViol else s) = s := by
    rw [lock]
    rfl
  have ring : ¬(off = Reg.fqBase ∧ s.lockOf off = true) := fun h => (hlock h.2).2 h.1
  rw [← State.lockOf, kept, if_neg ring, show (~~~0 : W64) = BitVec.allOnes 64 from rfl, BitVec.and_allOnes]


/-- A legal base and size restart the fault ring (R47, R386). -/
theorem State.regWrite_fqBase (v : W64) (hl : s.coreLock = false) (hv : bits v.toNat 0 5 = 0 ∨ (6 ≤ bits v.toNat 0 5 ∧ bits v.toNat 0 5 ≤ 16)) :
    s.regWrite Reg.fqBase (~~~0) v
      = (((s.setReg Reg.fqBase (Reg.written Reg.fqBase (s.reg Reg.fqBase) v (~~~0) false)).setReg Reg.fqTail 0).setReg Reg.fqHead 0).setColl
          { s.coll with seq := 0 } := by
  have legal : Reg.legal Reg.fqBase (s.reg Reg.fqBase) v = true := by
    have specs : Reg.specs Reg.fqBase = [⟨0, 5, .rwl, false, 0, 16⟩, ⟨12, 36, .rwl, false, 0, 2 ^ 36⟩] := rfl
    have hpage : bits v.toNat 12 36 ≤ 2 ^ 36 := Nat.le_of_lt (Nat.mod_lt _ (by decide))
    have hsize : bits v.toNat 0 5 ≤ 16 ∧ Reg.hole Reg.fqBase 0 (bits v.toNat 0 5) = false := by
      rw [show Reg.hole Reg.fqBase 0 (bits v.toNat 0 5) = (1 ≤ bits v.toNat 0 5 && bits v.toNat 0 5 ≤ 5 : Bool) from rfl]
      simp only [Bool.and_eq_false_iff, decide_eq_false_iff_not]
      omega
    have hhole : Reg.hole Reg.fqBase 12 (bits v.toNat 12 36) = false := rfl
    have hother : (Reg.fqBase != Reg.bwCfg) = true := rfl
    simp only [Reg.legal, specs, List.all_cons, List.all_nil, hsize, hhole, hpage, hother, Nat.zero_le, decide_true, Bool.not_false,
      Bool.and_true, Bool.or_true, Bool.true_or]
  have new : (s.reg Reg.fqBase &&& ~~~(~~~0)) ||| (v &&& ~~~0) = v := by
    simp only [BitVec.ofNat_eq_ofNat, BitVec.not_zero, BitVec.not_allOnes, BitVec.and_zero, BitVec.zero_or, BitVec.and_allOnes]
  have free : s.lockOf Reg.fqBase = false := hl
  rw [s.regWrite_accepted Reg.fqBase _ v v new rfl rfl rfl legal (by decide) (by decide) (by simp [free]), free]
  rfl

/-- Size and base of the ring are writable while the core's registers are not locked (R435). -/
theorem fqBase_written (old v : W64) : bits (Reg.written Reg.fqBase old v (~~~0) false).toNat 0 5 = bits v.toNat 0 5
    ∧ bits (Reg.written Reg.fqBase old v (~~~0) false).toNat 12 36 = bits v.toNat 12 36 := by
  have writable : (~~~0 &&& (Reg.mask Reg.fqBase (·.t == .rw) ||| if false then 0 else Reg.mask Reg.fqBase (·.t == .rwl)) : W64)
      = 0xFFFFFFFFF01F := by decide
  have clears : Reg.mask Reg.fqBase (·.t == .w1c) = 0 := by decide
  exact ⟨bits_written _ _ _ _ _ _ _ (by rw [writable]; decide) (by rw [clears]; decide),
    bits_written _ _ _ _ _ _ _ (by rw [writable]; decide) (by rw [clears]; decide)⟩

theorem State.wrote_fqHead (m v was : W64) (hm : (bits m.toNat 0 32 != 0) = true) :
    s.wrote Reg.fqHead m v was = s.fqHeadWrite (bits (v &&& m).toNat 0 32) := by
  show (if (bits m.toNat 0 32 != 0) = true then _ else _) = _
  exact if_pos hm

/-- A write of the ring's head is judged by the rule of R50; the register itself changes by that alone (R386). -/
theorem State.regWrite_fqHead (v : W32) : s.regWrite Reg.fqHead 0xFFFFFFFF (v.zeroExtend 64)
    = (s.setReg Reg.fqHead (s.reg Reg.fqHead)).fqHeadWrite v.toNat := by
  have legal : ∀ new : W64, Reg.legal Reg.fqHead (s.reg Reg.fqHead) new = true := by
    intro new
    have specs : Reg.specs Reg.fqHead = [⟨0, 32, .rw, false, 0, 2 ^ 32⟩] := rfl
    have hhead : bits new.toNat 0 32 ≤ 2 ^ 32 := Nat.le_of_lt (Nat.mod_lt _ (by decide))
    have hhole : Reg.hole Reg.fqHead 0 (bits new.toNat 0 32) = false := rfl
    have hother : (Reg.fqHead != Reg.bwCfg) = true := rfl
    simp only [Reg.legal, specs, List.all_cons, List.all_nil, hhole, hhead, hother, Nat.zero_le, decide_true, Bool.not_false,
      Bool.and_true, Bool.or_true, Bool.true_or]
  have rwl : Reg.mask Reg.fqHead (·.t == .rwl) = 0 := rfl
  have val : bits (v.zeroExtend 64 &&& 0xFFFFFFFF : W64).toNat 0 32 = v.toNat := by
    have hv := v.isLt
    rw [BitVec.zeroExtend, BitVec.toNat_and, BitVec.toNat_setWidth, bits, Nat.shiftRight_zero,
      show (0xFFFFFFFF : W64).toNat = 2 ^ 32 - 1 from rfl, Nat.and_two_pow_sub_one_eq_mod]
    omega
  rw [s.regWrite_accepted Reg.fqHead _ _ _ rfl (by decide) rfl rfl (legal _) (by decide) (by decide)
      (fun _ => ⟨by rw [rwl]; exact BitVec.and_zero, by decide⟩),
    show (0xFFFFFFFF &&& ~~~(Reg.own Reg.fqHead) : W64) = 0 by decide, written_none, State.wrote_fqHead _ _ _ _ (by decide), val]

/-- A read of the open window gives a register's value and, at the first word of XH_FQ_STICKY, re-arms the record (R16, R423). -/
theorem State.readAccess_register (off width : Nat) (ha : s.answers = true) (hc : s.pins.clkRun = true)
    (hwd : width = 4 ∧ off % 4 = 0 ∨ width = 8 ∧ off % 8 = 0) (hoff : off < 0x100000) (ht : Reg.timed (off / 8 * 8) = 0) :
    s.readAccess off width = if off / 8 * 8 = Reg.fqSticky 0 then s.setColl { s.coll with stickyRead := true } else s := by
  have still : (s.readReg (off / 8 * 8)).2 = s := by
    unfold State.readReg
    rw [if_pos ht]
    split <;> rfl
  unfold State.readAccess State.hostRead
  rw [if_neg (by simp [hc]), if_neg (by simp [ha]), if_neg (by rcases hwd with ⟨rfl, h⟩ | ⟨rfl, h⟩ <;> simp [h] <;> omega)]
  simp only [still]

/-- Settles O21. -/
theorem faultQueueRegisters : Obligations.FaultQueueRegisters := by
  unfold Obligations.FaultQueueRegisters
  intro s hw hc
  have answers : s.answers = true := by simp [State.answers, hw]
  refine ⟨fun v hl hv => ?_, fun v hv => ?_, fun v hv => ?_, fun width hwd => ?_, fun off width hwd hoff hne ht => ?_,
    fun off width h4 h8 => ?_⟩
  · obtain ⟨hsize, haddr⟩ := fqBase_written (s.reg Reg.fqBase) v
    refine ⟨_, congrArg Host.Outcome.next ((s.hostWrite_word _ v hw hc rfl (by decide)).trans (s.regWrite_fqBase v hl hv)), ?_⟩
    simp only [State.setColl_coll, State.setColl_frame, and_true]
    generalize Reg.written Reg.fqBase (s.reg Reg.fqBase) v (~~~0) false = r at hsize haddr ⊢
    refine ⟨?_, ?_, ?_, ?_⟩
    · rw [State.fld_setReg_ne _ _ F.fqLog2 _ (by decide), State.fld_setReg_ne _ _ F.fqLog2 _ (by decide)]
      exact (State.fld_setReg_self _ F.fqLog2 r).trans hsize
    · rw [State.fld_setReg_ne _ _ F.fqAddr _ (by decide), State.fld_setReg_ne _ _ F.fqAddr _ (by decide)]
      exact (State.fld_setReg_self _ F.fqAddr r).trans haddr
    · rw [State.fld_setReg_ne _ _ F.fqTail _ (by decide)]
      exact State.fld_setReg_self _ F.fqTail 0
    · exact State.fld_setReg_self _ F.fqHead 0
  · have head : (s.setReg Reg.fqHead (s.reg Reg.fqHead)).fqHeadWrite v.toNat
        = (s.setReg Reg.fqHead (s.reg Reg.fqHead)).setFld F.fqHead v.toNat := by
      rw [State.fqHeadWrite, State.fld_setReg_same, State.fld_setReg_same, if_pos hv]
    refine ⟨_, congrArg Host.Outcome.next ((s.hostWrite_low _ _ hw hc rfl (by decide)).trans ((s.regWrite_fqHead v).trans head)), ?_, ?_, rfl⟩
    · rw [State.fld_setFld_self _ _ _ (by decide)]
      exact Nat.mod_eq_of_lt v.isLt
    · rw [State.fld_setFld_off _ _ _ _ (by decide), State.fld_setReg_same]
  · have head : (s.setReg Reg.fqHead (s.reg Reg.fqHead)).fqHeadWrite v.toNat
        = (s.setReg Reg.fqHead (s.reg Reg.fqHead)).sat F.badAcc := by
      rw [State.fqHeadWrite, State.fld_setReg_same, State.fld_setReg_same, if_neg (by simp [hv])]
    refine ⟨_, congrArg Host.Outcome.next ((s.hostWrite_low _ _ hw hc rfl (by decide)).trans ((s.regWrite_fqHead v).trans head)), ?_, ?_, rfl⟩
    · rw [State.sat, State.fld_setFld_off _ _ _ _ (by decide), State.fld_setReg_same]
    · rw [State.fld_sat_self _ _ _ (by decide), State.fld_setReg_same]
      rfl
  · exact congrArg Host.Outcome.next ((s.readAccess_register _ _ answers hc (by simpa [Reg.fqSticky] using hwd) (by decide) (by decide)).trans
      (if_pos rfl))
  · exact congrArg Host.Outcome.next ((s.readAccess_register _ _ answers hc hwd hoff ht).trans (if_neg hne))
  · have counted : s.readAccess off width = s.sat F.badAcc := by
      unfold State.readAccess State.hostRead
      rw [if_neg (by simp [hc]), if_neg (by simp [answers]), if_pos, if_pos hw]
      simp only [Bool.or_eq_true, Bool.not_eq_true', Bool.or_eq_false_iff, Bool.and_eq_false_iff, beq_eq_false_iff_ne]
      exact .inl ⟨not_and_or.mp h8, not_and_or.mp h4⟩
    refine ⟨_, congrArg Host.Outcome.next counted, s.fld_sat_self _ _ (by decide), rfl, fun o ho => ?_⟩
    exact (State.reg_setReg _ _ _ _).trans (if_neg (Ne.symm ho))

end Sys2Proof.Machine
end

section
/-! The responses of the system ports and of the message port (O14). -/

namespace Sys2Proof.Machine

variable (s : State)

/-- The state without what the issue of writes changes: which writes the ports have issued, credit, the weight cache, registers. -/
def State.unissued (s : State) : State :=
  { s with txns := s.txns.map (fun x => { x with sent := false }), credit := [], owed := [], wc := [], wcFills := [], regs := [] }

theorem unissued_foldl {β : Type} {g : State → β → State} {l : List β} {t : State} (hg : ∀ u x, (g u x).unissued = u.unissued) :
    (l.foldl g t).unissued = t.unissued := by
  induction l generalizing t with
  | nil => rfl
  | cons x l ih => exact ih.trans (hg t x)

theorem State.unheld_unissued (u : Nat) : (s.unheld u).unissued = s.unissued := by
  unfold State.unheld
  split <;> rfl

theorem State.debit_lit (c t z : Nat) : ∃ credit owed, s.debit c t z = { s with credit := credit, owed := owed } := by
  unfold State.debit
  generalize s.balances c t = l
  induction l generalizing s with
  | nil => exact ⟨s.credit, s.owed, rfl⟩
  | cons k l ih =>
    obtain ⟨credit, owed, h⟩ := ih (s.draw z k)
    exact ⟨credit, owed, h⟩

theorem map_set_of_eq {α β : Type} {f : α → β} {l : List α} {i : Nat} {x y : α} (hx : l[i]? = some x) (hf : f y = f x) :
    (l.set i y).map f = l.map f := by
  obtain ⟨hi, rfl⟩ := List.getElem?_eq_some_iff.1 hx
  rw [List.map_set, hf, ← List.map_set, List.set_getElem_self]

theorem State.issueAt_unissued (i : Nat) : (s.issueAt i).unissued = s.unissued := by
  unfold State.issueAt
  split
  · next x hx =>
    split
    · obtain ⟨credit, owed, h⟩ := s.debit_lit x.cls x.t x.z
      rw [State.unheld_unissued, h]
      simp only [State.unissued, map_set_of_eq hx]
    · rfl
  · rfl

/-- The issue of writes changes nothing else. -/
theorem State.issue_unissued : s.issue.unissued = s.unissued := unissued_foldl fun u i => u.issueAt_unissued i

theorem State.issue_frame : s.issue.txns.length = s.txns.length ∧ s.issue.sys = s.sys ∧ s.issue.tile = s.tile ∧ s.issue.msgWait = s.msgWait
    ∧ s.issue.graphs = s.graphs := by
  have h := s.issue_unissued
  refine ⟨?_, (congrArg State.sys h :), (congrArg State.tile h :), (congrArg State.msgWait h :), (congrArg State.graphs h :)⟩
  have ht := congrArg (fun t => t.txns.length) h
  simpa [State.unissued] using ht

/-- A write keeps its place and all but the mark that it has been issued. -/
theorem State.issue_txn (i : Nat) : s.issue.txns[i]?.map (fun x => { x with sent := false }) = s.txns[i]?.map (fun x => { x with sent := false }) := by
  have ht := congrArg (fun t => t.txns[i]?) s.issue_unissued
  simpa only [State.unissued, List.getElem?_map] using ht

/-- What a store reads as after entries that agree with one function of their keys. -/
theorem Sparse.get_foldl_set {α : Type} [DecidableEq α] (d f : Nat → α) (l : List (Nat × α)) (m : List (Nat × α)) (k : Nat)
    (hf : ∀ c ∈ l, c.2 = f c.1) :
    Sparse.get d (l.foldl (fun m c => Sparse.set d m c.1 c.2) m) k = if k ∈ l.map (·.1) then f k else Sparse.get d m k := by
  induction l generalizing m with
  | nil => simp
  | cons c l ih =>
    rw [List.foldl_cons, ih _ (fun e he => hf e (List.mem_cons_of_mem _ he)), Sparse.get_set]
    simp only [List.map_cons, List.mem_cons]
    by_cases hk : k ∈ l.map (·.1)
    · rw [if_pos hk, if_pos (Or.inr hk)]
    · rw [if_neg hk]
      by_cases hc : c.1 = k
      · rw [if_pos hc, if_pos (Or.inl hc.symm), hf c List.mem_cons_self, hc]
      · rw [if_neg hc, if_neg (by simp [hk, Ne.symm hc])]

/-- A write that stands in memory changes its bytes, with or without snooping (R290). -/
theorem State.putCells_sys (nc : Bool) (l : List (Nat × Byte)) :
    (s.putCells nc l).sys = l.foldl (fun m c => Sparse.set (fun _ => 0) m c.1 c.2) s.sys := by
  unfold State.putCells
  induction l generalizing s with
  | nil => rfl
  | cons c l ih =>
    rw [List.foldl_cons, ih, List.foldl_cons]
    cases nc <;> rfl

theorem State.putCells_frame (nc : Bool) (l : List (Nat × Byte)) : (s.putCells nc l).tile = s.tile ∧ (s.putCells nc l).msgWait = s.msgWait
    ∧ (s.putCells nc l).graphs = s.graphs ∧ (s.putCells nc l).txns = s.txns := by
  unfold State.putCells
  induction l generalizing s with
  | nil => exact ⟨rfl, rfl, rfl, rfl⟩
  | cons c l ih =>
    have := ih (if nc then s.setRawByte c.1 c.2 else s.setSysByte c.1 c.2)
    cases nc <;> exact this

theorem cellsAt_keys (a : Nat) (b : List Byte) : (cellsAt a b).map (·.1) = List.range' a b.length := by
  rw [cellsAt, List.map_map, show ((fun c : Nat × Byte => c.1) ∘ fun x : Nat × Byte => (a + x.1, x.2)) = (fun i => a + i) ∘ (·.1) from rfl,
    ← List.map_map, List.map_fst_zip (by simp), List.range_eq_range', List.map_add_range', Nat.add_zero]

theorem cellsAt_bytes (a : Nat) (b : List Byte) : ∀ c ∈ cellsAt a b, c.2 = b.getD (c.1 - a) 0 := by
  intro c hc
  obtain ⟨⟨i, v⟩, hz, rfl⟩ := List.mem_map.1 hc
  obtain ⟨j, hj, hjv⟩ := List.mem_iff_getElem.1 hz
  obtain ⟨rfl, rfl⟩ := Prod.mk.inj ((List.getElem_zip ..).symm.trans hjv)
  have hb : j < b.length := by simpa using hj
  simp [hb]

/-- Bytes from an address on, of which the first `n` do not count. -/
theorem State.putCells_drop (nc : Bool) (pa n : Nat) (b : List Byte) (a : Nat) :
    Sparse.get (fun _ => 0) (s.putCells nc ((cellsAt pa b).drop n)).sys a
      = if pa + n ≤ a ∧ a < pa + b.length then b.getD (a - pa) 0 else Sparse.get (fun _ => 0) s.sys a := by
  rw [State.putCells_sys, Sparse.get_foldl_set _ (fun a => b.getD (a - pa) 0) _ _ _ (fun c hc => cellsAt_bytes pa b c (List.mem_of_mem_drop hc)),
    List.map_drop, cellsAt_keys, List.drop_range']
  refine if_congr ?_ rfl rfl
  rw [List.mem_range'_1]
  omega

/-- The first byte alone. -/
theorem State.putCells_take (nc : Bool) (pa : Nat) (b : List Byte) (hb : b ≠ []) (a : Nat) :
    Sparse.get (fun _ => 0) (s.putCells nc ((cellsAt pa b).take 1)).sys a = if a = pa then b.getD 0 0 else Sparse.get (fun _ => 0) s.sys a := by
  obtain ⟨x, l, rfl⟩ := List.exists_cons_of_ne_nil hb
  rw [State.putCells_sys, Sparse.get_foldl_set _ (fun a => (x :: l).getD (a - pa) 0) _ _ _
      (fun c hc => cellsAt_bytes pa _ c (List.mem_of_mem_take hc)),
    List.map_take, cellsAt_keys, List.length_cons, List.range'_succ, List.take_succ_cons, List.take_zero]
  by_cases h : a = pa
  · subst h
    simp
  · rw [if_neg h, if_neg (by simpa using h)]

/-- Events change no write transaction and no memory. -/
theorem State.events_frame (l : List Nat) : (l.foldl (fun s v => s.event v) s).txns = s.txns
    ∧ (l.foldl (fun s v => s.event v) s).sys = s.sys ∧ (l.foldl (fun s v => s.event v) s).tile = s.tile := by
  have frame := frame_of_rest (rest_foldl (l := l) (t := s) fun u v => u.event_rest v)
  simp only [frame, and_self]

/-- The answer to a write that its port has issued is taken. -/
theorem State.writeAnswer_sent (i : Nat) (x : Txn) (hx : s.txns[i]? = some x) (hr : s.coreRuns = true) (hc : s.pins.clkRun = true)
    (hs : x.sent = true) : s.writeAnswer i false = if x.isRec then s.recAnswer i x false
      else (State.issue (State.putCells { s with txns := s.txns.eraseIdx i } x.nc x.cells)).entryWritten x.who := by
  simp [State.writeAnswer, hx, hr, hc, hs]

/-- The first write of a record is answered: its bytes from the second on stand in memory, and its first byte follows (R62). -/
theorem State.recAnswer_first (i : Nat) (x : Txn) (h : x.stage = 1) : s.recAnswer i x false
    = State.issue { s.putCells x.nc ((cellsAt x.pa x.bytes).drop 1) with txns := s.txns.set i { x with stage := 2, sent := false } } := by
  rw [State.recAnswer, if_neg (by decide), if_pos h]

/-- The second write of a record is answered: the record has left, and its events arise (R62). -/
theorem State.recAnswer_second (i : Nat) (x : Txn) (h : x.stage = 2) : s.recAnswer i x false
    = x.ev.foldl (fun s v => s.event v)
        (State.issue { s.putCells x.nc ((cellsAt x.pa x.bytes).take 1) with txns := s.txns.eraseIdx i }) := by
  rw [State.recAnswer, if_neg (by decide), if_neg (by omega)]

/-- Without a pending event no message leaves (R22). -/
theorem State.sendMsg_of_not_pending (v : Nat) (h : s.fld (irqFld Reg.irqPend v) = 0) : s.sendMsg v = s := by
  unfold State.sendMsg
  rw [h, if_neg (c := _ ∧ _) (fun hs => absurd hs.1 (by decide)), ite_self]

/-- Settles O14. -/
theorem messagesAndRecordsLeave : Obligations.MessagesAndRecordsLeave := by
  unfold Obligations.MessagesAndRecordsLeave
  intro s
  refine ⟨fun v hv hp => ?_, fun i x hx hr hc hs hrec hst => ?_, fun i x hx hr hc hs hrec hst hb => ?_,
    fun i g n x hx hr hc hs hrec hwho => ?_, fun pa => ⟨rfl, rfl, rfl, rfl⟩⟩
  · refine congrArg Host.Outcome.next ?_
    rw [if_pos (List.contains_iff_mem.mpr hv)]
    exact State.sendMsg_of_not_pending _ v hp
  · refine ⟨_, congrArg Host.Outcome.next ((s.writeAnswer_sent i x hx hr hc hs).trans ((if_pos hrec).trans (s.recAnswer_first i x hst))), ?_⟩
    obtain ⟨htile, hmsg, -, -⟩ := s.putCells_frame x.nc ((cellsAt x.pa x.bytes).drop 1)
    have hsys := s.putCells_drop x.nc x.pa 1 x.bytes
    generalize s.putCells x.nc ((cellsAt x.pa x.bytes).drop 1) = u at htile hmsg hsys ⊢
    obtain ⟨jlen, jsys, jtile, jmsg, -⟩ := State.issue_frame { u with txns := s.txns.set i { x with stage := 2, sent := false } }
    have jtxn := State.issue_txn { u with txns := s.txns.set i { x with stage := 2, sent := false } } i
    rw [jlen, jsys, jtile, jmsg]
    refine ⟨List.length_set, ?_, fun k h1 hk => ?_, fun a ha => ?_, htile, hmsg⟩
    · have hi : i < s.txns.length := (List.getElem?_eq_some_iff.1 hx).1
      have := congrArg (Option.map (fun y => (y.isRec, y.pa, y.bytes, y.stage, y.ev))) jtxn
      rw [Option.map_map, List.getElem?_set_self hi] at this
      exact this.trans (by simp [hrec])
    · rw [hsys, if_pos (by omega), Nat.add_sub_cancel_left]
    · rw [hsys, if_neg (by omega)]
  · refine ⟨_, congrArg Host.Outcome.next ((s.writeAnswer_sent i x hx hr hc hs).trans ((if_pos hrec).trans (s.recAnswer_second i x hst))), ?_⟩
    obtain ⟨htile, -, -, -⟩ := s.putCells_frame x.nc ((cellsAt x.pa x.bytes).take 1)
    have hsys := s.putCells_take x.nc x.pa x.bytes hb
    generalize s.putCells x.nc ((cellsAt x.pa x.bytes).take 1) = u at htile hsys ⊢
    obtain ⟨etxns, esys, etile⟩ := State.events_frame (State.issue { u with txns := s.txns.eraseIdx i }) x.ev
    obtain ⟨jlen, jsys, jtile, -, -⟩ := State.issue_frame { u with txns := s.txns.eraseIdx i }
    rw [etxns, esys, etile, jlen, jsys, jtile, hsys, if_pos rfl]
    exact ⟨rfl, rfl, fun a ha => (hsys a).trans (if_neg ha), htile⟩
  · refine ⟨_, congrArg Host.Outcome.next (s.writeAnswer_sent i x hx hr hc hs), ?_⟩
    simp only [hrec, hwho, State.entryWritten, Bool.false_eq_true, if_false]
    obtain ⟨htile, -, hgraphs, htxns⟩ := State.putCells_frame { s with txns := s.txns.eraseIdx i } x.nc x.cells
    obtain ⟨jlen, jsys, jtile, -, jgraphs⟩ := State.issue_frame (State.putCells { s with txns := s.txns.eraseIdx i } x.nc x.cells)
    refine ⟨jsys.trans ?_, jlen.trans (congrArg _ htxns), jtile.trans htile, jgraphs.trans hgraphs⟩
    rw [State.putCells_sys, State.putCells_sys]

end Sys2Proof.Machine
end

section
/-! The module identity and the relay's reset (O28). -/

namespace Sys2Proof.Machine

variable (s : State)

theorem bits_lt (v lo w : Nat) : bits v lo w < 2 ^ w := Nat.mod_lt _ (Nat.two_pow_pos w)

/-- The relay but for its ports. -/
def Relay.noPorts (r : Relay) : Relay := { r with ports := [] }

theorem Relay.of_noPorts {r q : Relay} (h : r.noPorts = q.noPorts) : r.modid = q.modid ∧ r.record = q.record ∧ r.mgmt = q.mgmt :=
  ⟨(congrArg Relay.modid h :), (congrArg Relay.record h :), (congrArg Relay.mgmt h :)⟩

theorem State.routeOn_other (arr : Option Nat) (f : Queued) : ((s.routeOn arr f).getD s).relay.noPorts = s.relay.noPorts
    ∧ ((s.routeOn arr f).getD s).regs = s.regs := by
  unfold State.routeOn
  split <;> exact ⟨rfl, rfl⟩

theorem State.reroute_other (p : Nat) : (s.reroute p).relay.noPorts = s.relay.noPorts ∧ (s.reroute p).regs = s.regs := by
  unfold State.reroute
  generalize (s.port p).outQ = l
  suffices h : ∀ t : State, (l.foldl (fun s x => (s.routeOn (if x.f.detour = 1 then some (p ^^^ 1) else none)
      { x with f := { x.f with hops := x.f.hops - 1 } }).getD s) t).relay.noPorts = t.relay.noPorts
      ∧ (l.foldl (fun s x => (s.routeOn (if x.f.detour = 1 then some (p ^^^ 1) else none)
      { x with f := { x.f with hops := x.f.hops - 1 } }).getD s) t).regs = t.regs from h _
  induction l with
  | nil => exact fun t => ⟨rfl, rfl⟩
  | cons x l ih =>
    intro t
    rw [List.foldl_cons, (ih _).1, (ih _).2]
    exact t.routeOn_other _ _

theorem State.linkStart_other (p : Nat) : (s.linkStart p).relay.noPorts = s.relay.noPorts
    ∧ ∀ off, off ≠ Reg.port p 0x10 → (s.linkStart p).reg off = s.reg off := by
  unfold State.linkStart
  generalize (if s.mayTrain p = true then 1 else 0) = v
  refine ⟨rfl, fun off h => ?_⟩
  rw [State.linkTo, State.setFld, State.reg_setReg, if_neg (show (F.linkState p).off ≠ off from Ne.symm h)]
  rfl

/-- A new row of attempts changes the port, its state and the line of its fault (R314). -/
theorem State.linkAgain_other (p : Nat) : (s.linkAgain p).relay.noPorts = s.relay.noPorts
    ∧ ∀ off, off ≠ Reg.port p 0x10 → (s.linkAgain p).reg off = s.reg off := by
  unfold State.linkAgain
  extract_lets st t u
  have ht : t.relay.noPorts = s.relay.noPorts ∧ t.regs = s.regs := by
    simp only [t]
    split <;> exact ⟨rfl, rfl⟩
  have hu : u.relay.noPorts = s.relay.noPorts ∧ ∀ off, off ≠ Reg.port p 0x10 → u.reg off = s.reg off := by
    clear_value t
    obtain ⟨hrelay, hreg⟩ := State.linkStart_other (t.modPort p (fun x => { x with attempts := 0, retrained := false })) p
    exact ⟨hrelay.trans ht.1, fun off h => (hreg off h).trans (congrArg (Sparse.get Reg.resetValue · off) ht.2)⟩
  clear_value u
  split
  · obtain ⟨hrelay, hregs⟩ := u.reroute_other p
    refine ⟨hrelay.trans hu.1, fun off h => ?_⟩
    rw [State.reg, hregs]
    exact hu.2 off h
  · exact hu

theorem State.linksStart_other : s.linksStart.relay.noPorts = s.relay.noPorts ∧ ∀ off < 0x50100, s.linksStart.reg off = s.reg off := by
  unfold State.linksStart
  generalize List.range 6 = l
  induction l generalizing s with
  | nil => exact ⟨rfl, fun _ _ => rfl⟩
  | cons p l ih =>
    obtain ⟨hrelay, hreg⟩ := s.linkAgain_other p
    obtain ⟨irelay, ireg⟩ := ih (s.linkAgain p)
    rw [List.foldl_cons]
    exact ⟨irelay.trans hrelay, fun off h => (ireg off h).trans (hreg off (by simp only [Reg.port]; omega))⟩

/-- With its identity the relay knows its coordinates (R315). -/
theorem State.setIdentity_knows (chip dims role groupRaw : Nat) (epoch : W32) (serial : W64) (hc : chip < 2 ^ 12) (hd : dims < 2 ^ 12) :
    (s.setIdentity chip dims role groupRaw epoch serial).relay.modid = .valid
      ∧ (s.setIdentity chip dims role groupRaw epoch serial).relay.record = s.relay.record
      ∧ (s.setIdentity chip dims role groupRaw epoch serial).fld F.fabValid = 1
      ∧ (s.setIdentity chip dims role groupRaw epoch serial).fld F.chipId = chip
      ∧ (s.setIdentity chip dims role groupRaw epoch serial).fld F.dims = dims := by
  unfold State.setIdentity
  dsimp only
  generalize ht : s.setRelay _ = t
  have hvalid : t.relay.modid = .valid ∧ t.relay.record = s.relay.record := by
    subst ht
    exact ⟨rfl, rfl⟩
  obtain ⟨hrelay, hreg⟩ := (((t.setFld F.chipId chip).setFld F.dims dims).setFld F.fabValid 1).linksStart_other
  have hfld : ∀ f : Fld, f.off = Reg.fabId → (((t.setFld F.chipId chip).setFld F.dims dims).setFld F.fabValid 1).linksStart.fld f
      = (((t.setFld F.chipId chip).setFld F.dims dims).setFld F.fabValid 1).fld f := by
    intro f h
    rw [State.fld, State.fld, hreg _ (by rw [h]; decide)]
  refine ⟨(Relay.of_noPorts hrelay).1.trans hvalid.1, (Relay.of_noPorts hrelay).2.1.trans hvalid.2, ?_, ?_, ?_⟩
  · rw [hfld _ rfl, State.fld_setFld_self _ _ _ (by decide)]
    rfl
  · rw [hfld _ rfl, State.fld_setFld_disj _ _ _ _ (by decide), State.fld_setFld_disj _ _ _ _ (by decide),
      State.fld_setFld_self _ _ _ (by decide)]
    exact Nat.mod_eq_of_lt hc
  · rw [hfld _ rfl, State.fld_setFld_disj _ _ _ _ (by decide), State.fld_setFld_self _ _ _ (by decide)]
    exact Nat.mod_eq_of_lt hd

/-- Without an identity the ports of `l` are down and hold no frame; the others stay as they are (R37). -/
theorem portsDown (l : List Nat) (t : State) : ∀ p,
    (p ∈ l ∨ (t.fld (F.linkState p) = 0 ∧ (t.port p).outQ = [])) →
    (l.foldl (fun s p => (s.linkTo p 0).modPort p (fun x => { x with outQ := [] })) t).fld (F.linkState p) = 0
      ∧ ((l.foldl (fun s p => (s.linkTo p 0).modPort p (fun x => { x with outQ := [] })) t).port p).outQ = [] := by
  induction l generalizing t with
  | nil => exact fun p h => by simpa using h
  | cons x l ih =>
    intro p h
    refine ih _ p ?_
    by_cases hp : p = x
    · subst hp
      refine .inr ⟨(State.fld_setFld_self _ (F.linkState p) 0 (by simp [F.linkState])).trans rfl, ?_⟩
      simp only [State.modPort, State.port_setPort]
    · rcases h with h | h
      · exact .inl ((List.mem_cons.1 h).resolve_left hp)
      · refine .inr ⟨?_, ?_⟩
        · refine (State.fld_setFld_off _ (F.linkState x) (F.linkState p) 0 ?_).trans h.1
          simp only [F.linkState, Reg.port]
          omega
        · simp only [State.modPort, State.port_setPort_ne _ _ _ _ (Ne.symm hp)]
          exact h.2

/-- Taking ports down leaves the rest of the relay and the registers of the module. -/
theorem portsDown_other (l : List Nat) (t : State) :
    (l.foldl (fun s p => (s.linkTo p 0).modPort p (fun x => { x with outQ := [] })) t).relay.noPorts = t.relay.noPorts
      ∧ ∀ off < 0x50100, (l.foldl (fun s p => (s.linkTo p 0).modPort p (fun x => { x with outQ := [] })) t).reg off = t.reg off := by
  induction l generalizing t with
  | nil => exact ⟨rfl, fun _ _ => rfl⟩
  | cons x l ih =>
    obtain ⟨hrelay, hreg⟩ := ih ((t.linkTo x 0).modPort x (fun y => { y with outQ := [] }))
    refine ⟨hrelay, fun off h => (hreg off h).trans ?_⟩
    refine (State.reg_setReg _ _ off _).trans (if_neg ?_)
    simp only [F.linkState, Reg.port]
    omega

/-- The relay gives up: no identity, every port down (R37). -/
theorem State.noIdentity_down : s.noIdentity.relay.modid = .failed ∧ s.noIdentity.relay.mgmt = none ∧ s.noIdentity.fld F.fabValid = 0
    ∧ ∀ p : Fin 6, s.noIdentity.fld (F.linkState p) = 0 ∧ (s.noIdentity.port p).outQ = [] := by
  unfold State.noIdentity
  dsimp only
  generalize ht : (s.setRelay _).setFld F.fabValid 0 = t
  obtain ⟨hrelay, hreg⟩ := portsDown_other (List.range 6) t
  have down : t.relay.modid = .failed ∧ t.relay.mgmt = none ∧ t.fld F.fabValid = 0 := by
    subst ht
    exact ⟨rfl, rfl, State.fld_setFld_self _ F.fabValid 0 (by decide)⟩
  refine ⟨(Relay.of_noPorts hrelay).1.trans down.1, (Relay.of_noPorts hrelay).2.2.trans down.2.1, ?_,
    fun p => portsDown _ t p (.inl (List.mem_range.2 p.isLt))⟩
  rw [State.fld, hreg _ (by decide)]
  exact down.2.2

/-- A read of the identity record that returns is judged (R37, R315). -/
theorem State.modidRead_reading (b : List Byte) (n t0 : Nat) (h : s.relay.modid = .reading n t0) :
    s.modidRead b = if modidOk (slice b 0 64) then
      (s.setRelay { s.relay with record := slice b 0 64, mgmt := none }).setIdentity (bits (fieldAt (slice b 0 64) 8 2) 0 12)
        (bits (fieldAt (slice b 0 64) 5 2) 0 12) (fieldAt (slice b 0 64) 7 1) (fieldAt (slice b 0 64) 10 2)
        (BitVec.ofNat 32 (fieldAt (slice b 0 64) 12 4)) (BitVec.ofNat 64 (fieldAt (slice b 0 64) 16 8))
      else (s.setRelay { s.relay with record := slice b 0 64, mgmt := none }).noIdentity := by
  unfold State.modidRead
  rw [h]

/-- A valid record gives the relay its identity (R315). -/
theorem State.modidRead_valid (b : List Byte) (n t0 : Nat) (h : s.relay.modid = .reading n t0) (hok : modidOk (slice b 0 64) = true) :
    (s.modidRead b).relay.modid = .valid ∧ (s.modidRead b).relay.record = slice b 0 64 ∧ (s.modidRead b).fld F.fabValid = 1
      ∧ (s.modidRead b).fld F.chipId = bits (fieldAt (slice b 0 64) 8 2) 0 12
      ∧ (s.modidRead b).fld F.dims = bits (fieldAt (slice b 0 64) 5 2) 0 12 := by
  rw [s.modidRead_reading b n t0 h, if_pos hok]
  generalize slice b 0 64 = r
  generalize hu : s.setRelay _ = u
  have hrecord : u.relay.record = r := by rw [← hu]; rfl
  rw [← hrecord]
  exact u.setIdentity_knows _ _ _ _ _ _ (bits_lt _ _ _) (bits_lt _ _ _)

theorem State.modidTimeout_reading (n t0 : Nat) (h : s.relay.modid = .reading n t0) :
    s.modidTimeout = if n < 3 then (s.advanceTo (t0 + 5000000)).modidAsk (n + 1) else (s.advanceTo (t0 + 5000000)).noIdentity := by
  unfold State.modidTimeout
  rw [h]

theorem State.wrote_modidCmd (m v was : W64) : s.wrote Reg.modidCmd m v was
    = if bits (v &&& m).toNat 0 1 = 1 ∧ s.pins.aonRstN = true then s.restart else s := rfl

theorem State.advanceTo_modidAsk (m k : Nat) : ((s.advanceTo m).modidAsk k).aon = Nat.max s.aon m
    ∧ ((s.advanceTo m).modidAsk k).relay.modid = .reading k ((s.advanceTo m).modidAsk k).aon
    ∧ ((s.advanceTo m).modidAsk k).relay.mgmt = some (s.fld F.modidBus, s.fld F.modidOff, 64)
    ∧ ((s.advanceTo m).modidAsk k).regs = s.regs :=
  ⟨s.advanceTo_aon m, rfl, rfl, rfl⟩

/-- A read that times out is made again, up to three times in all (R37). -/
theorem State.modidTimeout_asks (n t0 : Nat) (h : s.relay.modid = .reading n t0) (hn : n < 3) :
    s.modidTimeout.aon = Nat.max s.aon (t0 + 5000000) ∧ s.modidTimeout.relay.modid = .reading (n + 1) s.modidTimeout.aon
      ∧ s.modidTimeout.relay.mgmt = some (s.fld F.modidBus, s.fld F.modidOff, 64) ∧ s.modidTimeout.regs = s.regs := by
  rw [s.modidTimeout_reading n t0 h, if_pos hn]
  exact s.advanceTo_modidAsk _ _

/-- A write of 1 to XH_MODID_CMD changes no register by itself and restarts the reading (R432). -/
theorem State.hostWrite_modidCmd (hw : s.windowOpen = true) (hc : s.pins.clkRun = true) (ha : s.pins.aonRstN = true) :
    s.hostWrite Reg.modidCmd 8 1 = (s.setReg Reg.modidCmd (s.reg Reg.modidCmd)).restart := by
  have legal : ∀ new : W64, Reg.legal Reg.modidCmd (s.reg Reg.modidCmd) new = true := fun new => rfl
  have rwl : Reg.mask Reg.modidCmd (·.t == .rwl) = 0 := rfl
  have written : ∀ m locked, Reg.written Reg.modidCmd (s.reg Reg.modidCmd) 1 m locked = s.reg Reg.modidCmd := by
    intro m locked
    have rw0 : Reg.mask Reg.modidCmd (·.t == .rw) = 0 := rfl
    have w1c : Reg.mask Reg.modidCmd (·.t == .w1c) = 0 := rfl
    simp only [Reg.written, rw0, rwl, w1c, ite_self, BitVec.ofNat_eq_ofNat, BitVec.and_zero, BitVec.or_zero, BitVec.not_zero, BitVec.and_allOnes]
  have one : bits (1 &&& ~~~0 : W64).toNat 0 1 = 1 := by decide
  rw [s.hostWrite_word _ _ hw hc (by decide) (by decide), s.regWrite_accepted Reg.modidCmd _ _ _ rfl (by decide) rfl rfl (legal _) (by decide)
    (by decide) (fun _ => ⟨by rw [rwl]; exact BitVec.and_zero, by decide⟩), written, State.wrote_modidCmd]
  exact if_pos ⟨one, ha⟩

/-- The lines of the ports' faults alone are lowered (R378). -/
theorem lineClear_foldl (l : List Nat) (t : State) : ∃ faults, l.foldl (fun s p => s.lineClear (0xE8 + p) 0x40) t
    = { t with coll := { t.coll with faults := faults } } := by
  induction l generalizing t with
  | nil => exact ⟨t.coll.faults, rfl⟩
  | cons p l ih =>
    obtain ⟨faults, h⟩ := ih (t.lineClear (0xE8 + p) 0x40)
    exact ⟨faults, h⟩

/-- The state at the relay's reset, before the lines of its ports are lowered (R10, R414, R419). -/
def State.relayReset (s : State) : State :=
  (State.setFld { s with
    pins := { s.pins with aonRstN := false }, regs := s.regs.filter (fun x => !Reg.relayDomain x.1)
    relay := { coreReady := s.relay.coreReady, inbox := s.relay.inbox, tx := s.relay.tx, log := s.relay.log, rx := s.relay.rx } }
    F.pwrLockRelay 0).setFld F.pwrDbgLocked 0

theorem State.aonReset_lit : ∃ faults, s.aonReset = { s.relayReset with coll := { s.coll with faults := faults } } :=
  lineClear_foldl (List.range 6) s.relayReset

/-- The relay's reset leaves every register of the core but the one that shows the relay's locks (R414, R419). -/
theorem State.aonReset_reg (off : Nat) (h : off ≠ Reg.pwrStatus 0) :
    s.aonReset.reg off = if Reg.relayDomain off then Reg.resetValue off else s.reg off := by
  obtain ⟨faults, hl⟩ := s.aonReset_lit
  rw [hl]
  show s.relayReset.reg off = _
  rw [State.relayReset, State.setFld, State.reg_setReg, if_neg (show F.pwrDbgLocked.off ≠ off from Ne.symm h),
    State.setFld, State.reg_setReg, if_neg (show F.pwrLockRelay.off ≠ off from Ne.symm h)]
  refine (Sparse.get_filter_key Reg.resetValue (fun k => !Reg.relayDomain k) s.regs off).trans ?_
  cases Reg.relayDomain off <;> rfl

/-- Settles O28. -/
theorem relayReadsItsIdentity : Obligations.RelayReadsItsIdentity := by
  unfold Obligations.RelayReadsItsIdentity
  intro s
  refine ⟨fun ha => ?_, fun n t0 h hn => ?_, fun n t0 h hn => ?_, fun n t0 rec h hok => ?_, fun n t0 rec h hok => ?_,
    fun hw hc ha ho => ?_, fun hw hc ha ho => ?_, ?_⟩
  · refine congrArg Host.Outcome.next ?_
    rw [if_neg (by simp [ha])]
    rfl
  · exact ⟨s.modidTimeout, rfl, s.modidTimeout_asks n t0 h hn⟩
  · refine ⟨s.modidTimeout, rfl, ?_⟩
    rw [s.modidTimeout_reading n t0 h, if_neg (by omega)]
    exact State.noIdentity_down _
  · exact ⟨s.modidRead rec, rfl, s.modidRead_valid rec n t0 h hok⟩
  · refine ⟨s.modidRead rec, rfl, ?_⟩
    rw [s.modidRead_reading rec n t0 h, if_neg (by simp [hok])]
    obtain ⟨hmodid, -, hvalid, -⟩ := State.noIdentity_down (s.setRelay { s.relay with record := slice rec 0 64, mgmt := none })
    exact ⟨hmodid, hvalid⟩
  · refine ⟨_, congrArg Host.Outcome.next (s.hostWrite_modidCmd hw hc ha), ?_⟩
    rw [State.restart, State.fld_setReg_same, if_neg (by omega)]
    refine ⟨rfl, rfl, ?_⟩
    show some (_, _, 64) = _
    rw [State.fld_setReg_same, State.fld_setReg_same]
  · refine ⟨_, congrArg Host.Outcome.next (s.hostWrite_modidCmd hw hc ha), ?_⟩
    rw [State.restart, State.fld_setReg_same, if_pos ho]
    dsimp only
    have hovr : (s.setReg Reg.modidCmd (s.reg Reg.modidCmd)).reg Reg.modidOvr = s.reg Reg.modidOvr := by
      rw [State.reg_setReg, if_neg (by decide)]
    rw [hovr]
    obtain ⟨hmodid, -, hvalid, hchip, hdims⟩ := State.setIdentity_knows (s.setReg Reg.modidCmd (s.reg Reg.modidCmd))
      (bits (s.reg Reg.modidOvr).toNat 0 12) (bits (s.reg Reg.modidOvr).toNat 12 12) 0 0
      (BitVec.ofNat 32 (bits (s.reg Reg.modidOvr).toNat 32 32)) (s.setReg Reg.modidCmd (s.reg Reg.modidCmd)).relay.serial (bits_lt _ _ _) (bits_lt _ _ _)
    exact ⟨hmodid, hvalid, hchip, hdims⟩
  · refine ⟨_, rfl, ?_⟩
    have hreg := s.aonReset_reg
    obtain ⟨faults, hl⟩ := s.aonReset_lit
    refine ⟨?_, ?_, ?_, ?_, ?_, ?_, ?_, ?_, fun off hd => ?_, fun off hd hne => ?_⟩
    iterate 8 · rw [hl]; rfl
    · rw [hreg off (by rintro rfl; exact absurd hd (by decide)), if_pos hd]
    · rw [hreg off hne, if_neg (by simp [hd])]

end Sys2Proof.Machine
end

section
/-! What a recorded fault does beside standing in the collector: the outputs show it, a fatal one stops the core, and the eclipse
registers stay as they are (O44). -/

namespace Sys2Proof.Machine

variable (s : State)

theorem proj_foldl {β γ : Type} {p : State → γ} {g : State → β → State} {l : List β} {t : State} (hg : ∀ u, ∀ x ∈ l, p (g u x) = p u) :
    p (l.foldl g t) = p t := by
  induction l generalizing t with
  | nil => rfl
  | cons x l ih => exact (ih fun u y hy => hg u y (List.mem_cons_of_mem _ hy)).trans (hg t x List.mem_cons_self)

/-- The eclipse bits of the units that there are (R376, R389). -/
def State.ecls (s : State) (u : Fin 0x308) : Bool := s.eclipsed u

/-- What reports of faults look at and drive: phase and outputs, `core_ready`, the chip's group, the uncleared faults, the eclipse bits. -/
def State.face (s : State) : Phase × Pins × Bool × Nat × List FaultSt × Bool × (Fin 0x308 → Bool) :=
  (s.phase, s.pins, s.relay.coreReady, s.rep.groupId, s.coll.faults, s.coll.fatal, s.ecls)

theorem State.ecls_setReg (o : Nat) (v : W64) (h : o < 0x70080 ∨ 0x72000 ≤ o) : (s.setReg o v).ecls = s.ecls :=
  funext fun u => by
    rw [State.ecls, State.eclipsed, s.fld_setReg_ne o (F.ecl u) v (by simp only [F.ecl, Reg.ecl]; omega), State.ecls, State.eclipsed]
theorem State.ecls_setFld (f : Fld) (v : Nat) (h : f.off < 0x70080 ∨ 0x72000 ≤ f.off) : (s.setFld f v).ecls = s.ecls :=
  s.ecls_setReg _ _ h

theorem State.setReg_face (o : Nat) (v : W64) (h : o < 0x70080 ∨ 0x72000 ≤ o) : (s.setReg o v).face = s.face := by
  unfold State.face
  rw [s.ecls_setReg o v h]
  rfl
theorem State.setFld_face (f : Fld) (v : Nat) (h : f.off < 0x70080 ∨ 0x72000 ≤ f.off) : (s.setFld f v).face = s.face :=
  s.setReg_face _ _ h
theorem State.sat_face (f : Fld) (n : Nat) (h : f.off < 0x70080 ∨ 0x72000 ≤ f.off) : (s.sat f n).face = s.face := s.setFld_face _ _ h

theorem State.sendMsg_face (v : Nat) (hv : v < 75) : (s.sendMsg v).face = s.face := by
  unfold State.sendMsg
  exact coll_ite rfl (coll_ite (s.setFld_face _ 0 (.inl (by simp only [irqFld, Reg.irqPend]; omega))) rfl)
theorem State.event_face (v : Nat) (hv : v < 75) : (s.event v).face = s.face := by
  unfold State.event
  refine coll_ite rfl (coll_ite rfl ?_)
  rw [State.sendMsg_face _ v hv]
  exact s.setFld_face _ _ (.inl (by simp only [irqFld, Reg.irqPend]; omega))
theorem State.iqPush_face (r : FRec) : (s.iqPush r).face = s.face := by
  unfold State.iqPush
  exact coll_ite (State.event_face _ 73 (by decide)) rfl
theorem State.setSticky_face (r : FRec) : (s.setSticky r).face = s.face := by
  unfold State.setSticky
  refine proj_foldl (t := s.setColl { s.coll with sticky := some r, stickyRead := false }) fun u w hw => u.setReg_face _ _ (.inl ?_)
  have := List.mem_range.1 hw
  simp only [Reg.fqSticky]
  omega
theorem State.overflow_face (r : FRec) : (s.overflow r).face = s.face := by
  unfold State.overflow
  have h : (s.sat (F.fqOvf r.cls)).face = s.face := s.sat_face _ _ (.inl (by simp only [F.fqOvf, Reg.fqOvf]; omega))
  generalize s.sat (F.fqOvf r.cls) = t at h
  dsimp only
  split
  · exact coll_ite ((t.setSticky_face r).trans h) h
  · exact (t.setSticky_face r).trans h
theorem State.vspShow_face (u : Nat) : (s.vspShow u).face = s.face := by
  unfold State.vspShow
  extract_lets fs cls t
  have h : t.face = s.face := s.setFld_face _ _ (.inr (by simp only [F.vspClass, Reg.vsp]; omega))
  clear_value t
  exact (t.setFld_face _ _ (.inr (by simp only [F.vspCause, Reg.vsp]; omega))).trans h
theorem State.vspFault_face (u : Nat) : (s.vspFault u).face = s.face := by
  unfold State.vspFault
  extract_lets was t
  have h : t.face = s.face := by
    refine (State.vspShow_face _ u).trans ((State.setFld_face _ _ _ (.inr ?_)).trans (s.sat_face _ _ (.inr ?_)))
    · simp only [F.vspPend, Reg.vsp]; omega
    · simp only [F.vspCount, Reg.vsp]; omega
  clear_value t
  exact coll_ite ((t.event_face 73 (by decide)).trans h) h

theorem State.drive_ecls : s.drive.ecls = s.ecls := State.ecls_setFld _ _ _ (.inl (by decide))

/-- `t` comes from `s` by one uncleared fault more, and its outputs show the faults (R29). -/
structure Reported (x : FaultSt) (s t : State) : Prop where
  faults : t.coll.faults = s.coll.faults ++ [x]
  fatal : t.coll.fatal = (s.coll.fatal || x.cls == 4)
  phase : t.phase = s.phase
  driven : ∃ u : State, u.phase = s.phase ∧ u.pins = s.pins ∧ u.coll.faults = t.coll.faults ∧ t.pins = u.drive.pins
  ready : t.relay.coreReady = s.relay.coreReady
  group : t.rep.groupId = s.rep.groupId
  ecls : t.ecls = s.ecls

variable {s} in
theorem reported_of_drive {t u : State} {x : FaultSt} (ht : t.face = u.drive.face)
    (hu : u.face = (s.phase, s.pins, s.relay.coreReady, s.rep.groupId, s.coll.faults ++ [x], s.coll.fatal || x.cls == 4, s.ecls)) :
    Reported x s t := by
  simp only [State.face, Prod.mk.injEq] at ht hu
  obtain ⟨hphase, hpins, hready, hgroup, hfaults, hfatal, hecls⟩ := ht
  obtain ⟨uphase, upins, uready, ugroup, ufaults, ufatal, uecls⟩ := hu
  exact ⟨hfaults.trans ufaults, hfatal.trans ufatal, hphase.trans uphase, ⟨u, uphase, upins, hfaults.symm, hpins⟩, hready.trans uready,
    hgroup.trans ugroup, hecls.trans (u.drive_ecls.trans uecls)⟩

/-- A fault that is entered: its cause is a fault's, its unit is not in eclipse, and the unit's line does not show the class already
(R378, R391). -/
def State.enters (s : State) (f : FaultReq) : Prop :=
  causeClass f.cause ≠ 0 ∧ s.eclipsed f.unit = false
    ∧ s.coll.faults.any (fun x => x.unit == f.unit && x.line && causeClass x.cause == causeClass f.cause) = false

theorem State.record_reported (f : FaultReq) (h : s.enters f) : Reported (s.newFault f) s (s.record f).1 := by
  obtain ⟨h0, he, hl⟩ := h
  unfold State.record
  dsimp only
  rw [if_neg (by simp [h0, he, hl]), apply_ite Prod.fst, apply_ite Prod.fst]
  refine reported_of_drive (coll_ite (State.vspFault_face _ _) (coll_ite (State.overflow_face _ _) (State.iqPush_face _ _))) ?_
  exact coll_ite (State.setFld_face _ _ _ (.inl (by decide))) rfl

theorem State.overflowed_reported (h : s.coll.ovfTold = false) : ∃ x, x.line = false ∧ Reported x s s.overflowed := by
  unfold State.overflowed
  rw [if_neg (by simp [h])]
  exact ⟨_, rfl, reported_of_drive rfl rfl⟩

/-- The outputs show a contained fault (R29, R30). -/
def State.Shown (s : State) : Prop := s.collUp = true → s.pins.isoN = true → s.pins.rstN = true →
  s.coll.faults.any (·.cls == 3) = true → s.pins.fltCon = true ∧ s.pins.errN = false

/-- `t` comes from `s` by reports of faults: no fault and no fatal stop is taken back, a line that shows a fault is held for one that was
reported as held (`l`), and in a group of R394 the eclipse bits are as before. -/
structure Reports (l : Bool) (s t : State) : Prop where
  faults : ∀ x ∈ s.coll.faults, x ∈ t.coll.faults
  fatal : s.coll.fatal = true → t.coll.fatal = true
  shown : s.Shown → t.Shown
  stopped : s.relay.coreReady = false → t.relay.coreReady = false
  lines : ∀ x ∈ t.coll.faults, x ∈ s.coll.faults ∨ x.line = false ∨ l = true
  group : s.rep.groupId < 4096 → t.ecls = s.ecls ∧ t.rep.groupId = s.rep.groupId

variable {s} in
theorem Reported.shown {x : FaultSt} {t : State} (h : Reported x s t) : t.Shown := by
  obtain ⟨u, hphase, hpins, hfaults, hdrive⟩ := h.driven
  intro hup hiso hrst hany
  have uup : u.collUp = true := by
    rw [State.collUp, hphase, ← h.phase]
    exact hup
  rw [hdrive] at hiso hrst ⊢
  have uiso : u.pins.isoN = true := hiso
  have urst : u.pins.rstN = true := hrst
  rw [← hfaults] at hany
  simp only [State.drive, State.setFld_frame, State.setPins, uup, uiso, urst, hany, Bool.and_self, Bool.true_or, Bool.not_true, and_self]

variable {s} in
theorem Reported.reports {x : FaultSt} {t : State} {l : Bool} (h : Reported x s t) (hx : x.line = false ∨ l = true) : Reports l s t where
  faults y hy := by rw [h.faults]; exact List.mem_append_left _ hy
  fatal hf := by rw [h.fatal, hf, Bool.true_or]
  shown _ := h.shown
  stopped hs := h.ready.trans hs
  lines y hy := by
    rw [h.faults, List.mem_append, List.mem_singleton] at hy
    exact hy.imp_right fun (e : y = x) => e ▸ hx
  group _ := ⟨h.ecls, h.group⟩

theorem Reports.refl (l : Bool) : Reports l s s :=
  ⟨fun _ h => h, id, id, id, fun _ h => .inl h, fun _ => ⟨rfl, rfl⟩⟩

variable {s} in
theorem Reports.trans {l : Bool} {t u : State} (h : Reports l s t) (h' : Reports l t u) : Reports l s u where
  faults x hx := h'.faults x (h.faults x hx)
  fatal hf := h'.fatal (h.fatal hf)
  shown hs := h'.shown (h.shown hs)
  stopped hs := h'.stopped (h.stopped hs)
  lines x hx := (h'.lines x hx).elim (h.lines x) .inr
  group hg := ⟨(h'.group ((h.group hg).2 ▸ hg)).1.trans (h.group hg).1, (h'.group ((h.group hg).2 ▸ hg)).2.trans (h.group hg).2⟩

theorem State.record_reports (f : FaultReq) (l : Bool) (hl : f.line = false ∨ l = true) : Reports l s (s.record f).1 := by
  by_cases h : s.enters f
  · exact (s.record_reported f h).reports hl
  · have same : (s.record f).1 = s := by
      unfold State.record
      rw [if_pos]
      simp only [State.enters, ne_eq, not_and, Bool.not_eq_false] at h
      by_cases h0 : causeClass f.cause = 0
      · exact .inl h0
      · by_cases he : s.eclipsed f.unit = true
        · exact .inr (.inl he)
        · exact .inr (.inr (h h0 (by simpa using he)))
    rw [same]
    exact .refl s l

theorem State.overflowed_reports (l : Bool) : Reports l s s.overflowed := by
  by_cases h : s.coll.ovfTold = true
  · rw [State.overflowed, if_pos h]
    exact .refl s l
  · obtain ⟨x, hx, hr⟩ := s.overflowed_reported (by simpa using h)
    exact hr.reports (.inl hx)

variable {s} in
theorem Reports.of_face {l : Bool} {t u : State} (h : Reports l s u) (hf : t.face = u.face) : Reports l s t := by
  simp only [State.face, Prod.mk.injEq] at hf
  obtain ⟨hphase, hpins, hready, hgroup, hfaults, hfatal, hecls⟩ := hf
  refine ⟨hfaults ▸ h.faults, hfatal ▸ h.fatal, fun hs => ?_, hready ▸ h.stopped, hfaults ▸ h.lines, hgroup ▸ hecls ▸ h.group⟩
  have shown := h.shown hs
  simp only [State.Shown, State.collUp, hphase, hpins, hfaults] at shown ⊢
  exact shown

theorem State.floodOut_face (p : List Byte) (b : Option Nat) : (s.floodOut p b).face = s.face := by
  unfold State.floodOut
  exact proj_foldl fun u x _ => coll_ite rfl rfl

theorem State.grpOut_face (g m : Nat) : (s.grpOut g m).face = s.face := by
  unfold State.grpOut
  refine proj_foldl fun u o ho => ?_
  have hi : 0x58000 ≤ o ∧ o < 0x60000 := by simpa using (List.mem_filter.1 ho).2
  extract_lets n ins t
  have hn : Reg.fabGrp n < 0x70080 := by simp only [Reg.fabGrp, n]; omega
  have ht : t.face = u.face := u.setFld_face _ _ (.inl hn)
  clear_value t ins n
  split
  · split
    · exact ht
    · split
      · exact (t.setFld_face _ _ (.inl hn)).trans ht
      · exact ht
  · rfl

theorem State.nameSelfOut_reports (l : Bool) : Reports l s s.nameSelfOut := by
  unfold State.nameSelfOut
  extract_lets r out gen t u
  split
  · exact .refl s l
  · have hu : Reports l s (t.setFld (F.fabGen r.groupId) gen.toNat) :=
      ⟨fun _ h => h, id, id, id, fun _ h => .inl h, fun hg => ⟨t.ecls_setFld _ _ (.inl (by simp only [F.fabGen, Reg.fabGen, r]; omega)), rfl⟩⟩
    exact hu.of_face ((u.floodOut_face _ _).trans (State.grpOut_face _ _ _))

/-- The fatal stop (R384): `core_ready` falls. -/
theorem State.fatalStop_reports (l : Bool) : Reports l s s.fatalStop ∧ s.fatalStop.relay.coreReady = false := by
  unfold State.fatalStop
  have ht : Reports l s (s.setRelay { s.relay with coreReady := false }) := ⟨fun _ h => h, id, id, fun _ => rfl, fun _ h => .inl h, fun _ => ⟨rfl, rfl⟩⟩
  have hs : (s.setRelay { s.relay with coreReady := false }).relay.coreReady = false := rfl
  generalize s.setRelay { s.relay with coreReady := false } = t at ht hs
  dsimp only
  split
  · exact ⟨ht, hs⟩
  · have h := (t.nameSelfOut_reports l).trans (t.nameSelfOut.record_reports { unit := 0xEF, cause := 0x73 } l (.inl rfl))
    exact ⟨ht.trans h, h.stopped hs⟩

/-- The record of a raised fault and the overflow that it may bring, before the fatal stop. -/
def State.entered (s : State) (f : FaultReq) : State :=
  if (s.record f).2.isSome then (s.record f).1.overflowed else (s.record f).1

theorem State.raise_eq (f : FaultReq) (hu : s.collUp = true) (hc : s.pins.clkRun = true) :
    s.raise f = if ((s.entered f).coll.fatal && !s.coll.fatal) = true then (s.entered f).fatalStop else s.entered f := by
  unfold State.raise
  dsimp only
  rw [if_neg (by simp [hu]), if_neg (by simp [hc]), State.entered]

theorem State.record_enters (f : FaultReq) (l : Bool) : Reports l (s.record f).1 (s.entered f) := by
  unfold State.entered
  split
  · exact State.overflowed_reports _ l
  · exact .refl _ l

theorem State.entered_raises (f : FaultReq) (l : Bool) (hu : s.collUp = true) (hc : s.pins.clkRun = true) :
    Reports l (s.entered f) (s.raise f) := by
  rw [s.raise_eq f hu hc]
  split
  · exact (State.fatalStop_reports _ l).1
  · exact .refl _ l

theorem State.raise_reports (f : FaultReq) (l : Bool) (hl : f.line = false ∨ l = true) (hu : s.collUp = true)
    (hc : s.pins.clkRun = true) : Reports l s (s.raise f) :=
  (s.record_reports f l hl).trans ((s.record_enters f l).trans (s.entered_raises f l hu hc))

/-- A fault that is entered stands with its class, shows, and stops the core if it is the first fatal one (R29, R384). -/
theorem State.raise_enters (f : FaultReq) (hu : s.collUp = true) (hc : s.pins.clkRun = true) (h : s.enters f) :
    s.newFault f ∈ (s.raise f).coll.faults ∧ (s.raise f).Shown
      ∧ ((s.newFault f).cls = 4 → (s.raise f).coll.fatal = true ∧ (s.coll.fatal = false → (s.raise f).relay.coreReady = false)) := by
  have rep := s.record_reported f h
  have toEntered := s.record_enters f true
  have toRaised := s.entered_raises f true hu hc
  refine ⟨toRaised.faults _ (toEntered.faults _ ?_), toRaised.shown (toEntered.shown rep.shown), fun hcls => ?_⟩
  · rw [rep.faults]
    exact List.mem_append_right _ (List.mem_singleton.2 rfl)
  · have fatal : (s.entered f).coll.fatal = true := toEntered.fatal (by rw [rep.fatal, hcls]; simp)
    refine ⟨toRaised.fatal fatal, fun hwas => ?_⟩
    rw [s.raise_eq f hu hc, if_pos (by rw [fatal, hwas]; rfl)]
    exact (State.fatalStop_reports _ true).2

/-- What a check's finding leaves alone (R223, R254). -/
def State.outside (s : State) : Phase × Pins × Relay × Coll := (s.phase, s.pins, s.relay, s.coll)

theorem State.setFld_outside (f : Fld) (v : Nat) : (s.setFld f v).outside = s.outside := rfl
theorem State.modChan_outside (n : Nat) (f : Chan → Chan) : (s.modChan n f).outside = s.outside := rfl
theorem State.modGraph_outside (g : Nat) (f : Graph → Graph) : (s.modGraph g f).outside = s.outside := rfl
theorem State.modNode_outside (g n : Nat) (f : Node → Node) : (s.modNode g n f).outside = s.outside := rfl
theorem State.forget_outside (ws : List Who) : (s.forget ws).outside = s.outside := rfl
theorem State.setMer_outside (m : Meridian) : (s.setMer m).outside = s.outside := rfl

theorem State.stopWaiters_outside (g : Nat) : (s.stopWaiters g).outside = s.outside := by
  unfold State.stopWaiters
  split
  · refine coll_ite (g := State.outside) rfl ?_
    rw [State.setFld_outside, State.setMer_outside, State.forget_outside, State.modGraph_outside]
  · rfl

theorem State.failNode_outside (g n status detail : Nat) : (s.failNode g n status detail).outside = s.outside := by
  unfold State.failNode
  extract_lets t u
  have ht : t.outside = s.outside := (State.forget_outside _ _).trans
    (coll_ite (g := State.outside) ((State.modGraph_outside _ _ _).trans (s.modNode_outside _ _ _)) rfl)
  clear_value t
  have hu : u.outside = t.outside := by
    simp only [u]
    split
    · rw [State.wrap, State.setFld_outside, State.modNode_outside, State.modChan_outside]
    · rfl
  rw [State.stopWaiters_outside, State.modGraph_outside, State.modNode_outside, hu, ht]

theorem State.endProg_outside (ch status detail : Nat) : (s.endProg ch status detail).outside = s.outside := by
  rw [State.endProg, State.chTo, State.setFld_outside, State.modProg, State.modChan_outside, State.forget_outside]

theorem State.checkFails_outside (u cause : Nat) : (s.checkFails u cause).outside = s.outside := by
  unfold State.checkFails
  split
  · have ht : (if cause = 0x12 then s.drawBelow 0x308 else (u, s)).2.outside = s.outside := by
      split <;> rfl
    generalize (if cause = 0x12 then s.drawBelow 0x308 else (u, s)) = d at ht
    obtain ⟨d, t⟩ := d
    refine Eq.trans (coll_ite (g := State.outside) (t.endProg_outside _ _ _) ?_) ht
    split
    · exact t.failNode_outside _ _ _ _
    · rfl
  · rfl

/-- FAULT_RAISE reports to the collector; what a check's finding does to the work it found wrong leaves the collector and the outputs. -/
theorem State.faultRaise_outside (u cause ctx merged : Nat) (hold : Bool) (hassigned : unitAssigned u = true) (h0 : causeClass cause ≠ 0)
    (hu : s.collUp = true) (he : s.eclipsed u = false) : (s.faultRaise u cause ctx hold merged).outside
      = (s.raise { unit := u, cause := cause, ctx := if ctx ≤ 8 then ctx else 15, line := hold }).outside := by
  unfold State.faultRaise
  rw [if_pos (by simp [hassigned, h0, State.coreRuns, hu, he])]
  exact (State.checkFails_outside _ _ _).trans (coll_ite (g := State.outside) rfl (State.setFld_outside _ _ _))

theorem frame_of_outside {s t : State} (h : t.outside = s.outside) : t.pins = s.pins ∧ t.relay = s.relay ∧ t.coll = s.coll := by
  simp only [State.outside, Prod.mk.injEq] at h
  exact h.2

theorem State.enters_of_lines (f : FaultReq) (h0 : causeClass f.cause ≠ 0) (he : s.eclipsed f.unit = false)
    (hl : ∀ x ∈ s.coll.faults, x.unit = f.unit → x.line = false) : s.enters f := by
  refine ⟨h0, he, List.any_eq_false.2 fun x hx => ?_⟩
  by_cases h : x.unit = f.unit
  · simp [hl x hx h]
  · simp [h]

/-- Escalation (R383): on an unacknowledged fault of its class a fault of the unit is one class higher. -/
theorem State.newFault_escalates (f : FaultReq) (x : FaultSt) (h4 : causeClass f.cause < 4) (hc : f.cause < 0x70 ∨ 0x73 < f.cause)
    (hx : x ∈ s.coll.faults) (hu : x.unit = f.unit) (hcls : x.cls = causeClass f.cause) (ha : x.acked = false) :
    (s.newFault f).cls = causeClass f.cause + 1 := by
  have same : s.coll.faults.any (fun x => x.unit == f.unit && x.cls == causeClass f.cause && !x.acked) = true :=
    List.any_eq_true.2 ⟨x, hx, by simp [hu, hcls, ha]⟩
  have other : (0x70 ≤ f.cause && f.cause ≤ 0x73 : Bool) = false := by
    rcases hc with hc | hc
    · simp [Nat.not_le.2 hc]
    · simp [Nat.not_le.2 hc]
  simp only [State.newFault, same, other, h4, decide_true, Bool.not_false, Bool.and_self, if_true]

/-- The units that FAULT_LINE_TEST finds broken, one after another. -/
def State.linesBroken (s : State) (l : List Nat) : State := l.foldl (fun s u => s.raise { unit := u, cause := 0x1A }) s

theorem State.linesBroken_reports (l : List Nat) (hu : s.collUp = true) (hc : s.pins.clkRun = true) :
    Reports false s (s.linesBroken l) ∧ (s.linesBroken l).collUp = true ∧ (s.linesBroken l).pins.clkRun = true := by
  induction l generalizing s with
  | nil => exact ⟨.refl s false, hu, hc⟩
  | cons u l ih =>
    have frame := s.raise_frame { unit := u, cause := 0x1A }
    have h := ih (s.raise { unit := u, cause := 0x1A }) (by simp only [frame, hu]) (by simp only [frame, hc])
    exact ⟨(s.raise_reports _ false (.inl rfl) hu hc).trans h.1, h.2⟩

theorem State.linesBroken_fatal (l : List Nat) (u : Nat) (hu : s.collUp = true) (hc : s.pins.clkRun = true) (hg : s.rep.groupId < 4096)
    (hmem : u ∈ l) (h308 : u < 0x308) (he : s.eclipsed u = false) (hn : ∀ f ∈ s.coll.faults, f.unit ≠ u) :
    (∃ f ∈ (s.linesBroken l).coll.faults, f.unit = u ∧ f.cause = 0x1A ∧ f.cls = 4) ∧ (s.linesBroken l).coll.fatal = true := by
  obtain ⟨l1, l2, rfl⟩ := List.append_of_mem hmem
  obtain ⟨before, up, run⟩ := s.linesBroken_reports l1 hu hc
  have after : s.linesBroken (l1 ++ u :: l2) = ((s.linesBroken l1).raise { unit := u, cause := 0x1A }).linesBroken l2 :=
    List.foldl_append
  generalize s.linesBroken l1 = t at before up run after
  have ecl : t.eclipsed u = false := (congrFun (before.group hg).1 ⟨u, h308⟩).trans he
  have lines : ∀ x ∈ t.coll.faults, x.unit = u → x.line = false := by
    intro x hx hxu
    rcases before.lines x hx with h | h | h
    · exact absurd hxu (hn x h)
    · exact h
    · cases h
  obtain ⟨hmem, -, hfatal⟩ := t.raise_enters { unit := u, cause := 0x1A } up run (t.enters_of_lines _ (show causeClass 0x1A ≠ 0 by decide) ecl lines)
  have frame := t.raise_frame { unit := u, cause := 0x1A }
  obtain ⟨rest, -, -⟩ := (t.raise { unit := u, cause := 0x1A }).linesBroken_reports l2 (by simp only [frame, up]) (by simp only [frame, run])
  rw [after]
  exact ⟨⟨_, rest.faults _ hmem, rfl, rfl, rfl⟩, rest.fatal (hfatal rfl).1⟩

theorem State.endTwilight_faults : s.endTwilight.coll.faults = s.coll.faults.filter (!·.settled) := by
  unfold State.endTwilight
  rw [State.drive_coll]
  exact coll_ite (g := fun s => s.coll.faults) (congrArg Coll.faults (coll_foldl fun u x => u.vspShow_coll _)) rfl

theorem State.twilight_faults : (∀ f ∈ s.twilight.coll.faults, f ∈ s.coll.faults) ∧ (s.fld F.faultState = 0 → s.twilight = s) := by
  unfold State.twilight
  split
  next h =>
    refine ⟨fun f hf => ?_, fun h0 => absurd (h0.symm.trans h.1) (by decide)⟩
    rw [State.endTwilight_faults] at hf
    exact List.mem_of_mem_filter hf
  next => exact ⟨fun _ h => h, fun _ => rfl⟩

/-- What the end of a fault's condition leaves alone beside the fault's line, before the fault state can end (R378). -/
def State.known (s : State) : List FaultSt × List (Nat × W64) := (s.coll.faults, s.regs)

theorem State.condEnds_faults (u cause : Nat) : (∀ f ∈ (s.condEnds u cause).coll.faults, f ∈ (s.lineClear u cause).coll.faults)
    ∧ (s.fld F.faultState = 0 → (s.condEnds u cause).coll.faults = (s.lineClear u cause).coll.faults) := by
  unfold State.condEnds
  extract_lets t1 p t2 t3
  have h2 : t2.known = t1.known := coll_ite (g := State.known) rfl rfl
  have h3 : t3.known = t2.known := coll_ite (g := State.known) (proj_foldl fun v b _ => coll_ite (g := State.known) rfl rfl) rfl
  have h31 := h3.trans h2
  simp only [State.known, Prod.mk.injEq] at h31
  obtain ⟨faults, regs⟩ := h31
  have state : t3.fld F.faultState = s.fld F.faultState := by
    simp only [State.fld, State.reg, regs]
    rfl
  clear_value t3
  split
  · rw [← faults, ← state]
    exact ⟨t3.twilight_faults.1, fun h => by rw [t3.twilight_faults.2 h]⟩
  · rw [faults]
    exact ⟨fun _ h => h, fun _ => rfl⟩

theorem unitAssigned_lt {u : Nat} (h : unitAssigned u = true) : u < 0x308 := by
  simp only [unitAssigned, Bool.or_eq_true, Bool.and_eq_true, decide_eq_true_eq] at h
  omega

/-- Settles O44: a report that enters appends its fault and drives the outputs, and what follows it in the row takes no report back. -/
theorem faultsAreRaised : Obligations.FaultsAreRaised := by
  unfold Obligations.FaultsAreRaised
  intro s hu hc
  refine ⟨?_, ?_, ?_, ?_⟩
  · intro u cause ctx merged hold hassigned h0 he hn
    obtain ⟨hpins, hrelay, hcoll⟩ := frame_of_outside (s.faultRaise_outside u cause ctx merged hold hassigned h0 hu he)
    have hraise := s.raise_enters { unit := u, cause := cause, ctx := if ctx ≤ 8 then ctx else 15, line := hold } hu hc
      (s.enters_of_lines _ h0 he fun x hx hxu => absurd hxu (hn x hx))
    obtain ⟨hmem, hshown, hfatal⟩ := hraise
    have frame := s.raise_frame { unit := u, cause := cause, ctx := if ctx ≤ 8 then ctx else 15, line := hold }
    have hcls := s.newFault_first { unit := u, cause := cause, ctx := if ctx ≤ 8 then ctx else 15, line := hold } hn
    refine ⟨_, rfl, ?_, ?_, ?_, ?_⟩
    · rw [hcoll]
      exact ⟨_, hmem, rfl, rfl, rfl, hcls, rfl, rfl, rfl⟩
    · rw [hcoll]
      exact fun f hf => s.raise_mono _ hf
    · rw [hpins]
      intro h3 hiso hrst
      refine hshown (by simp only [frame, hu]) (by simp only [frame, hiso]) (by simp only [frame, hrst]) ?_
      exact List.any_eq_true.2 ⟨_, hmem, by rw [hcls]; exact beq_iff_eq.2 h3⟩
    · rw [hcoll, hrelay]
      exact fun h4 => hfatal (hcls.trans h4)
  · intro u cause ctx x hassigned h0 h4 hcause he hx hxu hcls hacked hlines
    obtain ⟨-, -, hcoll⟩ := frame_of_outside (s.faultRaise_outside u cause ctx 0 false hassigned h0 hu he)
    obtain ⟨hmem, -⟩ := s.raise_enters { unit := u, cause := cause, ctx := if ctx ≤ 8 then ctx else 15, line := false } hu hc
      (s.enters_of_lines _ h0 he hlines)
    refine ⟨_, rfl, ?_⟩
    rw [hcoll]
    exact ⟨_, hmem, rfl, rfl, rfl, s.newFault_escalates _ x h4 hcause hx hxu hcls hacked⟩
  · intro broken u hg hmem hassigned he hn
    refine ⟨(s.linesBroken (broken.filter unitAssigned)), congrArg Host.Outcome.next (if_pos ?_),
      s.linesBroken_fatal _ u hu hc hg (List.mem_filter.2 ⟨hmem, hassigned⟩) (unitAssigned_lt hassigned) he hn⟩
    simp [State.coreRuns, hu, hc]
  · intro u cause
    obtain ⟨hsub, hsame⟩ := s.condEnds_faults u cause
    refine ⟨_, rfl, fun f hf hfu hfc => ?_, hsame⟩
    obtain ⟨g, -, rfl⟩ := List.mem_map.1 (hsub f hf)
    by_cases h : (g.unit == u && g.cause == cause) = true
    · simp only [h, if_true]
    · rw [if_neg h] at hfu hfc
      exact absurd (by simp [hfu, hfc]) h

end Sys2Proof.Machine
end

section
/-! How SET_POWER winds the work down (O48): what the completion of an entry leaves alone, and the one write of its record. -/

namespace Sys2Proof.Machine

variable (s : State)

/-- What the completion of a manager's entry leaves alone but for the entry itself. -/
def State.tasks (s : State) : Phase × Option (Nat × Nat) × List Graph × List Entry := (s.phase, s.powerTo, s.graphs, (s.ctx 8).entries)

theorem State.modCtx_tasks (c : Nat) (f : Ctx → Ctx) (hf : ∀ x, (f x).entries = x.entries) : (s.modCtx c f).tasks = s.tasks := by
  have h : ((s.modCtx c f).ctx 8).entries = (s.ctx 8).entries := by
    by_cases hc : c = 8
    · rw [State.modCtx, hc, State.ctx_setCtx, hf]
    · rw [State.modCtx, s.ctx_setCtx_ne c 8 _ hc]
  simp only [State.tasks, h, State.modCtx_frame]

theorem State.issue_tasks : s.issue.tasks = s.tasks := by
  have h := s.issue_unissued
  have hctx : s.issue.ctxs = s.ctxs := (congrArg State.ctxs h :)
  have hphase : s.issue.phase = s.phase := (congrArg State.phase h :)
  have hpower : s.issue.powerTo = s.powerTo := (congrArg State.powerTo h :)
  have hgraphs : s.issue.graphs = s.graphs := (congrArg State.graphs h :)
  simp only [State.tasks, State.ctx, hctx, hphase, hpower, hgraphs]

theorem State.recWrite_tasks (pa : Nat) (b : List Byte) (who : Option Who) (ev : List Nat) (ctx cq : Nat) (nc : Bool) :
    (s.recWrite pa b who ev ctx cq nc).tasks = s.tasks := State.issue_tasks _

theorem State.setFld_tasks (f : Fld) (v : Nat) : (s.setFld f v).tasks = s.tasks := rfl

theorem State.setReg_tasks (o : Nat) (v : W64) : (s.setReg o v).tasks = s.tasks := rfl

theorem State.dbgOff_tasks : s.dbgOff.tasks = s.tasks := by
  unfold State.dbgOff
  refine (proj_foldl (p := State.tasks) fun v w _ => v.setReg_tasks _ _).trans ?_
  rw [State.setReg_tasks, State.setReg_tasks]

theorem State.lockNow_tasks (flags : Nat) : (s.lockNow flags).tasks = s.tasks := by
  unfold State.lockNow
  extract_lets dbg r t u v
  have ht : t.tasks = s.tasks := rfl
  clear_value t
  have hu : u.tasks = t.tasks := coll_ite (g := State.tasks) ((State.setFld_tasks _ _ _).trans t.dbgOff_tasks) rfl
  clear_value u
  have hv : v.tasks = u.tasks := by rw [State.setFld_tasks, State.setFld_tasks, State.setFld_tasks]
  exact hv.trans (hu.trans ht)

theorem State.afterRec_tasks (c : Nat) (a : After) : (s.afterRec c a).tasks = s.tasks := by
  cases a with
  | none => rfl
  | handle x => exact s.modCtx_tasks c _ fun _ => rfl
  | lock flags => exact s.lockNow_tasks flags

theorem State.writeRec_tasks (r : Rec) : (s.writeRec r).tasks = s.tasks :=
  (State.afterRec_tasks _ _ _).trans (s.recWrite_tasks _ _ _ _ _ _ _)

/-- One waiting record of a context: written if its ring has a free slot, left otherwise (R65). -/
def flushOne (c : Nat) (p : State × List Rec) (r : Rec) : State × List Rec :=
  if p.1.cqFree c r.cq && !p.1.coll.fatal then (p.1.writeRec r, p.2) else (p.1, p.2 ++ [r])

theorem flushOne_tasks (c : Nat) (l : List Rec) (p : State × List Rec) : (l.foldl (flushOne c) p).1.tasks = p.1.tasks := by
  induction l generalizing p with
  | nil => rfl
  | cons r l ih =>
    refine (ih _).trans ?_
    unfold flushOne
    split
    · exact p.1.writeRec_tasks r
    · rfl

/-- A context with the records that still wait (R65). -/
def Ctx.waiting (x : Ctx) (left : List Rec) (now : Nat) : Ctx :=
  { x with holdQ := left.take 64, held := left.drop 64, waitAt := if left.isEmpty then none else some (x.waitAt.getD now)
           stallTold := if left.isEmpty then false else x.stallTold }

/-- The records of a context that wait are written or left one after another. -/
theorem State.flushRecs_eq (c : Nat) : s.flushRecs c = (((s.ctx c).holdQ ++ (s.ctx c).held).foldl (flushOne c) (s, [])).1.modCtx c (fun x =>
    x.waiting (((s.ctx c).holdQ ++ (s.ctx c).held).foldl (flushOne c) (s, [])).2
      (((s.ctx c).holdQ ++ (s.ctx c).held).foldl (flushOne c) (s, [])).1.aon) := rfl

theorem State.flushRecs_tasks (c : Nat) : (s.flushRecs c).tasks = s.tasks := by
  rw [State.flushRecs_eq]
  have h := flushOne_tasks c ((s.ctx c).holdQ ++ (s.ctx c).held) (s, [])
  generalize ((s.ctx c).holdQ ++ (s.ctx c).held).foldl (flushOne c) (s, []) = p at h ⊢
  exact (p.1.modCtx_tasks c (fun x => x.waiting p.2 p.1.aon) fun _ => rfl).trans h

theorem State.emit_tasks (r : Rec) : (s.emit r).tasks = s.tasks := by
  unfold State.emit
  refine coll_ite rfl ((State.flushRecs_tasks _ _).trans (s.modCtx_tasks _ _ fun x => ?_))
  split <;> rfl


theorem State.filterEntries_tasks (p : Entry → Bool) : (s.modCtx 8 (fun x => { x with entries := x.entries.filter p })).tasks
    = (s.phase, s.powerTo, s.graphs, (s.ctx 8).entries.filter p) := by
  rw [State.tasks, State.modCtx, State.ctx_setCtx]
  rfl

/-- A manager's entry that completes leaves its context; the other entries, the graphs and the phase are as before (R60). -/
theorem State.finish_tasks (e : Entry) (status detail result : Nat) : (s.finish 8 e status detail result).tasks
    = (s.phase, s.powerTo, s.graphs, (s.ctx 8).entries.filter (·.id != e.id)) := by
  have ht := s.filterEntries_tasks (·.id != e.id)
  unfold State.finish
  dsimp only
  generalize s.modCtx 8 (fun x => { x with entries := x.entries.filter (·.id != e.id) }) = t at ht
  rw [← ht]
  split
  · rfl
  · exact t.emit_tasks _

theorem State.finish_frame (e : Entry) (status detail result : Nat) : (s.finish 8 e status detail result).phase = s.phase
    ∧ (s.finish 8 e status detail result).powerTo = s.powerTo ∧ (s.finish 8 e status detail result).graphs = s.graphs
    ∧ ∀ x ∈ ((s.finish 8 e status detail result).ctx 8).entries, x.id ≠ e.id := by
  have h := s.finish_tasks e status detail result
  simp only [State.tasks, Prod.mk.injEq] at h
  obtain ⟨hphase, hpower, hgraphs, hentries⟩ := h
  refine ⟨hphase, hpower, hgraphs, fun x hx => ?_⟩
  rw [hentries] at hx
  simpa using (List.mem_filter.1 hx).2

theorem State.issue_kinds : s.issue.txns.map (fun x => (x.isRec, x.ctx)) = s.txns.map (fun x => (x.isRec, x.ctx)) := by
  have h := congrArg (fun t => t.txns.map (fun x => (x.isRec, x.ctx))) s.issue_unissued
  simp only [State.unissued, List.map_map] at h
  exact h

/-- A completion record that meets a free slot is written at once (R62, R65). -/
theorem State.emit_writes (r : Rec) (hf : s.coll.fatal = false) (hq : (s.ctx r.ctx).holdQ = []) (hh : (s.ctx r.ctx).held = [])
    (hc : s.cqFree r.ctx r.cq = true) (ha : r.after = .none) :
    (s.emit r).txns.map (fun x => (x.isRec, x.ctx)) = s.txns.map (fun x => (x.isRec, x.ctx)) ++ [(true, r.ctx)] := by
  unfold State.emit
  rw [if_neg (by simp [hf])]
  have queued : (if (s.ctx r.ctx).holdQ.length < 64 then { s.ctx r.ctx with holdQ := (s.ctx r.ctx).holdQ ++ [r] }
      else { s.ctx r.ctx with held := (s.ctx r.ctx).held ++ [r] }) = { s.ctx r.ctx with holdQ := [r] } := by
    rw [hq]
    rfl
  rw [State.modCtx, queued, State.flushRecs_eq, State.ctx_setCtx, hh]
  have free : (s.setCtx r.ctx { s.ctx r.ctx with holdQ := [r] }).cqFree r.ctx r.cq = true := hc
  have frame := s.setCtx_frame r.ctx { s.ctx r.ctx with holdQ := [r] }
  generalize s.setCtx r.ctx { s.ctx r.ctx with holdQ := [r] } = u at free frame
  have one : [r].foldl (flushOne r.ctx) (u, []) = (u.writeRec r, []) := if_pos (by simp [free, frame, hf])
  rw [List.append_nil, one]
  simp only [State.modCtx_frame, State.writeRec, ha, State.afterRec, State.setFld_frame, State.recWrite, State.issue_kinds, frame,
    List.map_append, List.map_cons, List.map_nil]

/-- A graph whose open slices run to their next cut point alone (R407). -/
def Graph.windDown (g : Graph) : Graph :=
  { g with nodes := g.nodes.map (fun n => if n.st = .opened then { n with endSlice := true } else n) }

theorem Graph.windDown_opened (g : Graph) : ∀ n ∈ g.windDown.nodes, n.st = .opened → n.endSlice = true := by
  intro n hn hst
  obtain ⟨m, -, rfl⟩ := List.mem_map.1 hn
  by_cases h : m.st = .opened
  · rw [if_pos h]
  · rw [if_neg h] at hst
    exact absurd hst h

theorem State.powerCmd_oldest (e : Entry) (he : s.engines = true) (hold : s.oldest 8 0x43 = some e) :
    s.powerCmd = if s.powerCode (bits (e.field 8 1) 0 2) = 0 then
        { s.start 8 e with powerTo := some (bits (e.field 8 1) 0 2, e.id), heldSince := s.aon, graphs := s.graphs.map Graph.windDown }
      else s.refuseCmd e (s.powerCode (bits (e.field 8 1) 0 2)) := by
  unfold State.powerCmd State.take
  rw [if_neg (by simp [he]), hold]
  dsimp only
  split
  next h => rw [if_pos h]; rfl
  next h => rw [if_neg h]

/-- The state that SET_POWER has lowered (R407 step 5). -/
def State.lowered (s : State) (st : Nat) : State :=
  let u : State := { s with powerTo := none, phase := if st = 1 then .x1 else if st = 2 then .quietX2 else .quietX3 }
  let v := (u.setFld F.pwrState st).drive
  if st = 1 then v else v.setPins { v.pins with quiet := true }

/-- With the record gone, SET_POWER_QUIESCED lowers the state unless something outstanding holds it back. -/
theorem State.powerStep_gone (st id : Nat) (hp : s.powerTo = some (st, id)) (hgone : (s.ctx 8).entries.any (·.id == id) = false) :
    s.powerStep = if !(s.engines && s.quiesced st) then s
      else if !s.txns.isEmpty || s.powerWaits || (st != 1 && !(s.msgWait.isEmpty && s.wcFills.isEmpty && s.walks.isEmpty)) then s
      else s.lowered st := by
  unfold State.powerStep
  rw [hp]
  simp only [hgone, Bool.false_eq_true, if_false]
  rfl

theorem State.lowered_frame (st : Nat) (hst : st < 4) : (s.lowered st).powerTo = none ∧ (s.lowered st).fld F.pwrState = st
    ∧ (s.lowered st).phase = (if st = 1 then .x1 else if st = 2 then .quietX2 else .quietX3)
    ∧ (s.lowered st).pins.quiet = (if st = 1 then s.pins.quiet else true) ∧ (s.lowered st).tile = s.tile ∧ (s.lowered st).sys = s.sys
    ∧ (s.lowered st).graphs = s.graphs := by
  unfold State.lowered
  extract_lets u v p
  have written : v.fld F.pwrState = st := by
    have drive : v.fld F.pwrState = (u.setFld F.pwrState st).fld F.pwrState := State.fld_setFld_off _ _ _ _ (by decide)
    rw [drive, State.fld_setFld_self _ _ _ (by decide)]
    exact Nat.mod_eq_of_lt hst
  by_cases h1 : st = 1
  · rw [if_pos h1]
    exact ⟨rfl, written, rfl, (if_pos h1).symm, rfl, rfl, rfl⟩
  · rw [if_neg h1]
    exact ⟨rfl, written, rfl, (if_neg h1).symm, rfl, rfl, rfl⟩

/-- A manager's entry that is not quiet completes with its record, which is written at once if its ring has a slot (R60, R62). -/
theorem State.finish_writes (e : Entry) (status detail result : Nat) (hf : s.coll.fatal = false) (hquiet : e.quiet = false)
    (hhold : (s.ctx 8).holdQ = []) (hheld : (s.ctx 8).held = []) (hfree : s.cqFree 8 0 = true) :
    (s.finish 8 e status detail result).txns.map (fun x => (x.isRec, x.ctx)) = s.txns.map (fun x => (x.isRec, x.ctx)) ++ [(true, 8)] := by
  unfold State.finish
  dsimp only
  rw [if_neg (by simp [hquiet])]
  refine State.emit_writes _ _ hf ?_ ?_ hfree rfl
  · rw [State.modCtx, State.ctx_setCtx]
    exact hhold
  · rw [State.modCtx, State.ctx_setCtx]
    exact hheld

/-- SET_POWER_QUIESCED completes the command first; while the record's write is outstanding it does no more (R407 step 4). -/
theorem State.powerStep_records (st id : Nat) (e : Entry) (he : s.engines = true) (hp : s.powerTo = some (st, id))
    (hq : s.quiesced st = true) (hfind : (s.ctx 8).entries.find? (·.id == id) = some e) (hwrites : (s.finish 8 e 1).txns ≠ []) :
    s.powerStep = s.finish 8 e 1 := by
  have command : s.finishCmd (some id) 1 = s.finish 8 e 1 := by
    have found : (s.ctx 8).entries.find? (fun x => some x.id == some id) = some e := by
      simpa only [Option.some_beq_some] using hfind
    rw [State.finishCmd, found]
  have stands : (s.ctx 8).entries.any (·.id == id) = true :=
    List.any_eq_true.2 ⟨e, List.mem_of_find?_eq_some hfind, List.find?_some (p := fun x : Entry => x.id == id) hfind⟩
  unfold State.powerStep
  rw [hp]
  dsimp only
  rw [if_neg (by simp [he, hq]), if_pos stands, command, if_pos (by simp [hwrites])]

/-- Settles O48: the record of SET_POWER is its completion; with that gone, the step either waits or lowers the state. -/
theorem powerIsLowered : Obligations.PowerIsLowered := by
  unfold Obligations.PowerIsLowered
  intro s he
  have idle : ∀ st, s.quiesced st = true → s.txns = [] := by
    intro st hq
    simp only [State.quiesced, Bool.and_eq_true, List.isEmpty_iff] at hq
    exact hq.1.1.2
  refine ⟨?_, ?_, ?_, ?_, ?_⟩
  · intro e hold hcode
    refine ⟨_, congrArg Host.Outcome.next ((s.powerCmd_oldest e he hold).trans (if_pos hcode)), rfl, rfl, ?_, ?_, rfl⟩
    · intro g hg
      obtain ⟨g, -, rfl⟩ := List.mem_map.1 hg
      exact g.windDown_opened
    · simp [State.granting]
  · intro e hold hcode
    obtain ⟨-, hpower, hgraphs, hgone⟩ := s.finish_frame e 0x1F (s.powerCode (bits (e.field 8 1) 0 2)) 0
    exact ⟨_, congrArg Host.Outcome.next ((s.powerCmd_oldest e he hold).trans (if_neg hcode)), hpower, hgraphs, hgone⟩
  · intro st id hp hq h0 hgone hwaits hout
    have h1 : (st.val = 1) = (st = 1) := propext (Fin.ext_iff (b := 1)).symm
    have lowers : s.powerStep = s.lowered st := by
      rw [s.powerStep_gone st id hp hgone, if_neg (by simp [he, hq]), if_neg]
      by_cases h : st.val = 1
      · simp [idle st hq, hwaits, h]
      · obtain ⟨hmsg, hfills, hwalks⟩ := hout fun e => h (congrArg Fin.val e)
        simp [idle st hq, hwaits, hmsg, hfills, hwalks]
    have h2 : (st.val = 2) = (st = 2) := propext (Fin.ext_iff (b := 2)).symm
    have frame := s.lowered_frame st st.isLt
    simp only [h1, h2] at frame
    exact ⟨_, congrArg Host.Outcome.next lowers, frame⟩
  · intro st id hp h1 hgone hout
    refine congrArg Host.Outcome.next ((s.powerStep_gone st id hp hgone).trans ?_)
    have held : (s.msgWait.isEmpty && s.wcFills.isEmpty && s.walks.isEmpty) = false := by
      simp only [Bool.and_eq_false_iff, List.isEmpty_eq_false_iff]
      exact or_assoc.2 hout
    have waits : (st != 1) = true := bne_iff_ne.2 h1
    rw [held, waits, Bool.not_false, Bool.and_self, Bool.or_true, if_pos rfl, ite_self]
  · intro st id e hp hq hfind hquiet hhold hheld hfree
    have alive : s.coll.fatal = false := by
      simp only [State.engines, Bool.and_eq_true, Bool.not_eq_true'] at he
      exact he.1.2
    have kinds := s.finish_writes e 1 0 0 alive hquiet hhold hheld hfree
    rw [idle st hq] at kinds
    have step := s.powerStep_records st id e he hp hq hfind fun h => by rw [h] at kinds; cases kinds
    obtain ⟨hphase, hpower, -, hgone⟩ := s.finish_frame e 1 0 0
    have hid : e.id = id := by simpa using List.find?_some hfind
    exact ⟨_, congrArg Host.Outcome.next step, hpower, hphase, hid ▸ hgone, kinds⟩

end Sys2Proof.Machine
end

section
/-! The always-on time (O7): how it passes through branches, folds and accesses. -/

namespace Sys2Proof.Machine

variable {β γ : Type} {now : Nat}

@[simp] theorem aon_ite {c : Prop} [Decidable c] {s t : State} : (if c then s else t).aon = if c then s.aon else t.aon :=
    apply_ite State.aon c s t

@[simp] theorem aon_foldl {g : State → β → State} {l : List β} {s : State} (hg : ∀ t x, (g t x).aon = t.aon) :
    (l.foldl g s).aon = s.aon := by
  induction l generalizing s with
  | nil => rfl
  | cons x l ih => exact (ih (s := g s x)).trans (hg s x)
@[simp] theorem aon_foldl_fst {g : State × γ → β → State × γ} {l : List β} {p : State × γ} (hg : ∀ r x, (g r x).1.aon = r.1.aon) :
    (l.foldl g p).1.aon = p.1.aon := by
  induction l generalizing p with
  | nil => rfl
  | cons x l ih => exact (ih (p := g p x)).trans (hg p x)
@[simp] theorem aon_foldl_snd {g : γ × State → β → γ × State} {l : List β} {p : γ × State} (hg : ∀ r x, (g r x).2.aon = r.2.aon) :
    (l.foldl g p).2.aon = p.2.aon := by
  induction l generalizing p with
  | nil => rfl
  | cons x l ih => exact (ih (p := g p x)).trans (hg p x)

theorem aon_of_eq_snd {p : β × State} {x : β} {s : State} (e : p = (x, s)) : s.aon = p.2.aon := by rw [e]
theorem aon_of_eq_fst {p : State × β} {x : β} {s : State} (e : p = (s, x)) : s.aon = p.1.aon := by rw [e]

/-- An access that starts at the always-on time `now` ends at it. -/
def Steady (now : Nat) (m : M β) : Prop := ∀ s, s.aon = now → (m.on s).2.aon = now

theorem aon_of_on {m : M β} {s t : State} {r : Except Err β} (e : m.on s = (r, t)) (hs : s.aon = now) (hm : Steady now m) :
    t.aon = now := by
  have h := hm s hs
  rwa [e] at h

@[simp] theorem steady_pure {x : β} : Steady now (pure x : M β) := fun _ h => h
@[simp] theorem steady_throw {e : Err} : Steady now (throw e : M β) := fun _ h => h
theorem steady_bind {m : M β} {f : β → M γ} (hm : Steady now m) (hf : ∀ x, Steady now (f x)) : Steady now (m >>= f) := by
  intro s h
  have h1 := hm s h
  show ((m >>= f).run s).2.aon = now
  simp only [M.on, ExceptT.run, bind, ExceptT.bind, StateT.bind, ExceptT.mk] at h1 ⊢
  cases hr : m s with
  | mk r t =>
    rw [hr] at h1
    cases r with
    | ok x => exact hf x t h1
    | error e => exact h1
theorem steady_map {m : M β} {f : β → γ} (hm : Steady now m) : Steady now (f <$> m) := by
  rw [← bind_pure_comp]
  exact steady_bind hm fun _ => steady_pure
theorem steady_get {f : State → M β} (hf : ∀ s, s.aon = now → Steady now (f s)) : Steady now (get >>= f) := fun s h => hf s h s h
@[simp] theorem steady_set {t : State} (h : t.aon = now) : Steady now (set t : M Unit) := fun _ _ => h
@[simp] theorem steady_modify {f : State → State} (hf : ∀ s, (f s).aon = s.aon) : Steady now (modify f : M Unit) :=
  fun s h => (hf s).trans h
theorem steady_forIn {l : List γ} {x : β} {f : γ → β → M (ForInStep β)} (hf : ∀ y z, Steady now (f y z)) :
    Steady now (forIn l x f) := by
  induction l generalizing x with
  | nil => exact steady_pure
  | cons y l ih =>
    rw [List.forIn_cons]
    refine steady_bind (hf y x) (fun r => ?_)
    cases r with
    | done z => exact steady_pure
    | yield z => exact ih
theorem steady_mapM {l : List γ} {f : γ → M β} (hf : ∀ y, Steady now (f y)) : Steady now (l.mapM f) := by
  induction l with
  | nil => exact steady_pure
  | cons y l ih =>
    rw [List.mapM_cons]
    exact steady_bind (hf y) (fun z => steady_bind ih (fun zs => steady_pure))
theorem steady_forM {l : List γ} {f : γ → M PUnit} (hf : ∀ y, Steady now (f y)) : Steady now (l.forM f) := by
  induction l with
  | nil => exact steady_pure
  | cons y l ih => exact steady_bind (hf y) (fun _ => ih)
theorem steady_foldlM {l : List γ} {x : β} {f : β → γ → M β} (hf : ∀ y z, Steady now (f y z)) : Steady now (l.foldlM f x) := by
  induction l generalizing x with
  | nil => exact steady_pure
  | cons y l ih =>
    rw [List.foldlM_cons]
    exact steady_bind (hf x y) (fun _ => ih)
theorem steady_tryCatch {m : M β} {f : Err → M β} (hm : Steady now m) (hf : ∀ e, Steady now (f e)) : Steady now (tryCatch m f) := by
  intro s h
  have h1 := hm s h
  show ((tryCatch m f).run s).2.aon = now
  simp only [M.on, ExceptT.run, tryCatch, tryCatchThe, MonadExceptOf.tryCatch, ExceptT.tryCatch, bind, StateT.bind, ExceptT.mk] at h1 ⊢
  cases hr : m s with
  | mk r t =>
    rw [hr] at h1
    cases r with
    | ok x => exact h1
    | error e => exact hf e t h1
theorem steady_filterM {l : List γ} {f : γ → M Bool} (hf : ∀ y, Steady now (f y)) : Steady now (l.filterM f) := by
  have aux : ∀ acc : List γ, Steady now (l.filterAuxM f acc) := by
    induction l with
    | nil => exact fun _ => steady_pure
    | cons y l ih => exact fun _ => steady_bind (hf y) (fun _ => ih _)
  exact steady_bind (aux []) (fun _ => steady_pure)

end Sys2Proof.Machine
end

section
/-! What each operation does to the always-on time (O7): registers, shared operations, relay and collector. -/

namespace Sys2Proof.Machine

variable {β γ : Type} {now : Nat}

-- Machine/Ops.lean

@[simp] theorem State.drawBelow_aon (s : State) (n : Nat) : (s.drawBelow n).2.aon = s.aon := by simp [State.drawBelow]

@[simp] theorem State.drawBool_aon (s : State) : s.drawBool.2.aon = s.aon := by simp [State.drawBool]

@[simp] theorem State.eachChan_aon (s : State) (f : Chan → Chan) : (s.eachChan f).aon = s.aon := by simp [State.eachChan]

@[simp] theorem State.setRawByte_aon (s : State) (pa : Nat) (b : Byte) : (s.setRawByte pa b).aon = s.aon := by simp [State.setRawByte]

@[simp] theorem State.sysWr_aon (s : State) (a : Nat) (l : List Byte) : (s.sysWr a l).aon = s.aon := by
  induction l generalizing s a with
  | nil => rfl
  | cons b l ih => exact (ih _ _).trans (by simp)

@[simp] theorem State.rawWr_aon (s : State) (a : Nat) (l : List Byte) : (s.rawWr a l).aon = s.aon := by
  induction l generalizing s a with
  | nil => rfl
  | cons b l ih => exact (ih _ _).trans (by simp)

@[simp] theorem State.cpuWr_aon (s : State) (a : Nat) (l : List Byte) : (s.cpuWr a l).aon = s.aon := by
  induction l generalizing s a with
  | nil => rfl
  | cons b l ih => exact (ih _ _).trans (by simp)

@[simp] theorem State.writeBack_aon (s : State) (pa n : Nat) : (s.writeBack pa n).aon = s.aon := by
  simp [State.writeBack]

@[simp] theorem State.tileWr_aon (s : State) (a : Nat) (l : List Byte) : (s.tileWr a l).aon = s.aon := by
  induction l generalizing s a with
  | nil => rfl
  | cons b l ih => exact (ih _ _).trans (by simp)

@[simp] theorem State.hostStores_aon (s : State) (l : List HostStore) : (s.hostStores l).aon = s.aon := by
  exact aon_foldl fun t h => by split <;> simp

@[simp] theorem State.advanceTo_later (s : State) (t : Nat) : s.aon ≤ (s.advanceTo t).aon := by
  rw [State.advanceTo_aon]
  exact Nat.le_max_left _ _

@[simp] theorem State.sendMsg_aon (s : State) (v : Nat) : (s.sendMsg v).aon = s.aon := by simp [State.sendMsg]

@[simp] theorem State.ctrSettle_aon (s : State) (c : Nat) : (s.ctrSettle c).aon = s.aon := by
  unfold State.ctrSettle
  split <;> simp

@[simp] theorem State.ctrPut_aon (s : State) (x : CtrNow) : (s.ctrPut x).aon = s.aon := by simp [State.ctrPut]

@[simp] theorem State.ctrOp_aon (s : State) (c : Nat) (op : Option (List Nat)) (v : W32) : (s.ctrOp c op v).aon = s.aon := by
  unfold State.ctrOp
  split <;> simp

@[simp] theorem State.addWait_aon (s : State) (w : Wait) : (s.addWait w).aon = s.aon := by simp [State.addWait]

@[simp] theorem State.draw_aon (s : State) (z k : Nat) : (s.draw z k).aon = s.aon := by simp [State.draw]

@[simp] theorem State.debit_aon (s : State) (cls t z : Nat) : (s.debit cls t z).aon = s.aon := by simp [State.debit]

@[simp] theorem State.unheld_aon (s : State) (u : Nat) : (s.unheld u).aon = s.aon := by simp [State.unheld]

@[simp] theorem State.issueAt_aon (s : State) (i : Nat) : (s.issueAt i).aon = s.aon := by
  unfold State.issueAt
  split <;> simp

@[simp] theorem State.issue_aon (s : State) : s.issue.aon = s.aon := by simp [State.issue]

@[simp] theorem State.putCells_aon (s : State) (nc : Bool) (l : List (Nat × Byte)) : (s.putCells nc l).aon = s.aon := by
  simp [State.putCells]

-- Machine/Relay.lean

@[simp] theorem State.enqueue_aon (s : State) (p : Nat) (q : Queued) : (s.enqueue p q).aon = s.aon := by simp [State.enqueue]

theorem State.routeOn_aon {s t : State} {arr : Option Nat} {q : Queued} (h : s.routeOn arr q = some t) : t.aon = s.aon := by
  unfold State.routeOn at h
  split at h
  · cases h
  · cases h
    rfl

@[simp] theorem State.routeOn_getD_aon (s : State) (arr : Option Nat) (q : Queued) : ((s.routeOn arr q).getD s).aon = s.aon := by
  cases h : s.routeOn arr q with
  | none => rfl
  | some t => exact State.routeOn_aon h

@[simp] theorem State.sendOut_aon (s : State) (f : Frame) (who : Option (Nat × Nat)) : (s.sendOut f who).aon = s.aon :=
    s.routeOn_getD_aon none _

@[simp] theorem State.notReadyTo_aon (s : State) (f : Frame) (us : Nat) : (s.notReadyTo f us).aon = s.aon := by simp [State.notReadyTo]

@[simp] theorem State.deliver_aon (s : State) (f : Frame) (arr : Option Nat) : (s.deliver f arr).aon = s.aon := by simp [State.deliver]

@[simp] theorem State.floodOut_aon (s : State) (payload : List Byte) (but : Option Nat) : (s.floodOut payload but).aon = s.aon := by
  simp [State.floodOut]

@[simp] theorem State.grpOut_aon (s : State) (g m : Nat) : (s.grpOut g m).aon = s.aon := by
  unfold State.grpOut
  refine aon_foldl fun t o => ?_
  dsimp only
  (repeat' split) <;> simp

-- Machine/Collector.lean

@[simp] theorem State.mkRec_aon (s : State) (f : FaultReq) (cls : Nat) : (s.mkRec f cls).2.aon = s.aon := by simp [State.mkRec]

@[simp] theorem State.iqPush_aon (s : State) (r : FRec) : (s.iqPush r).aon = s.aon := by simp [State.iqPush]

@[simp] theorem State.setSticky_aon (s : State) (r : FRec) : (s.setSticky r).aon = s.aon := by simp [State.setSticky]

@[simp] theorem State.overflow_aon (s : State) (r : FRec) : (s.overflow r).aon = s.aon := by
  unfold State.overflow
  dsimp only
  (repeat' split) <;> simp

@[simp] theorem State.vspShow_aon (s : State) (u : Nat) : (s.vspShow u).aon = s.aon := by simp [State.vspShow]

@[simp] theorem State.vspFault_aon (s : State) (u : Nat) : (s.vspFault u).aon = s.aon := by simp [State.vspFault]

@[simp] theorem State.nameSelfOut_aon (s : State) : s.nameSelfOut.aon = s.aon := by simp [State.nameSelfOut]

@[simp] theorem State.overflowed_aon (s : State) : s.overflowed.aon = s.aon := by simp [State.overflowed]

@[simp] theorem State.request_aon (s : State) (f : FaultReq) : (s.request f).2.aon = s.aon := by simp [State.request]

@[simp] theorem State.recWrite_aon (s : State) (pa : Nat) (b : List Byte) (who : Option Who) (ev : List Nat) (ctx cq : Nat) (nc : Bool) :
    (s.recWrite pa b who ev ctx cq nc).aon = s.aon := by simp [State.recWrite]

@[simp] theorem State.spill_aon (s : State) : s.spill.aon = s.aon := by
  unfold State.spill
  split
  · rfl
  · dsimp only
    split <;> simp

@[simp] theorem State.ack_aon (s : State) (id : W32) : (s.ack id).aon = s.aon := by simp [State.ack]

@[simp] theorem State.endTwilight_aon (s : State) : s.endTwilight.aon = s.aon := by simp [State.endTwilight]

end Sys2Proof.Machine
end

section
/-! What each operation does to the always-on time (O7): accesses, lines, programs, moves, rings and frames sent. -/

namespace Sys2Proof.Machine

variable {β γ : Type} {now : Nat}

-- Machine/Access.lean

@[simp] theorem State.walkPaid_aon (s : State) (t xva : Nat) (write : Bool) : (s.walkPaid t xva write).aon = s.aon := by
  simp [State.walkPaid]

@[simp] theorem State.cachePtrs_aon (s : State) (l : List Ptr) : (s.cachePtrs l).aon = s.aon := by simp [State.cachePtrs]

@[simp] theorem State.wcDrop_aon (s : State) (gone : List Xl) : (s.wcDrop gone).aon = s.aon := by simp [State.wcDrop]

@[simp] theorem State.install_aon (s : State) (x : Xl) : (s.install x).aon = s.aon := by simp [State.install]

@[simp] theorem State.walked_aon (s : State) (t xva : Nat) (write : Bool) (x : Xl) (inval : List (Nat × Nat)) :
    (s.walked t xva write x inval).aon = s.aon := by
  simp [State.walked]

@[simp] theorem accFault_steady (q : Req) (unit cause : Nat) (write : Bool) (xva : Nat) :
    Steady now (accFault q unit cause write xva) := by
  unfold accFault
  dsimp only
  repeat' first
    | with_reducible assumption | with_reducible apply steady_get | with_reducible apply steady_bind | with_reducible apply steady_set
    | with_reducible intro _ | split | with_reducible refine (aon_of_eq_snd (by assumption)).trans ?_
    | with_reducible refine (aon_of_eq_fst (by assumption)).trans ?_ | simp

@[simp] theorem State.corrected_aon (s : State) (w : Who) : (s.corrected w).aon = s.aon := by
  unfold State.corrected
  split <;> simp

@[simp] theorem tileCheck_steady (q : Req) (write : Bool) (a n : Nat) : Steady now (tileCheck q write a n) := by
  unfold tileCheck
  repeat' first
    | with_reducible assumption | with_reducible apply steady_get | with_reducible apply steady_bind | with_reducible apply steady_set
    | with_reducible intro _ | split | simp

@[simp] theorem wordCheck_steady (q : Req) (finder dest : Nat) (word : List (Nat × Byte)) :
    Steady now (wordCheck q finder dest word) := by
  unfold wordCheck
  dsimp only
  repeat' first
    | with_reducible assumption | with_reducible apply steady_get | with_reducible apply steady_bind | with_reducible apply steady_set
    | with_reducible intro _ | split | simp

@[simp] theorem State.sees_aon (s : State) (w : Who) (word v : Nat) : (s.sees w word v).aon = s.aon := by
  unfold State.sees
  split <;> simp

@[simp] theorem wordRead_steady (w : Who) (a n : Nat) : Steady now (wordRead w a n) := by
  unfold wordRead
  dsimp only
  repeat' first
    | with_reducible assumption | with_reducible apply steady_get | with_reducible apply steady_bind | with_reducible apply steady_set
    | with_reducible intro _ | split | with_reducible refine (aon_of_eq_snd (by assumption)).trans ?_
    | with_reducible refine (aon_of_eq_fst (by assumption)).trans ?_ | simp

@[simp] theorem State.tilePut_aon (s : State) (q : Req) (cells : List (Nat × Byte)) : (s.tilePut q cells).aon = s.aon := by
  simp [State.tilePut]

@[simp] theorem State.acquires_aon (s : State) (g n : Nat) : (s.acquires g n).aon = s.aon := by simp [State.acquires]

@[simp] theorem eccCheck_steady (q : Req) (a n : Nat) (write : Bool) : Steady now (eccCheck q a n write) := by
  unfold eccCheck
  dsimp only
  repeat' first
    | with_reducible assumption | with_reducible apply steady_get | with_reducible apply steady_bind | with_reducible apply steady_set
    | with_reducible apply steady_forM | with_reducible intro _ | split | simp

@[simp] theorem tileRead_steady (q : Req) (a n : Nat) : Steady now (tileRead q a n) := by
  unfold tileRead
  dsimp only
  repeat' first
    | with_reducible assumption | with_reducible apply steady_get | with_reducible apply steady_bind | with_reducible apply steady_mapM
    | with_reducible intro _ | split | simp

@[simp] theorem tileWord_steady (q : Req) (w : List (Nat × Nat × Nat)) : Steady now (tileWord q w) := by
  unfold tileWord
  dsimp only
  repeat' first
    | with_reducible assumption | with_reducible apply steady_get | with_reducible apply steady_bind | with_reducible apply steady_forM
    | with_reducible intro _ | simp

@[simp] theorem tileStore_steady (q : Req) (a : Nat) (bytes : List Byte) : Steady now (tileStore q a bytes) := by
  unfold tileStore
  repeat' first
    | with_reducible assumption | with_reducible apply steady_bind | with_reducible apply steady_forM | with_reducible intro _ | simp

@[simp] theorem tileWrite_steady (q : Req) (a : Nat) (bytes : List Byte) : Steady now (tileWrite q a bytes) := by
  unfold tileWrite
  repeat' first
    | with_reducible assumption | with_reducible apply steady_bind | with_reducible intro _ | simp

@[simp] theorem physRead_steady (q : Req) (pa n : Nat) (nc : Bool) : Steady now (physRead q pa n nc) := by
  unfold physRead
  dsimp only
  repeat' first
    | with_reducible assumption | with_reducible apply steady_get | with_reducible apply steady_bind | with_reducible apply steady_set
    | with_reducible intro _ | split | with_reducible refine (aon_of_eq_snd (by assumption)).trans ?_
    | with_reducible refine (aon_of_eq_fst (by assumption)).trans ?_ | simp

@[simp] theorem wcRead_steady (q : Req) (pa n : Nat) (nc : Bool) : Steady now (wcRead q pa n nc) := by
  unfold wcRead
  dsimp only
  repeat' first
    | with_reducible assumption | with_reducible apply steady_get | with_reducible apply steady_bind | with_reducible apply steady_set
    | with_reducible intro _ | split | simp

@[simp] theorem translate_steady (q : Req) (xva : Nat) (write : Bool) : Steady now (translate q xva write) := by
  unfold translate
  dsimp only
  repeat' first
    | with_reducible assumption | with_reducible apply steady_get | with_reducible apply steady_bind | with_reducible intro _ | split
    | simp

@[simp] theorem xvaRead_steady (q : Req) (xva n : Nat) : Steady now (xvaRead q xva n) := by
  unfold xvaRead
  dsimp only
  repeat' first
    | with_reducible assumption | with_reducible apply steady_get | with_reducible apply steady_bind | with_reducible apply steady_mapM
    | with_reducible intro _ | split | with_reducible refine (aon_of_eq_snd (by assumption)).trans ?_
    | with_reducible refine (aon_of_eq_fst (by assumption)).trans ?_ | simp

@[simp] theorem State.physWrite_aon (s : State) (q : Req) (cells : List (Nat × Byte)) (nc : Bool) :
    (s.physWrite q cells nc).aon = s.aon := by
  unfold State.physWrite
  split <;> simp

@[simp] theorem portWrite_steady (q : Req) (cells : List (Nat × Byte)) (nc : Bool) : Steady now (portWrite q cells nc) := by
  unfold portWrite
  repeat' first
    | with_reducible assumption | with_reducible apply steady_bind | with_reducible apply steady_forM | with_reducible intro _ | simp

@[simp] theorem xvaWrite_steady (q : Req) (xva : Nat) (bytes : List Byte) : Steady now (xvaWrite q xva bytes) := by
  unfold xvaWrite
  dsimp only
  repeat' first
    | with_reducible assumption | with_reducible apply steady_get | with_reducible apply steady_bind | with_reducible apply steady_forM
    | with_reducible apply steady_mapM | with_reducible intro _ | split | with_reducible refine (aon_of_eq_snd (by assumption)).trans ?_
    | with_reducible refine (aon_of_eq_fst (by assumption)).trans ?_ | simp

@[simp] theorem spRead_steady (q : Req) (space a n : Nat) : Steady now (spRead q space a n) := by
  unfold spRead
  repeat' first
    | with_reducible assumption | with_reducible intro _ | split | simp

@[simp] theorem spWrite_steady (q : Req) (space a : Nat) (bytes : List Byte) : Steady now (spWrite q space a bytes) := by
  unfold spWrite
  repeat' first
    | with_reducible assumption | with_reducible intro _ | split | simp

@[simp] theorem ctlRead_steady (q : Req) (pa n : Nat) (nc : Bool) : Steady now (ctlRead q pa n nc) := by
  unfold ctlRead
  repeat' first
    | with_reducible assumption | with_reducible apply steady_bind | with_reducible intro _ | simp

theorem structRead_fetchAt_steady (q : Req) {s : State} (a k : Nat) (hs : s.aon = now) : Steady now (structRead.fetchAt q s a k) := by
  unfold structRead.fetchAt
  dsimp only
  repeat' first
    | with_reducible apply steady_bind | with_reducible apply steady_set | with_reducible intro _ | split | simp [hs]

@[simp] theorem structRead_steady (q : Req) (xva n : Nat) : Steady now (structRead q xva n) := by
  unfold structRead
  repeat' first
    | with_reducible apply steady_get | with_reducible apply steady_bind | with_reducible apply steady_mapM
    | with_reducible apply structRead_fetchAt_steady | with_reducible assumption | with_reducible intro _ | split | simp

-- Machine/Lines.lean

@[simp] theorem fpCheck_steady (p : Prog) (q : Req) (sp : Nat) (wr : Bool) (lo n : Int) : Steady now (fpCheck p q sp wr lo n) := by
  unfold fpCheck
  dsimp only
  repeat' first
    | with_reducible assumption | with_reducible apply steady_bind | with_reducible intro _ | split | simp

@[simp] theorem useStaged_steady (ch : Nat) (q : Req) (x : Staged) : Steady now (useStaged ch q x) := by
  unfold useStaged
  dsimp only
  repeat' first
    | with_reducible assumption | with_reducible apply steady_bind | with_reducible intro _ | split | simp

@[simp] theorem aheadRead_steady (ch : Nat) (q : Req) (x : Option Staged) (sp a n : Nat) (steer : Bool) :
    Steady now (aheadRead ch q x sp a n steer) := by
  unfold aheadRead
  dsimp only
  repeat' first
    | with_reducible assumption | with_reducible apply steady_bind | with_reducible apply steady_mapM | with_reducible intro _ | split
    | simp

@[simp] theorem chanRead_steady (ch : Nat) (q : Req) (sp a n : Nat) (steer : Bool) : Steady now (chanRead ch q sp a n steer) := by
  unfold chanRead
  dsimp only
  repeat' first
    | with_reducible assumption | with_reducible apply steady_get | with_reducible apply steady_bind | with_reducible intro _ | split
    | simp

@[simp] theorem atomically_steady {α : Type} (w : Who) {m : M α} (hm : Steady now m) : Steady now (atomically w m) := by
  unfold atomically
  repeat' first
    | with_reducible apply steady_get | with_reducible apply steady_bind | with_reducible apply steady_set
    | with_reducible exact aon_of_on (by assumption) (by assumption) (by assumption) | with_reducible assumption
    | with_reducible intro _ | split | simp

@[simp] theorem replayRead_steady (g n : Nat) (w : Who) {m : M (List Byte)} (hm : Steady now m) : Steady now (replayRead g n w m) := by
  unfold replayRead
  repeat' first
    | with_reducible assumption | with_reducible apply steady_get | with_reducible apply steady_bind
    | with_reducible apply atomically_steady | with_reducible apply again_steady | with_reducible intro _ | split | simp

@[simp] theorem State.replayReads_aon (s : State) (g n : Nat) : (s.replayReads g n).aon = s.aon := by simp [State.replayReads]

@[simp] theorem State.readsOver_aon (s : State) (g n : Nat) : (s.readsOver g n).aon = s.aon := by simp [State.readsOver]

@[simp] theorem State.digestMsg_aon (s : State) (w : Who) (msg : List Byte) : (s.digestMsg w msg).aon = s.aon := by
  unfold State.digestMsg
  split <;> simp

@[simp] theorem digestWord_steady (q : Req) (rep : Bool) (w : List (Nat × Byte)) : Steady now (digestWord q rep w) := by
  unfold digestWord
  repeat' first
    | with_reducible assumption | with_reducible intro _ | split | simp

@[simp] theorem lineWrite_steady (q : Req) (sp : Nat) (rep : Bool) (ps : List Patch) : Steady now (lineWrite q sp rep ps) := by
  unfold lineWrite
  dsimp only
  repeat' first
    | with_reducible assumption | with_reducible apply steady_get | with_reducible apply steady_bind | with_reducible apply steady_forM
    | with_reducible apply steady_mapM | with_reducible intro _ | split | with_reducible refine (aon_of_eq_snd (by assumption)).trans ?_
    | with_reducible refine (aon_of_eq_fst (by assumption)).trans ?_ | simp

@[simp] theorem readPieces_steady (ch : Nat) (p : Prog) (q : Req) (l : LinePlan) : Steady now (readPieces ch p q l) := by
  unfold readPieces
  dsimp only
  repeat' first
    | with_reducible assumption | with_reducible apply steady_bind | with_reducible apply steady_mapM | with_reducible intro _ | simp

@[simp] theorem oldByte_steady (q : Req) (sp a : Nat) : Steady now (oldByte q sp a) := by
  unfold oldByte
  dsimp only
  repeat' first
    | with_reducible assumption | with_reducible apply steady_get | with_reducible apply steady_bind | with_reducible intro _ | split
    | with_reducible refine (aon_of_eq_snd (by assumption)).trans ?_ | with_reducible refine (aon_of_eq_fst (by assumption)).trans ?_
    | simp

@[simp] theorem keepOld_steady (ch : Nat) (p : Prog) (q : Req) (sp : Nat) (mine : Nat → Bool) (ps : List Patch) :
    Steady now (keepOld ch p q sp mine ps) := by
  unfold keepOld
  repeat' first
    | with_reducible assumption | with_reducible apply steady_bind | with_reducible apply steady_mapM | with_reducible intro _ | split
    | simp

@[simp] theorem freeShared_steady (els : List (List Patch)) (ps : List Patch) : Steady now (freeShared els ps) := by
  unfold freeShared
  dsimp only
  repeat' first
    | with_reducible assumption | with_reducible apply steady_get | with_reducible apply steady_bind | with_reducible apply steady_set
    | with_reducible apply steady_filterM | with_reducible intro _ | split
    | with_reducible refine (aon_of_eq_snd (by assumption)).trans ?_ | with_reducible refine (aon_of_eq_fst (by assumption)).trans ?_
    | simp

@[simp] theorem freeOverlap_steady (mine : Nat → Bool) (ps : List Patch) : Steady now (freeOverlap mine ps) := by
  unfold freeOverlap
  repeat' first
    | with_reducible assumption | with_reducible apply steady_get | with_reducible apply steady_bind | with_reducible apply steady_set
    | with_reducible apply steady_mapM | with_reducible intro _ | split | simp

-- Machine/Programs.lean

@[simp] theorem progScan_steady (q : Req) (xva count : Nat) : Steady now (progScan q xva count) := by
  unfold progScan
  dsimp only
  repeat' first
    | with_reducible assumption | with_reducible apply steady_get | with_reducible apply steady_bind | with_reducible intro _ | split
    | simp

-- Machine/Moves.lean

@[simp] theorem maskRead_steady (ch : Nat) (p : Prog) (q : Req) (src msk : Desc) (cs : List (List Int)) :
    Steady now (maskRead ch p q src msk cs) := by
  unfold maskRead
  dsimp only
  repeat' first
    | with_reducible assumption | with_reducible apply steady_bind | with_reducible apply steady_mapM | with_reducible intro _ | split
    | simp

@[simp] theorem freeFlags_steady (l : List (Nat × Bool)) : Steady now (freeFlags l) := by
  unfold freeFlags
  dsimp only
  repeat' first
    | with_reducible assumption | with_reducible apply steady_get | with_reducible apply steady_bind | with_reducible apply steady_set
    | with_reducible apply steady_mapM | with_reducible intro _ | split | with_reducible refine (aon_of_eq_snd (by assumption)).trans ?_
    | with_reducible refine (aon_of_eq_fst (by assumption)).trans ?_ | simp

@[simp] theorem linePlan_steady (ch : Nat) (p : Prog) (q : Req) (m : Mt) (src dst : Desc) (side : Option Desc) (bl : Block)
    (cs : List (List Int)) : Steady now (linePlan ch p q m src dst side bl cs) := by
  unfold linePlan
  dsimp only
  repeat' first
    | with_reducible assumption | with_reducible apply steady_bind | with_reducible intro _ | split | simp

-- Machine/Rings.lean

@[simp] theorem State.dbgOff_aon (s : State) : s.dbgOff.aon = s.aon := by simp [State.dbgOff]

@[simp] theorem State.lockNow_aon (s : State) (flags : Nat) : (s.lockNow flags).aon = s.aon := by simp [State.lockNow]

@[simp] theorem State.afterRec_aon (s : State) (c : Nat) (x : After) : (s.afterRec c x).aon = s.aon := by
  cases x <;> simp [State.afterRec]

@[simp] theorem State.writeRec_aon (s : State) (r : Rec) : (s.writeRec r).aon = s.aon := by
  simp [State.writeRec]

@[simp] theorem State.flushRecs_aon (s : State) (c : Nat) : (s.flushRecs c).aon = s.aon := by
  unfold State.flushRecs
  simp only [State.modCtx_frame]
  exact aon_foldl_fst fun p r => by split <;> simp

@[simp] theorem State.emit_aon (s : State) (r : Rec) : (s.emit r).aon = s.aon := by simp [State.emit]

@[simp] theorem State.finish_aon (s : State) (c : Nat) (e : Entry) (status detail result : Nat) (chan : Option Nat) (after : After) :
    (s.finish c e status detail result chan after).aon = s.aon := by
  unfold State.finish
  cases chan <;> simp

@[simp] theorem State.dueEntry_aon (s : State) (c : Nat) (e : Entry) (result : Nat) (after : After) :
    (s.dueEntry c e result after).aon = s.aon := by
  simp [State.dueEntry]

@[simp] theorem State.fetchRing_aon (s : State) (c k : Nat) : (s.fetchRing c k).aon = s.aon := by
  unfold State.fetchRing
  dsimp only
  split <;> simp [aon_of_on ‹M.on _ _ = _› rfl (by simp)]

theorem State.fetchTurn_go_aon (s : State) (n c used : Nat) : (State.fetchTurn.go s n c used).aon = s.aon := by
  induction n generalizing c used with
  | zero => rfl
  | succ n ih =>
    unfold State.fetchTurn.go
    split
    · split <;> simp [ih]
    · exact ih _ _

@[simp] theorem State.fetchTurn_aon (s : State) : s.fetchTurn.aon = s.aon := by
  exact s.fetchTurn_go_aon _ _ _

@[simp] theorem State.waitBegins_aon (s : State) (c : Nat) (e : Entry) : (s.waitBegins c e).aon = s.aon := by simp [State.waitBegins]

@[simp] theorem State.admitEntry_aon (s : State) (c : Nat) (e : Entry) : (s.admitEntry c e).aon = s.aon := by
  unfold State.admitEntry
  dsimp only
  split <;> simp

@[simp] theorem State.start_aon (s : State) (c : Nat) (e : Entry) : (s.start c e).aon = s.aon := by simp [State.start]

-- Machine/Send.lean

@[simp] theorem State.txPair_aon (s : State) (t chip rt mbx : Nat) : (s.txPair t chip rt mbx).2.aon = s.aon := by
  unfold State.txPair
  split <;> simp

@[simp] theorem State.modTx_aon (s : State) (i : Nat) (f : TxPair → TxPair) : (s.modTx i f).aon = s.aon := by simp [State.modTx]

@[simp] theorem State.transmit_aon (s : State) : s.transmit.aon = s.aon := by
  unfold State.transmit
  split
  · refine aon_foldl fun t i => ?_
    split <;> simp
  · rfl

@[simp] theorem State.logFrame_aon (s : State) (i : Nat) (l : LogFrame) : (s.logFrame i l).aon = s.aon := by
  unfold State.logFrame
  split <;> simp

@[simp] theorem State.keepPair_aon (s : State) (ch i : Nat) : (s.keepPair ch i).aon = s.aon := by
  unfold State.keepPair
  split <;> simp

@[simp] theorem sendFrames_aon (ch : Nat) (m : Mv) (p : Prog) (t off : Nat) (bytes : List Byte) (no n k : Nat) (s : State) :
    (sendFrames ch m p t off bytes no n k s).2.aon = s.aon := by
  induction n generalizing k s with
  | zero => rfl
  | succ n ih =>
    unfold sendFrames
    dsimp only
    (repeat' split) <;> simp [ih]

end Sys2Proof.Machine
end

section
/-! What each operation does to the always-on time (O7): channels, check values, contractions, Meridian, replicas and the ephemeris. -/

namespace Sys2Proof.Machine

variable {β γ : Type} {now : Nat}

-- Machine/Channels.lean

@[simp] theorem State.forget_aon (s : State) (ws : List Who) : (s.forget ws).aon = s.aon := by simp [State.forget]

@[simp] theorem State.stopWaiters_aon (s : State) (g : Nat) : (s.stopWaiters g).aon = s.aon := by
  unfold State.stopWaiters
  split <;> simp

@[simp] theorem State.failNode_aon (s : State) (g n status detail : Nat) : (s.failNode g n status detail).aon = s.aon := by
  unfold State.failNode
  dsimp only
  (repeat' split) <;> simp

@[simp] theorem State.cut_aon (s : State) (g n : Nat) : (s.cut g n).aon = s.aon := by simp [State.cut]

@[simp] theorem State.chTo_aon (s : State) (ch st : Nat) : (s.chTo ch st).aon = s.aon := by simp [State.chTo]

@[simp] theorem State.modProg_aon (s : State) (ch : Nat) (f : Prog → Prog) : (s.modProg ch f).aon = s.aon := by simp [State.modProg]

@[simp] theorem State.endProg_aon (s : State) (ch status detail : Nat) : (s.endProg ch status detail).aon = s.aon :=
    by simp [State.endProg]

@[simp] theorem State.goSlot_aon (s : State) (ch pc : Nat) : (s.goSlot ch pc).aon = s.aon := by
  unfold State.goSlot
  dsimp only
  (repeat' split) <;> simp

@[simp] theorem State.missChan_aon (s : State) (ch t xva : Nat) (write : Bool) : (s.missChan ch t xva write).aon = s.aon := by
  simp [State.missChan]

@[simp] theorem State.settleCh_aon (s : State) (ch : Nat) : (s.settleCh ch).aon = s.aon := by
  unfold State.settleCh
  split <;> simp

theorem State.runCh_aon (s : State) (ch t : Nat) {m : M Unit} (hm : Steady s.aon m) : (s.runCh ch t m).aon = s.aon := by
  unfold State.runCh
  split <;> simp [aon_of_on ‹M.on _ _ = _› rfl hm]

@[simp] theorem State.discard_aon (s : State) (ch : Nat) : (s.discard ch).aon = s.aon := by simp [State.discard]

@[simp] theorem State.applyOwner_aon (s : State) (ch : Nat) : (s.applyOwner ch).aon = s.aon := by simp [State.applyOwner]

@[simp] theorem State.chIdle_aon (s : State) (ch : Nat) : (s.chIdle ch).aon = s.aon := by simp [State.chIdle]

@[simp] theorem State.bindProg_aon (s : State) (ch mode : Nat) : (s.bindProg ch mode).aon = s.aon := by
  unfold State.bindProg
  split <;> simp

@[simp] theorem fetchSlot_steady (ch : Nat) (p : Prog) : Steady now (fetchSlot ch p) := by
  unfold fetchSlot
  dsimp only
  repeat' first
    | with_reducible assumption | with_reducible apply steady_get | with_reducible apply steady_bind | with_reducible apply steady_forM
    | with_reducible intro _ | split | simp

@[simp] theorem State.slotRun_aon (s : State) (ch op : Nat) {f : State → Prog → List Byte → State}
    (hf : ∀ t p b, (f t p b).aon = t.aon) : (s.slotRun ch op f).aon = s.aon := by
  unfold State.slotRun
  split
  · split <;> simp [hf, aon_of_on ‹M.on _ _ = _› rfl (by simp)]
  · rfl

@[simp] theorem lineDone_steady (ch : Nat) (p : Prog) (total : Nat) : Steady now (lineDone ch p total) := by
  unfold lineDone
  dsimp only
  repeat' first
    | with_reducible assumption | with_reducible apply steady_bind | with_reducible intro _ | split | simp

@[simp] theorem beginLine_steady (ch : Nat) (p : Prog) : Steady now (beginLine ch p) := by
  unfold beginLine
  repeat' first
    | with_reducible assumption | with_reducible intro _ | simp

@[simp] theorem remoteLine_steady (ch : Nat) (p : Prog) (m : Mv) (src dst : Int) (ahead : Bool) :
    Steady now (remoteLine ch p m src dst ahead) := by
  unfold remoteLine
  dsimp only
  repeat' first
    | with_reducible assumption | with_reducible apply steady_get | with_reducible apply steady_bind | with_reducible apply steady_set
    | with_reducible apply steady_forIn | with_reducible intro _ | split | with_reducible refine (aon_of_eq_snd (by assumption)).trans ?_
    | with_reducible refine (aon_of_eq_fst (by assumption)).trans ?_ | simp

@[simp] theorem moveLine_steady (ch : Nat) (p : Prog) (ahead : Bool) : Steady now (moveLine ch p ahead) := by
  unfold moveLine
  dsimp only
  repeat' first
    | with_reducible assumption | with_reducible apply steady_get | with_reducible apply steady_bind | with_reducible intro _ | split
    | with_reducible refine (aon_of_eq_snd (by assumption)).trans ?_ | with_reducible refine (aon_of_eq_fst (by assumption)).trans ?_
    | simp

@[simp] theorem moveLines_steady (ch pc n : Nat) : Steady now (moveLines ch pc n) := by
  induction n with
  | zero => exact steady_pure
  | succ n ih =>
    unfold moveLines
    repeat' first
      | with_reducible apply steady_get | with_reducible apply steady_bind | with_reducible apply atomically_steady
      | with_reducible assumption | with_reducible intro _ | split | simp

@[simp] theorem movetLine_steady (ch : Nat) (p : Prog) (q : Req) (dst : Desc) (mine : Nat → Bool) (plan : LinePlan) :
    Steady now (movetLine ch p q dst mine plan) := by
  unfold movetLine
  dsimp only
  repeat' first
    | with_reducible assumption | with_reducible apply steady_bind | with_reducible apply steady_forM | with_reducible intro _ | split
    | simp

@[simp] theorem movetLines_steady (ch : Nat) (p : Prog) {mk : Prog → List (List Int) → M Unit} (l : List (List (List Int))) (k : Nat)
    (hmk : ∀ p c, Steady now (mk p c)) : Steady now (movetLines ch p mk l k) := by
  induction l generalizing k with
  | nil => exact steady_pure
  | cons c l ih =>
    unfold movetLines
    repeat' first
      | with_reducible apply steady_get | with_reducible apply steady_bind | with_reducible apply atomically_steady
      | with_reducible apply ih | with_reducible apply hmk | with_reducible intro _ | split | simp

@[simp] theorem movetBegin_steady (ch : Nat) (p : Prog) (m : Mt) (bound : Bool) : Steady now (movetBegin ch p m bound) := by
  unfold movetBegin
  dsimp only
  repeat' first
    | with_reducible assumption | with_reducible apply steady_get | with_reducible apply steady_bind | with_reducible apply steady_set
    | with_reducible intro _ | split | simp

@[simp] theorem slotCopyLine_steady (ch : Nat) (p : Prog) (q : Req) (src dst : Desc) (k : Nat) :
    Steady now (slotCopyLine ch p q src dst k) := by
  unfold slotCopyLine
  dsimp only
  repeat' first
    | with_reducible assumption | with_reducible apply steady_bind | with_reducible intro _ | simp

@[simp] theorem movetBlock_steady (ch : Nat) (p : Prog) (q : Req) (m : Mt) (src dst : Desc) (side : Option Desc)
    (reads : List (Nat × Nat)) (bl : Block) : Steady now (movetBlock ch p q m src dst side reads bl) := by
  unfold movetBlock
  dsimp only
  repeat' first
    | with_reducible assumption | with_reducible apply steady_bind | with_reducible apply movetLines_steady | with_reducible intro _
    | simp

@[simp] theorem movetPack_steady (ch : Nat) (p : Prog) (q : Req) (m : Mt) (src dst mk : Desc) (so dn : List Int) :
    Steady now (movetPack ch p q m src dst mk so dn) := by
  unfold movetPack
  dsimp only
  repeat' first
    | with_reducible assumption | with_reducible apply steady_bind | with_reducible apply steady_forM | with_reducible apply steady_mapM
    | with_reducible apply atomically_steady | with_reducible apply movetLines_steady | with_reducible intro _ | split | simp

@[simp] theorem movetList_steady (ch : Nat) (q : Req) (m : Mt) (src dst : Desc) (side : Option Desc) (so dn : List Int)
    (reads : List (Nat × Nat)) (n i : Nat) : Steady now (movetList ch q m src dst side so dn reads n i) := by
  induction n generalizing i with
  | zero => exact steady_pure
  | succ n ih =>
    unfold movetList
    repeat' first
      | with_reducible apply steady_get | with_reducible apply steady_bind | with_reducible apply atomically_steady
      | with_reducible apply ih | with_reducible intro _ | split | simp

@[simp] theorem movetRun_steady (ch : Nat) (bound ahead : Bool) : Steady now (movetRun ch bound ahead) := by
  unfold movetRun
  dsimp only
  repeat' first
    | with_reducible assumption | with_reducible apply steady_get | with_reducible apply steady_bind
    | with_reducible apply movetLines_steady | with_reducible intro _ | split
    | with_reducible refine (aon_of_eq_snd (by assumption)).trans ?_ | with_reducible refine (aon_of_eq_fst (by assumption)).trans ?_
    | simp

@[simp] theorem State.stampRec_aon (s : State) (ch t : Nat) : (s.stampRec ch t).2.aon = s.aon := by simp [State.stampRec]

@[simp] theorem State.release_aon (s : State) (ch : Nat) (op : RelOp) : (s.release ch op).aon = s.aon := by simp [State.release]

@[simp] theorem stampPlace_steady (p : Prog) (q : Req) (b : List Byte) : Steady now (stampPlace p q b) := by
  unfold stampPlace
  dsimp only
  repeat' first
    | with_reducible assumption | with_reducible apply steady_get | with_reducible apply steady_bind | with_reducible intro _ | split
    | with_reducible refine (aon_of_eq_snd (by assumption)).trans ?_ | with_reducible refine (aon_of_eq_fst (by assumption)).trans ?_
    | simp

@[simp] theorem stampSlot_steady (ch : Nat) (p : Prog) (b : List Byte) : Steady now (stampSlot ch p b) := by
  unfold stampSlot
  dsimp only
  repeat' first
    | with_reducible assumption | with_reducible apply steady_get | with_reducible apply steady_bind | with_reducible apply steady_set
    | with_reducible intro _ | split | with_reducible refine (aon_of_eq_snd (by assumption)).trans ?_
    | with_reducible refine (aon_of_eq_fst (by assumption)).trans ?_ | simp

@[simp] theorem State.moveMark_aon (s : State) (ch : Nat) (o : RelOp) : (s.moveMark ch o).aon = s.aon := by simp [State.moveMark]

@[simp] theorem stampLate_steady (q : Req) (o : RelOp) (r : List Byte) : Steady now (stampLate q o r) := by
  unfold stampLate
  repeat' first
    | with_reducible assumption | with_reducible intro _ | split | simp

@[simp] theorem State.releaseHead_aon (s : State) (ch : Nat) : (s.releaseHead ch).aon = s.aon := by
  unfold State.releaseHead
  split
  · rfl
  next o l _ =>
    split
    · extract_lets t u v w
      have hu : u.aon = s.aon := by
        simp only [u]
        split <;> simp [t]
      have hv : v.aon = s.aon := by
        simp only [v]
        (repeat' split) <;> simp [hu]
      clear_value v w
      split
      · simp [hv]
      · simp [hv]
      · dsimp only
        have hr : (v.stampRec ch w).2.aon = s.aon := by simp [hv]
        generalize v.stampRec ch w = p at hr
        split
        next e => simp [aon_of_on e hr (by simp)]
        next _ e => exact aon_of_on e hr (by simp)
    · rfl

@[simp] theorem State.progDone_aon (s : State) (ch : Nat) : (s.progDone ch).aon = s.aon := by
  unfold State.progDone
  split <;> simp

@[simp] theorem State.toParkLine_aon (s : State) (ch : Nat) (p : Prog) : (s.toParkLine ch p).aon = s.aon := by
  unfold State.toParkLine
  split <;> simp

@[simp] theorem State.park_aon (s : State) (ch : Nat) : (s.park ch).aon = s.aon := by
  unfold State.park
  split <;> simp

@[simp] theorem aheadStep_steady (ch : Nat) (bound : Bool) : Steady now (aheadStep ch bound) := by
  unfold aheadStep
  dsimp only
  repeat' first
    | with_reducible assumption | with_reducible apply steady_get | with_reducible apply steady_bind | with_reducible intro _ | split
    | with_reducible refine (aon_of_eq_snd (by assumption)).trans ?_ | with_reducible refine (aon_of_eq_fst (by assumption)).trans ?_
    | simp

@[simp] theorem State.aheadView_aon (s : State) (ch : Nat) : (s.aheadView ch).aon = s.aon := by
  unfold State.aheadView
  split <;> simp

@[simp] theorem State.aheadWalk_aon (s : State) (ch t xva : Nat) (write : Bool) : (s.aheadWalk ch t xva write).aon = s.aon := by
  unfold State.aheadWalk
  split <;> simp

@[simp] theorem State.aheadStage_aon (s : State) (ch : Nat) (q : Req) (a n : Nat) : (s.aheadStage ch q a n).aon = s.aon := by
  unfold State.aheadStage
  split
  · simp [aon_of_on ‹M.on _ _ = _› rfl (by simp)]
  · rfl

@[simp] theorem State.aheadFrom_aon (s : State) (ch : Nat) (q : Req) (bound : Bool) (fuel : Nat) (v : State) (only : Bool)
    (inst n0 : Nat) : (s.aheadFrom ch q bound fuel v only inst n0).aon = s.aon := by
  induction fuel generalizing v only inst n0 with
  | zero => rfl
  | succ f ih =>
    unfold State.aheadFrom
    dsimp only
    (repeat' split) <;> simp [ih]

@[simp] theorem State.prefetch_aon (s : State) (ch : Nat) (bound : Bool) (p : Prog) : (s.prefetch ch bound p).aon = s.aon := by
  simp [State.prefetch]

-- Machine/Check.lean

theorem State.runNode_aon (s : State) (g n t : Nat) {m : M Unit} (hm : Steady s.aon m) : (s.runNode g n t m).aon = s.aon := by
  unfold State.runNode
  split <;> simp [aon_of_on ‹M.on _ _ = _› rfl hm]

@[simp] theorem checkBlock_steady (g : Graph) (n : Node) (u : Nat) : Steady now (checkBlock g n u) := by
  unfold checkBlock
  dsimp only
  repeat' first
    | with_reducible assumption | with_reducible apply steady_bind | with_reducible intro _ | simp

@[simp] theorem checkInterval_steady (g : Graph) (n : Node) (u : Nat) : Steady now (checkInterval g n u) := by
  unfold checkInterval
  dsimp only
  repeat' first
    | with_reducible assumption | with_reducible apply steady_get | with_reducible apply steady_bind | with_reducible intro _ | split
    | with_reducible refine (aon_of_eq_snd (by assumption)).trans ?_ | with_reducible refine (aon_of_eq_fst (by assumption)).trans ?_
    | simp

@[simp] theorem checkSlice_steady (gi ni u n : Nat) : Steady now (checkSlice gi ni u n) := by
  induction n with
  | zero => exact steady_pure
  | succ n ih =>
    unfold checkSlice
    repeat' first
      | with_reducible apply steady_get | with_reducible apply steady_bind | with_reducible apply atomically_steady
      | with_reducible assumption | with_reducible intro _ | split | simp

@[simp] theorem State.cvuDone_aon (s : State) (g : Graph) (n : Node) : (s.cvuDone g n).aon = s.aon := by simp [State.cvuDone]

-- Machine/Contract.lean

@[simp] theorem rdRun_steady {rd : Rd} (q : Req) (d : Desc) (cs : List (List Nat)) (hrd : ∀ m, Steady now m → Steady now (rd m)) :
    Steady now (rdRun rd q d cs) := by
  unfold rdRun
  dsimp only
  repeat' first
    | with_reducible apply steady_bind | with_reducible apply steady_map | with_reducible apply hrd | with_reducible assumption
    | with_reducible intro _ | split | simp

@[simp] theorem rawBlock_steady (q : Req) (d : Desc) (base : Option Desc) (unit i : Nat) : Steady now (rawBlock q d base unit i) := by
  unfold rawBlock
  dsimp only
  repeat' first
    | with_reducible assumption | with_reducible apply steady_bind | with_reducible intro _ | split | simp

@[simp] theorem opWord_steady (q : Req) (d : Desc) (base : Option Desc) (unit b p kc : Nat) :
    Steady now (opWord q d base unit b p kc) := by
  unfold opWord
  dsimp only
  repeat' first
    | with_reducible assumption | with_reducible apply steady_bind | with_reducible intro _ | split | simp

@[simp] theorem scaleRun_steady {rd : Rd} (q : Req) (d : Desc) (s : Option Desc) (b p per c : Nat)
    (hrd : ∀ m, Steady now m → Steady now (rd m)) : Steady now (scaleRun rd q d s b p per c) := by
  unfold scaleRun
  repeat' first
    | with_reducible apply steady_bind | with_reducible apply steady_mapM | with_reducible apply rdRun_steady
    | with_reducible assumption | with_reducible intro _ | split | simp

@[simp] theorem groupReads_steady {rd : Rd} (q : Req) (x : Contr) (unit b mt : Nat) (tiles : List Nat)
    (hrd : ∀ m, Steady now m → Steady now (rd m)) : Steady now (groupReads rd q x unit b mt tiles) := by
  unfold groupReads
  dsimp only
  repeat' first
    | with_reducible apply steady_bind | with_reducible apply steady_mapM | with_reducible apply steady_foldlM
    | with_reducible apply steady_map | with_reducible apply scaleRun_steady | with_reducible apply hrd | with_reducible assumption
    | with_reducible intro _ | simp

@[simp] theorem tileReads_steady {rd : Rd} (q : Req) (x : Contr) (b : Nat) (ms ns : List Nat)
    (hrd : ∀ m, Steady now m → Steady now (rd m)) : Steady now (tileReads rd q x b ms ns) := by
  unfold tileReads
  dsimp only
  repeat' first
    | with_reducible apply steady_bind | with_reducible apply steady_mapM | with_reducible apply steady_map
    | with_reducible apply rdRun_steady | with_reducible assumption | with_reducible intro _ | split | simp

@[simp] theorem twinCheck_steady (q : Req) (unit bitsPer : Nat) (vals : List (List Nat)) :
    Steady now (twinCheck q unit bitsPer vals) := by
  unfold twinCheck
  dsimp only
  repeat' first
    | with_reducible assumption | with_reducible apply steady_get | with_reducible apply steady_bind | with_reducible apply steady_set
    | with_reducible intro _ | split | simp

@[simp] theorem outRows_steady (q : Req) (x : Contr) (g k n : Nat) : Steady now (outRows q x g k n) := by
  induction n with
  | zero => exact steady_pure
  | succ n ih =>
    unfold outRows
    repeat' first
      | with_reducible apply steady_get | with_reducible apply steady_bind | with_reducible apply atomically_steady
      | with_reducible assumption | with_reducible intro _ | split | simp

@[simp] theorem tileOut_steady {rd : Rd} (q : Req) (x : Contr) (unit eng lo hi g n b mt nt : Nat) (a bp : PanelIn)
    (hrd : ∀ m, Steady now m → Steady now (rd m)) : Steady now (tileOut rd q x unit eng lo hi g n b mt nt a bp) := by
  unfold tileOut
  dsimp only
  repeat' first
    | with_reducible apply steady_bind | with_reducible apply tileReads_steady | with_reducible assumption | with_reducible intro _
    | split | simp

@[simp] theorem contrGroup_steady (q : Req) (x : Contr) (unit eng lo hi t g n i : Nat) :
    Steady now (contrGroup q x unit eng lo hi t g n i) := by
  unfold contrGroup
  dsimp only
  have hrd : ∀ m, Steady now m → Steady now (replayRead g n q.who m) := fun m => replayRead_steady g n q.who
  repeat' first
    | with_reducible apply steady_get | with_reducible apply steady_bind | with_reducible apply steady_forM
    | with_reducible apply groupReads_steady | with_reducible apply tileOut_steady | with_reducible assumption
    | with_reducible intro _ | simp

@[simp] theorem contrGroups_steady (q : Req) (x : Contr) (unit eng lo hi g k n : Nat) :
    Steady now (contrGroups q x unit eng lo hi g k n) := by
  induction n with
  | zero => exact steady_pure
  | succ n ih =>
    unfold contrGroups
    repeat' first
      | with_reducible apply steady_get | with_reducible apply steady_bind | with_reducible apply atomically_steady
      | with_reducible assumption | with_reducible intro _ | split | simp

-- Machine/Meridian.lean

@[simp] theorem State.merEvent_aon (s : State) (b k : Nat) : (s.merEvent b k).aon = s.aon := by simp [State.merEvent]

@[simp] theorem State.mbTo_aon (s : State) (b st : Nat) : (s.mbTo b st).aon = s.aon := by simp [State.mbTo]

@[simp] theorem State.merFault_aon (s : State) (cause : Nat) (line : Bool) : (s.merFault cause line).aon = s.aon :=
    by simp [State.merFault]

@[simp] theorem State.lineClear_aon (s : State) (u cause : Nat) : (s.lineClear u cause).aon = s.aon := by simp [State.lineClear]

@[simp] theorem State.mbStart_aon (s : State) (b : Nat) : (s.mbStart b).aon = s.aon := by simp [State.mbStart]

@[simp] theorem State.holdEnter_aon (s : State) (b cause : Nat) : (s.holdEnter b cause).aon = s.aon := by simp [State.holdEnter]

@[simp] theorem State.excessEdge_aon (s : State) (b : Nat) : (s.excessEdge b).aon = s.aon := by simp [State.excessEdge]

@[simp] theorem State.holdLeave_aon (s : State) (b : Nat) (back : Bool) : (s.holdLeave b back).aon = s.aon := by
  unfold State.holdLeave
  simp only [State.merEvent_aon, State.mbTo_aon, State.setFld_frame, State.setBase_frame]
  have drawn : ∀ (c : Prop) [Decidable c] (m : Nat), (if c then s.drawBelow m else (0, s)).2.aon = s.aon := fun c _ m => by split <;> rfl
  exact drawn _ _

@[simp] theorem State.countEdge_aon (s : State) (b : Nat) (back : Bool) : (s.countEdge b back).aon = s.aon := by
  unfold State.countEdge
  dsimp only
  (repeat' split) <;> simp

@[simp] theorem State.merLevels_aon (s : State) (b : Nat) (pa pb : Bool) : (s.merLevels b pa pb).aon = s.aon := by
  unfold State.merLevels
  dsimp only
  (repeat' split) <;> simp

@[simp] theorem State.zEdge_aon (s : State) (b : Nat) : (s.zEdge b).aon = s.aon := by
  unfold State.zEdge
  dsimp only
  (repeat' split) <;> simp

@[simp] theorem State.mbLost_aon (s : State) (b : Nat) : (s.mbLost b).aon = s.aon := by simp [State.mbLost]

-- Machine/Replica.lean

@[simp] theorem State.sendRep_aon (s : State) (rtype : Nat) (rest : List Byte) : (s.sendRep rtype rest).aon = s.aon := by
  simp [State.sendRep]

@[simp] theorem State.putDigest_aon (s : State) (t : Nat) (seq : W32) (num m : Nat) (own : Option (Nat × Nat)) (d : Digest) :
    (s.putDigest t seq num m own d).aon = s.aon := by
  simp [State.putDigest]

@[simp] theorem State.passInterval_aon (s : State) (i : Interval) : (s.passInterval i).aon = s.aon := by
  unfold State.passInterval
  split <;> simp

@[simp] theorem State.passAll_aon (s : State) : s.passAll.aon = s.aon := by simp [State.passAll]

@[simp] theorem State.membersOut_aon (s : State) (mask : Nat) (wrong : Bool) : (s.membersOut mask wrong).aon = s.aon := by
  simp [State.membersOut]

@[simp] theorem State.agree_aon (s : State) (out : Nat) (wrong : Bool) : (s.agree out wrong).aon = s.aon := by simp [State.agree]

@[simp] theorem State.decide_aon (s : State) (i : Interval) (out : Nat) (wrong : Bool) : (s.decide i out wrong).aon = s.aon := by
  simp [State.decide]

@[simp] theorem State.settle_aon (s : State) : s.settle.aon = s.aon := by
  unfold State.settle
  split
  · rfl
  · refine aon_foldl fun t i => ?_
    split <;> simp

@[simp] theorem State.intervalEnd_aon (s : State) (g n : Nat) (failed : Bool) : (s.intervalEnd g n failed).aon = s.aon := by
  unfold State.intervalEnd
  split <;> simp

@[simp] theorem State.failedIntervals_aon (s : State) : s.failedIntervals.aon = s.aon := by simp [State.failedIntervals]

-- Machine/Ephemeris.lean

@[simp] theorem State.setEph_aon (s : State) (l : List Eph) : (s.setEph l).aon = s.aon := by simp [State.setEph]

@[simp] theorem State.ephPlace_aon (s : State) (e : Eph) : (s.ephPlace e).aon = s.aon := by
  unfold State.ephPlace
  split <;> simp

@[simp] theorem State.ephCommand_aon (s : State) (op idx : Nat) : (s.ephCommand op idx).aon = s.aon := by simp [State.ephCommand]

@[simp] theorem State.ephResult_aon (s : State) : s.ephResult.aon = s.aon := by
  unfold State.ephResult
  dsimp only
  (repeat' split) <;> simp

@[simp] theorem State.ephNext_aon (s : State) (e : Eph) : (s.ephNext e).aon = s.aon := by
  unfold State.ephNext
  dsimp only
  (repeat' split) <;> simp

@[simp] theorem State.ephAct_aon (s : State) (d : EphDue) : (s.ephAct d).aon = s.aon := by
  unfold State.ephAct
  dsimp only
  split
  · simp
  · split <;> simp [aon_of_on ‹M.on _ _ = _› rfl (by simp)]
  · split <;> simp
  · rfl

@[simp] theorem State.ephFire_aon (s : State) (e : Eph) : (s.ephFire e).aon = s.aon := by simp [State.ephFire]

@[simp] theorem State.timedRelease_aon (s : State) (g n : Nat) : (s.timedRelease g n).aon = s.aon := by simp [State.timedRelease]

@[simp] theorem State.ephWaited_aon (s : State) : s.ephWaited.aon = s.aon := by
  refine (aon_foldl fun t d => ?_).trans rfl
  split <;> simp

@[simp] theorem State.mbOff_aon (s : State) (b : Nat) : (s.mbOff b).aon = s.aon := by
  unfold State.mbOff
  simp only [State.mbTo_aon, State.modBase_frame, aon_ite, State.merEvent_aon, ite_self]
  exact (aon_foldl fun u e => by split <;> simp).trans (by simp)

end Sys2Proof.Machine
end

section
/-! What each operation does to the always-on time (O7): vector operations, registration and graphs. -/

namespace Sys2Proof.Machine

variable {β γ : Type} {now : Nat}

-- Machine/Vector.lean

@[simp] theorem rdElems_steady (g n : Nat) (q : Req) (d : Desc) (cs : List (List Int)) : Steady now (rdElems g n q d cs) := by
  unfold rdElems
  dsimp only
  repeat' first
    | with_reducible assumption | with_reducible apply steady_bind | with_reducible apply steady_mapM | with_reducible intro _ | split
    | simp

@[simp] theorem wrElems_steady (q : Req) (d : Desc) (from_ rnd : Nat) (els : List (List Int × Nat)) :
    Steady now (wrElems q d from_ rnd els) := by
  unfold wrElems
  dsimp only
  repeat' first
    | with_reducible assumption | with_reducible apply steady_bind | with_reducible intro _ | split | simp

@[simp] theorem bufRead_steady (x : RowCtx) (k : Nat) : Steady now (bufRead x k) := by
  unfold bufRead
  dsimp only
  repeat' first
    | with_reducible assumption | with_reducible apply steady_get | with_reducible apply steady_bind | with_reducible apply steady_set
    | with_reducible intro _ | split | simp

@[simp] theorem bufWrite_steady (x : RowCtx) (k : Nat) (l : List Nat) : Steady now (bufWrite x k l) := by
  unfold bufWrite
  dsimp only
  repeat' first
    | with_reducible assumption | with_reducible apply steady_set | with_reducible intro _ | simp

@[simp] theorem srcRead_steady (x : RowCtx) (e : List Byte) (c : Nat) : Steady now (srcRead x e c) := by
  unfold srcRead
  repeat' first
    | with_reducible assumption | with_reducible apply steady_bind | with_reducible intro _ | split | simp

@[simp] theorem dstRow_steady (x : RowCtx) (e : List Byte) (c from_ : Nat) (l : List (Nat × Nat)) :
    Steady now (dstRow x e c from_ l) := by
  unfold dstRow
  dsimp only
  repeat' first
    | with_reducible assumption | with_reducible apply steady_bind | with_reducible apply steady_set | with_reducible intro _ | split
    | simp

@[simp] theorem dstIndex_steady (x : RowCtx) (e : List Byte) (d : Desc) (from_ : Nat) (l : List (Nat × Nat)) :
    Steady now (dstIndex x e d from_ l) := by
  unfold dstIndex
  dsimp only
  repeat' first
    | with_reducible assumption | with_reducible apply steady_bind | with_reducible apply steady_set | with_reducible intro _ | split
    | simp

@[simp] theorem segments_steady (x : RowCtx) (e : List Byte) : Steady now (segments x e) := by
  unfold segments
  dsimp only
  repeat' first
    | with_reducible assumption | with_reducible apply steady_bind | with_reducible intro _ | split | simp

@[simp] theorem drawPat_steady  : Steady now (drawPat ) := by
  unfold drawPat
  dsimp only
  repeat' first
    | with_reducible assumption | with_reducible apply steady_get | with_reducible apply steady_bind | with_reducible apply steady_set
    | with_reducible intro _ | split | with_reducible refine (aon_of_eq_snd (by assumption)).trans ?_
    | with_reducible refine (aon_of_eq_fst (by assumption)).trans ?_ | simp

@[simp] theorem rowStep_steady (x : RowCtx) (e : List Byte) : Steady now (rowStep x e) := by
  unfold rowStep
  dsimp only
  repeat' first
    | with_reducible assumption | with_reducible apply steady_bind | with_reducible apply steady_set | with_reducible apply steady_forM
    | with_reducible apply steady_mapM | with_reducible apply atomically_steady | with_reducible intro _ | split | simp

@[simp] theorem atomAt_steady (x : RowCtx) (e : List Byte) (d : Desc) (i v : Nat) : Steady now (atomAt x e d i v) := by
  unfold atomAt
  dsimp only
  repeat' first
    | with_reducible assumption | with_reducible apply steady_get | with_reducible apply steady_bind | with_reducible apply steady_set
    | with_reducible intro _ | split | with_reducible refine (aon_of_eq_snd (by assumption)).trans ?_
    | with_reducible refine (aon_of_eq_fst (by assumption)).trans ?_ | simp

@[simp] theorem atomStep_steady (x : RowCtx) (e : List Byte) : Steady now (atomStep x e) := by
  unfold atomStep
  dsimp only
  repeat' first
    | with_reducible assumption | with_reducible apply steady_bind | with_reducible apply steady_mapM
    | with_reducible apply atomically_steady | with_reducible intro _ | split | simp

@[simp] theorem elemStep_steady (x : RowCtx) (e : List Byte) : Steady now (elemStep x e) := by
  unfold elemStep
  dsimp only
  repeat' first
    | with_reducible assumption | with_reducible apply steady_bind | with_reducible apply atomically_steady | with_reducible intro _
    | split | simp

@[simp] theorem vecEntry_steady (x : RowCtx) (e : List Byte) : Steady now (vecEntry x e) := by
  unfold vecEntry
  repeat' first
    | with_reducible assumption | with_reducible apply steady_bind | with_reducible intro _ | split | simp

@[simp] theorem State.pickRow_aon (s : State) (n : Node) (rows : Nat) : (s.pickRow n rows).2.aon = s.aon := by
  unfold State.pickRow
  dsimp only
  (repeat' split) <;> simp

@[simp] theorem vecStep_steady (g n : Nat) : Steady now (vecStep g n) := by
  unfold vecStep
  dsimp only
  repeat' first
    | with_reducible assumption | with_reducible apply steady_get | with_reducible apply steady_bind | with_reducible apply steady_set
    | with_reducible intro _ | split | with_reducible refine (aon_of_eq_snd (by assumption)).trans ?_
    | with_reducible refine (aon_of_eq_fst (by assumption)).trans ?_ | simp

@[simp] theorem vecSlice_steady (g k n : Nat) : Steady now (vecSlice g k n) := by
  induction n with
  | zero => exact steady_pure
  | succ n ih =>
    unfold vecSlice
    repeat' first
      | with_reducible apply steady_get | with_reducible apply steady_bind | with_reducible apply atomically_steady
      | with_reducible assumption | with_reducible intro _ | split | simp

-- Machine/Register.lean

@[simp] theorem refuse_steady (code : Nat) : Steady now (refuse code : M β) := steady_throw

@[simp] theorem listRead_steady (q : Req) (xva n : Nat) : Steady now (listRead q xva n) := by
  unfold listRead
  repeat' first
    | with_reducible assumption | with_reducible apply steady_bind | with_reducible apply steady_tryCatch | with_reducible intro _ | split
    | simp

@[simp] theorem regProgram_steady (q : Req) (n : Node) : Steady now (regProgram q n) := by
  unfold regProgram
  dsimp only
  repeat' first
    | with_reducible assumption | with_reducible apply steady_get | with_reducible apply steady_bind | with_reducible intro _ | split
    | simp

@[simp] theorem regCopy_steady (q : Req) (n : Node) : Steady now (regCopy q n) := by
  unfold regCopy
  dsimp only
  repeat' first
    | with_reducible assumption | with_reducible apply steady_get | with_reducible apply steady_bind | with_reducible intro _ | split
    | simp

@[simp] theorem regContract_steady (q : Req) (n : Node) : Steady now (regContract q n) := by
  unfold regContract
  dsimp only
  repeat' first
    | with_reducible assumption | with_reducible apply steady_get | with_reducible apply steady_bind | with_reducible intro _ | split
    | simp

@[simp] theorem vecFigs_aon (s : State) (ts : List (Option Desc)) (t0 : Desc) (ops : List (List Byte)) :
    (vecFigs s ts t0 ops).2.aon = s.aon := by
  simp [vecFigs]

@[simp] theorem regVector_steady (q : Req) (n : Node) : Steady now (regVector q n) := by
  unfold regVector
  dsimp only
  repeat' first
    | with_reducible assumption | with_reducible apply steady_get | with_reducible apply steady_bind | with_reducible apply steady_set
    | with_reducible intro _ | split | with_reducible refine (aon_of_eq_snd (by assumption)).trans ?_
    | with_reducible refine (aon_of_eq_fst (by assumption)).trans ?_ | simp

@[simp] theorem regNode_steady (q : Req) (n : Node) : Steady now (regNode q n) := by
  unfold regNode
  repeat' first
    | with_reducible assumption | with_reducible apply steady_bind | with_reducible intro _ | split | simp

@[simp] theorem withSlices_steady (f : Found) (limit : Nat) : Steady now (withSlices f limit) := by
  unfold withSlices
  dsimp only
  repeat' first
    | with_reducible assumption | with_reducible apply steady_bind | with_reducible intro _ | split | simp

@[simp] theorem regPlain_steady (q : Req) (n : Node) (limit : Nat) : Steady now (regPlain q n limit) := by
  unfold regPlain
  dsimp only
  repeat' first
    | with_reducible assumption | with_reducible apply steady_bind | with_reducible intro _ | split | simp

@[simp] theorem regStages_steady (q : Req) (gid : Nat) (l : List Node) : Steady now (regStages q gid l) := by
  induction l with
  | nil => exact steady_pure
  | cons n l ih =>
    unfold regStages
    repeat' first
      | with_reducible apply steady_bind | with_reducible apply steady_tryCatch | with_reducible apply ih | with_reducible intro _
      | split | simp

@[simp] theorem State.markReady_aon (s : State) : s.markReady.aon = s.aon := by simp [State.markReady]

@[simp] theorem State.putNode_aon (s : State) (g : Nat) (n : Node) : (s.putNode g n).aon = s.aon := by simp [State.putNode]

@[simp] theorem State.refuseNode_aon (s : State) (g n status detail : Nat) : (s.refuseNode g n status detail).aon = s.aon := by
  simp [State.refuseNode]

@[simp] theorem State.warmPage_aon (s : State) (t : Nat) (x : Nat × Bool) : (s.warmPage t x).aon = s.aon := by
  unfold State.warmPage
  dsimp only
  (repeat' split) <;> simp

@[simp] theorem State.warm_aon (s : State) (t : Nat) (l : List Range) : (s.warm t l).aon = s.aon := by simp [State.warm]

-- Machine/Graphs.lean

@[simp] theorem State.nodeRec_aon (s : State) (g : Graph) (n : Node) : (s.nodeRec g n).aon = s.aon := by
  unfold State.nodeRec
  dsimp only
  (repeat' split) <;> simp

@[simp] theorem State.endGraph_aon (s : State) (g : Graph) : (s.endGraph g).aon = s.aon := by
  unfold State.endGraph
  split <;> simp

@[simp] theorem State.endEntryGraph_aon (s : State) (g : Graph) (n : Node) : (s.endEntryGraph g n).aon = s.aon := by
  unfold State.endEntryGraph
  split <;> simp

@[simp] theorem State.applyVs_aon (s : State) : s.applyVs.aon = s.aon := by simp [State.applyVs]

@[simp] theorem State.retire_aon (s : State) (g : Graph) (n : Node) : (s.retire g n).aon = s.aon := by simp [State.retire]

@[simp] theorem State.graphDone_aon (s : State) (gid : Nat) : (s.graphDone gid).aon = s.aon := by
  unfold State.graphDone
  split <;> simp

@[simp] theorem State.completeNode_aon (s : State) (gid n : Nat) : (s.completeNode gid n).aon = s.aon := by
  unfold State.completeNode
  split <;> simp

@[simp] theorem State.takeNode_aon (s : State) (gid : Nat) (b : List Byte) : (s.takeNode gid b).aon = s.aon := by
  unfold State.takeNode
  dsimp only
  (repeat' split) <;> simp

@[simp] theorem State.fetchNodes_aon (s : State) (gid : Nat) : (s.fetchNodes gid).aon = s.aon := by
  unfold State.fetchNodes
  split
  · dsimp only
    split
    · rfl
    · split <;> simp [aon_of_on ‹M.on _ _ = _› rfl (by simp)]
  · rfl

theorem State.regFail_aon (s0 : State) {s : State} (gid n : Nat) (e : Err) (h : s.aon = s0.aon) :
    (s0.regFail s gid n e).aon = s0.aon := by
  cases e <;> simp [State.regFail, h]

@[simp] theorem State.register_aon (s : State) (gid : Nat) : (s.register gid).aon = s.aon := by
  unfold State.register
  split
  · rfl
  dsimp only
  split
  · rfl
  split
  · split
    · rfl
    split
    next e =>
      have h := aon_of_on e rfl (by simp)
      split
      · split
        · rfl
        · simp [h]
      · exact s.regFail_aon _ _ _ h
    next e => exact s.regFail_aon _ _ _ (aon_of_on e rfl (by simp))
    next e => exact s.regFail_aon _ _ _ (aon_of_on e rfl (by simp))
  · split
    next e =>
      have h := aon_of_on e rfl (by simp)
      split
      · rfl
      · simp [h]
    next e => exact s.regFail_aon _ _ _ (aon_of_on e rfl (by simp))

@[simp] theorem State.registerTimed_aon (s : State) (gid n : Nat) : (s.registerTimed gid n).aon = s.aon := by
  unfold State.registerTimed
  split <;> simp

@[simp] theorem State.passGrant_aon (s : State) : s.passGrant.aon = s.aon := by
  unfold State.passGrant
  (repeat' split) <;> rfl

@[simp] theorem State.grantXclk_aon (s : State) (u : Nat) : (s.grantXclk u).aon = s.aon := by simp [State.grantXclk]

@[simp] theorem State.noteGrant_aon (s : State) (u t : Nat) : (s.noteGrant u t).aon = s.aon := by simp [State.noteGrant]

@[simp] theorem State.moveIdle_aon (s : State) (g n ch : Nat) : (s.moveIdle g n ch).aon = s.aon := by
  unfold State.moveIdle
  split <;> simp

@[simp] theorem State.openSlice_aon (s : State) (g : Nat) (x : Nat × List Nat) : (s.openSlice g x).aon = s.aon := by
  unfold State.openSlice
  split <;> simp

@[simp] theorem State.grant_aon (s : State) (u : Nat) : (s.grant u).aon = s.aon := by
  unfold State.grant
  dsimp only
  (repeat' split) <;> simp

@[simp] theorem State.chainStep_aon (s : State) (gid n : Nat) : (s.chainStep gid n).aon = s.aon := by
  unfold State.chainStep
  split <;> simp

@[simp] theorem State.unbind_aon (s : State) (ch : Nat) : (s.unbind ch).aon = s.aon := by
  unfold State.unbind
  split <;> simp

@[simp] theorem State.closeSlice_aon (s : State) (gid t : Nat) (n : Node) : (s.closeSlice gid t n).aon = s.aon := by
  unfold State.closeSlice
  dsimp only
  (repeat' split) <;> simp

@[simp] theorem State.stopStage_aon (s : State) (gid : Nat) (n : Node) : (s.stopStage gid n).aon = s.aon := by
  unfold State.stopStage
  dsimp only
  (repeat' split) <;> simp

@[simp] theorem State.closeChain_aon (s : State) (g : Graph) (c : Node) : (s.closeChain g c).aon = s.aon := by
  unfold State.closeChain
  dsimp only
  (repeat' split) <;> simp

@[simp] theorem State.endSlices_aon (s : State) (gid n : Nat) : (s.endSlices gid n).aon = s.aon := by
  unfold State.endSlices
  split <;> simp

@[simp] theorem State.sliceTime_later (s : State) (gid n : Nat) : s.aon ≤ (s.sliceTime gid n).aon := by
  unfold State.sliceTime
  dsimp only
  (repeat' split) <;> simp

@[simp] theorem State.dropNode_aon (s : State) (gid n : Nat) : (s.dropNode gid n).aon = s.aon := by simp [State.dropNode]

@[simp] theorem State.abandon_aon (s : State) (gid : Nat) : (s.abandon gid).aon = s.aon := by
  unfold State.abandon
  dsimp only
  (repeat' split) <;> simp

end Sys2Proof.Machine
end

section
/-! What each operation does to the always-on time (O7): entries, links and the digest. -/

namespace Sys2Proof.Machine

variable {β γ : Type} {now : Nat}

-- Machine/Entries.lean

@[simp] theorem State.take_aon (s : State) (c op : Nat) {f : Entry → State} (hf : ∀ e, (f e).aon = s.aon) :
    (s.take c op f).aon = s.aon := by
  unfold State.take
  (repeat' split) <;> simp [hf]

theorem State.entryErr_aon (s0 : State) {s : State} (c : Nat) (x : Entry) (e : Err) (h : s.aon = s0.aon) :
    (s0.entryErr s c x e).aon = s0.aon := by
  cases e <;> simp [State.entryErr, h]

@[simp] theorem State.submitGraph_aon (s : State) (t : Nat) : (s.submitGraph t).aon = s.aon := by simp [State.submitGraph]

@[simp] theorem State.oneNode_aon (s : State) (t : Nat) (e : Entry) (n : Node) : (s.oneNode t e n).aon = s.aon := by simp [State.oneNode]

@[simp] theorem State.runProgram_aon (s : State) (t : Nat) : (s.runProgram t).aon = s.aon := by
  refine s.take_aon t 2 fun e => ?_
  split
  · exact s.entryErr_aon _ _ _ (aon_of_on ‹M.on _ _ = _› rfl (by simp))
  · split <;> simp [aon_of_on ‹M.on _ _ = _› rfl (by simp)]

@[simp] theorem State.scanEntry_aon (s : State) (t : Nat) : (s.scanEntry t).aon = s.aon := by
  refine s.take_aon t 7 fun e => ?_
  extract_lets n
  split
  · exact s.finish_aon _ _ _ _ _ _ _
  · exact s.oneNode_aon _ _ _

@[simp] theorem State.takeDesc_aon (s : State) (t op : Nat) {f : Entry → State} (hf : ∀ e, (f e).aon = s.aon) :
    (s.takeDesc t op f).aon = s.aon := by
  unfold State.takeDesc
  (repeat' split) <;> simp [hf]

@[simp] theorem State.putDesc_aon (s : State) (t h : Nat) (e : Entry) (image : List Byte) : (s.putDesc t h e image).aon = s.aon := by
  simp [State.putDesc]

@[simp] theorem State.createTensor_aon (s : State) (t : Nat) : (s.createTensor t).aon = s.aon := by
  refine s.takeDesc_aon t 3 fun e => ?_
  split
  · exact s.entryErr_aon _ _ _ (aon_of_on ‹M.on _ _ = _› rfl (by simp))
  · dsimp only
    split <;> simp [aon_of_on ‹M.on _ _ = _› rfl (by simp)]

@[simp] theorem State.destroyTensor_aon (s : State) (t : Nat) : (s.destroyTensor t).aon = s.aon := by simp [State.destroyTensor]

@[simp] theorem State.handleFree_aon (s : State) (t h : Nat) : (s.handleFree t h).aon = s.aon := by
  unfold State.handleFree
  dsimp only
  (repeat' split) <;> simp

@[simp] theorem State.signalEntry_aon (s : State) (t : Nat) : (s.signalEntry t).aon = s.aon := by simp [State.signalEntry]

@[simp] theorem State.waitEntry_aon (s : State) (t : Nat) : (s.waitEntry t).aon = s.aon := by simp [State.waitEntry]

@[simp] theorem State.endWait_aon (s : State) (w : Wait) (ok : Bool) : (s.endWait w ok).aon = s.aon := by
  unfold State.endWait
  (repeat' split) <;> simp

@[simp] theorem State.waitGoes_aon (s : State) (i : Nat) : (s.waitGoes i).aon = s.aon := by
  unfold State.waitGoes
  split <;> simp

@[simp] theorem State.waitEnds_later (s : State) (i : Nat) : s.aon ≤ (s.waitEnds i).aon := by
  unfold State.waitEnds
  dsimp only
  split
  · split
    next w hw hc =>
      have h := (s.ctrSettle w.counter).advanceTo_later (w.start + 1000 * w.timeoutUs)
      simpa using h
    next => exact Nat.le_refl _
  · exact Nat.le_refl _

@[simp] theorem State.setFaults_aon (s : State) (t : Nat) (l : List PFault) : (s.setFaults t l).aon = s.aon := by simp [State.setFaults]

@[simp] theorem State.resolveOne_aon (s : State) (id : W32) (abort : Bool) (w : Who) : (s.resolveOne id abort w).aon = s.aon := by
  unfold State.resolveOne
  split <;> simp

@[simp] theorem State.resolve_aon (s : State) (f : PFault) (abort : Bool) : (s.resolve f abort).aon = s.aon := by simp [State.resolve]

@[simp] theorem State.resumeFault_aon (s : State) (t : Nat) : (s.resumeFault t).aon = s.aon := by
  refine s.take_aon t 8 fun e => ?_
  split <;> simp

@[simp] theorem State.pfTimeout_later (s : State) (t : Nat) (id : W32) : s.aon ≤ (s.pfTimeout t id).aon := by
  unfold State.pfTimeout
  dsimp only
  (repeat' split) <;> simp

@[simp] theorem State.cutStaged_aon (s : State) (t ch : Nat) (r : Nat × Nat) : (s.cutStaged t ch r).aon = s.aon :=
    by simp [State.cutStaged]

@[simp] theorem State.invalidate_aon (s : State) (t : Nat) : (s.invalidate t).aon = s.aon := by simp [State.invalidate]

@[simp] theorem State.invalidateDone_aon (s : State) (t : Nat) : (s.invalidateDone t).aon = s.aon := by
  unfold State.invalidateDone
  split <;> simp

@[simp] theorem State.setEpoch_aon (s : State) (t : Nat) : (s.setEpoch t).aon = s.aon := by simp [State.setEpoch]

@[simp] theorem State.setEpochDone_aon (s : State) (t : Nat) : (s.setEpochDone t).aon = s.aon := by
  unfold State.setEpochDone
  split <;> simp

@[simp] theorem State.registerMailbox_aon (s : State) (t : Nat) : (s.registerMailbox t).aon = s.aon := by
  refine s.take_aon t 0x0B fun e => ?_
  split
  · exact s.entryErr_aon _ _ _ (aon_of_on ‹M.on _ _ = _› rfl (by simp))
  · dsimp only
    split
    · simp [aon_of_on ‹M.on _ _ = _› rfl (by simp)]
    · split <;> simp [aon_of_on ‹M.on _ _ = _› rfl (by simp)]

@[simp] theorem State.unstall_aon (s : State) (w : Who) : (s.unstall w).aon = s.aon := by
  cases w <;> simp [State.unstall]

@[simp] theorem State.workFails_aon (s : State) (st de : Nat) (w : Who) : (s.workFails st de w).aon = s.aon := by
  cases w <;> simp [State.workFails]

@[simp] theorem State.faulted_aon (s : State) (w : Who) : (s.faulted w).aon = s.aon := by
  cases w <;> simp [State.faulted]

theorem State.xlatFail_aon (s0 : State) {s : State} (w : Walk) (cause level : Nat) (pte : W64) (h : s.aon = s0.aon) :
    (s0.xlatFail s w cause level pte).aon = s0.aon := by
  unfold State.xlatFail
  dsimp only
  (repeat' split) <;> simp [h]

@[simp] theorem State.walkDone_aon (s : State) (i : Nat) (resp : WalkResp) : (s.walkDone i resp).aon = s.aon := by
  unfold State.walkDone
  split
  · rfl
  split
  · rfl
  extract_lets u t root
  have ht : t.aon = s.aon := by simp [t, u]
  clear_value t
  cases resp with
  | data => 
    dsimp only
    split
    · split <;> simp [ht]
    · exact s.xlatFail_aon _ _ _ _ ht
  | busError =>
    simp only [State.workFails_aon, State.raise_frame, State.drawBelow_aon, ht]
  | uncorrectable =>
    simp only [State.workFails_aon, State.raise_frame, State.drawBelow_aon, ht]

-- Machine/Links.lean

@[simp] theorem State.linkTo_aon (s : State) (p st : Nat) : (s.linkTo p st).aon = s.aon := by simp [State.linkTo]

@[simp] theorem State.linkStart_aon (s : State) (p : Nat) : (s.linkStart p).aon = s.aon := by simp [State.linkStart]

@[simp] theorem State.linkFails_aon (s : State) (p : Nat) : (s.linkFails p).aon = s.aon := by simp [State.linkFails]

@[simp] theorem State.linkUp_aon (s : State) (p : Nat) : (s.linkUp p).aon = s.aon := by simp [State.linkUp]

@[simp] theorem State.reroute_aon (s : State) (p : Nat) : (s.reroute p).aon = s.aon := by
  exact (aon_foldl fun t x => t.routeOn_getD_aon _ _).trans (by simp)

@[simp] theorem State.linkAgain_aon (s : State) (p : Nat) : (s.linkAgain p).aon = s.aon := by simp [State.linkAgain]

@[simp] theorem State.linkDrop_aon (s : State) (p : Nat) : (s.linkDrop p).aon = s.aon := by simp [State.linkDrop]

@[simp] theorem State.linksStart_aon (s : State) : s.linksStart.aon = s.aon := by simp [State.linksStart]

@[simp] theorem State.modidAsk_aon (s : State) (attempt : Nat) : (s.modidAsk attempt).aon = s.aon := by simp [State.modidAsk]

@[simp] theorem State.setIdentity_aon (s : State) (chip dims role groupRaw : Nat) (epoch : W32) (serial : W64) :
    (s.setIdentity chip dims role groupRaw epoch serial).aon = s.aon := by
  simp [State.setIdentity]

@[simp] theorem State.noIdentity_aon (s : State) : s.noIdentity.aon = s.aon := by simp [State.noIdentity]

@[simp] theorem State.modidRead_aon (s : State) (b : List Byte) : (s.modidRead b).aon = s.aon := by
  unfold State.modidRead
  split <;> simp

@[simp] theorem State.modidTimeout_later (s : State) : s.aon ≤ s.modidTimeout.aon := by
  unfold State.modidTimeout
  (repeat' split) <;> simp

@[simp] theorem State.restart_aon (s : State) : s.restart.aon = s.aon := by simp [State.restart]

@[simp] theorem State.linkIdent_aon (s : State) (p : Nat) (b : List Byte) : (s.linkIdent p b).aon = s.aon := by simp [State.linkIdent]

@[simp] theorem State.modKey_aon (s : State) (p sl : Nat) (f : KeySlot → KeySlot) : (s.modKey p sl f).aon = s.aon :=
    by simp [State.modKey]

@[simp] theorem State.linkAuth_aon (s : State) (p keyId ctr : Nat) (tagsOk : Bool) : (s.linkAuth p keyId ctr tagsOk).aon = s.aon := by
  simp [State.linkAuth]

@[simp] theorem State.keyLoad_aon (s : State) (p sl : Nat) : (s.keyLoad p sl).aon = s.aon := by simp [State.keyLoad]

@[simp] theorem State.keyClear_aon (s : State) (p sl : Nat) : (s.keyClear p sl).aon = s.aon := by simp [State.keyClear]

@[simp] theorem State.keyLimit_aon (s : State) (p : Nat) : (s.keyLimit p).aon = s.aon := by simp [State.keyLimit]

@[simp] theorem State.onWire_aon (s : State) (p : Nat) (f : Frame) : (s.onWire p f).aon = s.aon := by simp [State.onWire]

@[simp] theorem State.bufFreed_aon (s : State) (src : Option (Nat × Nat × Nat)) : (s.bufFreed src).aon = s.aon := by
  unfold State.bufFreed
  split <;> simp

@[simp] theorem State.frameLeaves_aon (s : State) (p : Nat) (q : Queued) (turn : Nat) : (s.frameLeaves p q turn).aon = s.aon := by
  simp [State.frameLeaves]

@[simp] theorem State.slotSend_aon (s : State) (p : Nat) : (s.slotSend p).aon = s.aon := by
  unfold State.slotSend
  dsimp only
  (repeat' split) <;> simp

@[simp] theorem State.hopLimit_aon (s : State) (f : Frame) : (s.hopLimit f).aon = s.aon := by simp [State.hopLimit]

@[simp] theorem State.arrive_aon (s : State) (p : Nat) (f : Frame) : (s.arrive p f).aon = s.aon := by
  unfold State.arrive
  split
  · rfl
  split
  · simp
  split
  · simp
  split
  · rfl
  split
  · simp
  extract_lets d free t u v
  have hfree : ∀ w : State, (free w).aon = w.aon := fun _ => by simp [free]
  have hv : v.aon = s.aon := by simp [v, u, t]
  clear_value free v
  split
  · simp [hfree]
  split
  · simp [hfree, hv]
  split
  next e => simp [State.routeOn_aon e, hv]
  next => simp [hfree, hv]

@[simp] theorem State.maintain_aon (s : State) (p : Nat) (credits alive : List Nat) (ctr keySel : Nat) (ready : Bool) :
    (s.maintain p credits alive ctr keySel ready).aon = s.aon := by
  simp [State.maintain]

end Sys2Proof.Machine
end

section
/-! What each operation does to the always-on time (O7): the manager and the nodes. -/

namespace Sys2Proof.Machine

variable {β γ : Type} {now : Nat}

-- Machine/Manager.lean

@[simp] theorem State.refuseCmd_aon (s : State) (e : Entry) (code : Nat) : (s.refuseCmd e code).aon = s.aon := by
  exact s.finish_aon _ _ _ _ _ _ _

@[simp] theorem State.finishCmd_aon (s : State) (id : Option Nat) (status detail result : Nat) :
    (s.finishCmd id status detail result).aon = s.aon := by
  unfold State.finishCmd
  split <;> simp

@[simp] theorem State.switchBank_aon (s : State) (c : Copy) : (s.switchBank c).aon = s.aon := by simp [State.switchBank]

@[simp] theorem State.epochBoundary_aon (s : State) : s.epochBoundary.aon = s.aon := by simp [State.epochBoundary]

@[simp] theorem State.rewind_aon (s : State) (ch : Nat) : (s.rewind ch).aon = s.aon := by
  unfold State.rewind
  split <;> simp

@[simp] theorem State.replayNode_aon (s : State) (g : Nat) (n : Node) : (s.replayNode g n).aon = s.aon := by
  unfold State.replayNode
  split <;> simp

@[simp] theorem State.replayChain_aon (s : State) (g : Graph) (c : Node) : (s.replayChain g c).aon = s.aon := by simp [State.replayChain]

@[simp] theorem State.stopUnit_aon (s : State) (u : Nat) : (s.stopUnit u).aon = s.aon := by simp [State.stopUnit]

@[simp] theorem State.eclipseBegin_aon (s : State) (u : Nat) (immediate : Bool) (entry : Option Nat) :
    (s.eclipseBegin u immediate entry).aon = s.aon := by
  unfold State.eclipseBegin
  dsimp only
  (repeat' split) <;> simp

@[simp] theorem State.eclipseCmd_aon (s : State) : s.eclipseCmd.aon = s.aon := by
  refine s.take_aon 8 0x40 fun e => ?_
  dsimp only
  split <;> simp

@[simp] theorem State.eclChan_aon (s : State) (ch : Nat) : (s.eclChan ch).aon = s.aon := by simp [State.eclChan]

@[simp] theorem State.applyEclipse_aon (s : State) (u : Nat) : (s.applyEclipse u).aon = s.aon := by
  unfold State.applyEclipse
  dsimp only
  (repeat' split) <;> simp

@[simp] theorem State.eclipseDone_aon (s : State) (u : Nat) : (s.eclipseDone u).aon = s.aon := by
  unfold State.eclipseDone
  split <;> simp

@[simp] theorem State.copyDone_aon (s : State) (b : Nat) : (s.copyDone b).aon = s.aon := by simp [State.copyDone]

@[simp] theorem State.reenterCmd_aon (s : State) : s.reenterCmd.aon = s.aon := by simp [State.reenterCmd]

@[simp] theorem State.admitChan_aon (s : State) (ch : Nat) : (s.admitChan ch).aon = s.aon := by simp [State.admitChan]

@[simp] theorem State.admitUnit_aon (s : State) (u : Nat) : (s.admitUnit u).aon = s.aon := by simp [State.admitUnit]

@[simp] theorem State.reenterDone_aon (s : State) (u : Nat) (pass : Bool) : (s.reenterDone u pass).aon = s.aon := by
  unfold State.reenterDone
  split <;> simp

@[simp] theorem State.clearChan_aon (s : State) (t ch : Nat) : (s.clearChan t ch).aon = s.aon := by
  unfold State.clearChan
  dsimp only
  (repeat' split) <;> simp

@[simp] theorem State.clearBegin_aon (s : State) (t id : Nat) : (s.clearBegin t id).aon = s.aon := by simp [State.clearBegin]

@[simp] theorem State.clearState_aon (s : State) (t : Nat) : (s.clearState t).aon = s.aon := by simp [State.clearState]

@[simp] theorem State.clearCmd_aon (s : State) : s.clearCmd.aon = s.aon := by simp [State.clearCmd]

@[simp] theorem State.partitionCleared_aon (s : State) : s.partitionCleared.aon = s.aon := by
  unfold State.partitionCleared
  dsimp only
  (repeat' split) <;> simp

@[simp] theorem State.clearDone_aon (s : State) (t : Nat) : (s.clearDone t).aon = s.aon := by
  unfold State.clearDone
  split <;> simp

@[simp] theorem State.powerCmd_aon (s : State) : s.powerCmd.aon = s.aon := by
  refine s.take_aon 8 0x43 fun e => ?_
  dsimp only
  split <;> simp

@[simp] theorem State.powerStep_aon (s : State) : s.powerStep.aon = s.aon := by
  unfold State.powerStep
  split <;> simp

@[simp] theorem State.replicaCmd_aon (s : State) : s.replicaCmd.aon = s.aon := by
  refine s.take_aon 8 0x44 fun e => ?_
  dsimp only
  split <;> simp

@[simp] theorem State.enginesChanged_aon (s was : State) : (s.enginesChanged was).aon = s.aon := rfl

@[simp] theorem State.splitCmd_aon (s : State) : s.splitCmd.aon = s.aon := by simp [State.splitCmd]

@[simp] theorem State.lockCmd_aon (s : State) : s.lockCmd.aon = s.aon := by simp [State.lockCmd]

@[simp] theorem State.cqStall_later (s : State) (c : Nat) : s.aon ≤ (s.cqStall c).aon := by
  unfold State.cqStall
  dsimp only
  (repeat' split) <;> simp

@[simp] theorem State.creditPeriod_aon (s : State) : s.creditPeriod.aon = s.aon := by simp [State.creditPeriod]

@[simp] theorem State.wcFill_aon (s : State) (i way : Nat) : (s.wcFill i way).aon = s.aon := by
  unfold State.wcFill
  dsimp only
  (repeat' split) <;> simp

@[simp] theorem State.upset_aon (s : State) (u : Nat × Bool) : (s.upset u).aon = s.aon := by
  unfold State.upset
  dsimp only
  (repeat' split) <;> simp

@[simp] theorem State.scrub_aon (s : State) (upsets : List (Nat × Bool)) : (s.scrub upsets).aon = s.aon := by simp [State.scrub]

-- Machine/Nodes.lean

@[simp] theorem State.signalNode_aon (s : State) (g n : Nat) : (s.signalNode g n).aon = s.aon := by
  unfold State.signalNode
  dsimp only
  (repeat' split) <;> simp

@[simp] theorem State.waitNode_aon (s : State) (g n : Nat) : (s.waitNode g n).aon = s.aon := by
  unfold State.waitNode
  split <;> simp

@[simp] theorem State.nodeCompletes_aon (s : State) (g n : Nat) : (s.nodeCompletes g n).aon = s.aon := by
  unfold State.nodeCompletes
  split <;> simp

@[simp] theorem State.movet_aon (s : State) (ch : Nat) : (s.movet ch).aon = s.aon := by
  exact s.slotRun_aon ch 2 fun t p b => t.runCh_aon _ _ (by simp)

@[simp] theorem State.copyRun_aon (s : State) (ch : Nat) : (s.copyRun ch).aon = s.aon := by simp [State.copyRun]

@[simp] theorem State.moveRun_aon (s : State) (ch lines : Nat) : (s.moveRun ch lines).aon = s.aon := by
  exact s.slotRun_aon ch 1 fun t p b => t.runCh_aon _ _ (by simp)

@[simp] theorem State.loopSlot_aon (s : State) (ch : Nat) : (s.loopSlot ch).aon = s.aon := by simp [State.loopSlot]

@[simp] theorem State.waitSlot_aon (s : State) (ch : Nat) : (s.waitSlot ch).aon = s.aon := by simp [State.waitSlot]

@[simp] theorem State.signalSlot_aon (s : State) (ch : Nat) : (s.signalSlot ch).aon = s.aon := by simp [State.signalSlot]

@[simp] theorem State.fenceSlot_aon (s : State) (ch : Nat) : (s.fenceSlot ch).aon = s.aon := by simp [State.fenceSlot]

@[simp] theorem State.stampOp_aon (s : State) (ch : Nat) : (s.stampOp ch).aon = s.aon := by
  exact s.slotRun_aon ch 8 fun t p b => t.runCh_aon _ _ (by simp)

@[simp] theorem State.nopSlot_aon (s : State) (ch : Nat) : (s.nopSlot ch).aon = s.aon := by simp [State.nopSlot]

@[simp] theorem State.haltSlot_aon (s : State) (ch : Nat) : (s.haltSlot ch).aon = s.aon := by simp [State.haltSlot]

@[simp] theorem State.runAhead_aon (s : State) (ch : Nat) : (s.runAhead ch).aon = s.aon := by
  unfold State.runAhead
  split <;> simp

@[simp] theorem State.bpTimeout_later (s : State) (ch : Nat) : s.aon ≤ (s.bpTimeout ch).aon := by
  unfold State.bpTimeout
  (repeat' split) <;> simp

@[simp] theorem State.portAhead_aon (s : State) (t : Nat) (l : List (Nat × Bool)) : (s.portAhead t l).aon = s.aon := by
  simp [State.portAhead]

@[simp] theorem State.contractRun_aon (s : State) (e : Nat) : (s.contractRun e).aon = s.aon := by
  unfold State.contractRun
  split
  · split
    · exact (State.runNode_aon _ _ _ _ (by simp)).trans (by simp)
    · rfl
  · rfl

@[simp] theorem State.vectorRun_aon (s : State) (i : Nat) : (s.vectorRun i).aon = s.aon := by
  unfold State.vectorRun
  split
  · exact (State.runNode_aon _ _ _ _ (by simp)).trans (by simp)
  · rfl

@[simp] theorem State.vectorOp_aon (s : State) (i op : Nat) : (s.vectorOp i op).aon = s.aon := by
  unfold State.vectorOp
  dsimp only
  repeat' split
  all_goals first | rfl | exact State.runNode_aon _ _ _ _ (by simp)

@[simp] theorem State.checkRun_aon (s : State) (u : Nat) : (s.checkRun u).aon = s.aon := by
  unfold State.checkRun
  split
  · exact State.runNode_aon _ _ _ _ (by simp)
  · rfl

end Sys2Proof.Machine
end

section
/-! What each operation does to the always-on time (O7): the windows, resets and power. -/

namespace Sys2Proof.Machine

variable {β γ : Type} {now : Nat}

-- Machine/Window.lean

@[simp] theorem State.enableWrite_aon (s : State) (c : Nat) (one : Bool) : (s.enableWrite c one).aon = s.aon := by
  unfold State.enableWrite
  split <;> simp

@[simp] theorem State.zeroRings_aon (s : State) (c : Nat) : (s.zeroRings c).aon = s.aon := by simp [State.zeroRings]

@[simp] theorem State.enableChecked_aon (s : State) (c : Nat) : (s.enableChecked c).aon = s.aon := by
  unfold State.enableChecked
  dsimp only
  (repeat' split) <;> simp

@[simp] theorem State.drainEnds_aon (s : State) (c : Nat) : (s.drainEnds c).aon = s.aon := by simp [State.drainEnds]

@[simp] theorem State.timersShift_aon (s : State) : s.timersShift.aon = s.aon := by simp [State.timersShift]

@[simp] theorem State.wakeUp_aon (s : State) : s.wakeUp.aon = s.aon := by simp [State.wakeUp]

@[simp] theorem State.faultAcked_aon (s : State) (id : W32) : (s.faultAcked id).aon = s.aon := by simp [State.faultAcked]

@[simp] theorem State.vspAcked_aon (s : State) (u : Nat) : (s.vspAcked u).aon = s.aon := by simp [State.vspAcked]

@[simp] theorem State.fqHeadWrite_aon (s : State) (v : Nat) : (s.fqHeadWrite v).aon = s.aon := by simp [State.fqHeadWrite]

@[simp] theorem State.peekWord_aon (s : State) : s.peekWord.aon = s.aon := by simp [State.peekWord]

@[simp] theorem State.sharedOff_aon (s : State) : s.sharedOff.aon = s.aon := by simp [State.sharedOff]

@[simp] theorem State.ownerWrite_aon (s : State) (ch : Nat) : (s.ownerWrite ch).aon = s.aon := by simp [State.ownerWrite]

@[simp] theorem State.keyWrite_aon (s : State) (p sl o : Nat) (m v : W64) : (s.keyWrite p sl o m v).aon = s.aon := by
  unfold State.keyWrite
  (repeat' split) <;> simp

@[simp] theorem State.wrote_aon (s : State) (off : Nat) (m v was : W64) : (s.wrote off m v was).aon = s.aon := by simp [State.wrote]

@[simp] theorem State.regWrite_aon (s : State) (off : Nat) (m v : W64) : (s.regWrite off m v).aon = s.aon := by simp [State.regWrite]

@[simp] theorem State.hostWrite_aon (s : State) (off width : Nat) (v : W64) : (s.hostWrite off width v).aon = s.aon := by
  simp [State.hostWrite]

@[simp] theorem State.tailBell_aon (s : State) (c k v : Nat) : (s.tailBell c k v).aon = s.aon := by simp [State.tailBell]

@[simp] theorem State.headBell_aon (s : State) (c k v : Nat) : (s.headBell c k v).aon = s.aon := by simp [State.headBell]

@[simp] theorem State.doorbell_aon (s : State) (page off width v : Nat) : (s.doorbell page off width v).aon = s.aon := by
  simp [State.doorbell]

@[simp] theorem State.readReg_aon (s : State) (off : Nat) : (s.readReg off).2.aon = s.aon := by
  unfold State.readReg
  dsimp only
  (repeat' split) <;> simp

@[simp] theorem State.hostRead_aon (s : State) (off width : Nat) : (s.hostRead off width).2.aon = s.aon := by
  unfold State.hostRead
  dsimp only
  (repeat' split) <;> simp

@[simp] theorem State.readAccess_aon (s : State) (off width : Nat) : (s.readAccess off width).aon = s.aon := by simp [State.readAccess]

@[simp] theorem State.heldAccess_aon (s : State) (x : Nat × Nat × W64) : (s.heldAccess x).aon = s.aon := by simp [State.heldAccess]

-- Machine/Power.lean

@[simp] theorem State.coreReset_aon (s : State) : s.coreReset.aon = s.aon := by simp [State.coreReset]

@[simp] theorem State.spareBank_aon (s : State) (b : Nat) : (s.spareBank b).aon = s.aon := by
  unfold State.spareBank
  split
  · split <;> rfl
  · rfl

@[simp] theorem State.testBanks_aon (s : State) (bs : List Nat) : (s.testBanks bs).aon = s.aon := by
  unfold State.testBanks
  split <;> simp

@[simp] theorem State.spareCol_aon (s : State) (e c : Nat) : (s.spareCol e c).aon = s.aon := by
  unfold State.spareCol
  dsimp only
  (repeat' split) <;> simp

@[simp] theorem State.failUnit_aon (s : State) (u : Nat) : (s.failUnit u).aon = s.aon := by
  unfold State.failUnit
  split <;> simp

@[simp] theorem State.testCols_aon (s : State) (e : Nat) (cs : List Nat) : (s.testCols e cs).aon = s.aon := by simp [State.testCols]

@[simp] theorem State.selfTest_aon (s : State) (failed : List Nat) (keep : Bool) : (s.selfTest failed keep).aon = s.aon := by
  unfold State.selfTest
  dsimp only
  (repeat' split) <;> simp

@[simp] theorem State.bringUp_aon (s : State) (failed : List Nat) : (s.bringUp failed).aon = s.aon := by simp [State.bringUp]

@[simp] theorem State.array_aon (s : State) (kept : Bool) : (s.array kept).aon = s.aon := by simp [State.array]

@[simp] theorem State.powerJudge_aon (s : State) (failed : List Nat) : (s.powerJudge failed).aon = s.aon := by
  unfold State.powerJudge
  dsimp only
  (repeat' split) <;> simp

@[simp] theorem State.sendReady_aon (s : State) : s.sendReady.aon = s.aon := by simp [State.sendReady]

@[simp] theorem State.bringReady_aon (s : State) : s.bringReady.aon = s.aon := by simp [State.bringReady]

@[simp] theorem State.clkRestart_later (s : State) (ns : Nat) : s.aon ≤ (s.clkRestart ns).aon := by
  unfold State.clkRestart
  dsimp only
  split
  · simp
  · simp

@[simp] theorem State.aonReset_aon (s : State) : s.aonReset.aon = s.aon := by simp [State.aonReset]

@[simp] theorem State.writeFails_aon (s : State) (x : Txn) : (s.writeFails x).aon = s.aon := by
  unfold State.writeFails
  dsimp only
  (repeat' split) <;> simp

@[simp] theorem State.entryWritten_aon (s : State) (w : Option Who) : (s.entryWritten w).aon = s.aon := by
  unfold State.entryWritten
  (repeat' split) <;> simp

@[simp] theorem State.recAnswer_aon (s : State) (i : Nat) (x : Txn) (err : Bool) : (s.recAnswer i x err).aon = s.aon := by
  simp [State.recAnswer]

@[simp] theorem State.writeAnswer_aon (s : State) (i : Nat) (err : Bool) : (s.writeAnswer i err).aon = s.aon := by
  unfold State.writeAnswer
  split <;> simp

@[simp] theorem State.readsAnswer_aon (s : State) (pa : Nat) (err : Bool) : (s.readsAnswer pa err).aon = s.aon := by
  simp [State.readsAnswer]

@[simp] theorem State.poisons_aon (s : State) (pa : Nat) (on : Bool) : (s.poisons pa on).aon = s.aon := by simp [State.poisons]

end Sys2Proof.Machine
end

section
/-! What each operation does to the always-on time (O7): received frames and timers. -/

namespace Sys2Proof.Machine

variable {β γ : Type} {now : Nat}

-- Machine/Receive.lean

@[simp] theorem State.takeFrame_aon (s : State) (p : Frame → Bool) {f : Frame → State → State} (hf : ∀ x t, (f x t).aon = t.aon) :
    (s.takeFrame p f).aon = s.aon := by
  unfold State.takeFrame
  split
  · split <;> simp [hf]
  · rfl

@[simp] theorem State.answer_aon (s : State) (typ : Nat) (f : Frame) (seq word : Nat) : (s.answer typ f seq word).aon = s.aon := by
  simp [State.answer]

@[simp] theorem State.modRx_aon (s : State) (i : Nat) (f : RxPair → RxPair) : (s.modRx i f).aon = s.aon := by simp [State.modRx]

@[simp] theorem State.nackSeq_go_aon (s : State) (i : Nat) (x : RxPair) (f : Frame) : (State.nackSeq.go s i x f).aon = s.aon := by
  rw [State.nackSeq.go, State.answer_aon, State.modRx_aon]

@[simp] theorem State.nackSeq_aon (s : State) (i : Nat) (x : RxPair) (f : Frame) : (s.nackSeq i x f).aon = s.aon := by
  unfold State.nackSeq
  (repeat' split) <;> simp

@[simp] theorem State.ackPair_aon (s : State) (i : Nat) (f : Frame) : (s.ackPair i f).aon = s.aon := by
  unfold State.ackPair
  split
  · rw [State.answer_aon, State.modRx_aon]
  · rfl

@[simp] theorem State.acceptFrame_aon (s : State) (i : Nat) (m : Mailbox) (f : Frame) : (s.acceptFrame i m f).aon = s.aon := by
  unfold State.acceptFrame
  extract_lets batch q t write
  have ht : t.aon = s.aon := State.modRx_aon _ _ _
  have hw : Steady s.aon write := by
    simp only [write]
    (repeat' split) <;> simp
  clear_value t write
  split
  · simp only [State.answer_aon, State.sat_frame, ht]
  split
  next e => simp only [State.answer_aon, aon_of_on e ht hw]
  next _ u e =>
    have hu : u.aon = s.aon := aon_of_on e ht hw
    have hv : (if batch = true then u.modRx i (fun x => { x with
          nodeSeq := batchSeq f, runEpoch := BitVec.ofNat 32 (fieldAt f.payload 20 4), repEpoch := BitVec.ofNat 8 (fieldAt f.payload 15 1) })
        else u.addCounter m.counter 1).aon = s.aon := by
      split <;> simp [hu]
    dsimp only
    split
    · split
      · rw [State.ackPair_aon, State.modRx_aon]; exact hv
      · rw [State.modRx_aon]; exact hv
    · rw [State.modRx_aon]; exact hv

@[simp] theorem State.checkFrame_aon (s : State) (i : Nat) (m : Mailbox) (f : Frame) : (s.checkFrame i m f).aon = s.aon := by
  unfold State.checkFrame
  split
  · rfl
  · simp only [aon_ite, State.answer_aon, State.nackSeq_aon, State.acceptFrame_aon, State.sat_frame, ite_self]

@[simp] theorem State.receiveFrame_aon (s : State) (f : Frame) : (s.receiveFrame f).aon = s.aon := by
  unfold State.receiveFrame
  dsimp only
  (repeat' split) <;> simp

@[simp] theorem State.ackDelay_later (s : State) (i : Nat) : s.aon ≤ (s.ackDelay i).aon := by
  unfold State.ackDelay
  split
  · split
    · dsimp only
      simp only [State.inject_frame, State.modRx_aon, State.advanceTo_later]
    · exact Nat.le_refl _
  · exact Nat.le_refl _

@[simp] theorem State.wakeChans_aon (s : State) : s.wakeChans.aon = s.aon := by
  refine aon_foldl fun t ch => ?_
  split <;> simp

@[simp] theorem State.freeLog_aon (s : State) (i seq : Nat) : (s.freeLog i seq).aon = s.aon := by simp [State.freeLog]

@[simp] theorem State.resend_aon (s : State) (i : Nat) (p : Frame → Bool) : (s.resend i p).aon = s.aon := by simp [State.resend]

@[simp] theorem State.acked_aon (s : State) (f : Frame) : (s.acked f).aon = s.aon := by
  unfold State.acked
  split <;> simp

@[simp] theorem State.endSender_aon (s : State) (l : LogFrame) (status detail : Nat) : (s.endSender l status detail).aon = s.aon := by
  unfold State.endSender
  (repeat' split) <;> simp

@[simp] theorem State.renumber_aon (s : State) (i : Nat) : (s.renumber i).aon = s.aon := by
  unfold State.renumber
  split <;> simp

@[simp] theorem State.nackTaken_aon (s : State) (f : Frame) : (s.nackTaken f).aon = s.aon := by
  unfold State.nackTaken
  dsimp only
  (repeat' split) <;> simp

@[simp] theorem State.memberLost_aon (s : State) (m : Nat) : (s.memberLost m).aon = s.aon := by simp [State.memberLost]

@[simp] theorem State.notReadyTaken_aon (s : State) (f : Frame) : (s.notReadyTaken f).aon = s.aon := by
  unfold State.notReadyTaken
  dsimp only
  (repeat' split) <;> simp

@[simp] theorem State.retryPair_later (s : State) (i : Nat) (nack4 : Bool) : s.aon ≤ (s.retryPair i nack4).aon := by
  unfold State.retryPair
  (repeat' split) <;> simp

@[simp] theorem State.readyTaken_aon (s : State) (f : Frame) : (s.readyTaken f).aon = s.aon := by
  refine aon_foldl fun t i => ?_
  split <;> simp

@[simp] theorem State.ackLate_later (s : State) (i : Nat) : s.aon ≤ (s.ackLate i).aon := by
  unfold State.ackLate
  (repeat' split) <;> simp

@[simp] theorem State.nrLimit_later (s : State) (i : Nat) : s.aon ≤ (s.nrLimit i).aon := by
  unfold State.nrLimit
  split
  · split
    · split
      · refine ((aon_foldl fun t ch => ?_).trans (State.modTx_aon _ _ _)).symm ▸ s.advanceTo_later _
        split
        · split <;> simp
        · rfl
      · exact Nat.le_refl _
    · exact Nat.le_refl _
  · exact Nat.le_refl _

@[simp] theorem State.takeReplica_aon (s : State) (rtype : Nat) {f : Nat → List Byte → State → State}
    (hf : ∀ m b t, (f m b t).aon = t.aon) : (s.takeReplica rtype f).aon = s.aon := by
  refine s.takeFrame_aon _ fun x t => ?_
  dsimp only
  split <;> simp [hf]

@[simp] theorem State.digestTaken_aon (s : State) : s.digestTaken.aon = s.aon := by simp [State.digestTaken]

@[simp] theorem State.heartbeatTaken_aon (s : State) : s.heartbeatTaken.aon = s.aon := by simp [State.heartbeatTaken]

@[simp] theorem State.heartbeatSend_aon (s : State) : s.heartbeatSend.aon = s.aon := by simp [State.heartbeatSend]

@[simp] theorem State.memberSilent_later (s : State) (m : Nat) : s.aon ≤ (s.memberSilent m).aon := by
  unfold State.memberSilent
  (repeat' split) <;> simp

@[simp] theorem State.verdictTaken_aon (s : State) : s.verdictTaken.aon = s.aon := by simp [State.verdictTaken]

@[simp] theorem State.ackReportTaken_aon (s : State) : s.ackReportTaken.aon = s.aon := by
  refine s.takeReplica_aon 4 fun m b t => aon_foldl fun u k => ?_
  dsimp only
  split <;> simp

@[simp] theorem State.noticeTaken_aon (s : State) : s.noticeTaken.aon = s.aon := by
  unfold State.noticeTaken
  split <;> simp

@[simp] theorem State.auditEnds_aon (s : State) (ours : List Byte) (evidence : Bool) (others : List (Nat × List Byte × Bool)) :
    (s.auditEnds ours evidence others).aon = s.aon := by
  unfold State.auditEnds
  dsimp only
  (repeat' split) <;> simp

-- Machine/Times.lean

@[simp] theorem State.stuckExpire_later (s : State) (b : Nat) : s.aon ≤ (s.stuckExpire b).aon := by
  unfold State.stuckExpire State.merFault
  dsimp only
  split
  · split <;> simp
  · simp

@[simp] theorem State.silence_later (s : State) (b : Nat) : s.aon ≤ (s.silence b).aon := by
  unfold State.silence
  (repeat' split) <;> simp

@[simp] theorem State.holdExpire_later (s : State) (b : Nat) : s.aon ≤ (s.holdExpire b).aon := by
  unfold State.holdExpire
  (repeat' split) <;> simp

@[simp] theorem State.releaseDue_aon (s : State) (e : Eph) : (s.releaseDue e).aon = s.aon := by
  unfold State.releaseDue
  split <;> simp

theorem State.ephDue_later {s t : State} {idx action : Nat} {e : Eph} (h : s.ephDue idx action = some (e, t)) : s.aon ≤ t.aon := by
  unfold State.ephDue at h
  split at h
  · split at h
    · split at h
      · cases h
        simp
      · cases h
    · cases h
  · cases h

@[simp] theorem State.ephRow_later (s : State) (idx action : Nat) : s.aon ≤ (s.ephRow idx action).aon := by
  unfold State.ephRow
  split
  next e t h =>
    have ht := State.ephDue_later h
    split <;> simpa using ht
  next => exact Nat.le_refl _

@[simp] theorem State.checkFails_aon (s : State) (u cause : Nat) : (s.checkFails u cause).aon = s.aon := by
  unfold State.checkFails
  dsimp only
  (repeat' split) <;> simp

@[simp] theorem State.faultRaise_aon (s : State) (u cause ctx : Nat) (hold : Bool) (merged : Nat) :
    (s.faultRaise u cause ctx hold merged).aon = s.aon := by
  simp [State.faultRaise]

@[simp] theorem State.react_aon (s : State) (f : FaultSt) : (s.react f).aon = s.aon := by
  unfold State.react
  dsimp only
  (repeat' split) <;> simp

@[simp] theorem State.report_aon (s : State) (f : FaultSt) : (s.report f).aon = s.aon := by simp [State.report]

@[simp] theorem State.reactExpire_later (s : State) (id : W32) : s.aon ≤ (s.reactExpire id).aon := by
  unfold State.reactExpire
  dsimp only
  (repeat' split) <;> simp

@[simp] theorem State.twilight_aon (s : State) : s.twilight.aon = s.aon := by simp [State.twilight]

@[simp] theorem State.condEnds_aon (s : State) (u cause : Nat) : (s.condEnds u cause).aon = s.aon := by simp [State.condEnds]

end Sys2Proof.Machine
end

section
/-! Every command leaves the always-on time or moves it on (O7). -/

namespace Sys2Proof.Machine

/-- A next state is at the same time or a later one. -/
def Later (s : State) (o : Out) : Prop := ∀ t, o = .next t → s.aon ≤ t.aon

theorem later_next {s t : State} (h : s.aon ≤ t.aon) : Later s (.next t) := by
  rintro _ ⟨⟩
  exact h
theorem later_fault {s : State} {f : Fault} : Later s (.fault f) := by
  rintro _ ⟨⟩

theorem exec_later (c : Instr) (s : State) : Later s (exec c s) := by
  cases c with
  | coreResetAssert => exact later_next (by simp)
  | coreResetRelease => exact later_next (by simp)
  | bringupReady => exact later_next (by simp)
  | aonResetRelease => exact later_next (by simp)
  | modidReadDone => exact later_next (by simp)
  | modidReadTimeout => exact later_next (by simp)
  | powerInputChange => exact later_next (by simp)
  | thermTrip => exact later_next (by simp)
  | xhClkStop =>
    show Later s (if _ then _ else _)
    split
    · exact later_next (Nat.le_refl _)
    · exact later_fault
  | xhClkRestart => exact later_next (by simp)
  | timeCounterDecrease => exact later_next (by simp)
  | portResponse r => cases r <;> exact later_next (by simp)
  | messageAccept => exact later_next (by simp)
  | registerWrite => exact later_next (by simp)
  | tailDoorbell => exact later_next (by simp)
  | headDoorbell => exact later_next (by simp)
  | enable => exact later_next (by simp)
  | enableCheckComplete => exact later_next (by simp)
  | disable => exact later_next (by simp)
  | drainEnd => exact later_next (by simp)
  | mcEnable => exact later_next (by simp)
  | ownerWrite => exact later_next (by simp)
  | vsOwnerWrite => exact later_next (by simp)
  | fqBaseWrite => exact later_next (by simp)
  | fqHeadWrite => exact later_next (by simp)
  | fqStickyRead => exact later_next (by simp)
  | faultAck => exact later_next (by simp)
  | vesperPendClear => exact later_next (by simp)
  | restart => exact later_next (by simp)
  | retrain => exact later_next (by simp)
  | keyLoad => exact later_next (by simp)
  | keyClear => exact later_next (by simp)
  | ephInsert => exact later_next (by simp)
  | ephRemove => exact later_next (by simp)
  | wake => exact later_next (by simp)
  | peek => exact later_next (by simp)
  | sharedDisable => exact later_next (by simp)
  | sharedClearDone => exact later_next (by split <;> simp)
  | mbEnable => exact later_next (by simp)
  | mbDisable => exact later_next (by simp)
  | fetchTurn => exact later_next (by simp)
  | entryAdmit => exact later_next (by (repeat' split) <;> simp)
  | submitGraph => exact later_next (by simp)
  | runProgram => exact later_next (by simp)
  | createTensor => exact later_next (by simp)
  | destroyTensor => exact later_next (by simp)
  | handleFree => exact later_next (by simp)
  | signal => exact later_next (by simp)
  | wait => exact later_next (by simp)
  | waitSatisfied => exact later_next (by simp)
  | waitTimeout => exact later_next (by simp)
  | scanCheck => exact later_next (by simp)
  | resumeFault => exact later_next (by simp)
  | invalidateXlat => exact later_next (by simp)
  | invalidateXlatDone => exact later_next (by simp)
  | setEpoch => exact later_next (by simp)
  | setEpochDone => exact later_next (by simp)
  | registerMailbox => exact later_next (by simp)
  | nop => exact later_next (by simp)
  | eclipseUnit => exact later_next (by simp)
  | eclipseDone => exact later_next (by simp)
  | reenterUnit => exact later_next (by simp)
  | reenterTestDone => exact later_next (by simp)
  | clearTenant => exact later_next (by simp)
  | clearTenantDone => exact later_next (by simp)
  | setPower => exact later_next (by simp)
  | setPowerQuiesced => exact later_next (by simp)
  | replicaConfig => exact later_next (by simp)
  | setSplit => exact later_next (by simp)
  | lockConfig => exact later_next (by simp)
  | cqStallLimit => exact later_next (by simp)
  | nodeFetch => exact later_next (by simp)
  | nodeRegister => exact later_next (by simp)
  | nodeGrant => exact later_next (by simp)
  | transit => exact later_next (by simp)
  | descriptorCopy => exact later_next (by simp)
  | contract => exact later_next (by simp)
  | vector => exact later_next (by simp)
  | signalNode => exact later_next (by simp)
  | waitNode => exact later_next (by simp)
  | timedNode => exact later_next (by simp)
  | check => exact later_next (by simp)
  | chain => exact later_next (by simp)
  | sliceEnd => exact later_next (by simp)
  | sliceTimeLimit => exact later_next (by simp)
  | nodeComplete => exact later_next (by simp)
  | graphAbandon => exact later_next (by simp)
  | move => exact later_next (by simp)
  | movet => exact later_next (by simp)
  | loop => exact later_next (by simp)
  | waitSlot => exact later_next (by simp)
  | signalSlot => exact later_next (by simp)
  | releasePerform => exact later_next (by simp)
  | fence => exact later_next (by simp)
  | stamp => exact later_next (by simp)
  | nopSlot => exact later_next (by simp)
  | halt => exact later_next (by simp)
  | programComplete => exact later_next (by simp)
  | runaheadPrefetch => exact later_next (by simp)
  | walkComplete => exact later_next (by simp)
  | pfTimeout => exact later_next (by simp)
  | bpTimeout => exact later_next (by simp)
  | creditPeriod => exact later_next (by simp)
  | wcFillReturn => exact later_next (by simp)
  | scrubStep => exact later_next (by simp)
  | partitionClearDone => exact later_next (by simp)
  | spareCopyDone => exact later_next (by simp)
  | add => exact later_next (by simp)
  | sub => exact later_next (by simp)
  | mul => exact later_next (by simp)
  | fma => exact later_next (by simp)
  | min => exact later_next (by simp)
  | max => exact later_next (by simp)
  | abs => exact later_next (by simp)
  | rshift => exact later_next (by simp)
  | cvt => exact later_next (by simp)
  | cmplt => exact later_next (by simp)
  | cmpeq => exact later_next (by simp)
  | select => exact later_next (by simp)
  | exp => exact later_next (by simp)
  | log => exact later_next (by simp)
  | rsqrt => exact later_next (by simp)
  | recip => exact later_next (by simp)
  | rsum => exact later_next (by simp)
  | rmax => exact later_next (by simp)
  | rmin => exact later_next (by simp)
  | softmax => exact later_next (by simp)
  | layernorm => exact later_next (by simp)
  | groupnorm => exact later_next (by simp)
  | argmax => exact later_next (by simp)
  | topk => exact later_next (by simp)
  | scan => exact later_next (by simp)
  | scanmax => exact later_next (by simp)
  | atomadd => exact later_next (by simp)
  | xchg => exact later_next (by simp)
  | frameSlotSend => exact later_next (by simp)
  | frameForward => exact later_next (by simp)
  | data => exact later_next (by simp)
  | batch => exact later_next (by simp)
  | ack => exact later_next (by simp)
  | ackDelayTimeout => exact later_next (by simp)
  | ackTimeout => exact later_next (by simp)
  | nack => exact later_next (by simp)
  | nackRetryTimeout => exact later_next (by simp)
  | notReady => exact later_next (by simp)
  | retryAfterExpiry => exact later_next (by simp)
  | nrLimitTimeout => exact later_next (by simp)
  | ready => exact later_next (by simp)
  | maintenanceFrame => exact later_next (by simp)
  | maintenanceTimeout => exact later_next (by split <;> simp)
  | laneLockLoss => exact later_next (by simp)
  | uncCodewordLimit => exact later_next (by simp)
  | authFailLimit => exact later_next (by simp)
  | trainAligned => exact later_next (by simp)
  | trainTimeout => exact later_next (by (repeat' split) <;> simp)
  | failedRetry => exact later_next (by split <;> simp)
  | linkIdentity => exact later_next (by simp)
  | linkAuth => exact later_next (by simp)
  | keyCounterLimit => exact later_next (by simp)
  | digest => exact later_next (by simp)
  | auditComplete => exact later_next (by simp)
  | heartbeat => exact later_next (by simp)
  | heartbeatPeriod => exact later_next (by simp)
  | memberLostTimeout => exact later_next (by simp)
  | verdict => exact later_next (by simp)
  | memberOut => exact later_next (by simp)
  | ackReport => exact later_next (by simp)
  | meridianEdge => exact later_next (by simp)
  | zIndexEdge => exact later_next (by simp)
  | stuckTimeout => exact later_next (by simp)
  | holdoverEnter => exact later_next (by simp)
  | holdLimit => exact later_next (by simp)
  | ephRelease => exact later_next (by simp)
  | ephAdd => exact later_next (by simp)
  | ephStamp => exact later_next (by simp)
  | ephDeadline => exact later_next (by simp)
  | faultRaise => exact later_next (by simp)
  | faultLineTest => exact later_next (by simp)
  | reactionTimeout => exact later_next (by simp)
  | faultSpill => exact later_next (by simp)
  | twilightEnd => exact later_next (by split <;> simp)
  | pwrEstUpdate => exact later_next (by simp)
  | aonResetAssert => exact later_next (by simp)
  | faultLineClear => exact later_next (by simp)
  | ephCmdDone => exact later_next (by simp)
  | meridianGlitch => exact later_next (by simp)

/-- Settles O7: no operation sets the always-on clock back, and the idle step moves it on. -/
theorem timeNeverGoesBack : Obligations.TimeNeverGoesBack := by
  unfold Obligations.TimeNeverGoesBack
  intro s t ht
  unfold step at ht
  split at ht
  · cases ht
    exact Nat.le_succ _
  · next c rest hq => exact exec_later c { s with pending := rest } t ht

end Sys2Proof.Machine
end

section
/-! How a context is enabled and disabled (O19): writes of `enable`, the end of the check and the end of the drain. -/

namespace Sys2Proof.Machine

variable (s : State)

/-- `enable` is the one field of its register that software writes (R426). -/
theorem specs_enable (t : Fin 8) : Reg.specs (Reg.ten t 0) = [⟨0, 1, .rw, false, 0, 1⟩] := by
  fin_cases t <;> rfl

/-- Any value of a one-bit register is legal (R421). -/
theorem legal_enable (t : Fin 8) (old new : W64) : Reg.legal (Reg.ten t 0) old new = true := by
  have bit0 : bits new.toNat 0 1 ≤ 1 := Nat.le_of_lt_succ (Nat.mod_lt _ (by decide))
  have hole : Reg.hole (Reg.ten t 0) 0 (bits new.toNat 0 1) = false := by fin_cases t <;> rfl
  have share : (Reg.ten t 0 != Reg.bwCfg) = true := by fin_cases t <;> rfl
  simp only [Reg.legal, specs_enable, List.all_cons, List.all_nil, bit0, hole, share, Nat.zero_le, decide_true, Bool.not_false,
    Bool.and_true, Bool.or_true, Bool.true_or]

theorem State.wrote_enable (t : Fin 8) (v was : W64) :
    s.wrote (Reg.ten t 0) (~~~0) v was = s.enableWrite t (bits (v &&& ~~~0).toNat 0 1 == 1) := by
  fin_cases t <;> rfl

/-- A register without E-marked fields takes a write whatever its context does (R420). -/
theorem State.eMarked_none (off : Nat) (ch : W64) (h : Reg.mask off (·.e) = 0) : s.eMarked off ch = false := by
  have none : (ch &&& Reg.mask off (·.e) != 0) = false := by rw [h]; exact bne_eq_false_iff_eq.2 BitVec.and_zero
  unfold State.eMarked
  split
  · rw [none, Bool.false_and]
  · rfl

/-- A write of a tenant's `enable`: the block sets the register itself (R439). -/
theorem State.regWrite_enable (t : Fin 8) (v : W64) : ∃ w, s.regWrite (Reg.ten t 0) (~~~0) v
    = (s.setReg (Reg.ten t 0) w).enableWrite t (bits (v &&& ~~~0).toNat 0 1 == 1) := by
  have noE : Reg.mask (Reg.ten t 0) (·.e) = 0 := by fin_cases t <;> rfl
  have noRwl : Reg.mask (Reg.ten t 0) (·.t == .rwl) = 0 := by fin_cases t <;> rfl
  have low : (0x60000 ≤ Reg.ten t 0 : Bool) = false := by fin_cases t <;> rfl
  have away : Reg.debug (Reg.ten t 0) = false ∧ Reg.ten t 0 ≠ Reg.faultCfg ∧ Reg.ten t 0 ≠ Reg.tmShared ∧ Reg.ten t 0 ≠ Reg.fqBase := by
    fin_cases t <;> decide
  obtain ⟨debug, fault, shared, ring⟩ := away
  have idle : ∀ ch, s.baseLive (Reg.ten t 0) ch = false := fun ch => by simp only [State.baseLive, low, Bool.false_and]
  exact ⟨_, (s.regWrite_accepted (Reg.ten t 0) _ v _ rfl debug (s.eMarked_none _ _ noE) (idle _) (legal_enable t _ _) fault shared
    fun _ => ⟨by rw [noRwl]; exact BitVec.and_zero, ring⟩).trans (State.wrote_enable _ t v _)⟩

/-- Setting the lowest bit leaves the fields above it. -/
theorem bits_or_one (old : W64) (lo w : Nat) (h : 0 < lo) : bits (old ||| 1).toNat lo w = bits old.toNat lo w := by
  refine Nat.eq_of_testBit_eq fun i => ?_
  rw [bits_testBit, bits_testBit, BitVec.toNat_or, Nat.testBit_or, show (1 : W64).toNat = 1 from rfl,
    Nat.testBit_eq_false_of_lt (i := lo + i) (Nat.one_lt_two_pow (by omega)), Bool.or_false]

/-- `mc_enable` set with the other fields of XH_MC_CTRL as they stand is legal (R421). -/
theorem legal_mcEnable (old : W64) : Reg.legal Reg.mcCtrl old (old ||| 1) = true := by
  have specs : Reg.specs Reg.mcCtrl = [⟨0, 1, .rw, false, 0, 1⟩, ⟨2, 2, .rw, false, 0, 3⟩, ⟨16, 10, .rwl, false, 1, 1000⟩] := rfl
  have bit0 : bits (old ||| 1).toNat 0 1 ≤ 1 := Nat.le_of_lt_succ (Nat.mod_lt _ (by decide))
  have hole : Reg.hole Reg.mcCtrl 0 (bits (old ||| 1).toNat 0 1) = false := rfl
  have share : (Reg.mcCtrl != Reg.bwCfg) = true := rfl
  simp only [Reg.legal, specs, List.all_cons, List.all_nil, bit0, hole, share, bits_or_one old 2 2 (by decide),
    bits_or_one old 16 10 (by decide), beq_self_eq_true, Nat.zero_le, decide_true, Bool.not_false, Bool.and_true, Bool.or_true, Bool.true_or]

/-- A write of the lower half that sets bits of it. -/
theorem write_or (a b m : W64) (h : b &&& m = b) : (a &&& ~~~m) ||| ((a ||| b) &&& m) = a ||| b := by
  refine BitVec.eq_of_getLsbD_eq fun i hi => ?_
  have hb := congrArg (·.getLsbD i) h
  simp only [BitVec.getLsbD_or, BitVec.getLsbD_and, BitVec.getLsbD_not, hi, decide_true, Bool.true_and] at hb ⊢
  revert hb
  cases a.getLsbD i <;> cases b.getLsbD i <;> cases m.getLsbD i <;> decide

/-- The bits that change when bits are set lie among those. -/
theorem changed_or (a b m : W64) (h : b &&& m = 0) : (a ^^^ (a ||| b)) &&& m = 0 := by
  refine BitVec.eq_of_getLsbD_eq fun i hi => ?_
  have hb := congrArg (·.getLsbD i) h
  simp only [BitVec.getLsbD_or, BitVec.getLsbD_and, BitVec.getLsbD_xor] at hb ⊢
  revert hb
  cases a.getLsbD i <;> cases b.getLsbD i <;> cases m.getLsbD i <;> simp

/-- A write of `mc_enable` 1 (R439). -/
theorem State.regWrite_mcEnable : ∃ w, s.regWrite Reg.mcCtrl 0xFFFFFFFF (s.reg Reg.mcCtrl ||| 1)
    = (s.setReg Reg.mcCtrl w).enableWrite 8 true := by
  have rwl : (1 : W64) &&& Reg.mask Reg.mcCtrl (·.t == .rwl) = 0 := by decide
  have one : bits ((s.reg Reg.mcCtrl ||| 1) &&& 0xFFFFFFFF : W64).toNat 0 1 = 1 := by
    refine Nat.eq_of_testBit_eq fun i => ?_
    rw [bits_testBit]
    cases i with
    | zero => simp [BitVec.toNat_and, BitVec.toNat_or]
    | succ i => simp [Nat.testBit_succ]
  have wrote : ∀ (u : State) (was : W64), u.wrote Reg.mcCtrl 0xFFFFFFFF (s.reg Reg.mcCtrl ||| 1) was = u.enableWrite 8 true := by
    intro u was
    show u.enableWrite 8 (bits ((s.reg Reg.mcCtrl ||| 1) &&& 0xFFFFFFFF : W64).toNat 0 1 == 1) = _
    rw [one, beq_self_eq_true]
  exact ⟨_, (s.regWrite_accepted Reg.mcCtrl _ _ _ (write_or _ _ _ (by decide)) rfl rfl rfl (legal_mcEnable _) (by decide) (by decide)
    fun _ => ⟨changed_or _ _ _ rwl, by decide⟩).trans (wrote _ _)⟩

@[simp] theorem State.ctx_modCtx (c : Nat) (f : Ctx → Ctx) : (s.modCtx c f).ctx c = f (s.ctx c) := s.ctx_setCtx c _

theorem State.ctx_modCtx_ne (c : Nat) (f : Ctx → Ctx) (k : Nat) (h : k ≠ c) : (s.modCtx c f).ctx k = s.ctx k :=
  s.ctx_setCtx_ne c k _ h.symm

/-- A write of 1 to the `enable` of a disabled context begins its check (R439). -/
theorem State.enableWrite_disabled (c : Nat) (h : (s.ctx c).phase = .disabled) :
    s.enableWrite c true = (s.modCtx c (fun x => { x with phase := .checking })).setFld (F.cfgErr c) 0 := by
  unfold State.enableWrite
  rw [h]

/-- A write of 0 to the `enable` of an enabled context begins its drain (R44). -/
theorem State.enableWrite_enabled (c : Nat) (h : (s.ctx c).phase = .enabled) : s.enableWrite c false
    = ((s.modCtx c (fun x => { x with phase := .draining })).setFld (F.enable c) 0).setFld (F.draining c) 1 := by
  unfold State.enableWrite
  rw [h]

/-- A field that holds the value reads it back (R6). -/
theorem State.fld_setFld_fits (f : Fld) (v : Nat) (hf : f.lo + f.w ≤ 64) (hv : v < 2 ^ f.w) : (s.setFld f v).fld f = v :=
  (s.fld_setFld_self f v hf).trans (Nat.mod_eq_of_lt hv)

theorem cfgErr_fits (c : Nat) : (F.cfgErr c).lo + (F.cfgErr c).w ≤ 64 ∧ (F.cfgErr c).w = 4 := by
  unfold F.cfgErr
  split <;> simp

theorem enable_fits (c : Nat) : (F.enable c).lo + (F.enable c).w ≤ 64 ∧ (F.enable c).w = 1 := by
  unfold F.enable
  split <;> simp [F.mcEnable]

theorem draining_fits (c : Nat) : (F.draining c).lo + (F.draining c).w ≤ 64 ∧ (F.draining c).w = 1 := by
  unfold F.draining
  split <;> simp

/-- `enable` and `draining` of a context lie in different registers (R426, R427). -/
theorem draining_off_enable (c : Nat) : (F.draining c).off ≠ (F.enable c).off := by
  unfold F.draining F.enable
  split
  · decide
  · simp [Reg.ten]

/-- The check of a disabled context begins (R439). -/
theorem State.checkBegins (c : Nat) (h : (s.ctx c).phase = .disabled) :
    ((s.enableWrite c true).ctx c).phase = .checking ∧ (s.enableWrite c true).fld (F.cfgErr c) = 0
      ∧ ∀ k, k ≠ c → (s.enableWrite c true).ctx k = s.ctx k := by
  rw [s.enableWrite_disabled c h]
  refine ⟨?_, State.fld_setFld_fits _ _ _ (cfgErr_fits c).1 (Nat.two_pow_pos _), fun k hk => by simp only [State.setFld_frame, s.ctx_modCtx_ne c _ k hk]⟩
  simp only [State.setFld_frame, State.ctx_modCtx]

/-- The drain of an enabled context begins (R44). -/
theorem State.drainBegins (c : Nat) (h : (s.ctx c).phase = .enabled) :
    ((s.enableWrite c false).ctx c).phase = .draining ∧ (s.enableWrite c false).fld (F.enable c) = 0
      ∧ (s.enableWrite c false).fld (F.draining c) = 1 ∧ ∀ k, k ≠ c → (s.enableWrite c false).ctx k = s.ctx k := by
  obtain ⟨fits, one⟩ := draining_fits c
  rw [s.enableWrite_enabled c h]
  refine ⟨?_, ?_, State.fld_setFld_fits _ _ _ fits (by rw [one]; decide), fun k hk => by simp only [State.setFld_frame, s.ctx_modCtx_ne c _ k hk]⟩
  · simp only [State.setFld_frame, State.ctx_modCtx]
  · rw [State.fld_setFld_off _ _ _ _ (draining_off_enable c), State.fld_setFld_fits _ _ _ (enable_fits c).1 (Nat.two_pow_pos _)]

theorem State.debit_ctx (c t z : Nat) : (s.debit c t z).ctx = s.ctx := by
  obtain ⟨credit, owed, h⟩ := s.debit_lit c t z
  rw [h]
  rfl

theorem State.zeroRings_ctx (c : Nat) : (s.zeroRings c).ctx = s.ctx := proj_foldl fun _ _ _ => rfl

/-- A check that passes enables its context (R43, R439). -/
theorem State.enableChecked_passes (c : Nat) (hx : s.phase = .x0) (hr : s.pins.clkRun = true) (hp : (s.ctx c).phase = .checking)
    (h : s.enableCheck c = 0) : ((s.enableChecked c).ctx c).phase = .enabled ∧ (s.enableChecked c).fld (F.enable c) = 1
      ∧ ∀ k, k ≠ c → (s.enableChecked c).ctx k = s.ctx k := by
  obtain ⟨fits, one⟩ := enable_fits c
  unfold State.enableChecked
  rw [if_pos (by simp [hx, hr, hp]), h]
  extract_lets xl t
  have paid : t.ctx = s.ctx := proj_foldl fun u _ _ => u.debit_ctx 3 8 64
  clear_value t xl
  have zeroed := t.zeroRings_ctx c
  generalize t.zeroRings c = u at zeroed ⊢
  have set : (u.setFld (F.enable c) 1).fld (F.enable c) = 1 := State.fld_setFld_fits _ _ _ fits (by rw [one]; decide)
  refine ⟨?_, set, fun k hk => ?_⟩
  · simp only [State.ctx_modCtx]
  · simp only [State.ctx_modCtx_ne _ c _ k hk, State.setFld_frame, zeroed, paid]

/-- A check that fails leaves its code, and the context disabled (R43, R439). -/
theorem State.enableChecked_fails (c : Nat) (hx : s.phase = .x0) (hr : s.pins.clkRun = true) (hp : (s.ctx c).phase = .checking)
    (h : s.enableCheck c ≠ 0) : ((s.enableChecked c).ctx c).phase = .disabled ∧ (s.enableChecked c).fld (F.cfgErr c) = s.enableCheck c % 16
      ∧ ∀ k, k ≠ c → (s.enableChecked c).ctx k = s.ctx k := by
  obtain ⟨fits, four⟩ := cfgErr_fits c
  unfold State.enableChecked
  rw [if_pos (by simp [hx, hr, hp])]
  split
  · next h0 => exact absurd h0 h
  · refine ⟨?_, (State.fld_setFld_self _ _ _ fits).trans (by rw [four]; rfl), fun k hk => by simp only [State.setFld_frame, s.ctx_modCtx_ne c _ k hk]⟩
    simp only [State.setFld_frame, State.ctx_modCtx]

/-- A drained context is disabled, or checked again (R44, R439). -/
theorem State.drainEnds_drained (c : Nat) (hx : s.phase = .x0) (hr : s.pins.clkRun = true) (hp : (s.ctx c).phase = .draining)
    (hd : s.ctxDrained c = true) : ((s.drainEnds c).ctx c).phase = (if (s.ctx c).reEnable then .checking else .disabled)
      ∧ (s.drainEnds c).fld (F.draining c) = 0 ∧ ∀ k, k ≠ c → (s.drainEnds c).ctx k = s.ctx k := by
  unfold State.drainEnds
  rw [if_pos (by simp [hx, hr, hp, hd])]
  refine ⟨?_, State.fld_setFld_fits _ _ _ (draining_fits c).1 (Nat.two_pow_pos _), fun k hk => by simp only [State.setFld_frame, s.ctx_modCtx_ne c _ k hk]⟩
  simp only [State.setFld_frame, State.ctx_modCtx]

theorem State.hostWrite_enable (t : Fin 8) (v : W64) (hw : s.windowOpen = true) (hc : s.pins.clkRun = true) :
    ∃ w, s.hostWrite (Reg.ten t 0) 8 v = (s.setReg (Reg.ten t 0) w).enableWrite t (bits (v &&& ~~~0).toNat 0 1 == 1) := by
  have place : Reg.ten t 0 % 8 = 0 ∧ Reg.ten t 0 < 0x100000 := by fin_cases t <;> decide
  obtain ⟨w, step⟩ := s.regWrite_enable t v
  exact ⟨w, (s.hostWrite_word _ v hw hc place.1 place.2).trans step⟩

/-- Settles O19: each row is a write of `enable` or the end of a check or a drain, and says what its context becomes. -/
theorem enableChecksAndDrains : Obligations.EnableChecksAndDrains := by
  unfold Obligations.EnableChecksAndDrains
  intro s hc
  refine ⟨fun t hw hp => ?_, fun hw hp => ?_, fun t hw hp => ?_, fun c hx hp => ?_, fun c hx hp hd => ?_⟩
  · obtain ⟨w, step⟩ := s.hostWrite_enable t 1 hw hc
    exact ⟨_, congrArg Host.Outcome.next step, (s.setReg (Reg.ten t 0) w).checkBegins t hp⟩
  · obtain ⟨w, step⟩ := s.regWrite_mcEnable
    exact ⟨_, congrArg Host.Outcome.next ((s.hostWrite_low _ _ hw hc rfl (by decide)).trans step), (s.setReg Reg.mcCtrl w).checkBegins 8 hp⟩
  · obtain ⟨w, step⟩ := s.hostWrite_enable t 0 hw hc
    exact ⟨_, congrArg Host.Outcome.next step, (s.setReg (Reg.ten t 0) w).drainBegins t hp⟩
  · refine ⟨_, rfl, ?_⟩
    by_cases h : s.enableCheck c = 0
    · obtain ⟨hphase, hfld, hctx⟩ := s.enableChecked_passes c hx hc hp h
      exact ⟨fun _ => ⟨hphase, hfld⟩, fun hn => absurd h hn, hctx⟩
    · obtain ⟨hphase, hfld, hctx⟩ := s.enableChecked_fails c hx hc hp h
      exact ⟨fun h0 => absurd h0 h, fun _ => ⟨hphase, hfld⟩, hctx⟩
  · exact ⟨_, rfl, s.drainEnds_drained c hx hc hp hd⟩

end Sys2Proof.Machine
end

section
/-! A refutation of `Obligations.StallsCreditAndCaches` (O50). Its clause on CQ_STALL_LIMIT promises the event of a stall that is enabled.
While a CLEAR_TENANT of the tenant is under way its vector sends nothing (R42), and the clause does not ask for the clear to be over.
The tenant may be enabled again meanwhile (R439, log entry 64), so that its records can wait for a slot. -/

namespace Sys2Proof.Machine

/-- No event arises on the vector of a tenant that is being cleared (R42). -/
theorem State.event_muted (s : State) (v : Nat) (h : s.muted v = true) : s.event v = s := by
  unfold State.event
  rw [h, Bool.or_true, if_pos rfl]

/-- X0 with tenant 0 enabled again while its CLEAR_TENANT is under way, its vector enabled, and a record that waits since the moment 0. -/
def stallsWhileCleared : State :=
  ({ State.reset with phase := .x0 }.setFld (irqFld Reg.irqEn 64) 1).setCtx 0
    { phase := .enabled, clearing := some 0, waitAt := some 0
      holdQ := [{ ctx := 0, cq := 0, sq := 0, status := 1, tag := 0, opcode := 0x0C, detail := 0, result := 0, irq := false }] }

/-- The stall of `stallsWhileCleared` as it is told, without its event. -/
def toldWhileCleared : State :=
  (stallsWhileCleared.advanceTo (1000000 * stallsWhileCleared.fld (F.cqStallLimit 0))).modCtx 0 (fun x => { x with stallTold := true })

theorem cqStall_whileCleared : stallsWhileCleared.cqStall 0 = toldWhileCleared := by
  have told : stallsWhileCleared.cqStall 0 = toldWhileCleared.event 64 := by decide +kernel
  rw [told, State.event_muted _ _ (by decide +kernel)]

/-- Refutes O50: in `stallsWhileCleared` the stall of tenant 0 is told without an event, for a CLEAR_TENANT mutes vector 64. -/
theorem not_stallsCreditAndCaches : ¬ Obligations.StallsCreditAndCaches := by
  intro h
  obtain ⟨stallLimit, -⟩ := h stallsWhileCleared
  obtain ⟨t, ht, -, -, -, -, event⟩ := stallLimit 0 0 (by decide) (by decide) (by decide)
  obtain rfl : stallsWhileCleared.cqStall 0 = t := Host.Outcome.next.inj ht
  have arisen := event (by decide)
  rw [cqStall_whileCleared] at arisen
  exact absurd arisen (by decide +kernel)

end Sys2Proof.Machine
end

section
/-! A refutation of `Obligations.EntriesAreFetchedAndAdmitted` (O34). Its clause on a refused entry says that no other context changes,
and lets the context's hold queue hold any record. The refused entry's own record is written behind those that wait (R65), and a record
of CREATE_TENSOR brings its handle into use in the context that it names (R96). The block queues a record with its own context alone
(`State.emit`); a premise that every waiting record names the context in whose queue it stands is what the clause lacks. -/

namespace Sys2Proof.Machine

/-- The record of a CREATE_TENSOR of tenant 1. -/
def recOfTenant1 : Rec :=
  { ctx := 1, cq := 0, sq := 0, status := 1, tag := 0, opcode := 3, detail := 0, result := 0, irq := false
    after := .handle { h := 0, d := descOf [] } }

/-- An entry that the first check of R59 refuses. -/
def entryOfOpcode0 : Entry := { id := 0, sq := 0, bytes := [] }

/-- X0 with tenant 0 enabled, 64 free slots in its ring CQ0, `entryOfOpcode0` fetched, and `recOfTenant1` in its hold queue. -/
def holdsForeignRecord : State :=
  ({ State.reset with phase := .x0 }.setFld (F.cqLog2 0 0) 6).setCtx 0
    { phase := .enabled, fetched := [entryOfOpcode0], holdQ := [recOfTenant1] }

theorem holdsForeignRecord_admissible : holdsForeignRecord.admissible 0 0 = some entryOfOpcode0 := by decide +kernel

theorem holdsForeignRecord_refuses : holdsForeignRecord.entryCheck 0 entryOfOpcode0 = some (0x10, 0) := by decide +kernel

theorem holdsForeignRecord_handles : (holdsForeignRecord.ctx 1).handles = [] := by decide +kernel

theorem admitEntry_holdsForeignRecord :
    ((holdsForeignRecord.admitEntry 0 entryOfOpcode0).ctx 1).handles = [{ h := 0, d := descOf [] }] := by decide +kernel

/-- The row admits the entry that its ring may admit (R56). -/
theorem exec_entryAdmit (s : State) (c : Fin 9) (k : Fin 16) (e : Entry) (he : s.engines = true) (ha : s.admissible c k = some e) :
    exec (.entryAdmit c k) s = .next (s.admitEntry c e) := by
  refine congrArg Host.Outcome.next ?_
  rw [if_pos he, ha]

/-- Refutes O34: in `holdsForeignRecord` the refusal of tenant 0's entry gives tenant 1 a handle. -/
theorem not_entriesAreFetchedAndAdmitted : ¬ Obligations.EntriesAreFetchedAndAdmitted := by
  intro h
  obtain ⟨-, -, refused⟩ := h holdsForeignRecord
  obtain ⟨t, ht, -, -, -, -, others⟩ := refused 0 0 entryOfOpcode0 0x10 0 (by decide) holdsForeignRecord_admissible holdsForeignRecord_refuses
  have admitted := exec_entryAdmit holdsForeignRecord 0 0 entryOfOpcode0 (by decide) holdsForeignRecord_admissible
  obtain rfl : holdsForeignRecord.admitEntry 0 entryOfOpcode0 = t := Host.Outcome.next.inj (admitted.symm.trans ht)
  have same := congrArg Ctx.handles (others 1 (by decide))
  rw [admitEntry_holdsForeignRecord, holdsForeignRecord_handles] at same
  exact absurd same (by decide)

end Sys2Proof.Machine
end

section
/-! Entries that start graphs (O35). -/

namespace Sys2Proof.Machine

variable (s : State)

/-- A row of an entry runs the oldest admitted one of its opcode (log entry 12). -/
theorem State.take_oldest (c op : Nat) (f : Entry → State) (e : Entry) (he : s.engines = true) (ho : s.oldest c op = some e) :
    s.take c op f = f e := by
  unfold State.take
  rw [if_neg (by simp [he]), ho]

/-- The step of an entry has run: the entry is marked, and stays (R56). -/
theorem State.start_entries (c : Nat) (e : Entry) : ((s.start c e).ctx c).entries
    = (s.ctx c).entries.map (fun y => if y.id == e.id then { y with started := true } else y) := by
  rw [State.start, State.ctx_modCtx]

/-- The graph that a SUBMIT_GRAPH entry starts: its nodes are still to be fetched (R57, R68). -/
def submitted (t : Nat) (e : Entry) : Graph :=
  { id := e.id, ctx := t, sq := e.sq, tag := e.tag, irq := e.irq, quiet := e.quiet, xva := e.field 8 8, count := e.field 16 4, prio := e.field 20 1 }

theorem State.submitGraph_oldest (t : Nat) (e : Entry) (he : s.engines = true) (ho : s.oldest t 0x01 = some e) :
    s.submitGraph t = { s.start t e with graphs := s.graphs ++ [submitted t e] } := s.take_oldest t 0x01 _ e he ho

/-- The graph of one node that an entry starts (R122, R367). -/
def oneNodeGraph (t : Nat) (e : Entry) (n : Node) : Graph :=
  { id := e.id, ctx := t, sq := e.sq, tag := e.tag, irq := e.irq, quiet := e.quiet, xva := 0, count := 1, prio := 0,
    entryOnly := true, nodes := [{ n with st := .registered, age := some e.age }], fetchedN := 1 }

theorem State.oneNode_graphs (t : Nat) (e : Entry) (n : Node) : (s.oneNode t e n).graphs = s.graphs ++ [oneNodeGraph t e n] := rfl

/-- The first byte of a structure, as a number (R4). -/
theorem fieldAt_first (b : Byte) (l : List Byte) : fieldAt (b :: l) 0 1 = b.toNat := by
  simp [fieldAt, slice, le]

/-- The node of a RUN_PROGRAM entry is a TRANSIT node (R72, R122). -/
theorem kind_runBytes (e : Entry) (n : Node) (h : n.bytes = runBytes e) : n.kind = 1 := by
  have transit : ∃ l, runBytes e = leBytes 1 1 ++ l := by
    simp only [runBytes, List.append_assoc, List.append_cancel_left_eq, exists_eq']
  obtain ⟨l, hl⟩ := transit
  rw [Node.kind, Node.field, h, hl]
  exact congrArg (bits · 0 4) (fieldAt_first 1 l)

/-- RUN_PROGRAM that passes its scan and fits its slices (R122, R123). -/
theorem State.runProgram_scanned (t : Nat) (e : Entry) (s1 : State) (slots : List (List Byte)) (l : List Nat) (he : s.engines = true)
    (ho : s.oldest t 0x02 = some e) (hscan : (progScan (entryReq t e) (e.field 8 8) (e.field 16 2)).on s = (.ok slots, s1))
    (hfit : fillSlices (256 * s.sliceLimit t) (progCosts (s1.handle t) slots) 0 0 = some l) :
    s.runProgram t = s1.oneNode t e { idx := 0, bytes := runBytes e, seq := 0, prog := slots, slices := l } := by
  refine (s.take_oldest t 0x02 _ e he ho).trans ?_
  rw [hscan]
  dsimp only
  rw [hfit]

/-- SCAN_CHECK that fits its slices (R367). -/
theorem State.scanEntry_fits (t : Nat) (e : Entry) (n : Node) (l : List Nat) (he : s.engines = true) (ho : s.oldest t 0x07 = some e)
    (hn : n = { idx := 0, bytes := scanBytes e, seq := 0 })
    (hfit : fillSlices (256 * s.sliceLimit t) ((List.range n.ckCount).map (fun i => 256 * checkCost n.ckStart n.ckLen i)) 0 0 = some l) :
    s.scanEntry t = s.oneNode t e { n with slices := l } := by
  refine (s.take_oldest t 0x07 _ e he ho).trans ?_
  extract_lets m
  obtain rfl : n = m := hn
  rw [hfit]

/-- Settles O35: each row ends in the state with one graph more. -/
theorem graphEntriesStartGraphs : Obligations.GraphEntriesStartGraphs := by
  unfold Obligations.GraphEntriesStartGraphs
  intro s t e he
  refine ⟨fun ho => ?_, fun s1 slots l ho hscan hfit => ?_, fun l ho hfit => ?_⟩
  · refine ⟨_, congrArg Host.Outcome.next (s.submitGraph_oldest t e he ho), List.dropLast_concat, ?_, ?_⟩
    · simp only [List.getLast?_concat, Option.map_some, submitted]
    · exact s.start_entries t e
  · refine ⟨_, congrArg Host.Outcome.next (s.runProgram_scanned t e s1 slots l he ho hscan hfit), ?_⟩
    rw [State.oneNode_graphs]
    refine ⟨List.dropLast_concat, ?_, ?_⟩
    · simp only [List.getLast?_concat, Option.map_some, oneNodeGraph]
    · simp only [List.getLast?_concat, Option.map_some, oneNodeGraph, List.map_cons, List.map_nil]
      rw [kind_runBytes e _ rfl]
  · refine ⟨_, congrArg Host.Outcome.next (s.scanEntry_fits t e _ l he ho rfl hfit), ?_⟩
    rw [State.oneNode_graphs]
    refine ⟨List.dropLast_concat, ?_, ?_⟩
    · simp only [List.getLast?_concat, Option.map_some, oneNodeGraph]
    · simp only [List.getLast?_concat, Option.map_some, oneNodeGraph, List.map_cons, List.map_nil]

end Sys2Proof.Machine
end

section
/-! The completion of an entry in any context (R60, R62, R65): what it leaves alone, and the one write of its record where the ring has a
slot (O33). -/

namespace Sys2Proof.Machine

variable (s : State)

/-- What the completion of an entry leaves alone but for the entry itself: the entries of every context, and the state without registers,
contexts, the writes and the credit that they draw on, and the locks. -/
def State.work (s : State) : (Nat → List Entry) × State :=
  (fun c => (s.ctx c).entries,
   { s with regs := [], ctxs := [], txns := [], credit := [], owed := [], wc := [], wcFills := [], relay := {}, coreLock := false })

theorem State.modCtx_work (c : Nat) (f : Ctx → Ctx) (hf : ∀ x, (f x).entries = x.entries) : (s.modCtx c f).work = s.work := by
  refine Prod.ext (funext fun k => ?_) rfl
  by_cases hk : k = c
  · subst hk
    exact (congrArg Ctx.entries (s.ctx_modCtx k f)).trans (hf _)
  · exact congrArg Ctx.entries (s.ctx_modCtx_ne c f k hk)

theorem State.issue_work : s.issue.work = s.work := by
  have h := s.issue_unissued
  have hctx : s.issue.ctxs = s.ctxs := (congrArg State.ctxs h :)
  refine Prod.ext (funext fun k => ?_)
    (congrArg (fun t : State => { t with ctxs := [], txns := [], relay := ({} : Relay), coreLock := false }) h :)
  simp only [State.work, State.ctx, hctx]

theorem State.setReg_work (o : Nat) (v : W64) : (s.setReg o v).work = s.work := rfl

theorem State.setFld_work (f : Fld) (v : Nat) : (s.setFld f v).work = s.work := rfl

theorem State.dbgOff_work : s.dbgOff.work = s.work := by
  unfold State.dbgOff
  refine (proj_foldl (p := State.work) fun v w _ => v.setReg_work _ _).trans ?_
  rw [State.setReg_work, State.setReg_work]

theorem State.lockNow_work (flags : Nat) : (s.lockNow flags).work = s.work := by
  unfold State.lockNow
  extract_lets dbg r t u v
  have ht : t.work = s.work := rfl
  clear_value t
  have hu : u.work = t.work := coll_ite (g := State.work) ((State.setFld_work _ _ _).trans t.dbgOff_work) rfl
  clear_value u
  have hv : v.work = u.work := by rw [State.setFld_work, State.setFld_work, State.setFld_work]
  exact hv.trans (hu.trans ht)

theorem State.afterRec_work (c : Nat) (a : After) : (s.afterRec c a).work = s.work := by
  cases a with
  | none => rfl
  | handle x => exact s.modCtx_work c _ fun _ => rfl
  | lock flags => exact s.lockNow_work flags

theorem State.writeRec_work (r : Rec) : (s.writeRec r).work = s.work :=
  (State.afterRec_work _ _ _).trans (State.issue_work _)

theorem flushOne_work (c : Nat) (l : List Rec) (p : State × List Rec) : (l.foldl (flushOne c) p).1.work = p.1.work := by
  induction l generalizing p with
  | nil => rfl
  | cons r l ih =>
    refine (ih _).trans ?_
    unfold flushOne
    split
    · exact p.1.writeRec_work r
    · rfl

theorem State.flushRecs_work (c : Nat) : (s.flushRecs c).work = s.work := by
  rw [State.flushRecs_eq]
  have h := flushOne_work c ((s.ctx c).holdQ ++ (s.ctx c).held) (s, [])
  generalize ((s.ctx c).holdQ ++ (s.ctx c).held).foldl (flushOne c) (s, []) = p at h ⊢
  exact (p.1.modCtx_work c (fun x => x.waiting p.2 p.1.aon) fun _ => rfl).trans h

theorem State.emit_work (r : Rec) : (s.emit r).work = s.work := by
  unfold State.emit
  refine coll_ite rfl ((State.flushRecs_work _ _).trans (s.modCtx_work _ _ fun x => ?_))
  split <;> rfl

/-- A context without an entry. -/
def Ctx.without (x : Ctx) (id : Nat) : Ctx := { x with entries := x.entries.filter (·.id != id) }

/-- The completion of an entry is, beside its record, its leaving the context (R60). -/
theorem State.finish_work (c : Nat) (e : Entry) (status detail result : Nat) :
    (s.finish c e status detail result).work = (s.modCtx c (·.without e.id)).work := by
  unfold State.finish
  dsimp only
  split
  · rfl
  · exact State.emit_work _ _

theorem State.finish_still (c : Nat) (e : Entry) (status detail result : Nat) :
    (s.finish c e status detail result).graphs = s.graphs ∧ (s.finish c e status detail result).tile = s.tile
    ∧ (s.finish c e status detail result).counters = s.counters ∧ (s.finish c e status detail result).waits = s.waits
    ∧ ∀ x ∈ ((s.finish c e status detail result).ctx c).entries, x.id ≠ e.id := by
  have h := s.finish_work c e status detail result
  have rest := congrArg Prod.snd h
  refine ⟨(congrArg State.graphs rest :), (congrArg State.tile rest :), (congrArg State.counters rest :), (congrArg State.waits rest :),
    fun x hx => ?_⟩
  have entries : ((s.finish c e status detail result).ctx c).entries = ((s.modCtx c (·.without e.id)).ctx c).entries :=
    congrFun (congrArg Prod.fst h) c
  rw [entries, State.ctx_modCtx] at hx
  simpa using (List.mem_filter.1 hx).2

/-- What a write of the last transaction shows but for whether its port has issued it. -/
theorem State.issue_last {β : Type} (g : Txn → β) (hg : ∀ x, g { x with sent := false } = g x) :
    s.issue.txns.getLast?.map g = s.txns.getLast?.map g := by
  have h : s.issue.txns.map g = s.txns.map g := by
    have ht := congrArg (fun t => t.txns.map g) s.issue_unissued
    have blind : (g ∘ fun x : Txn => { x with sent := false }) = g := funext hg
    simpa only [State.unissued, List.map_map, blind] using ht
  rw [← List.getLast?_map, ← List.getLast?_map, h]

theorem State.issue_ctx : s.issue.ctx = s.ctx := by
  have h : s.issue.ctxs = s.ctxs := (congrArg State.ctxs s.issue_unissued :)
  unfold State.ctx
  rw [h]

/-- A record that is written takes the next slot of its ring (R60, R62). -/
theorem State.writeRec_slot (r : Rec) (ha : r.after = .none) :
    (s.writeRec r).fld (F.cqTail r.ctx r.cq) = (s.fld (F.cqTail r.ctx r.cq) + 1) % 2 ^ 32
    ∧ (s.writeRec r).txns.getLast?.map (fun x => (x.isRec, x.ctx, x.stage, x.bytes))
      = some (true, r.ctx, 1, r.bytes (if s.fld (F.cqTail r.ctx r.cq) / 2 ^ s.fld (F.cqLog2 r.ctx r.cq) % 2 = 0 then 1 else 0)
          (s.stampFor r.ctx) (s.fld (F.cqTail r.ctx r.cq) % 65536))
    ∧ (s.writeRec r).ctx = s.ctx := by
  unfold State.writeRec
  extract_lets tail log a ev b
  rw [ha]
  refine ⟨State.fld_setFld_self _ _ _ (by simp [F.cqTail]), ?_, ?_⟩
  · show (State.issue _).txns.getLast?.map _ = _
    rw [State.issue_last _ _ fun _ => rfl, List.getLast?_concat]
    rfl
  · exact State.issue_ctx _

/-- A context in whose hold queue one record stands (R65). -/
def Ctx.holding (x : Ctx) (r : Rec) : Ctx := { x with holdQ := [r] }

/-- A record that is due meets a free slot, with none before it (R65). -/
theorem State.emit_free (r : Rec) (hf : s.coll.fatal = false) (hq : (s.ctx r.ctx).holdQ = []) (hh : (s.ctx r.ctx).held = [])
    (hc : s.cqFree r.ctx r.cq = true) : s.emit r
      = ((s.modCtx r.ctx (·.holding r)).writeRec r).modCtx r.ctx (fun x => x.waiting []
          ((s.modCtx r.ctx (·.holding r)).writeRec r).aon) := by
  have queued : s.modCtx r.ctx (fun x => if x.holdQ.length < 64 then { x with holdQ := x.holdQ ++ [r] } else { x with held := x.held ++ [r] })
      = s.modCtx r.ctx (·.holding r) := by
    refine congrArg (s.setCtx r.ctx) ?_
    dsimp only
    rw [hq]
    rfl
  have waits : ((s.modCtx r.ctx (·.holding r)).ctx r.ctx).holdQ ++ ((s.modCtx r.ctx (·.holding r)).ctx r.ctx).held
      = [r] := by
    rw [State.ctx_modCtx, Ctx.holding, hh]
    rfl
  have slot : (s.modCtx r.ctx (·.holding r)).cqFree r.ctx r.cq = true := hc
  have alive : (s.modCtx r.ctx (·.holding r)).coll.fatal = false := hf
  unfold State.emit
  rw [if_neg (by simp [hf]), queued, State.flushRecs_eq, waits]
  generalize s.modCtx r.ctx (·.holding r) = u at slot alive
  have one : [r].foldl (flushOne r.ctx) (u, []) = (u.writeRec r, []) := if_pos (by simp [slot, alive])
  rw [one]

/-- A record that is due and meets a free slot is written there, and no other context changes (R60, R65). -/
theorem State.emit_slot (r : Rec) (hf : s.coll.fatal = false) (hq : (s.ctx r.ctx).holdQ = []) (hh : (s.ctx r.ctx).held = [])
    (hc : s.cqFree r.ctx r.cq = true) (ha : r.after = .none) :
    (s.emit r).fld (F.cqTail r.ctx r.cq) = (s.fld (F.cqTail r.ctx r.cq) + 1) % 2 ^ 32
    ∧ (s.emit r).txns.getLast?.map (fun x => (x.isRec, x.ctx, x.stage, x.bytes))
      = some (true, r.ctx, 1, r.bytes (if s.fld (F.cqTail r.ctx r.cq) / 2 ^ s.fld (F.cqLog2 r.ctx r.cq) % 2 = 0 then 1 else 0)
          (s.stampFor r.ctx) (s.fld (F.cqTail r.ctx r.cq) % 65536))
    ∧ ∀ k, k ≠ r.ctx → (s.emit r).ctx k = s.ctx k := by
  obtain ⟨tail, last, same⟩ := (s.modCtx r.ctx (·.holding r)).writeRec_slot r ha
  rw [s.emit_free r hf hq hh hc]
  refine ⟨tail, last, fun k hk => ?_⟩
  rw [State.ctx_modCtx_ne _ r.ctx _ k hk, same, s.ctx_modCtx_ne r.ctx _ k hk]

/-- The record of an entry that completes, which is not quiet, without corrected events (R60, R61). -/
def State.recordOf (s : State) (c : Nat) (e : Entry) (status detail result : Nat) : Rec :=
  { ctx := c, cq := s.cqOf c e.sq, sq := e.sq, status := status, tag := e.tag, opcode := e.opcode, detail := detail, result := result
    irq := e.irq }

theorem withCorr_none (status detail : Nat) : withCorr status detail 0 = (status, detail) := if_neg (by simp)

theorem State.finish_emits (c : Nat) (e : Entry) (status detail result : Nat) (hcur : (s.ctx c).entries.find? (·.id == e.id) = some e)
    (hcorr : e.corr = 0) (hquiet : e.quiet = false) :
    s.finish c e status detail result = (s.modCtx c (·.without e.id)).emit (s.recordOf c e status detail result) := by
  unfold State.finish
  simp only [hcur, Option.getD_some, hcorr, withCorr_none, hquiet, Bool.false_and, Bool.false_eq_true, if_false]
  rfl

/-- An entry whose ring has a slot completes with its record (R60, R62, R65). -/
theorem State.finish_slot (c : Nat) (e : Entry) (status detail result : Nat) (hf : s.coll.fatal = false)
    (hcur : (s.ctx c).entries.find? (·.id == e.id) = some e) (hcorr : e.corr = 0) (hquiet : e.quiet = false) (hq : (s.ctx c).holdQ = [])
    (hh : (s.ctx c).held = []) (hc : s.cqFree c (s.cqOf c e.sq) = true) :
    (s.finish c e status detail result).fld (F.cqTail c (s.cqOf c e.sq)) = (s.fld (F.cqTail c (s.cqOf c e.sq)) + 1) % 2 ^ 32
    ∧ (s.finish c e status detail result).txns.getLast?.map (fun x => (x.isRec, x.ctx, x.stage, x.bytes))
      = some (true, c, 1, (s.recordOf c e status detail result).bytes
          (if s.fld (F.cqTail c (s.cqOf c e.sq)) / 2 ^ s.fld (F.cqLog2 c (s.cqOf c e.sq)) % 2 = 0 then 1 else 0)
          (s.stampFor c) (s.fld (F.cqTail c (s.cqOf c e.sq)) % 65536))
    ∧ ∀ k, k ≠ c → (s.finish c e status detail result).ctx k = s.ctx k := by
  have hq' : ((s.modCtx c (·.without e.id)).ctx c).holdQ = [] := by rw [State.ctx_modCtx]; exact hq
  have hh' : ((s.modCtx c (·.without e.id)).ctx c).held = [] := by rw [State.ctx_modCtx]; exact hh
  obtain ⟨tail, last, others⟩ := (s.modCtx c (·.without e.id)).emit_slot (s.recordOf c e status detail result) hf hq' hh' hc rfl
  rw [s.finish_emits c e _ _ _ hcur hcorr hquiet]
  exact ⟨tail, last, fun k hk => (others k hk).trans (s.ctx_modCtx_ne c _ k hk)⟩

theorem State.alive_of_engines (h : s.engines = true) : s.coll.fatal = false := by
  simp only [State.engines, Bool.and_eq_true, Bool.not_eq_true'] at h
  exact h.1.2

/-- Settles O33: NOP does no more than complete. -/
theorem nopCompletesWithItsRecord : Obligations.NopCompletesWithItsRecord := by
  unfold Obligations.NopCompletesWithItsRecord
  intro s c e he ho hcur hcorr hquiet hq hh hc
  obtain ⟨hgraphs, htile, hcounters, -, hgone⟩ := s.finish_still c e 1 0 0
  obtain ⟨tail, last, others⟩ := s.finish_slot c e 1 0 0 (s.alive_of_engines he) hcur hcorr hquiet hq hh hc
  exact ⟨_, congrArg Host.Outcome.next (s.take_oldest c 0x0C _ e he ho), hgone, tail, last, htile, hgraphs, hcounters, others⟩

end Sys2Proof.Machine
end

section
/-! Operations on counters, and the waits for them (O37). -/

namespace Sys2Proof.Machine

variable (s : State)

/-- What an operation that is alone in its XCLK makes of a counter's value (R282). -/
def opAlone (old : W32) (op : Option (List Nat)) (v : W32) : W32 := if op = none then old + v else v

theorem CtrNow.push_alone (c : Nat) (old v : W32) (op : Option (List Nat)) :
    (CtrNow.push { counter := c, base := old } op v).stands.getLastD 0 = opAlone old op v := by
  cases op with
  | none => simp [CtrNow.push, CtrNow.stands, opAlone]
  | some k => simp [CtrNow.push, CtrNow.stands, setByRank, opAlone]

theorem CtrNow.push_counter (x : CtrNow) (op : Option (List Nat)) (v : W32) : (x.push op v).counter = x.counter := by
  cases op <;> rfl

theorem State.ctrPut_counter (x : CtrNow) : (s.ctrPut x).counter x.counter = x.stands.getLastD 0 := Sparse.get_set_self

theorem State.ctrSettle_counter (c : Nat) : (s.ctrSettle c).counter = s.counter := by
  obtain ⟨n, w, h⟩ := s.ctrSettle_lit c
  rw [h]
  rfl

theorem State.ctrSettle_frame (c : Nat) : (s.ctrSettle c).counters = s.counters ∧ (s.ctrSettle c).graphs = s.graphs
    ∧ (s.ctrSettle c).tile = s.tile ∧ (s.ctrSettle c).ctx = s.ctx := by
  obtain ⟨n, w, h⟩ := s.ctrSettle_lit c
  rw [h]
  exact ⟨rfl, rfl, rfl, rfl⟩

/-- An operation in a new XCLK. -/
theorem State.ctrPut_alone (c : Nat) (op : Option (List Nat)) (v : W32) :
    (s.ctrPut (CtrNow.push { counter := c, base := s.counter c } op v)).counter c = opAlone (s.counter c) op v := by
  have h := s.ctrPut_counter (CtrNow.push { counter := c, base := s.counter c } op v)
  rwa [CtrNow.push_counter, CtrNow.push_alone] at h

/-- Where no operation has reached a counter in this XCLK, one that does is alone there (R282). -/
theorem State.ctrOp_alone (c : Nat) (op : Option (List Nat)) (v : W32) (h : s.ctrNow.find? (·.counter == c) = none) :
    (s.ctrOp c op v).counter c = opAlone (s.counter c) op v := by
  unfold State.ctrOp
  rw [h]
  exact s.ctrPut_alone c op v

/-- Where operations have reached a counter, one more falls into their XCLK or into a later one (R283, log entry 15). -/
theorem State.ctrOp_joins (c : Nat) (op : Option (List Nat)) (v : W32) (x : CtrNow) (h : s.ctrNow.find? (·.counter == c) = some x) :
    (s.ctrOp c op v).counter c = (x.push op v).stands.getLastD 0 ∨ (s.ctrOp c op v).counter c = opAlone (s.counter c) op v := by
  have draw : s.drawBool = (s.drawBool.1, { s with free := s.free + 1 }) := rfl
  unfold State.ctrOp
  rw [h, draw]
  generalize hu : ({ s with free := s.free + 1 } : State) = u
  have same : u.counter c = s.counter c := by rw [← hu]; rfl
  dsimp only
  split
  · refine .inl ?_
    have hx : x.counter = c := by simpa using List.find?_some h
    have put := u.ctrPut_counter (x.push op v)
    rwa [CtrNow.push_counter, hx] at put
  · refine .inr ?_
    rw [State.ctrPut_alone, State.ctrSettle_counter, same]

/-- An operation on a counter changes no graph and no tile memory. -/
theorem State.ctrOp_frame (c : Nat) (op : Option (List Nat)) (v : W32) : (s.ctrOp c op v).graphs = s.graphs ∧ (s.ctrOp c op v).tile = s.tile := by
  obtain ⟨m, n, w, f, h⟩ := s.ctrOp_lit c op v
  rw [h]
  exact ⟨rfl, rfl⟩

/-- The counter operation of a SIGNAL entry: an add, or a set with the entry's rank (R57, R283). -/
def State.signalOp (s : State) (t : Nat) (e : Entry) : Option (List Nat) := if e.field 10 1 = 0 then none else some (s.entryRank t e)

theorem State.opAlone_signal (t : Nat) (e : Entry) (old v : W32) :
    opAlone old (s.signalOp t e) v = if e.field 10 1 = 0 then old + v else v := by
  unfold opAlone State.signalOp
  by_cases h : e.field 10 1 = 0 <;> simp [h]

theorem State.signalEntry_oldest (t : Nat) (e : Entry) (he : s.engines = true) (ho : s.oldest t 0x05 = some e) :
    s.signalEntry t = (s.ctrOp (e.field 8 2) (s.signalOp t e) (BitVec.ofNat 32 (e.field 12 4))).finish t e 1 := by
  refine (s.take_oldest t 0x05 _ e he ho).trans ?_
  unfold State.signalOp
  dsimp only
  by_cases h : e.field 10 1 = 0
  · rw [if_pos h, if_pos h]
    rfl
  · rw [if_neg h, if_neg h]
    rfl

theorem State.waitEntry_oldest (t : Nat) (e : Entry) (he : s.engines = true) (ho : s.oldest t 0x06 = some e) :
    s.waitEntry t = if (s.ctrSettle (e.field 8 2)).waits.any (fun w => w.who == .entry e.id && (s.ctrSettle (e.field 8 2)).waitMet w) then
        State.finish { s.ctrSettle (e.field 8 2) with waits := (s.ctrSettle (e.field 8 2)).waits.filter (fun w => w.who != .entry e.id) } t e 1
      else (s.ctrSettle (e.field 8 2)).start t e := s.take_oldest t 0x06 _ e he ho

/-- A pending wait whose condition has been true ends (R284). -/
theorem State.waitGoes_met (i : Nat) (w : Wait) (he : s.engines = true) (hw : s.waits[i]? = some w)
    (hm : ((s.ctrSettle w.counter).waits[i]?).map (s.ctrSettle w.counter).waitMet = some true) :
    s.waitGoes i = State.endWait { s.ctrSettle w.counter with waits := (s.ctrSettle w.counter).waits.eraseIdx i } w true := by
  unfold State.waitGoes
  rw [hw]
  dsimp only
  rw [hm, he]
  rfl

/-- A pending wait ends at its time (R440). -/
theorem State.waitEnds_unmet (i : Nat) (w : Wait) (he : s.engines = true) (hw : s.waits[i]? = some w)
    (hm : ((s.ctrSettle w.counter).waits[i]?).map (s.ctrSettle w.counter).waitMet = some false) (ht : w.timeoutUs ≠ 0) :
    s.waitEnds i = State.endWait { (s.ctrSettle w.counter).advanceTo (w.start + 1000 * w.timeoutUs) with
        waits := (s.ctrSettle w.counter).waits.eraseIdx i } w false := by
  unfold State.waitEnds
  rw [hw]
  dsimp only
  rw [hm, he, if_pos (by simp [ht])]
  rfl

/-- The end of an entry's wait completes the entry (R440). -/
theorem State.endWait_entry (w : Wait) (ok : Bool) (id : Nat) (e : Entry) (hwho : w.who = .entry id)
    (hf : (s.ctx w.t).entries.find? (·.id == id) = some e) : s.endWait w ok = s.finish w.t e (if ok then 1 else 0x17) := by
  unfold State.endWait
  rw [hwho]
  dsimp only
  rw [hf]

/-- What the completed entry of a wait leaves: the waits and the time as they stand, and the entry gone. -/
theorem State.endWait_completes (w : Wait) (ok : Bool) (id : Nat) (e : Entry) (hwho : w.who = .entry id)
    (hf : (s.ctx w.t).entries.find? (·.id == id) = some e) : (s.endWait w ok).waits = s.waits
      ∧ (∀ x ∈ ((s.endWait w ok).ctx w.t).entries, x.id ≠ id) ∧ (s.endWait w ok).aon = s.aon := by
  obtain ⟨-, -, -, hwaits, hgone⟩ := s.finish_still w.t e (if ok then 1 else 0x17) 0 0
  have hid : e.id = id := by simpa using List.find?_some hf
  rw [s.endWait_entry w ok id e hwho hf]
  exact ⟨hwaits, hid ▸ hgone, s.finish_aon w.t e _ _ _ _ _⟩

/-- Settles O37: a SIGNAL is one counter operation, and the end of a wait is the completion of what waits. -/
theorem countersAndWaits : Obligations.CountersAndWaits := by
  unfold Obligations.CountersAndWaits
  intro s e he
  refine ⟨fun t ho => ?_, ?_, ?_, ?_, ?_⟩
  · obtain ⟨hgraphs, htile, hcounters, -, hgone⟩ :=
      (s.ctrOp (e.field 8 2) (s.signalOp t e) (BitVec.ofNat 32 (e.field 12 4))).finish_still t e 1 0 0
    obtain ⟨ographs, otile⟩ := s.ctrOp_frame (e.field 8 2) (s.signalOp t e) (BitVec.ofNat 32 (e.field 12 4))
    have counter := fun c => congrArg (fun m => Sparse.get (fun _ => (0 : W32)) m c) hcounters
    refine ⟨_, congrArg Host.Outcome.next (s.signalEntry_oldest t e he ho), fun hn => ?_, fun x hx => ?_, fun c hc => ?_, hgone,
      htile.trans otile, hgraphs.trans ographs⟩
    · exact (counter _).trans ((s.ctrOp_alone _ _ _ hn).trans (s.opAlone_signal t e _ _))
    · rcases s.ctrOp_joins _ (s.signalOp t e) (BitVec.ofNat 32 (e.field 12 4)) x hx with h | h
      · exact .inl ((counter _).trans h)
      · exact .inr ((counter _).trans (h.trans (s.opAlone_signal t e _ _)))
    · exact (counter c).trans (s.counter_ctrOp_ne _ c _ _ hc.symm)
  · rintro t _ ho rfl
    obtain ⟨scounters, sgraphs, stile, -⟩ := s.ctrSettle_frame (e.field 8 2)
    have step := s.waitEntry_oldest t e he ho
    refine ⟨fun hm => ?_, fun hm => ?_⟩
    · rw [if_pos hm] at step
      obtain ⟨hgraphs, htile, hcounters, hwaits, hgone⟩ := State.finish_still { s.ctrSettle (e.field 8 2) with
        waits := (s.ctrSettle (e.field 8 2)).waits.filter (fun w => w.who != .entry e.id) } t e 1 0 0
      exact ⟨_, congrArg Host.Outcome.next step, hcounters.trans scounters, hwaits, hgone, hgraphs.trans sgraphs, htile.trans stile⟩
    · rw [if_neg (by simp [hm])] at step
      exact congrArg Host.Outcome.next step
  · rintro i w _ hw rfl hm
    exact congrArg Host.Outcome.next (s.waitGoes_met i w he hw hm)
  · rintro i w _ hw rfl hm ht
    exact congrArg Host.Outcome.next (s.waitEnds_unmet i w he hw hm ht)
  · rintro i w _ id hw rfl hwho hf
    obtain ⟨-, -, -, sctx⟩ := s.ctrSettle_frame w.counter
    have found : ((s.ctrSettle w.counter).ctx w.t).entries.find? (·.id == id) = some e := by rw [sctx]; exact hf
    refine ⟨fun hm => ?_, fun hm ht => ?_⟩
    · obtain ⟨hwaits, hgone, haon⟩ := State.endWait_completes { s.ctrSettle w.counter with
        waits := (s.ctrSettle w.counter).waits.eraseIdx i } w true id e hwho found
      exact ⟨_, congrArg Host.Outcome.next (s.waitGoes_met i w he hw hm), hwaits, hgone, haon.trans (s.ctrSettle_aon _)⟩
    · obtain ⟨hwaits, hgone, haon⟩ := State.endWait_completes { (s.ctrSettle w.counter).advanceTo (w.start + 1000 * w.timeoutUs) with
        waits := (s.ctrSettle w.counter).waits.eraseIdx i } w false id e hwho found
      refine ⟨_, congrArg Host.Outcome.next (s.waitEnds_unmet i w he hw hm ht), hwaits, hgone, haon.trans ?_⟩
      exact (State.advanceTo_aon _ _).trans (congrArg (Nat.max · _) (s.ctrSettle_aon _))

end Sys2Proof.Machine
end

section
/-! A refutation of `Obligations.EpochsAndMailboxes` (O40). Its clause on SET_EPOCH_DONE says that no other context changes, and lets the
context's hold queue hold any record. The command's own record is written behind those that wait (R65), and a record of CREATE_TENSOR brings
its handle into use in the context that it names (R96). The block queues a record with its own context alone (`State.emit`); a premise that
every waiting record names the context in whose queue it stands is what the clause lacks. -/

namespace Sys2Proof.Machine

/-- A SET_EPOCH whose step has run. -/
def epochEntry : Entry := { id := 0, sq := 0, bytes := [0x0A], started := true }

/-- The state of `holdsForeignRecord` with a SET_EPOCH of tenant 0 under way, no other entry before it. -/
def epochBehindForeignRecord : State := holdsForeignRecord.modCtx 0 (fun x => { x with fetched := [], entries := [epochEntry] })

theorem epochBehindForeignRecord_handles : (epochBehindForeignRecord.ctx 1).handles = [] := by decide +kernel

theorem setEpochDone_epochBehindForeignRecord :
    ((epochBehindForeignRecord.setEpochDone 0).ctx 1).handles = [{ h := 0, d := descOf [] }] := by decide +kernel

/-- Refutes O40: in `epochBehindForeignRecord` the completion of tenant 0's SET_EPOCH gives tenant 1 a handle. -/
theorem not_epochsAndMailboxes : ¬ Obligations.EpochsAndMailboxes := by
  intro h
  obtain ⟨-, setEpochDone, -⟩ := h epochBehindForeignRecord 0 epochEntry (by decide)
  obtain ⟨t, ht, -, -, -, others⟩ := setEpochDone (by decide +kernel) (by decide) rfl
  obtain rfl : epochBehindForeignRecord.setEpochDone 0 = t := Host.Outcome.next.inj ht
  have same := congrArg Ctx.handles (others 1 (by decide))
  rw [setEpochDone_epochBehindForeignRecord, epochBehindForeignRecord_handles] at same
  exact absurd same (by decide)

end Sys2Proof.Machine
end

section
/-! A refutation of `Obligations.CounterNodes` (O52). Its clauses on TIMED_NODE find the node that fails by its index, and do not ask that
the indices of a graph's nodes differ. The failure of a node abandons its graph, whose WAIT nodes that wait stop at once and leave the window
by their indices (R90); a WAIT node with the index of the TIMED node takes it along. The block numbers the nodes of a graph in the order of
their fetch (`State.takeNode`); the premise that their indices differ is what the clause lacks. -/

namespace Sys2Proof.Machine

/-- A TIMED node that has been fetched. -/
def timedNode0 : Node := { idx := 0, bytes := [6], seq := 0 }

/-- A WAIT node that waits, with the same index. -/
def waitNode0 : Node := { idx := 0, bytes := [5], seq := 0, st := .waiting }

/-- A graph in which two nodes have the index 0. -/
def sharesIndex : Graph :=
  { id := 0, ctx := 0, sq := 0, tag := 0, irq := false, quiet := false, xva := 0, count := 2, prio := 0, nodes := [timedNode0, waitNode0] }

/-- X0 with `sharesIndex`, every time base off. -/
def runsSharedIndex : State := { State.reset with phase := .x0, graphs := [sharesIndex] }

theorem registerTimed_runsSharedIndex : (runsSharedIndex.registerTimed 0 0).node 0 0 = none := by decide +kernel

/-- Refutes O52: in `runsSharedIndex` the TIMED node fails, and is gone with the WAIT node of its index. -/
theorem not_counterNodes : ¬ Obligations.CounterNodes := by
  intro h
  obtain ⟨-, -, baseOff, -⟩ := h runsSharedIndex 0 0 sharesIndex timedNode0
  obtain ⟨t, ht, -, -, -, failed⟩ := baseOff (by decide +kernel) rfl (by decide) (by decide)
  obtain rfl : runsSharedIndex.registerTimed 0 0 = t := Host.Outcome.next.inj ht
  rw [registerTimed_runsSharedIndex] at failed
  exact absurd failed (by decide)

end Sys2Proof.Machine
end

section
/-! Units that leave service and return (O46). -/

namespace Sys2Proof.Machine

variable (s : State)

/-- The registers of the eclipse bits and of the spare map (R389, R425). -/
def Reg.Service (off : Nat) : Prop := (0x1000 ≤ off ∧ off < 0x1400) ∨ (0x70080 ≤ off ∧ off < 0x71000)

/-- The eclipse bits and the spare map. -/
def State.services (s : State) (o : {o // Reg.Service o}) : W64 := s.reg o

/-- What the manager keeps of units that leave and return, and the contexts. -/
def State.posts (s : State) : List UnitCmd × List UnitCmd × List Copy × Nat × List (Nat × Ctx) :=
  (s.eclWait, s.reenter, s.copies, s.epochNo, s.ctxs)

theorem posts_eq {s t : State} (h : t.posts = s.posts) :
    t.eclWait = s.eclWait ∧ t.reenter = s.reenter ∧ t.copies = s.copies ∧ t.epochNo = s.epochNo ∧ t.ctxs = s.ctxs := by
  simpa only [State.posts, Prod.mk.injEq] using h

theorem posts_of_stay {s t : State} (h : t.stay = s.stay) : t.posts = s.posts :=
  (congrArg State.posts h :)

theorem ctx_of_posts {s t : State} (h : t.posts = s.posts) : t.ctx = s.ctx := by
  obtain ⟨-, -, -, -, hctxs⟩ := posts_eq h
  unfold State.ctx
  rw [hctxs]

theorem State.services_setReg (o : Nat) (v : W64) (h : ¬Reg.Service o) : (s.setReg o v).services = s.services := by
  funext x
  have hx : o ≠ x.1 := fun e => h (e ▸ x.2)
  rw [State.services, State.reg_setReg, if_neg hx, State.services]

theorem State.services_setFld (f : Fld) (v : Nat) (h : ¬Reg.Service f.off) : (s.setFld f v).services = s.services := s.services_setReg _ _ h

theorem fld_of_services {s t : State} (h : t.services = s.services) (f : Fld) (hf : Reg.Service f.off) : t.fld f = s.fld f :=
  congrArg (fun w : W64 => bits w.toNat f.lo f.w) (congrFun h ⟨f.off, hf⟩)

theorem service_ecl {u : Nat} (hu : u < 0x308) : Reg.Service (F.ecl u).off := .inr (by simp only [F.ecl, Reg.ecl]; omega)

theorem service_spare {l : Nat} (hl : l < 512) : Reg.Service (F.spare l).off := .inl (by simp only [F.spare, Reg.spareMap]; omega)

theorem eclipsed_of_services {s t : State} (h : t.services = s.services) {u : Nat} (hu : u < 0x308) : t.eclipsed u = s.eclipsed u := by
  rw [State.eclipsed, fld_of_services h _ (service_ecl hu), State.eclipsed]

theorem bankServes_of_services {s t : State} (h : t.services = s.services) (b : Nat) : t.bankServes b = s.bankServes b := by
  unfold State.bankServes
  refine List.find?_congr fun l hl => ?_
  rw [fld_of_services h _ (service_spare (List.mem_range.1 hl))]

theorem freeBanks_of_services {s t : State} (h : t.services = s.services) (hc : t.copies = s.copies) : t.freeBanks = s.freeBanks := by
  unfold State.freeBanks
  refine List.filter_congr fun b hb => ?_
  have hb' := List.mem_range.1 hb
  rw [bankServes_of_services h, eclipsed_of_services h (by omega), hc]

/-- What the stop of a unit (R390) does not touch. -/
def State.duty (s : State) : (List UnitCmd × List UnitCmd × List Copy × Nat × List (Nat × Ctx)) × ({o // Reg.Service o} → W64) :=
  (s.posts, s.services)

theorem duty_eq {s t : State} (hp : t.posts = s.posts) (hr : t.services = s.services) : t.duty = s.duty := Prod.ext hp hr

theorem State.setFld_duty (f : Fld) (v : Nat) (h : ¬Reg.Service f.off) : (s.setFld f v).duty = s.duty := duty_eq rfl (s.services_setFld f v h)

theorem chState_not_service {ch : Nat} (h : ch < 64) : ¬Reg.Service (F.chState ch).off := by
  simp only [Reg.Service, F.chState, Reg.chStatus]
  omega

theorem State.chTo_duty {ch : Nat} (st : Nat) (h : ch < 64) : (s.chTo ch st).duty = s.duty := s.setFld_duty _ _ (chState_not_service h)

theorem State.discard_duty (ch : Nat) : (s.discard ch).duty = s.duty := by
  unfold State.discard
  refine coll_ite rfl (State.setFld_duty _ _ _ ?_)
  simp only [Reg.Service, F.radisc, Reg.chRadisc]
  omega

theorem State.rewind_duty {ch : Nat} (h : ch < 64) : (s.rewind ch).duty = s.duty := by
  unfold State.rewind
  split
  · next p hp =>
    refine (State.chTo_duty _ 1 h).trans ?_
    refine Eq.trans (b := (p.pairs.foldl (fun s x => s.modTx x.1 (fun t => { t with nextSeq := x.2.1, batch := x.2.2 }))
      ((s.forget [.chan ch]).discard ch)).duty) rfl ?_
    refine (proj_foldl (p := State.duty) fun v x _ => ?_).trans (State.discard_duty _ ch)
    rfl
  · rfl

theorem State.replayNode_duty (g : Nat) (n : Node) : (s.replayNode g n).duty = s.duty := by
  unfold State.replayNode
  dsimp only
  split
  · next ch hch =>
    have below : ch < 64 := by simpa using List.find?_some hch
    exact s.rewind_duty below
  · rfl

theorem State.replayChain_duty (g : Graph) (c : Node) : (s.replayChain g c).duty = s.duty := by
  unfold State.replayChain
  exact proj_foldl (p := State.duty) fun u m _ => coll_ite (u.replayNode_duty g.id m) rfl

theorem State.stopUnit_duty (u : Nat) : (s.stopUnit u).duty = s.duty := by
  unfold State.stopUnit
  refine proj_foldl fun t g _ => proj_foldl fun v n _ => ?_
  refine coll_ite (coll_ite (v.replayChain_duty g n) rfl) (coll_ite (v.replayNode_duty g.id n) rfl)

theorem State.unheld_services (u : Nat) : (s.unheld u).services = s.services := by
  unfold State.unheld
  split
  · next h => exact s.services_setFld _ _ (chState_not_service h.1)
  · rfl

theorem State.issueAt_services (i : Nat) : (s.issueAt i).services = s.services := by
  unfold State.issueAt
  split
  · next x hx =>
    refine coll_ite ((State.unheld_services _ _).trans ?_) rfl
    obtain ⟨credit, owed, h⟩ := s.debit_lit x.cls x.t x.z
    rw [h]
    rfl
  · rfl

theorem State.issue_services : s.issue.services = s.services := proj_foldl fun t i _ => t.issueAt_services i

/-- A manager's record that brings nothing into effect is written without a word to the eclipse bits or the spare map. -/
theorem State.writeRec_services (r : Rec) (hc : r.ctx = 8) (ha : r.after = .none) : (s.writeRec r).services = s.services := by
  unfold State.writeRec
  extract_lets tail log a ev b
  rw [ha, hc]
  refine (State.services_setFld _ _ _ ?_).trans (State.issue_services _)
  simp only [Reg.Service, F.cqTail, F.cqTailReg, Reg.mcCqTail, if_true]
  omega

theorem State.emit_services (r : Rec) (hc : r.ctx = 8) (ha : r.after = .none) (hq : (s.ctx 8).holdQ = []) (hh : (s.ctx 8).held = []) :
    (s.emit r).services = s.services := by
  unfold State.emit
  refine coll_ite rfl ?_
  rw [hc]
  set u := s.modCtx 8 (fun x => if x.holdQ.length < 64 then { x with holdQ := x.holdQ ++ [r] } else { x with held := x.held ++ [r] })
    with hu
  have waits : (u.ctx 8).holdQ ++ (u.ctx 8).held = [r] := by
    rw [hu, State.ctx_modCtx, hq, hh]
    rfl
  rw [State.flushRecs_eq, waits]
  refine Eq.trans (b := (flushOne 8 (u, []) r).1.services) rfl ?_
  unfold flushOne
  split
  · exact u.writeRec_services r hc ha
  · rfl

/-- The completion of a manager command meets none of the registers of `Reg.Service`. -/
theorem State.finish_services (e : Entry) (status detail result : Nat) (hq : (s.ctx 8).holdQ = []) (hh : (s.ctx 8).held = []) :
    (s.finish 8 e status detail result).services = s.services := by
  unfold State.finish
  dsimp only
  refine coll_ite rfl (State.emit_services _ _ rfl rfl ?_ ?_)
  · rw [State.ctx_modCtx, hq]
  · rw [State.ctx_modCtx, hh]

theorem State.finish_posts (e : Entry) (status detail result : Nat) :
    (s.finish 8 e status detail result).eclWait = s.eclWait ∧ (s.finish 8 e status detail result).reenter = s.reenter
    ∧ (s.finish 8 e status detail result).copies = s.copies ∧ (s.finish 8 e status detail result).epochNo = s.epochNo := by
  have rest := congrArg Prod.snd (s.finish_work 8 e status detail result)
  exact ⟨(congrArg State.eclWait rest :), (congrArg State.reenter rest :), (congrArg State.copies rest :), (congrArg State.epochNo rest :)⟩

/-- What the end of a manager command leaves, with or without an entry behind it (R382). -/
structure Ends (id : Option Nat) (s t : State) : Prop where
  eclWait : t.eclWait = s.eclWait
  reenter : t.reenter = s.reenter
  copies : t.copies = s.copies
  epochNo : t.epochNo = s.epochNo
  services : t.services = s.services
  gone : ∀ x ∈ (t.ctx 8).entries, some x.id ≠ id

theorem State.finish_ends (e : Entry) (status detail result : Nat) (hq : (s.ctx 8).holdQ = []) (hh : (s.ctx 8).held = []) :
    Ends (some e.id) s (s.finish 8 e status detail result) := by
  obtain ⟨eclWait, reenter, copies, epochNo⟩ := s.finish_posts e status detail result
  obtain ⟨-, -, -, -, gone⟩ := s.finish_still 8 e status detail result
  exact ⟨eclWait, reenter, copies, epochNo, s.finish_services e status detail result hq hh, fun x hx h => gone x hx (Option.some.inj h)⟩

theorem State.finishCmd_ends (id : Option Nat) (status detail result : Nat) (hq : (s.ctx 8).holdQ = []) (hh : (s.ctx 8).held = []) :
    Ends id s (s.finishCmd id status detail result) := by
  unfold State.finishCmd
  split
  · next e he =>
    have hid : some e.id = id := by simpa using List.find?_some he
    exact hid ▸ s.finish_ends e status detail result hq hh
  · next he => exact ⟨rfl, rfl, rfl, rfl, rfl, fun x hx => by simpa using List.find?_eq_none.1 he x hx⟩

theorem State.eclipsed_setFld_self {u v : Nat} (hv : v < 2) : (s.setFld (F.ecl u) v).eclipsed u = (v == 1) := by
  have fits : (F.ecl u).lo + (F.ecl u).w ≤ 64 := by simp only [F.ecl]; omega
  rw [State.eclipsed, State.fld_setFld_fits _ _ _ fits hv]

theorem State.eclipsed_setFld_ne {u v : Nat} (x : Nat) (h : v ≠ u) : (s.setFld (F.ecl v) x).eclipsed u = s.eclipsed u := by
  unfold State.eclipsed
  by_cases ho : (F.ecl v).off = (F.ecl u).off
  · rw [State.fld_setFld_disj]
    simp only [F.ecl, Reg.ecl] at ho ⊢
    omega
  · rw [State.fld_setFld_off _ _ _ _ ho]

theorem State.eclChan_services {ch : Nat} (h : ch < 64) : (s.eclChan ch).services = (s.setFld (F.ecl ch) 1).services :=
  State.services_setFld _ _ _ (chState_not_service h)

theorem linkState_not_service {p : Nat} (h : p < 6) : ¬Reg.Service (F.linkState p).off := by
  simp only [Reg.Service, F.linkState, Reg.port]
  omega

theorem State.reroute_services (p : Nat) : (s.reroute p).services = s.services := by
  obtain ⟨-, hregs⟩ := s.reroute_other p
  funext o
  rw [State.services, State.reg, hregs]
  rfl

/-- A unit that is taken out of service has its eclipse bit set (R391). -/
theorem State.applyEclipse_eclipsed {u : Nat} (hu : u < 0x308) : (s.applyEclipse u).eclipsed u = true := by
  have set1 : (s.setFld (F.ecl u) 1).eclipsed u = true := s.eclipsed_setFld_self (by decide)
  unfold State.applyEclipse
  split
  · next h => exact (eclipsed_of_services (s.eclChan_services h) hu).trans set1
  split
  · next h =>
    refine (proj_foldl (p := (·.eclipsed u)) fun t k hk => ?_).trans set1
    simp only [isTe, Bool.and_eq_true, decide_eq_true_eq] at h
    have hk := List.mem_range.1 hk
    have below : 16 * (u - 0x40) + k < 64 := by omega
    exact (eclipsed_of_services (t.eclChan_services below) hu).trans (t.eclipsed_setFld_ne 1 (by omega))
  split
  · next h =>
    dsimp only
    split
    · next k hk =>
      have hk := List.mem_range.1 (List.mem_of_find?_eq_some hk)
      refine (eclipsed_of_services (State.services_setFld _ _ _ ?_) hu).trans set1
      have he : (colOf u).1 < 2 := by
        unfold colOf
        split <;> simp
      simp only [Reg.Service, F.col, Reg.colMap]
      omega
    · exact set1
  split
  · next h =>
    have hp : u - 0xE8 < 6 := by
      simp only [isPort, Bool.and_eq_true, decide_eq_true_eq] at h
      omega
    refine (eclipsed_of_services ((State.reroute_services _ _).trans (State.services_setFld _ _ _ (linkState_not_service hp))) hu).trans ?_
    exact State.eclipsed_setFld_self _ (by decide)
  · exact set1

theorem State.applyOwner_duty {ch : Nat} (h : ch < 64) : (s.applyOwner ch).duty = s.duty := by
  unfold State.applyOwner
  refine coll_ite rfl ?_
  dsimp only
  exact coll_ite (State.discard_duty _ ch) ((State.chTo_duty _ _ h).trans (State.discard_duty _ ch))

/-- A channel that is in service again: of the registers of `Reg.Service` its eclipse bit alone has changed. -/
theorem State.admitChan_duty {ch : Nat} (h : ch < 64) : (s.admitChan ch).duty = (s.setFld (F.ecl ch) 0).duty := by
  unfold State.admitChan
  exact (State.applyOwner_duty _ h).trans (State.chTo_duty _ _ h)

theorem State.linkAgain_stay (p : Nat) : (s.linkAgain p).stay = s.stay := by
  unfold State.linkAgain
  extract_lets st t u
  have ht : t.stay = s.stay := coll_ite (s.lineClear_stay _ _) rfl
  clear_value t
  have hu : u.stay = s.stay := ((State.linkTo_stay _ _ _).trans ((State.modPort_stay _ _ _).trans (State.modPort_stay _ _ _))).trans ht
  clear_value u
  exact coll_ite ((u.reroute_stay p).trans hu) hu

theorem State.linkAgain_duty {p : Nat} (h : p < 6) : (s.linkAgain p).duty = s.duty := by
  obtain ⟨-, hreg⟩ := s.linkAgain_other p
  refine duty_eq (posts_of_stay (s.linkAgain_stay p)) (funext fun o => hreg o.1 fun e => ?_)
  exact linkState_not_service h (show Reg.Service (Reg.port p 0x10) from e ▸ o.2)

/-- What the manager keeps, and whether a unit is out of service. -/
def State.place (u : Nat) (s : State) : (List UnitCmd × List UnitCmd × List Copy × Nat × List (Nat × Ctx)) × Bool := (s.posts, s.eclipsed u)

theorem place_of_duty {s t : State} {u : Nat} (hu : u < 0x308) (h : t.duty = s.duty) : t.place u = s.place u :=
  Prod.ext (congrArg Prod.fst h :) (eclipsed_of_services (congrArg Prod.snd h) hu)

theorem State.setFld_ecl_place {u v : Nat} (x : Nat) (h : v ≠ u) : (s.setFld (F.ecl v) x).place u = s.place u :=
  Prod.ext rfl (s.eclipsed_setFld_ne x h)

theorem State.setFld_ecl_place_self (u : Nat) : (s.setFld (F.ecl u) 0).place u = (s.posts, false) :=
  Prod.ext rfl (s.eclipsed_setFld_self (by decide))

/-- A unit that is admitted has its eclipse bit cleared, and the manager keeps what it kept (R392). -/
theorem State.admitUnit_place {u : Nat} (hu : u < 0x308) : (s.admitUnit u).place u = (s.posts, false) := by
  have cleared := s.setFld_ecl_place_self u
  unfold State.admitUnit
  extract_lets v
  have hv : v.place u = (s.posts, false) := cleared
  clear_value v
  split
  · next h => exact (place_of_duty hu (v.admitChan_duty h)).trans ((v.setFld_ecl_place_self u).trans (Prod.ext (congrArg Prod.fst hv :) rfl))
  split
  · next h =>
    simp only [isTe, Bool.and_eq_true, decide_eq_true_eq] at h
    refine (proj_foldl (p := State.place u) fun w k hk => ?_).trans hv
    have hk := List.mem_range.1 hk
    have below : 16 * (u - 0x40) + k < 64 := by omega
    refine coll_ite (g := State.place u) rfl ?_
    exact (place_of_duty hu (w.admitChan_duty below)).trans (w.setFld_ecl_place 0 (by omega))
  split
  · exact hv
  split
  · next h =>
    have hp : u - 0xE8 < 6 := by
      simp only [isPort, Bool.and_eq_true, decide_eq_true_eq] at h
      omega
    exact (place_of_duty hu (v.linkAgain_duty hp)).trans hv
  · exact hv

/-- An epoch boundary at which no copy is done (R94). -/
theorem State.epochBoundary_quiet (h : ∀ c ∈ s.copies, c.done = false) :
    s.epochBoundary = { s.wrap F.schedEpoch with epochNo := s.epochNo + 1 } := by
  have none_done : (s.wrap F.schedEpoch).copies.filter (·.done) = [] := List.filter_eq_nil_iff.2 fun c hc => by simp [h c hc]
  unfold State.epochBoundary
  dsimp only
  rw [none_done]
  rfl

theorem schedEpoch_not_service : ¬Reg.Service F.schedEpoch.off := by
  simp only [Reg.Service, F.schedEpoch, Reg.schedCfg]
  omega

/-- A bank whose copy is done gives its logical bank to the spare and leaves service (R203). -/
theorem State.switchBank_switches (c : Copy) (hl : c.logical < 512) (hi : c.into < 520) (hf : c.from_ < 520)
    (hq : (s.ctx 8).holdQ = []) (hh : (s.ctx 8).held = []) :
    (s.switchBank c).fld (F.spare c.logical) = c.into ∧ (s.switchBank c).eclipsed (0x100 + c.from_) = true
    ∧ (s.switchBank c).copies = s.copies.filter (·.from_ != c.from_)
    ∧ (s.switchBank c).eclWait = s.eclWait.filter (·.unit != 0x100 + c.from_) ∧ (s.switchBank c).epochNo = s.epochNo
    ∧ ∀ x ∈ ((s.switchBank c).ctx 8).entries, x.id ≠ c.entry := by
  unfold State.switchBank
  extract_lets t
  have mapped : ((t.setFld (F.spare c.logical) c.into).setFld (F.ecl (0x100 + c.from_)) 1).fld (F.spare c.logical) = c.into := by
    rw [State.fld_setFld_off _ _ _ _ (by simp only [F.ecl, Reg.ecl, F.spare, Reg.spareMap]; omega)]
    exact State.fld_setFld_fits _ _ _ (by simp only [F.spare]; omega) (by simp only [F.spare]; omega)
  have eclipsed : ((t.setFld (F.spare c.logical) c.into).setFld (F.ecl (0x100 + c.from_)) 1).eclipsed (0x100 + c.from_) = true :=
    State.eclipsed_setFld_self _ (by decide)
  have ends := State.finishCmd_ends ((t.setFld (F.spare c.logical) c.into).setFld (F.ecl (0x100 + c.from_)) 1) (some c.entry) 1 0 0 hq hh
  exact ⟨(fld_of_services ends.services _ (service_spare hl)).trans mapped, (eclipsed_of_services ends.services (by omega)).trans eclipsed,
    ends.copies, ends.eclWait, ends.epochNo, fun x hx h => ends.gone x hx (congrArg some h)⟩

/-- ECLIPSE_UNIT that is not refused stops its unit, an entry that is under way behind it (R390). -/
theorem State.eclipseCmd_begins (e : Entry) (he : s.engines = true) (ho : s.oldest 8 0x40 = some e) (hc : s.eclipseCode (e.field 8 2) = 0) :
    s.eclipseCmd = (s.start 8 e).eclipseBegin (e.field 8 2) (bit (e.field 10 1) 0) (some e.id) := by
  refine (s.take_oldest 8 0x40 _ e he ho).trans ?_
  dsimp only
  rw [hc]
  rfl

theorem State.eclipseCmd_refused (e : Entry) (he : s.engines = true) (ho : s.oldest 8 0x40 = some e) (hc : s.eclipseCode (e.field 8 2) ≠ 0) :
    s.eclipseCmd = s.finish 8 e 0x1F (s.eclipseCode (e.field 8 2)) := by
  refine (s.take_oldest 8 0x40 _ e he ho).trans ?_
  dsimp only
  split
  · next h => exact absurd h hc
  · rfl

/-- A bank in service can leave it where a spare is free (R390). -/
theorem State.freeBanks_of_eclipseCode {u : Nat} (hc : s.eclipseCode u = 0) (hb : isBank u = true) (hs : (s.bankServes (u - 0x100)).isSome = true) :
    s.freeBanks ≠ [] := by
  intro none_free
  unfold State.eclipseCode at hc
  dsimp only at hc
  split at hc
  · cases hc
  split at hc
  · cases hc
  rw [if_pos (by simp [hb, hs, none_free])] at hc
  cases hc

/-- The state in which a unit has been asked to stop (R390). -/
def State.stopping (s : State) (u : Nat) (immediate : Bool) (entry : Option Nat) : State :=
  let s : State := { s with eclWait := s.eclWait ++ [⟨u, entry⟩] }
  if immediate then s.stopUnit u else s

theorem State.stopping_duty (u : Nat) (immediate : Bool) (entry : Option Nat) :
    (s.stopping u immediate entry).duty = ({ s with eclWait := s.eclWait ++ [⟨u, entry⟩] } : State).duty := by
  unfold State.stopping
  exact coll_ite (State.stopUnit_duty _ u) rfl

/-- The copy of a bank that leaves service into a free one (R203). -/
def State.copying (s : State) (u l id : Nat) : State :=
  { (s.drawBelow s.freeBanks.length).2 with
    copies := s.copies ++ [{ logical := l, from_ := u - 0x100, into := s.freeBanks.getD (s.drawBelow s.freeBanks.length).1 0, entry := id }] }

theorem State.copying_last (u l id : Nat) (hf : s.freeBanks ≠ []) : (s.copying u l id).copies.dropLast = s.copies
    ∧ ((s.copying u l id).copies.getLast?).map (fun c => (c.logical, c.from_, c.done, s.freeBanks.contains c.into))
      = some (l, u - 0x100, false, true) := by
  have pick : (s.drawBelow s.freeBanks.length).1 < s.freeBanks.length := Nat.mod_lt _ (List.length_pos_iff.2 hf)
  have free : s.freeBanks.contains (s.freeBanks.getD (s.drawBelow s.freeBanks.length).1 0) = true := by
    rw [List.getD_eq_getElem _ _ pick]
    simp
  refine ⟨List.dropLast_concat, ?_⟩
  rw [State.copying, List.getLast?_concat, Option.map_some, free]

theorem State.eclipseBegin_unit (u : Nat) (immediate : Bool) (entry : Option Nat) (hu : u < 64 → s.eclipsed u = false)
    (hb : isBank u = false) : s.eclipseBegin u immediate entry = s.stopping u immediate entry := by
  unfold State.eclipseBegin
  rw [if_neg (fun h => by simp [hu h.1] at h), if_neg (fun h => by simp [hb] at h)]
  extract_lets v w
  rw [if_neg (by simp [hb])]
  rfl

theorem State.eclipseBegin_bank (u l id : Nat) (immediate : Bool) (hb : isBank u = true) (hs : (s.bankServes (u - 0x100)).isSome = true)
    (hl : (s.stopping u immediate (some id)).bankServes (u - 0x100) = some l) :
    s.eclipseBegin u immediate (some id) = (s.stopping u immediate (some id)).copying u l id := by
  have above : ¬u < 64 := by
    simp only [isBank, Bool.and_eq_true, decide_eq_true_eq] at hb
    omega
  unfold State.eclipseBegin
  rw [if_neg (fun h => above h.1), if_neg (fun h => by simp [Option.isNone_iff_eq_none.1 h.2] at hs)]
  extract_lets v w free
  have hw : w = s.stopping u immediate (some id) := rfl
  clear_value w
  subst hw
  rw [if_pos hb, hl]
  rfl

/-- A unit that is in service begins to leave it; a bank that serves is copied into a free one first (R203, R390). -/
theorem State.eclipseBegin_waits (u id : Nat) (immediate : Bool) (hu : u < 64 → s.eclipsed u = false)
    (hb : isBank u = true → (s.bankServes (u - 0x100)).isSome = true) :
    (s.eclipseBegin u immediate (some id)).eclWait = s.eclWait ++ [({ unit := u, entry := some id } : UnitCmd)]
    ∧ (s.eclipseBegin u immediate (some id)).ctx = s.ctx
    ∧ (isBank u = false → (s.eclipseBegin u immediate (some id)).copies = s.copies)
    ∧ ∀ l : Nat, isBank u = true → s.bankServes (u - 0x100) = some l → s.freeBanks ≠ [] →
        (s.eclipseBegin u immediate (some id)).copies.dropLast = s.copies
        ∧ ((s.eclipseBegin u immediate (some id)).copies.getLast?).map (fun c => (c.logical, c.from_, c.done, s.freeBanks.contains c.into))
          = some (l, u - 0x100, false, true) := by
  obtain ⟨posts, services⟩ := Prod.ext_iff.1 (s.stopping_duty u immediate (some id))
  obtain ⟨eclWait, -, copies, -, -⟩ := posts_eq posts
  have ctx := ctx_of_posts posts
  have free := freeBanks_of_services services copies
  cases bank : isBank u with
  | false =>
    rw [s.eclipseBegin_unit u immediate (some id) hu bank]
    exact ⟨eclWait, ctx, fun _ => copies, fun l h => nomatch h⟩
  | true =>
    obtain ⟨l, hl⟩ := Option.isSome_iff_exists.1 (hb bank)
    have hl' := (bankServes_of_services services (u - 0x100)).trans hl
    rw [s.eclipseBegin_bank u l id immediate bank (hb bank) hl']
    refine ⟨eclWait, ctx, fun h => (nomatch h), fun k _ hk some_free => ?_⟩
    obtain rfl : l = k := Option.some.inj (hl.symm.trans hk)
    obtain ⟨first, last⟩ := (s.stopping u immediate (some id)).copying_last u l id fun h => some_free (free.symm.trans h)
    rw [free] at last
    exact ⟨first.trans copies, last⟩

/-- ECLIPSE_DONE of a stopped unit without a copy that is done (R390). -/
theorem State.eclipseDone_leaves (u : Nat) (w : UnitCmd) (he : s.engines = true) (hw : s.eclWait.find? (·.unit == u) = some w)
    (hs : s.unitStopped u = true) (hb : isBank u = true → s.copies.any (·.from_ == u - 0x100) = false) :
    s.eclipseDone u = ((({ s with eclWait := s.eclWait.filter (·.unit != u) } : State).applyEclipse u).epochBoundary).finishCmd w.entry 1 := by
  unfold State.eclipseDone
  rw [hw]
  dsimp only
  rw [if_neg (by simp [he, hs]), if_neg (fun h => by simp [hb h.1] at h)]

theorem State.eclipseDone_switches (u : Nat) (w : UnitCmd) (he : s.engines = true) (hw : s.eclWait.find? (·.unit == u) = some w)
    (hs : s.unitStopped u = true) (hb : isBank u = true) (hc : s.copies.any (·.from_ == u - 0x100) = true) :
    s.eclipseDone u = s.epochBoundary := by
  unfold State.eclipseDone
  rw [hw]
  dsimp only
  rw [if_neg (by simp [he, hs]), if_pos ⟨hb, hc⟩]

theorem isBank_spare (b : Fin 520) : isBank (0x100 + b) = true ∧ isTe (0x100 + b) = false ∧ isCol (0x100 + b) = false := by
  have := b.isLt
  simp only [isBank, isTe, isCol, Bool.and_eq_true, Bool.or_eq_false_iff, Bool.and_eq_false_iff, decide_eq_true_eq, decide_eq_false_iff_not]
  omega

theorem State.reenterCmd_tests (e : Entry) (he : s.engines = true) (ho : s.oldest 8 0x41 = some e) (hecl : s.eclipsed (e.field 8 2) = true)
    (hte : e.field 8 2 < 64 → s.eclipsed (0x40 + e.field 8 2 / 16) = false) :
    s.reenterCmd = { s.start 8 e with reenter := s.reenter ++ [⟨e.field 8 2, some e.id⟩] } := by
  refine (s.take_oldest 8 0x41 _ e he ho).trans ?_
  dsimp only
  rw [if_neg (by simp [hecl]), if_neg (fun h => by simp [hte h.1] at h)]

theorem State.reenterCmd_refused (e : Entry) (he : s.engines = true) (ho : s.oldest 8 0x41 = some e)
    (hecl : s.eclipsed (e.field 8 2) = false) : s.reenterCmd = s.finish 8 e 0x1F 5 := by
  refine (s.take_oldest 8 0x41 _ e he ho).trans ?_
  dsimp only
  rw [if_pos (by simp [hecl])]
  rfl

/-- A unit under test fails it (R392). -/
theorem State.reenterDone_fails (u : Nat) (w : UnitCmd) (he : s.engines = true) (hw : s.reenter.find? (·.unit == u) = some w) :
    s.reenterDone u false = State.finishCmd { s with reenter := s.reenter.filter (·.unit != u) } w.entry 0x1F 6 := by
  unfold State.reenterDone
  rw [hw]
  dsimp only
  rw [if_neg (by simp [he])]
  rfl

/-- A unit under test passes it: it is admitted at an epoch boundary, and its command ends (R392). -/
theorem State.reenterDone_passes (u : Nat) (w : UnitCmd) (he : s.engines = true) (hw : s.reenter.find? (·.unit == u) = some w) :
    ∃ admitted, s.reenterDone u true = State.finishCmd
      { ({ s with reenter := s.reenter.filter (·.unit != u) } : State).epochBoundary.admitUnit u with admitted := admitted } w.entry 1 := by
  unfold State.reenterDone
  rw [hw]
  dsimp only
  rw [if_neg (by simp [he])]
  exact ⟨_, rfl⟩

/-- Settles O46: each row is one change of what the manager keeps, behind it the end of the command, which leaves it as it is. -/
theorem unitsLeaveAndReturn : Obligations.UnitsLeaveAndReturn := by
  unfold Obligations.UnitsLeaveAndReturn
  intro s he hq hh
  refine ⟨fun e ho hc => ?_, fun e ho hc hu hb => ?_, fun u w hw hs hc => ?_, fun b => rfl, fun b w c hw hcs hf hd hl hi => ?_,
    fun e ho hecl hte => ?_, fun e ho hecl => ?_, fun u w hw hc => ⟨?_, ?_⟩⟩
  · have ends := s.finish_ends e 0x1F (s.eclipseCode (e.field 8 2)) 0 hq hh
    obtain ⟨graphs, -, -, -, gone⟩ := s.finish_still 8 e 0x1F (s.eclipseCode (e.field 8 2)) 0
    exact ⟨_, congrArg Host.Outcome.next (s.eclipseCmd_refused e he ho hc), ends.eclWait, ends.copies, graphs, gone,
      fun u => eclipsed_of_services ends.services u.isLt⟩
  · obtain ⟨eclWait, ctx, unit, bank⟩ := (s.start 8 e).eclipseBegin_waits (e.field 8 2) e.id (bit (e.field 10 1) 0) hu hb
    refine ⟨_, congrArg Host.Outcome.next (s.eclipseCmd_begins e he ho hc), eclWait, ?_, unit, fun l hbank hl => bank l hbank hl ?_⟩
    · rw [ctx]
      exact s.start_entries 8 e
    · exact s.freeBanks_of_eclipseCode hc hbank (hb hbank)
  · have no_copy : isBank u = true → s.copies.any (·.from_ == u - 0x100) = false := fun hbank => by
      simp only [isBank, Bool.and_eq_true, decide_eq_true_eq] at hbank
      refine List.any_eq_false.2 fun c h => ?_
      have := (hc c h).2
      rw [beq_iff_eq]
      omega
    have leaves := s.eclipseDone_leaves u w he hw hs no_copy
    set v : State := { s with eclWait := s.eclWait.filter (·.unit != u.val) }
    obtain ⟨eclWait, -, copies, epochNo, -⟩ := posts_eq (posts_of_stay (v.applyEclipse_stay u))
    have ctx := ctx_of_posts (posts_of_stay (v.applyEclipse_stay u))
    have out := v.applyEclipse_eclipsed u.isLt
    generalize v.applyEclipse u = a at leaves eclWait copies epochNo ctx out
    rw [a.epochBoundary_quiet fun c h => (hc c (copies ▸ h)).1] at leaves
    have hq' : (a.ctx 8).holdQ = [] := (congrArg (fun f => (f 8).holdQ) ctx).trans hq
    have hh' : (a.ctx 8).held = [] := (congrArg (fun f => (f 8).held) ctx).trans hh
    have ends := State.finishCmd_ends { a.wrap F.schedEpoch with epochNo := a.epochNo + 1 } w.entry 1 0 0 hq' hh'
    have out' := (eclipsed_of_services (ends.services.trans (a.services_setFld _ _ schedEpoch_not_service)) u.isLt).trans out
    exact ⟨_, congrArg Host.Outcome.next leaves, out', ends.epochNo.trans (congrArg (· + 1) epochNo), ends.eclWait.trans eclWait, ends.gone⟩
  · obtain ⟨bank, te, col⟩ := isBank_spare b
    have hfrom : 0x100 + b.val - 0x100 = b.val := by omega
    have stopped : s.unitStopped (0x100 + b) = true := by
      unfold State.unitStopped
      simp [te, col, bank, hcs, hd]
    have copied : s.copies.any (·.from_ == 0x100 + b.val - 0x100) = true := by simp [hcs, hf]
    have switches := s.eclipseDone_switches (0x100 + b) w he hw stopped bank copied
    obtain ⟨mapped, out, copies, eclWait, epochNo, gone⟩ := State.switchBank_switches
      { s.wrap F.schedEpoch with epochNo := s.epochNo + 1 } c hl hi (hf ▸ b.isLt) hq hh
    have one : s.epochBoundary = State.switchBank { s.wrap F.schedEpoch with epochNo := s.epochNo + 1 } c := by
      have done : s.copies.filter (·.done) = [c] := by simp [hcs, hd]
      exact congrArg (fun l => l.foldl (fun s c => s.switchBank c) { s.wrap F.schedEpoch with epochNo := s.epochNo + 1 }) done
    refine ⟨_, congrArg Host.Outcome.next (switches.trans one), mapped, hf ▸ out, ?_, epochNo, fun x hx => ?_, gone⟩
    · rw [copies]
      simp [hcs]
    · rw [eclWait, hf] at hx
      simpa using (List.mem_filter.1 hx).2
  · exact ⟨_, congrArg Host.Outcome.next (s.reenterCmd_tests e he ho hecl hte), rfl, s.start_entries 8 e, rfl⟩
  · have ends := s.finish_ends e 0x1F 5 0 hq hh
    obtain ⟨graphs, -, -, -, gone⟩ := s.finish_still 8 e 0x1F 5 0
    exact ⟨_, congrArg Host.Outcome.next (s.reenterCmd_refused e he ho hecl), ends.reenter, gone, graphs⟩
  · obtain ⟨admitted, passes⟩ := s.reenterDone_passes u w he hw
    set v : State := { s with reenter := s.reenter.filter (·.unit != u.val) }
    rw [v.epochBoundary_quiet hc] at passes
    obtain ⟨posts, back⟩ := Prod.ext_iff.1 (State.admitUnit_place { v.wrap F.schedEpoch with epochNo := v.epochNo + 1 } u.isLt)
    generalize State.admitUnit { v.wrap F.schedEpoch with epochNo := v.epochNo + 1 } u = a at passes posts back
    obtain ⟨-, reenter, -, epochNo, -⟩ := posts_eq posts
    have ctx := ctx_of_posts posts
    have hq' : (a.ctx 8).holdQ = [] := (congrArg (fun f => (f 8).holdQ) ctx).trans hq
    have hh' : (a.ctx 8).held = [] := (congrArg (fun f => (f 8).held) ctx).trans hh
    have ends := State.finishCmd_ends { a with admitted := admitted } w.entry 1 0 0 hq' hh'
    exact ⟨_, congrArg Host.Outcome.next passes, (eclipsed_of_services ends.services u.isLt).trans back, ends.epochNo.trans epochNo,
      ends.reenter.trans reenter, ends.gone⟩
  · have ends := State.finishCmd_ends { s with reenter := s.reenter.filter (·.unit != u.val) } w.entry 0x1F 6 0 hq hh
    exact ⟨_, congrArg Host.Outcome.next (s.reenterDone_fails u w he hw), fun v => eclipsed_of_services ends.services v.isLt, ends.epochNo,
      ends.reenter, ends.gone⟩

end Sys2Proof.Machine
end

section
/-! The graphs of the window: what an update of a graph or of a node gives to a look-up of it, and what the steps of a node's life do to
graphs, tile memory and counters. -/

namespace Sys2Proof.Machine

variable (s : State)

theorem find?_updFirst {α : Type} {p : α → Bool} {f : α → α} (hf : ∀ x, p x = true → p (f x) = true) (l : List α) :
    (updFirst p f l).find? p = (l.find? p).map f := by
  induction l with
  | nil => rfl
  | cons x l ih =>
    rw [updFirst]
    cases hx : p x with
    | true => simp [hx, hf x hx]
    | false => simpa [hx] using ih

theorem find?_updFirst_ne {α : Type} {p q : α → Bool} {f : α → α} (hf : ∀ x, p x = true → q x = false ∧ q (f x) = false) (l : List α) :
    (updFirst p f l).find? q = l.find? q := by
  induction l with
  | nil => rfl
  | cons x l ih =>
    rw [updFirst]
    cases hx : p x with
    | true => simp [(hf x hx).1, (hf x hx).2]
    | false => simp [List.find?_cons, ih]

theorem mem_updFirst_of_not {α : Type} {p : α → Bool} {f : α → α} {l : List α} {x : α} (hx : x ∈ l) (hp : p x = false) :
    x ∈ updFirst p f l := by
  induction l with
  | nil => cases hx
  | cons y l ih =>
    rw [updFirst]
    rcases List.mem_cons.1 hx with rfl | h
    · simp [hp]
    · split
      · exact List.mem_cons_of_mem _ h
      · exact List.mem_cons_of_mem _ (ih h)

theorem State.graph_id {g : Nat} {x : Graph} (h : s.graph g = some x) : x.id = g := by simpa using List.find?_some h

theorem State.graph_modGraph (g : Nat) (f : Graph → Graph) (hf : ∀ x, (f x).id = x.id) :
    (s.modGraph g f).graph g = (s.graph g).map f :=
  find?_updFirst (fun x hx => by rwa [hf x]) s.graphs

/-- An update of a node is one of its graph. -/
theorem State.graph_modNode (g n : Nat) (f : Node → Node) :
    (s.modNode g n f).graph g = (s.graph g).map (fun x => { x with nodes := updFirst (fun y => y.idx == n) f x.nodes }) :=
  s.graph_modGraph g _ fun _ => rfl

theorem State.node_modNode (g n : Nat) (f : Node → Node) (hf : ∀ x, (f x).idx = x.idx) :
    (s.modNode g n f).node g n = (s.node g n).map f := by
  unfold State.node
  rw [s.graph_modNode]
  cases s.graph g with
  | none => rfl
  | some x => exact find?_updFirst (fun y hy => by rwa [hf y]) x.nodes

theorem State.node_modNode_ne (g : Nat) {m n : Nat} (f : Node → Node) (hf : ∀ x, (f x).idx = x.idx) (h : m ≠ n) :
    (s.modNode g m f).node g n = s.node g n := by
  unfold State.node
  rw [s.graph_modNode]
  cases s.graph g with
  | none => rfl
  | some x => exact find?_updFirst_ne (fun y hy => by rw [hf y]; simp_all) x.nodes

/-- An update of a graph that lets its nodes stand. -/
theorem State.node_modGraph (g n : Nat) (f : Graph → Graph) (hf : ∀ x, (f x).id = x.id) (hn : ∀ x, (f x).nodes = x.nodes) :
    (s.modGraph g f).node g n = s.node g n := by
  unfold State.node
  rw [s.graph_modGraph g f hf]
  cases s.graph g with
  | none => rfl
  | some x => exact congrArg (List.find? _) (hn x)

theorem State.node_countSlice (g n : Nat) : (s.countSlice g n).node g n = (s.node g n).map (fun x => { x with run := x.run + 1 }) := by
  unfold State.countSlice
  refine (State.node_modGraph _ g n _ ?_ ?_).trans (s.node_modNode g n _ fun _ => rfl)
  · exact fun _ => rfl
  · exact fun _ => rfl

theorem node_of_graphs {s t : State} (h : t.graphs = s.graphs) : t.node = s.node := by
  unfold State.node State.graph
  rw [h]

/-- The graphs, tile memory and the counters. -/
def State.plan (s : State) : List Graph × List Host.Cell × List (Nat × W32) := (s.graphs, s.tile, s.counters)

theorem plan_eq {s t : State} (h : t.plan = s.plan) : t.graphs = s.graphs ∧ t.tile = s.tile ∧ t.counters = s.counters := by
  simpa only [State.plan, Prod.mk.injEq] using h

theorem plan_of_work {s t : State} (h : t.work = s.work) : t.plan = s.plan := congrArg (fun w => w.2.plan) h

theorem plan_of_rest {s t : State} (h : t.rest = s.rest) : t.plan = s.plan := (congrArg State.plan h :)

theorem State.applyVs_lit : ∃ owners, s.applyVs = { s with vsOwners := owners } := by
  unfold State.applyVs
  generalize List.range 16 = l
  induction l generalizing s with
  | nil => exact ⟨_, rfl⟩
  | cons i l ih =>
    rw [List.foldl_cons]
    split
    · exact ih s
    · obtain ⟨owners, h⟩ := ih { s with vsOwners := Sparse.set (fun _ => 15) s.vsOwners i (s.fld (F.vsOwner i)) }
      exact ⟨owners, h⟩

theorem State.applyVs_plan : s.applyVs.plan = s.plan := by
  obtain ⟨owners, h⟩ := s.applyVs_lit
  rw [h]
  rfl

theorem State.event_plan (v : Nat) : (s.event v).plan = s.plan := plan_of_rest (s.event_rest v)

/-- The completion of an entry changes no graph (R60). -/
theorem State.finish_plan (c : Nat) (e : Entry) (status detail result : Nat) (chan : Option Nat) (after : After) :
    (s.finish c e status detail result chan after).plan = s.plan := by
  unfold State.finish
  dsimp only
  refine coll_ite ((plan_of_work (State.afterRec_work _ _ _)).trans ?_) ((plan_of_work (State.emit_work _ _)).trans rfl)
  split
  · exact State.event_plan _ _
  · rfl

theorem State.nodeRec_plan (g : Graph) (n : Node) : (s.nodeRec g n).plan = s.plan := by
  unfold State.nodeRec
  dsimp only
  refine coll_ite (plan_of_work (State.emit_work _ _)) ?_
  split
  · exact s.event_plan _
  · rfl

theorem plan_dropGraph {s t : State} (h : t.plan = s.plan) (g : Nat) : (t.dropGraph g).plan = (s.dropGraph g).plan :=
  congrArg (fun p : List Graph × List Host.Cell × List (Nat × W32) => (p.1.filter (fun x : Graph => x.id != g), p.2)) h

/-- The end of a graph is, of graphs, its removal (R91). -/
theorem State.endGraph_plan (g : Graph) : (s.endGraph g).plan = (s.dropGraph g.id).plan := by
  unfold State.endGraph
  split
  · next e he =>
    dsimp only
    split <;> exact plan_dropGraph (State.finish_plan _ _ _ _ _ _ _ _) g.id
  · rfl

theorem State.setFld_plan (f : Fld) (v : Nat) : (s.setFld f v).plan = s.plan := rfl

theorem State.cvuDone_plan (g : Graph) (n : Node) : (s.cvuDone g n).plan = s.plan := by
  simp only [State.cvuDone, State.wrap, State.setFld_plan]

theorem State.endEntryGraph_plan (g : Graph) (n : Node) : (s.endEntryGraph g n).plan = (s.dropGraph g.id).plan := by
  unfold State.endEntryGraph
  split
  · next e he =>
    refine plan_dropGraph ((State.finish_plan _ _ _ _ _ _ _ _).trans ?_) g.id
    exact coll_ite (State.cvuDone_plan _ g n) rfl
  · rfl

/-- A graph whose node has completed (R89). -/
def Graph.retired (g : Graph) (n : Node) : Graph :=
  { g with nodes := g.nodes.filter (·.idx != n.idx), doneIdx := g.doneIdx ++ [n.idx], corr := g.corr + n.corr }

theorem State.retire_plan (g : Graph) (n : Node) : (s.retire g n).plan = (s.modGraph g.id (·.retired n)).plan := by
  unfold State.retire
  exact (State.applyVs_plan _).trans ((State.nodeRec_plan _ _ _).trans (coll_ite (State.cvuDone_plan _ g n) rfl))

theorem State.addWait_plan (w : Wait) : (s.addWait w).plan = s.plan := by
  obtain ⟨n, l, h⟩ := s.ctrSettle_lit w.counter
  unfold State.addWait
  rw [h]
  rfl

/-- When nodes become ready, their ages alone change (R79). -/
theorem State.markReady_plan : ∃ age : Graph → Node → Option Nat, s.markReady.plan
    = (s.graphs.map (fun g => { g with nodes := g.nodes.map (fun n => { n with age := age g n }) }), s.tile, s.counters) := by
  unfold State.markReady
  extract_lets fresh
  split
  · refine ⟨fun g n => if fresh g n then some s.readyNo else n.age, ?_⟩
    refine (proj_foldl (p := State.plan) fun t w _ => t.addWait_plan w).trans ?_
    refine congrArg (fun l => (l, s.tile, s.counters)) (List.map_congr_left fun g _ => ?_)
    have nodes : g.nodes.map (fun n => if fresh g n then { n with age := some s.readyNo } else n)
        = g.nodes.map (fun n => { n with age := if fresh g n then some s.readyNo else n.age }) :=
      List.map_congr_left fun n _ => by split <;> rfl
    dsimp only
    rw [nodes]
  · refine ⟨fun _ n => n.age, ?_⟩
    have same : s.graphs.map (fun g : Graph => { g with nodes := g.nodes.map (fun n => { n with age := n.age }) }) = s.graphs := by simp
    rw [same]
    rfl

theorem State.markReady_frame : s.markReady.tile = s.tile ∧ s.markReady.counters = s.counters := by
  obtain ⟨age, h⟩ := s.markReady_plan
  exact ⟨congrArg (·.2.1) h, congrArg (·.2.2) h⟩

theorem State.markReady_graph (g : Nat) : ∃ age : Graph → Node → Option Nat, s.markReady.graph g
    = (s.graph g).map (fun x => { x with nodes := x.nodes.map (fun n => { n with age := age x n }) }) := by
  obtain ⟨age, h⟩ := s.markReady_plan
  refine ⟨age, ?_⟩
  have graphs := congrArg Prod.fst h
  unfold State.graph
  rw [show s.markReady.graphs = _ from graphs, List.find?_map]
  rfl

theorem State.markReady_node (g n : Nat) : ∃ age : Node → Option Nat, s.markReady.node g n
    = (s.node g n).map (fun x => { x with age := age x }) := by
  obtain ⟨age, h⟩ := s.markReady_graph g
  unfold State.node
  rw [h]
  cases s.graph g with
  | none => exact ⟨fun x => x.age, rfl⟩
  | some x =>
    refine ⟨age x, ?_⟩
    simp only [Option.map_some, Option.bind_some, Graph.node, List.find?_map]
    rfl

end Sys2Proof.Machine
end

section
/-! The ends of slices and of nodes, and the abandonment of a graph that has failed (O53). -/

namespace Sys2Proof.Machine

variable (s : State)

-- slices

/-- A node between two slices, with these slices to come (R82). -/
def Node.closed (x : Node) (left : List Nat) : Node := { x with st := .between, slices := left, pos := 0, endSlice := false }

/-- A node's slice is over, and counts (R84). -/
def State.sliceClosed (s : State) (g : Nat) (n : Node) : State := (s.modNode g n.idx (·.closed n.slicesLeft)).countSlice g n.idx

theorem State.closeSlice_plain (g t : Nat) (n : Node) (hc : s.compares t = false) (hk : n.kind ≠ 1) :
    s.closeSlice g t n = (s.sliceClosed g n).applyVs := by
  unfold State.closeSlice State.sliceClosed Node.closed
  cases n.units.find? (· < 64) <;> simp [hc, hk]

theorem State.closeSlice_program (g t ch : Nat) (n : Node) (p : Prog) (hc : s.compares t = false) (hk : n.kind = 1)
    (hu : n.units.find? (· < 64) = some ch) (hp : (s.chan ch).prog = some p) (he : p.ended = false) :
    s.closeSlice g t n = ((s.unbind ch).sliceClosed g n).applyVs := by
  unfold State.closeSlice State.sliceClosed Node.closed
  simp [hc, hk, hu, hp, he]

theorem State.sliceClosed_node (g : Nat) (n : Node) (h : s.node g n.idx = some n) :
    (s.sliceClosed g n).node g n.idx
      = some { n.closed n.slicesLeft with run := n.run + 1 } := by
  unfold State.sliceClosed
  rw [State.node_countSlice, s.node_modNode g n.idx (·.closed n.slicesLeft) fun _ => rfl, h]
  rfl

theorem fld_of_regs {s t : State} (h : t.regs = s.regs) (f : Fld) : t.fld f = s.fld f := by
  unfold State.fld State.reg
  rw [h]

/-- The end of a slice leaves channels, registers and, of tile memory and counters, everything as it is; its node stands as it leaves it. -/
theorem State.sliceClosed_frame (g : Nat) (n : Node) (k : Nat) (f : Fld) :
    (s.sliceClosed g n).applyVs.chan k = s.chan k ∧ (s.sliceClosed g n).applyVs.fld f = s.fld f
      ∧ (s.sliceClosed g n).applyVs.tile = s.tile ∧ (s.sliceClosed g n).applyVs.counters = s.counters
      ∧ (s.sliceClosed g n).applyVs.node = (s.sliceClosed g n).node := by
  obtain ⟨owners, lit⟩ := (s.sliceClosed g n).applyVs_lit
  have closed : (s.sliceClosed g n).chans = s.chans ∧ (s.sliceClosed g n).regs = s.regs ∧ (s.sliceClosed g n).tile = s.tile
      ∧ (s.sliceClosed g n).counters = s.counters := by
    simp only [State.sliceClosed, State.countSlice_frame, State.modNode_frame, and_self]
  obtain ⟨chans, regs, tile, counters⟩ := closed
  rw [lit]
  generalize s.sliceClosed g n = t at chans regs tile counters
  have node : ({ t with vsOwners := owners } : State).node = t.node := rfl
  exact ⟨congrArg (Sparse.get _ · k) chans, fld_of_regs (t := { t with vsOwners := owners }) regs f, tile, counters, node⟩

/-- A program whose slice ends is parked: its channel is idle and free for the next (R86). -/
theorem State.unbind_chan (ch : Fin 64) (p : Prog) (hp : (s.chan ch).prog = some p) :
    ((s.unbind ch).chan ch).prog = none ∧ p ∈ ((s.unbind ch).chan ch).idle ∧ (s.unbind ch).fld (F.chState ch) = 1
      ∧ (s.unbind ch).graphs = s.graphs := by
  have parked : ((s.unbind ch).chan ch) = { s.chan ch with prog := none, mark := none, back := none, idle := (s.chan ch).idle ++ [p],
                                                           last := some (p.g, p.n) } := by
    simp only [State.unbind, hp, State.chTo, State.setFld_frame, State.modChan, State.chan_setChan]
  refine ⟨by rw [parked], by simp [parked], ?_, ?_⟩
  · simp only [State.unbind, hp, State.chTo]
    exact State.fld_setFld_fits _ _ _ (by simp [F.chState]) (by simp [F.chState])
  · simp only [State.unbind, hp]
    rfl

theorem State.endSlices_ends (g n : Nat) (gr : Graph) (nd : Node) (hg : s.graph g = some gr) (hn : s.node g n = some nd)
    (he : s.engines = true) (hk : nd.kind ≠ 8) (hi : nd.inChain = false) (h : s.sliceEnds g nd = true) :
    s.endSlices g n = s.closeSlice g gr.ctx nd := by
  simp [State.endSlices, hg, hn, he, hk, hi, h]

theorem State.endSlices_before (g n : Nat) (gr : Graph) (nd : Node) (hg : s.graph g = some gr) (hn : s.node g n = some nd)
    (hk : nd.kind ≠ 8) (h : s.sliceEnds g nd = false) : s.endSlices g n = s := by
  simp [State.endSlices, hg, hn, hk, h]

/-- The time of a slice is up (R82): of a node that is no CHAIN, the node itself is told. -/
theorem State.sliceTime_open (g n : Nat) (gr : Graph) (nd : Node) (hg : s.graph g = some gr) (hn : s.node g n = some nd)
    (ho : nd.st = .opened) (hk : nd.kind ≠ 8) :
    s.sliceTime g n = (s.advanceTo (nd.began + 100000)).modNode g n (fun x => { x with endSlice := true }) := by
  simp [State.sliceTime, hg, hn, ho, Graph.stages, hk]

/-- A node that is told, at a later moment, to end its slice at its next cut point. -/
theorem State.advanceTo_told (k g n : Nat) (nd : Node) (hn : s.node g n = some nd) :
    ((s.advanceTo k).modNode g n (fun x => { x with endSlice := true })).aon = Nat.max s.aon k
      ∧ ((s.advanceTo k).modNode g n (fun x => { x with endSlice := true })).node g n = some { nd with endSlice := true }
      ∧ ((s.advanceTo k).modNode g n (fun x => { x with endSlice := true })).tile = s.tile := by
  have time := s.advanceTo_aon k
  have graphs : (s.advanceTo k).graphs = s.graphs := by simp only [State.advanceTo_frame]
  have tile : (s.advanceTo k).tile = s.tile := by simp only [State.advanceTo_frame]
  generalize s.advanceTo k = t at time graphs tile
  have node : t.node g n = some nd := by rw [node_of_graphs graphs, hn]
  rw [t.node_modNode g n (fun x => { x with endSlice := true }) fun _ => rfl, node]
  exact ⟨time, rfl, tile⟩

theorem State.sliceTime_told (g n : Nat) (gr : Graph) (nd : Node) (hg : s.graph g = some gr) (hn : s.node g n = some nd)
    (ho : nd.st = .opened) (hk : nd.kind ≠ 8) :
    (s.sliceTime g n).aon = Nat.max s.aon (nd.began + 100000) ∧ (s.sliceTime g n).node g n = some { nd with endSlice := true }
      ∧ (s.sliceTime g n).tile = s.tile := by
  rw [s.sliceTime_open g n gr nd hg hn ho hk]
  exact s.advanceTo_told (nd.began + 100000) g n nd hn

-- the end of a node

/-- Of a graph, node `n` has completed and does not stand in it any more, if the graph stands. -/
def State.nodeOver (s : State) (g n : Nat) : Prop := ∀ x, s.graph g = some x → (∀ m ∈ x.nodes, m.idx ≠ n) ∧ n ∈ x.doneIdx

theorem nodeOver_node {g n : Nat} (h : s.nodeOver g n) : s.node g n = none := by
  unfold State.node
  cases hg : s.graph g with
  | none => rfl
  | some x => exact List.find?_eq_none.2 fun m hm => by simpa using (h x hg).1 m hm

theorem nodeOver_done {g n : Nat} (h : s.nodeOver g n) : (s.graph g).all (fun x => x.doneIdx.contains n) = true := by
  cases hg : s.graph g with
  | none => rfl
  | some x => simpa using (h x hg).2

theorem State.graph_dropGraph (g : Nat) : (s.dropGraph g).graph g = none :=
  List.find?_eq_none.2 fun x hx => by simpa using (List.mem_filter.1 hx).2

theorem graph_of_plan {s t : State} (h : t.plan = s.plan) (g : Nat) : t.graph g = s.graph g := by
  unfold State.graph
  rw [(plan_eq h).1]

theorem State.retire_graph (g : Graph) (n : Node) : (s.retire g n).graph g.id = (s.graph g.id).map (·.retired n) :=
  (graph_of_plan (s.retire_plan g n) g.id).trans (s.graph_modGraph g.id _ fun _ => rfl)

theorem State.retire_over (g : Graph) (n : Node) : (s.retire g n).nodeOver g.id n.idx := by
  intro x hx
  rw [State.retire_graph] at hx
  obtain ⟨y, -, rfl⟩ := Option.map_eq_some_iff.1 hx
  refine ⟨fun m hm => ?_, by simp [Graph.retired]⟩
  simpa using (List.mem_filter.1 hm).2

theorem State.retire_frame (g : Graph) (n : Node) : (s.retire g n).tile = s.tile ∧ (s.retire g n).counters = s.counters :=
  (plan_eq (s.retire_plan g n)).2

/-- The end of a graph's last node leaves the graph as it is, or removes it. -/
theorem State.graphDone_cases (g : Nat) : s.graphDone g = s ∨ ∃ x, s.graph g = some x ∧ s.graphDone g = s.endGraph x := by
  unfold State.graphDone
  split
  · next x hx =>
    split
    · exact .inr ⟨x, hx, rfl⟩
    · exact .inl rfl
  · exact .inl rfl

theorem State.graphDone_over (g n : Nat) (h : s.nodeOver g n) : (s.graphDone g).nodeOver g n := by
  rcases s.graphDone_cases g with h1 | ⟨x, hx, h1⟩
  · rwa [h1]
  · intro y hy
    rw [h1, graph_of_plan (s.endGraph_plan x), s.graph_id hx, s.graph_dropGraph g] at hy
    cases hy

theorem State.graphDone_frame (g : Nat) : (s.graphDone g).tile = s.tile ∧ (s.graphDone g).counters = s.counters := by
  rcases s.graphDone_cases g with h1 | ⟨x, -, h1⟩
  · rw [h1]; exact ⟨rfl, rfl⟩
  · rw [h1]; exact (plan_eq (s.endGraph_plan x)).2

theorem State.markReady_over (g n : Nat) (h : s.nodeOver g n) : s.markReady.nodeOver g n := by
  intro y hy
  obtain ⟨age, hage⟩ := s.markReady_graph g
  rw [hage] at hy
  obtain ⟨x, hx, rfl⟩ := Option.map_eq_some_iff.1 hy
  obtain ⟨gone, done⟩ := h x hx
  refine ⟨fun m hm => ?_, done⟩
  obtain ⟨k, hk, rfl⟩ := List.mem_map.1 hm
  exact gone k hk

theorem State.retireStages_frame (g : Graph) (l : List Node) :
    (l.foldl (fun t m => t.retire g m) s).tile = s.tile ∧ (l.foldl (fun t m => t.retire g m) s).counters = s.counters :=
  ⟨proj_foldl (p := State.tile) fun t m _ => (t.retire_frame g m).1, proj_foldl (p := State.counters) fun t m _ => (t.retire_frame g m).2⟩

/-- A node that completes leaves its graph, with its index among the completed ones (R89). -/
theorem State.completeNode_over (g n : Nat) (gr : Graph) (nd : Node) (hg : s.graph g = some gr) (hn : s.node g n = some nd) (hi : nd.idx = n) :
    (s.completeNode g n).nodeOver g n ∧ (s.completeNode g n).tile = s.tile ∧ (s.completeNode g n).counters = s.counters := by
  obtain rfl : gr.id = g := s.graph_id hg
  subst hi
  simp only [State.completeNode, hg, hn]
  split
  · have plan := s.endEntryGraph_plan gr nd
    refine ⟨fun x hx => ?_, (plan_eq plan).2⟩
    rw [graph_of_plan plan, State.graph_dropGraph] at hx
    cases hx
  · have stages := s.retireStages_frame gr (gr.stages nd)
    generalize (gr.stages nd).foldl (fun t m => t.retire gr m) s = t at stages ⊢
    have last := t.retire_frame gr nd
    have gone := t.retire_over gr nd
    generalize t.retire gr nd = u at last gone ⊢
    have done := u.graphDone_frame gr.id
    have ready := (u.graphDone gr.id).markReady_frame
    exact ⟨State.markReady_over _ _ _ (u.graphDone_over _ _ gone), ready.1.trans (done.1.trans (last.1.trans stages.1)),
      ready.2.trans (done.2.trans (last.2.trans stages.2))⟩

end Sys2Proof.Machine
end

section
/-! What the records of nodes and the dropping of nodes leave alone: the writes, remote frames, counter operations and intervals that a
node of a graph still waits for (R89, R90). -/

namespace Sys2Proof.Machine

variable (s : State)

theorem Sparse.get_default_or_mem {α : Type} (d : Nat → α) (l : List (Nat × α)) (k : Nat) :
    Sparse.get d l k = d k ∨ (k, Sparse.get d l k) ∈ l := by
  induction l with
  | nil => exact .inl rfl
  | cons e l ih =>
    obtain ⟨a, v⟩ := e
    rw [Sparse.get]
    split
    · next h => exact .inr (by simp [h])
    · exact ih.imp id (List.mem_cons_of_mem _)

theorem Sparse.mem_of_mem_set {α : Type} [DecidableEq α] {d : Nat → α} {l : List (Nat × α)} {k : Nat} {v : α} {e : Nat × α}
    (h : e ∈ Sparse.set d l k v) : e = (k, v) ∨ e ∈ l := by
  unfold Sparse.set at h
  split at h
  · exact .inr (List.mem_filter.1 h).1
  · exact (Sparse.mem_ins.1 h).imp id fun h => (List.mem_filter.1 h).1

/-- Who waits for writes, the remote frames, and the intervals. -/
def State.pend (s : State) : List Who × List LogFrame × List Interval := (s.txns.filterMap (·.who), s.relay.log, s.rep.intervals)

theorem State.issue_pend : s.issue.pend = s.pend := by
  have h := s.issue_unissued
  have htxns := congrArg (fun t : State => t.txns.filterMap (·.who)) h
  simp only [State.unissued, List.filterMap_map] at htxns
  have hrelay : s.issue.relay = s.relay := (congrArg State.relay h :)
  have hrep : s.issue.rep = s.rep := (congrArg State.rep h :)
  unfold State.pend
  rw [hrelay, hrep]
  exact congrArg (·, _) htxns

theorem State.recWrite_pend (pa : Nat) (b : List Byte) (ev : List Nat) (ctx cq : Nat) (nc : Bool) :
    (s.recWrite pa b none ev ctx cq nc).pend = s.pend := by
  unfold State.recWrite
  rw [State.issue_pend]
  simp [State.pend]

theorem State.setReg_pend (o : Nat) (v : W64) : (s.setReg o v).pend = s.pend := rfl

theorem State.setFld_pend (f : Fld) (v : Nat) : (s.setFld f v).pend = s.pend := rfl

theorem State.dbgOff_pend : s.dbgOff.pend = s.pend := by
  unfold State.dbgOff
  refine (proj_foldl (p := State.pend) fun v w _ => v.setReg_pend _ _).trans ?_
  rw [State.setReg_pend, State.setReg_pend]

theorem State.lockNow_pend (flags : Nat) : (s.lockNow flags).pend = s.pend := by
  unfold State.lockNow
  extract_lets dbg r t u v
  have ht : t.pend = s.pend := rfl
  clear_value t
  have hu : u.pend = t.pend := coll_ite (g := State.pend) ((State.setFld_pend _ _ _).trans t.dbgOff_pend) rfl
  clear_value u
  have hv : v.pend = u.pend := by rw [State.setFld_pend, State.setFld_pend, State.setFld_pend]
  exact hv.trans (hu.trans ht)

theorem State.afterRec_pend (c : Nat) (a : After) : (s.afterRec c a).pend = s.pend := by
  cases a with
  | none => rfl
  | handle x => rfl
  | lock flags => exact s.lockNow_pend flags

theorem State.writeRec_pend (r : Rec) : (s.writeRec r).pend = s.pend :=
  (State.afterRec_pend _ _ _).trans (s.recWrite_pend _ _ _ _ _ _)

theorem flushOne_pend (c : Nat) (l : List Rec) (p : State × List Rec) : (l.foldl (flushOne c) p).1.pend = p.1.pend := by
  induction l generalizing p with
  | nil => rfl
  | cons r l ih =>
    refine (ih _).trans ?_
    unfold flushOne
    split
    · exact p.1.writeRec_pend r
    · rfl

theorem State.flushRecs_pend (c : Nat) : (s.flushRecs c).pend = s.pend := by
  rw [State.flushRecs_eq]
  have h := flushOne_pend c ((s.ctx c).holdQ ++ (s.ctx c).held) (s, [])
  generalize ((s.ctx c).holdQ ++ (s.ctx c).held).foldl (flushOne c) (s, []) = p at h ⊢
  exact h

theorem State.emit_pend (r : Rec) : (s.emit r).pend = s.pend := by
  unfold State.emit
  exact coll_ite rfl (State.flushRecs_pend _ _)

theorem State.sendMsg_pend (v : Nat) : (s.sendMsg v).pend = s.pend := by
  unfold State.sendMsg
  exact coll_ite rfl (coll_ite rfl rfl)

theorem State.event_pend (v : Nat) : (s.event v).pend = s.pend := by
  unfold State.event
  exact coll_ite rfl (coll_ite rfl (State.sendMsg_pend _ _))

/-- Graphs, tile memory, counters and pending work are as before, and no channel has counter operations that none had. -/
structure Calm (s t : State) : Prop where
  plan : t.plan = s.plan
  pend : t.pend = s.pend
  relq : ∀ c ∈ t.chans, c.2.relq = [] ∨ ∃ d ∈ s.chans, d.2.relq = c.2.relq

theorem calm_of_chans {s t : State} (hplan : t.plan = s.plan) (hpend : t.pend = s.pend) (hc : t.chans = s.chans) : Calm s t :=
  ⟨hplan, hpend, fun c h => .inr ⟨c, hc ▸ h, rfl⟩⟩

theorem Calm.refl : Calm s s := calm_of_chans rfl rfl rfl

theorem Calm.trans {s t u : State} (h : Calm s t) (k : Calm t u) : Calm s u := by
  refine ⟨k.plan.trans h.plan, k.pend.trans h.pend, fun c hc => ?_⟩
  rcases k.relq c hc with none | ⟨d, hd, same⟩
  · exact .inl none
  · rw [← same]
    exact h.relq d hd

theorem Calm.foldl {β : Type} {g : State → β → State} (hg : ∀ u x, Calm u (g u x)) (l : List β) : Calm s (l.foldl g s) := by
  induction l generalizing s with
  | nil => exact Calm.refl s
  | cons x l ih => exact (hg s x).trans (ih _)

theorem State.modChan_calm (n : Nat) (f : Chan → Chan) (hf : ∀ x, (f x).relq = x.relq) : Calm s (s.modChan n f) := by
  refine ⟨rfl, rfl, fun c hc => ?_⟩
  have hset : c ∈ Sparse.set (fun _ => ({} : Chan)) s.chans n (f (s.chan n)) := hc
  rcases Sparse.mem_of_mem_set hset with rfl | old
  · simp only [hf]
    rcases Sparse.get_default_or_mem (fun _ => ({} : Chan)) s.chans n with fresh | held
    · exact .inl (congrArg Chan.relq fresh)
    · exact .inr ⟨_, held, rfl⟩
  · exact .inr ⟨c, old, rfl⟩

theorem State.setFld_calm (f : Fld) (v : Nat) : Calm s (s.setFld f v) := calm_of_chans rfl rfl rfl

theorem State.discard_calm (ch : Nat) : Calm s (s.discard ch) := by
  have cut := s.modChan_calm ch (fun c => { c with staged := [], pre := [], last := none }) fun _ => rfl
  unfold State.discard
  extract_lets n t
  clear_value n
  split
  · exact cut
  · exact cut.trans (State.setFld_calm _ _ _)

theorem State.applyOwner_calm (ch : Nat) : Calm s (s.applyOwner ch) := by
  unfold State.applyOwner
  extract_lets o t
  have taken : Calm s t := (s.discard_calm ch).trans (State.modChan_calm _ ch _ fun _ => rfl)
  clear_value t
  split
  · exact Calm.refl s
  · split
    · exact taken
    · exact taken.trans (State.setFld_calm _ _ _)

theorem State.applyVs_calm : Calm s s.applyVs := by
  obtain ⟨owners, h⟩ := s.applyVs_lit
  rw [h]
  exact calm_of_chans rfl rfl rfl

theorem State.nodeRec_calm (g : Graph) (n : Node) : Calm s (s.nodeRec g n) := by
  refine calm_of_chans (s.nodeRec_plan g n) ?_ ?_
  · unfold State.nodeRec
    dsimp only
    refine coll_ite (State.emit_pend _ _) ?_
    split
    · exact s.event_pend _
    · rfl
  · unfold State.nodeRec
    dsimp only
    refine coll_ite (congrArg (fun w => w.2.chans) (State.emit_work _ _) :) ?_
    split
    · next ch _ => exact (congrArg State.chans (s.event_rest ch) :)
    · rfl

/-- A node has no counter operation in a channel's release queue. -/
def noneOf (g n : Nat) (l : List RelOp) : Bool := l.all (fun o => !(o.g == g && o.n == n))

theorem State.nodeQuiet_iff (g n : Nat) : s.nodeQuiet g n = true ↔
    (Who.node g n ∉ s.pend.1 ∧ (s.pend.2.1.all (fun l => !(l.g == g && l.n == n)) = true)
      ∧ s.pend.2.2.all (fun i => i.own != some (g, n)) = true) ∧ ∀ c ∈ s.chans, noneOf g n c.2.relq = true := by
  have writes : s.txns.all (fun x => x.who != some (.node g n)) = true ↔ Who.node g n ∉ s.pend.1 := by
    simp [State.pend]
  unfold State.nodeQuiet
  simp only [Bool.and_eq_true, writes]
  rw [List.all_eq_true (l := s.chans)]
  exact ⟨fun ⟨⟨⟨a, b⟩, c⟩, d⟩ => ⟨⟨a, b, d⟩, c⟩, fun ⟨⟨a, b, d⟩, c⟩ => ⟨⟨⟨a, b⟩, c⟩, d⟩⟩

theorem Calm.quiet {s t : State} (h : Calm s t) {g n : Nat} (hq : s.nodeQuiet g n = true) : t.nodeQuiet g n = true := by
  rw [State.nodeQuiet_iff, h.pend]
  obtain ⟨pend, relq⟩ := (s.nodeQuiet_iff g n).1 hq
  refine ⟨pend, fun c hc => ?_⟩
  rcases h.relq c hc with none | ⟨d, hd, same⟩
  · rw [none]
    rfl
  · rw [← same]
    exact relq d hd

/-- A graph without the nodes of an index. -/
def Graph.lacking (x : Graph) (n : Nat) : Graph := { x with nodes := x.nodes.filter (·.idx != n) }

/-- A node that is dropped leaves its graph, and nothing else that a node waits for changes (R90). -/
theorem State.dropNode_calm (g n : Nat) : Calm (s.modGraph g (·.lacking n)) (s.dropNode g n) := by
  unfold State.dropNode
  extract_lets t u v w x
  have ht : t = s.modGraph g (·.lacking n) := rfl
  have hu : Calm t u := by
    unfold u
    split
    · exact calm_of_chans rfl rfl rfl
    · exact Calm.refl t
  have hv : Calm u v := calm_of_chans rfl rfl rfl
  have hw : Calm v w := by
    refine Calm.foldl v (fun a (c : Nat × Chan) => a.modChan_calm c.1 _ ?_) _
    exact fun _ => rfl
  have hx : Calm w x := Calm.foldl w (fun a (c : Nat × Chan) => a.discard_calm c.1) _
  have last : Calm x (x.chans.foldl (fun a (c : Nat × Chan) => if a.eclipsed c.1 then a else a.applyOwner c.1) x) := by
    refine Calm.foldl x (fun a c => ?_) _
    split
    · exact Calm.refl a
    · exact a.applyOwner_calm c.1
  rw [← ht]
  exact (((hu.trans hv).trans hw).trans hx).trans (last.trans (State.applyVs_calm _))

end Sys2Proof.Machine
end

section
/-! A graph that has failed is abandoned (R90): one node after another leaves it, and its record ends it. -/

namespace Sys2Proof.Machine

variable (s : State)

/-- Steps that take nodes out of graph `g`, or end it, and leave everything else of graphs, tile memory and counters; while the graph stands,
its nodes' pending work is as before. -/
structure Shrinks (g : Nat) (s t : State) : Prop where
  tile : t.tile = s.tile
  counters : t.counters = s.counters
  others : ∀ x ∈ s.graphs, x.id ≠ g → x ∈ t.graphs
  nodes : ∀ y, t.graph g = some y → ∃ x, s.graph g = some x ∧ y.nodes ⊆ x.nodes
  quiet : (t.graph g).isSome = true → ∀ n, s.nodeQuiet g n = true → t.nodeQuiet g n = true

theorem Shrinks.trans {g : Nat} {s t u : State} (h : Shrinks g s t) (k : Shrinks g t u) : Shrinks g s u where
  tile := k.tile.trans h.tile
  counters := k.counters.trans h.counters
  others x hx hne := k.others x (h.others x hx hne) hne
  nodes y hy := by
    obtain ⟨x, hx, sub⟩ := k.nodes y hy
    obtain ⟨w, hw, sub'⟩ := h.nodes x hx
    exact ⟨w, hw, fun _ hm => sub' (sub hm)⟩
  quiet hu n hn := by
    obtain ⟨y, hy⟩ := Option.isSome_iff_exists.1 hu
    obtain ⟨x, hx, -⟩ := k.nodes y hy
    exact k.quiet hu n (h.quiet (by rw [hx]; rfl) n hn)

theorem Calm.shrinks {s t : State} (h : Calm s t) (g : Nat) : Shrinks g s t := by
  obtain ⟨graphs, tile, counters⟩ := plan_eq h.plan
  refine ⟨tile, counters, fun x hx _ => by rwa [graphs], fun y hy => ⟨y, ?_, fun _ hm => hm⟩, fun _ n hn => h.quiet hn⟩
  rwa [← graph_of_plan h.plan g]

theorem Shrinks.refl (g : Nat) : Shrinks g s s := (Calm.refl s).shrinks g

/-- The end of the graph is such a step. -/
theorem shrinks_dropGraph {s t : State} {g : Nat} (h : t.plan = (s.dropGraph g).plan) : Shrinks g s t ∧ t.graph g = none := by
  obtain ⟨graphs, tile, counters⟩ := plan_eq h
  have gone : t.graph g = none := (graph_of_plan h g).trans (s.graph_dropGraph g)
  refine ⟨⟨tile, counters, fun x hx hne => ?_, fun y hy => ?_, fun hs => ?_⟩, gone⟩
  · rw [graphs]
    exact List.mem_filter.2 ⟨hx, by simpa using hne⟩
  · rw [gone] at hy
    cases hy
  · rw [gone] at hs
    cases hs

theorem State.graph_lacking (g n : Nat) : (s.modGraph g (·.lacking n)).graph g = (s.graph g).map (·.lacking n) :=
  s.graph_modGraph g _ fun _ => rfl

theorem State.lacking_shrinks (g n : Nat) : Shrinks g s (s.modGraph g (·.lacking n)) := by
  refine ⟨rfl, rfl, fun x hx hne => mem_updFirst_of_not hx (by simpa using hne), fun y hy => ?_, fun _ k hk => hk⟩
  rw [State.graph_lacking] at hy
  obtain ⟨x, hx, rfl⟩ := Option.map_eq_some_iff.1 hy
  exact ⟨x, hx, fun m hm => (List.mem_filter.1 hm).1⟩

/-- No node of graph `g`, if it stands, has index `n`. -/
def State.lacks (s : State) (g n : Nat) : Prop := ∀ y, s.graph g = some y → ∀ m ∈ y.nodes, m.idx ≠ n

theorem Shrinks.lacks {g : Nat} {s t : State} (h : Shrinks g s t) {n : Nat} (hl : s.lacks g n) : t.lacks g n := by
  intro y hy m hm
  obtain ⟨x, hx, sub⟩ := h.nodes y hy
  exact hl x hx m (sub hm)

theorem State.dropNode_shrinks (g n : Nat) : Shrinks g s (s.dropNode g n) ∧ (s.dropNode g n).lacks g n := by
  have calm := (s.dropNode_calm g n).shrinks g
  refine ⟨(s.lacking_shrinks g n).trans calm, calm.lacks fun y hy m hm => ?_⟩
  rw [State.graph_lacking] at hy
  obtain ⟨x, -, rfl⟩ := Option.map_eq_some_iff.1 hy
  simpa using (List.mem_filter.1 hm).2

/-- The steps of a list, each of which shrinks the graph, do; and what one of them brings about stays. -/
theorem Shrinks.foldl {g : Nat} {step : State → Node → State} (hstep : ∀ u x, Shrinks g u (step u x)) (l : List Node) :
    Shrinks g s (l.foldl step s) := by
  induction l generalizing s with
  | nil => exact Shrinks.refl s g
  | cons x l ih => exact (hstep s x).trans (ih _)

theorem lacks_foldl {g : Nat} {step : State → Node → State} (hstep : ∀ u x, Shrinks g u (step u x)) {n : Node} {l : List Node} (hn : n ∈ l)
    (hl : ∀ u, Shrinks g s u → (step u n).lacks g n.idx) : (l.foldl step s).lacks g n.idx := by
  induction l generalizing s with
  | nil => cases hn
  | cons x l ih =>
    rcases List.mem_cons.1 hn with rfl | hn
    · exact (Shrinks.foldl _ hstep l).lacks (hl s (Shrinks.refl s g))
    · exact ih (step s x) hn fun u hu => hl u ((hstep s x).trans hu)

/-- What abandonment does with one node: a failed one that waits for nothing writes its record and leaves (R90). -/
def leaveFailed (gr : Graph) (gid : Nat) (s : State) (n : Node) : State :=
  if n.st = .failed ∧ s.nodeQuiet gid n.idx then
    if gr.entryOnly then s.endEntryGraph gr n else (s.nodeRec gr n).dropNode gid n.idx
  else s

theorem leaveFailed_shrinks (gr : Graph) (n : Node) : Shrinks gr.id s (leaveFailed gr gr.id s n) := by
  unfold leaveFailed
  split
  · split
    · exact (shrinks_dropGraph (s.endEntryGraph_plan gr n)).1
    · exact ((s.nodeRec_calm gr n).shrinks gr.id).trans (State.dropNode_shrinks _ _ _).1
  · exact Shrinks.refl s gr.id

/-- A node that has failed leaves, unless it waits for writes or the graph is gone. -/
theorem leaveFailed_lacks (gr : Graph) (n : Node) (hf : n.st = .failed)
    (hq : (s.graph gr.id).isSome = true → s.nodeQuiet gr.id n.idx = true) : (leaveFailed gr gr.id s n).lacks gr.id n.idx := by
  unfold leaveFailed
  cases hs : s.graph gr.id with
  | none =>
    have gone : (leaveFailed gr gr.id s n).lacks gr.id n.idx :=
      (leaveFailed_shrinks s gr n).lacks fun y hy => by rw [hs] at hy; cases hy
    exact gone
  | some x =>
    rw [if_pos ⟨hf, hq (by rw [hs]; rfl)⟩]
    split
    · intro y hy
      rw [(shrinks_dropGraph (s.endEntryGraph_plan gr n)).2] at hy
      cases hy
    · exact (State.dropNode_shrinks _ _ _).2

/-- With no replica group nothing is compared (R395). -/
theorem State.failedIntervals_alone (h : s.rep.size = 0) : s.failedIntervals = s :=
  List.foldl_fixed' (fun g => if_neg (by simp [State.compares, h])) _

/-- Every node has left the graph. -/
def State.emptied (s : State) (gr : Graph) : State :=
  gr.nodes.foldl (leaveFailed gr gr.id) ((gr.nodes.filter gr.droppable).foldl (fun t n => t.dropNode gr.id n.idx) s)

theorem State.emptied_shrinks (gr : Graph) : Shrinks gr.id s (s.emptied gr) :=
  (Shrinks.foldl s (fun u x => (u.dropNode_shrinks gr.id x.idx).1) _).trans (Shrinks.foldl _ (fun u x => leaveFailed_shrinks u gr x) _)

/-- Nodes that can be dropped, and failed ones that wait for nothing, have all left in the end (R90). -/
theorem State.emptied_graph (gr : Graph) (hg : s.graph gr.id = some gr)
    (h : ∀ x ∈ gr.nodes, gr.droppable x = true ∨ (x.st = .failed ∧ s.nodeQuiet gr.id x.idx = true)) :
    ∀ y, (s.emptied gr).graph gr.id = some y → y.nodes = [] := by
  intro y hy
  have sub : y.nodes ⊆ gr.nodes := by
    obtain ⟨x, hx, sub⟩ := (s.emptied_shrinks gr).nodes y hy
    obtain rfl : gr = x := Option.some.inj (hg.symm.trans hx)
    exact sub
  have lacks : ∀ x ∈ gr.nodes, (s.emptied gr).lacks gr.id x.idx := by
    intro x hx
    have dropped := Shrinks.foldl (step := fun t n => t.dropNode gr.id n.idx) s (fun u x => (u.dropNode_shrinks gr.id x.idx).1)
      (gr.nodes.filter gr.droppable)
    rcases h x hx with hd | ⟨hf, hq⟩
    · refine (Shrinks.foldl _ (fun u x => leaveFailed_shrinks u gr x) _).lacks ?_
      exact lacks_foldl s (fun u x => (u.dropNode_shrinks gr.id x.idx).1) (List.mem_filter.2 ⟨hx, hd⟩) fun u _ => (u.dropNode_shrinks gr.id x.idx).2
    · exact lacks_foldl _ (fun u x => leaveFailed_shrinks u gr x) hx fun u hu =>
        leaveFailed_lacks u gr x hf fun hs => (dropped.trans hu).quiet hs x.idx hq
  exact List.eq_nil_iff_forall_not_mem.2 fun m hm => lacks m (sub hm) y hy m hm rfl

/-- The graph that abandonment has emptied ends. -/
def State.endEmptied (s : State) (g : Nat) : State :=
  match s.graph g with
  | some x => if x.nodes.isEmpty then s.endGraph { x with doneIdx := x.doneIdx } else s
  | none => s

theorem State.abandon_eq (gr : Graph) (hg : s.graph gr.id = some gr) (hc : s.coll.fatal = false)
    (hf : gr.fail.isSome = true ∨ gr.stopped.isSome = true) (hr : s.rep.size = 0) :
    s.abandon gr.id = (s.emptied gr).endEmptied gr.id := by
  have go : ¬ (s.coll.fatal = true ∨ (gr.fail.isNone = true ∧ gr.stopped.isNone = true)) := by
    rcases hf with h | h <;> simp [hc, Option.isSome_iff_ne_none.1 h]
  unfold State.abandon
  rw [hg]
  dsimp only
  rw [if_neg go, s.failedIntervals_alone hr]
  rfl

/-- A graph that failed is gone when no node is left that may go on or waits for writes (R90). -/
theorem State.abandon_gone (gr : Graph) (hg : s.graph gr.id = some gr) (hc : s.coll.fatal = false)
    (hf : gr.fail.isSome = true ∨ gr.stopped.isSome = true) (hr : s.rep.size = 0)
    (h : ∀ x ∈ gr.nodes, gr.droppable x = true ∨ (x.st = .failed ∧ s.nodeQuiet gr.id x.idx = true)) :
    Shrinks gr.id s (s.abandon gr.id) ∧ (s.abandon gr.id).graph gr.id = none := by
  rw [s.abandon_eq gr hg hc hf hr]
  have shrinks := s.emptied_shrinks gr
  have empty := s.emptied_graph gr hg h
  generalize s.emptied gr = t at shrinks empty
  unfold State.endEmptied
  cases ht : t.graph gr.id with
  | none => exact ⟨shrinks, ht⟩
  | some y =>
    obtain id := t.graph_id ht
    have drop := t.endGraph_plan y
    rw [id] at drop
    simp only [empty y ht, List.isEmpty_nil, if_true]
    obtain ⟨last, gone⟩ := shrinks_dropGraph drop
    exact ⟨shrinks.trans last, gone⟩

/-- Settles O53: the slice that is at its end closes, the node that can complete leaves its graph, and of a graph that failed every node
leaves before it ends. -/
theorem slicesAndNodesEnd : Obligations.SlicesAndNodesEnd := by
  unfold Obligations.SlicesAndNodesEnd
  intro s g n gr nd hg hn hi hid
  subst hid hi
  refine ⟨fun he hk hin hend hc => ⟨fun hk1 => ?_, fun ch p hk1 hu hp hpe => ?_⟩, fun hk hend => ?_, fun ho hk => ?_, fun he hcan => ?_,
    fun hcan => ?_, fun hf hr hfail hall => ?_⟩
  · have step := (s.endSlices_ends gr.id nd.idx gr nd hg hn he hk hin hend).trans (s.closeSlice_plain gr.id gr.ctx nd hc hk1)
    obtain ⟨-, -, tile, counters, node⟩ := s.sliceClosed_frame gr.id nd 0 (F.chState 0)
    refine ⟨_, congrArg Host.Outcome.next step, tile, counters, ?_⟩
    rw [node, s.sliceClosed_node gr.id nd hn]
    simp [Node.closed]
  · have step := (s.endSlices_ends gr.id nd.idx gr nd hg hn he hk hin hend).trans
      (s.closeSlice_program gr.id gr.ctx ch nd p hc hk1 hu hp hpe)
    obtain ⟨prog, idle, state, graphs⟩ := s.unbind_chan ch p hp
    generalize s.unbind ch = u at step prog idle state graphs
    have node : u.node gr.id nd.idx = some nd := (congrFun₂ (node_of_graphs graphs) gr.id nd.idx).trans hn
    obtain ⟨chan, fld, -, -, closed⟩ := u.sliceClosed_frame gr.id nd ch (F.chState ch)
    rw [← chan] at prog idle
    refine ⟨_, congrArg Host.Outcome.next step, prog, idle, fld.trans state, ?_⟩
    rw [closed, u.sliceClosed_node gr.id nd node]
    simp [Node.closed]
  · exact congrArg Host.Outcome.next (s.endSlices_before gr.id nd.idx gr nd hg hn hk hend)
  · obtain ⟨time, told, tile⟩ := s.sliceTime_told gr.id nd.idx gr nd hg hn ho hk
    refine ⟨_, rfl, time, ?_, tile⟩
    rw [told]
    simp
  · have step : s.nodeCompletes gr.id nd.idx = s.completeNode gr.id nd.idx := by simp [State.nodeCompletes, hg, hn, he, hcan]
    obtain ⟨gone, tile, counters⟩ := s.completeNode_over gr.id nd.idx gr nd hg hn rfl
    exact ⟨_, congrArg Host.Outcome.next step, nodeOver_node _ gone, nodeOver_done _ gone, tile, counters⟩
  · have step : s.nodeCompletes gr.id nd.idx = s := by simp [State.nodeCompletes, hg, hn, hcan]
    exact congrArg Host.Outcome.next step
  · obtain ⟨shrinks, gone⟩ := s.abandon_gone gr hg hf hfail hr hall
    exact ⟨_, rfl, gone, shrinks.others, shrinks.tile, shrinks.counters⟩

end Sys2Proof.Machine
end

section
/-! A scan of one interval of tile memory (R362 to R368): block after block is read, and its check value stands in the node. -/

namespace Sys2Proof.Machine

variable (s : State)

-- ranges of tile memory

/-- The partition check is one of the block of 1 MiB (R194). -/
theorem State.tileOk_block (t : Nat) (w : Bool) {x y : Nat} (h : x / 1048576 = y / 1048576) : s.tileOk t w x = s.tileOk t w y := by
  have small : (x < 67108864) = (y < 67108864) := by
    rw [eq_iff_iff]
    omega
  simp only [State.tileOk, State.inOwn, State.inShared, h, small]

theorem State.tileOkRange_each {t : Nat} {w : Bool} {a n : Nat} (h : s.tileOkRange t w a n = true) {x : Nat} (hx : a ≤ x) (hx' : x < a + n) :
    s.tileOk t w x = true := by
  have hn : ¬ n = 0 := by omega
  simp only [State.tileOkRange, hn, beq_iff_eq, Bool.or_eq_true, false_or, Bool.and_eq_true, List.all_eq_true, List.mem_range] at h
  obtain ⟨⟨first, -⟩, blocks⟩ := h
  by_cases hb : x / 1048576 = a / 1048576
  · rw [s.tileOk_block t w hb]
    exact first
  · have block := blocks (x / 1048576 - a / 1048576 - 1) (by omega)
    rw [← block]
    exact s.tileOk_block t w (by omega)

theorem State.tileOkRange_part {t : Nat} {w : Bool} {a n : Nat} (h : s.tileOkRange t w a n = true) {b k : Nat} (hb : a ≤ b)
    (hk : b + k ≤ a + n) : s.tileOkRange t w b k = true := by
  by_cases h0 : k = 0
  · simp [State.tileOkRange, h0]
  · simp only [State.tileOkRange, Bool.or_eq_true, Bool.and_eq_true, List.all_eq_true, List.mem_range]
    refine .inr ⟨⟨s.tileOkRange_each h hb (by omega), s.tileOkRange_each h (by omega) (by omega)⟩, fun i hi => ?_⟩
    exact s.tileOkRange_each h (by omega) (by omega)

theorem State.eccIn_part {a n : Nat} (h : s.eccIn a n = []) {b k : Nat} (hb : a ≤ b) (hk : b + k ≤ a + n) : s.eccIn b k = [] := by
  by_cases h0 : k = 0
  · simp [State.eccIn, h0]
  · have hn : ¬ n = 0 := by omega
    simp only [State.eccIn, if_neg hn, List.filter_eq_nil_iff, Bool.and_eq_true, decide_eq_true_eq] at h
    simp only [State.eccIn, if_neg h0, List.filter_eq_nil_iff, Bool.and_eq_true, decide_eq_true_eq]
    intro e he
    have := h e he
    omega

theorem State.tileRd_append (a j k : Nat) : s.tileRd a (j + k) = s.tileRd a j ++ s.tileRd (a + j) k := by
  rw [tileRd_map, tileRd_map, tileRd_map, ← List.map_append, List.range'_append_1]

/-- With no earlier bytes kept, a read that may begin gives what stands there. -/
theorem tileRead_plain {q : Req} {a n : Nat} (h : s.tileOkRange q.t false a n = true) (he : s.eccIn a n = [])
    (hu : s.unpassed q.who a n = false) (ho : s.tileOld = []) : (tileRead q a n).on s = (.ok (s.tileRd a n), s) := by
  have seen : ∀ e ∈ s.tileOld, ∀ v, e.no ≤ s.floorOf q.who v := by simp [ho]
  unfold tileRead
  rw [on_bind_ok (tileCheck_ok h), on_bind_ok (on_get s)]
  simp only [hu, Bool.false_eq_true, if_false]
  rw [on_bind_ok (eccCheck_clean he), on_bind_ok (on_mapM fun x _ => wordRead_clean seen), on_pure]
  simp only [tileRd_map, ← List.flatMap_def, ← List.map_flatMap, words64_addrs]

theorem crcRun_append (poly c : Nat) (l k : List Byte) : crcRun poly c (l ++ k) = crcRun poly (crcRun poly c l) k := by
  induction l generalizing c with
  | nil => rfl
  | cons b l ih => exact ih _

-- accesses that leave no debt

theorem State.starved_same {s t : State} (h : t.owed = s.owed) : s.starved t = false := by
  unfold State.starved
  rw [List.any_eq_false]
  intro e _
  simp [State.owes, h]

/-- An access that may begin and that goes on. -/
theorem atomically_ok {α : Type} {w : Who} {m : M α} {s t : State} {x : α} (hw : s.held w = false) (hm : m.on s = (.ok x, t))
    (ho : t.owed = s.owed) : (atomically w m).on s = (.ok x, t) := by
  unfold atomically
  rw [on_bind_ok (on_get s)]
  simp only [hw, hm, State.starved_same ho, Bool.false_eq_true, if_false]
  rfl

end Sys2Proof.Machine
end

section
/-! The blocks of a scan, one after another, and the interval that ends it (R362, R368). -/

namespace Sys2Proof.Machine

variable {s t : State} {gr : Graph} {nd : Node} {u : Nat}

/-- A node whose scan has read `j` bytes of its interval and has the running value `c`. -/
def Node.scanned (n : Node) (c j : Nat) : Node := { n with crc := c, sub := j }

/-- A node whose scan of one interval is over, with its check value. -/
def Node.scanDone (n : Node) (res : Nat) : Node := { n with crc := res, sub := 0, pos := n.pos + 1, total := n.total + 1 }

/-- A state that differs from `s` by graphs alone, where the node of the graph stands as `x`. -/
structure Scans (s : State) (gr : Graph) (t : State) (x : Node) : Prop where
  same : ∃ l, t = { s with graphs := l }
  graph : ∃ g, t.graph gr.id = some g ∧ g.id = gr.id ∧ g.ctx = gr.ctx
  node : t.node gr.id x.idx = some x

theorem Scans.modNode {x : Node} (h : Scans s gr t x) (f : Node → Node) (hf : ∀ y, (f y).idx = y.idx) :
    Scans s gr (t.modNode gr.id x.idx f) (f x) := by
  obtain ⟨⟨l, rfl⟩, ⟨g, hg, hid, hctx⟩, hn⟩ := h
  refine ⟨⟨_, rfl⟩, ⟨{ g with nodes := updFirst (fun y => y.idx == x.idx) f g.nodes }, ?_, hid, hctx⟩, ?_⟩
  · rw [State.graph_modNode, hg]
    rfl
  · rw [hf, State.node_modNode _ _ _ f hf, hn]
    rfl

/-- What such a state's tile memory is. -/
theorem Scans.memory {x : Node} (h : Scans s gr t x) :
    t.tileRd = s.tileRd ∧ t.tileOkRange = s.tileOkRange ∧ t.eccIn = s.eccIn ∧ t.tileOld = s.tileOld := by
  obtain ⟨⟨l, rfl⟩, -, -⟩ := h
  refine ⟨funext fun a => funext fun n => ?_, rfl, rfl, rfl⟩
  rw [tileRd_map, tileRd_map]
  rfl

/-- What the scan of one interval of tile memory begins with (R362, R364). -/
structure ScanReady (s : State) (gr : Graph) (nd : Node) : Prop where
  slices : nd.slices = [1]
  pos : nd.pos = 0
  total : nd.total = 0
  going : nd.endSlice = false
  inBuf : nd.inBuf = (0, 0)
  space : nd.ckSpace = 1
  count : nd.ckCount = 1
  result : nd.ckResult = 0
  compare : nd.ckCmp = false
  free : s.held (.node gr.id nd.idx) = false
  inside : s.tileOkRange gr.ctx false nd.ckStart nd.ckLen = true
  clean : s.eccIn nd.ckStart nd.ckLen = []
  fresh : s.tileOld = []

/-- The value of a check over the first `j` bytes that a scan reads. -/
def scanValue (s : State) (nd : Node) (j : Nat) : Nat := crcRun (crcPoly nd.ckPoly) (crcOnes nd.ckPoly) (s.tileRd nd.ckStart j)

/-- Bytes of the next block of a scan. -/
def Node.ckNext (n : Node) (j : Nat) : Nat := Nat.min (n.ckLen - j) (64 - (n.ckStart + j) % 64)

theorem ckNext_eq (n : Node) (j : Nat) : n.ckNext j = min (n.ckLen - j) (64 - (n.ckStart + j) % 64) := rfl

theorem scanValue_next (s : State) (nd : Node) (j : Nat) : scanValue s nd (j + nd.ckNext j)
    = crcRun (crcPoly nd.ckPoly) (scanValue s nd j) (s.tileRd (nd.ckStart + j) (nd.ckNext j)) := by
  rw [scanValue, State.tileRd_append, crcRun_append]
  rfl

theorem ScanReady.len (h : ScanReady s gr nd) : 0 < nd.ckLen ∧ nd.ckLen ≤ 65536 := by
  have count := h.count
  unfold Node.ckCount cdiv at count
  omega

theorem ckLeft_scanned (h : ScanReady s gr nd) (c j : Nat) : (nd.scanned c j).ckLeft = nd.ckLen - j := by
  have len := h.len
  have left : (nd.scanned c j).ckLeft = Nat.min 65536 (nd.ckLen - 65536 * nd.total) - j := rfl
  rw [left, h.total, Nat.mul_zero, Nat.sub_zero, show Nat.min 65536 nd.ckLen = nd.ckLen from Nat.min_eq_right len.2]

theorem ckRun_scanned (h : ScanReady s gr nd) {c j : Nat} (hc : 0 < j → c = scanValue s nd j) :
    (nd.scanned c j).ckRun = scanValue s nd j := by
  have run : (nd.scanned c j).ckRun = if nd.total = 0 ∧ j = 0 then crcOnes nd.ckPoly else c := rfl
  rw [run, h.total]
  by_cases hj : j = 0
  · subst hj
    rfl
  · simpa [hj] using hc (by omega)

/-- A scan reads its next block. -/
theorem checkBlock_reads (h : ScanReady s gr nd) {c j : Nat} {g : Graph} (hc : 0 < j → c = scanValue s nd j) (hj : j < nd.ckLen)
    (ht : Scans s gr t (nd.scanned c j)) (hid : g.id = gr.id) (hctx : g.ctx = gr.ctx) :
    (checkBlock g (nd.scanned c j) u).on t
      = (.ok (), t.modNode gr.id nd.idx (·.scanned (scanValue s nd (j + nd.ckNext j)) (j + nd.ckNext j))) := by
  obtain ⟨bytes, inside, ecc, old⟩ := ht.memory
  have start : (nd.scanned c j).ckStart + 65536 * (nd.scanned c j).total + (nd.scanned c j).sub = nd.ckStart + j := by
    show nd.ckStart + 65536 * nd.total + j = _
    rw [h.total]
    omega
  have next : nd.ckNext j ≤ nd.ckLen - j := Nat.min_le_left _ _
  have read : (tileRead { t := g.ctx, unit := u, who := .node g.id (nd.scanned c j).idx } (nd.ckStart + j) (nd.ckNext j)).on t
      = (.ok (s.tileRd (nd.ckStart + j) (nd.ckNext j)), t) := by
    rw [← bytes]
    refine tileRead_plain t ?_ ?_ ?_ (old.trans h.fresh)
    · rw [hctx, inside]
      exact s.tileOkRange_part h.inside (by omega) (by omega)
    · rw [ecc]
      exact s.eccIn_part h.clean (by omega) (by omega)
    · rw [hid]
      simp only [State.unpassed, ht.node]
      simp [Node.scanned, h.inBuf]
  have space : (nd.scanned c j).ckSpace = 1 := h.space
  have block : Nat.min (nd.scanned c j).ckLeft (64 - (nd.ckStart + j) % 64) = nd.ckNext j := by
    rw [ckLeft_scanned h]
    rfl
  unfold checkBlock
  simp only [start, block, space, spRead, if_neg Nat.one_ne_zero]
  rw [on_bind_ok read, on_modify, hid, ckRun_scanned h hc, scanValue_next]
  rfl

/-- The value that a scan leaves in its node (R365, R366, R368). -/
def Node.scanResult (n : Node) (s : State) : Nat :=
  crcRun (crcPoly n.ckPoly) (scanValue s n n.ckLen) (foldIns n) ^^^ crcOnes n.ckPoly

/-- The only interval of a scan ends: its value stands in the node. -/
theorem checkInterval_ends (h : ScanReady s gr nd) {c : Nat} {g : Graph} (hc : 0 < nd.ckLen → c = scanValue s nd nd.ckLen) (hid : g.id = gr.id) :
    (checkInterval g (nd.scanned c nd.ckLen) u).on t
      = (.ok (), (t.modNode gr.id nd.idx (fun x => { x with crc := nd.scanResult s, sub := 0 })).cut gr.id nd.idx) := by
  have last : ¬ (nd.scanned c nd.ckLen).total + 1 < (nd.scanned c nd.ckLen).ckCount := by
    show ¬ nd.total + 1 < nd.ckCount
    rw [h.total, h.count]
    omega
  have result : (nd.scanned c nd.ckLen).ckResult = 0 := h.result
  have compare : (nd.scanned c nd.ckLen).ckCmp = false := h.compare
  unfold checkInterval
  simp only [if_neg last, result, compare, ne_eq, not_true_eq_false, if_false, Bool.false_and, Bool.false_eq_true, hid, ckRun_scanned h hc]
  rfl

/-- Blocks of 64 bytes that a scan has still to read. -/
def Node.ckBlocks (n : Node) (j : Nat) : Nat := if j < n.ckLen then (n.ckStart + n.ckLen - 1) / 64 - (n.ckStart + j) / 64 + 1 else 0

theorem ckBlocks_next (n : Node) {j : Nat} (hj : j < n.ckLen) : n.ckBlocks (j + n.ckNext j) + 1 ≤ n.ckBlocks j := by
  unfold Node.ckBlocks
  rw [if_pos hj]
  split
  · next more =>
    have step : n.ckNext j = 64 - (n.ckStart + j) % 64 := by
      rw [ckNext_eq] at more ⊢
      omega
    rw [step]
    omega
  · omega

end Sys2Proof.Machine
end

section
/-! A scan from its first block to its check value (R362, R368). -/

namespace Sys2Proof.Machine

variable {s t : State} {gr : Graph} {nd : Node} {u : Nat}

/-- One step of a scan: its next block, or the end of its interval. -/
def scanStep (g : Graph) (n : Node) (u : Nat) : M Unit := if n.ckLeft = 0 then checkInterval g n u else checkBlock g n u

/-- A scan whose slice is over does nothing more. -/
theorem checkSlice_over {g : Graph} {gi ni : Nat} (hg : t.graph gi = some g) (hn : t.node gi ni = some nd) (h : nd.slices.headD 0 ≤ nd.pos) (f : Nat) :
    (checkSlice gi ni u f).on t = (.ok (), t) := by
  cases f with
  | zero => rfl
  | succ f =>
    unfold checkSlice
    rw [on_bind_ok (on_get t), on_bind_ok (on_get t), hg, hn]
    simp only [h, decide_true, Bool.true_or, if_true]
    rfl

/-- A scan whose slice goes on takes one step and then the others. -/
theorem checkSlice_step {g : Graph} {gi ni f : Nat} {t' : State} (hg : t.graph gi = some g) (hn : t.node gi ni = some nd)
    (h : (nd.slices.headD 0 ≤ nd.pos || nd.endSlice) = false) (hstep : (atomically (.node gi ni) (scanStep g nd u)).on t = (.ok (), t')) :
    (checkSlice gi ni u (f + 1)).on t = (checkSlice gi ni u f).on t' := by
  conv_lhs => unfold checkSlice
  rw [on_bind_ok (on_get t), on_bind_ok (on_get t), hg, hn]
  simp only [h, Bool.false_eq_true, if_false]
  exact on_bind_ok hstep

theorem Scans.held {x : Node} (h : Scans s gr t x) : t.held = s.held := by
  obtain ⟨⟨l, rfl⟩, -, -⟩ := h
  rfl

/-- A scan whose blocks are all read ends with its check value. -/
theorem checkSlice_ends (h : ScanReady s gr nd) {c : Nat} (ht : Scans s gr t (nd.scanned c nd.ckLen)) (hc : 0 < nd.ckLen → c = scanValue s nd nd.ckLen)
    (f : Nat) : ∃ t', (checkSlice gr.id nd.idx u (f + 1)).on t = (.ok (), t') ∧ Scans s gr t' (nd.scanDone (nd.scanResult s)) := by
  obtain ⟨g, hg, hid, hctx⟩ := ht.graph
  have going : ((nd.scanned c nd.ckLen).slices.headD 0 ≤ (nd.scanned c nd.ckLen).pos || (nd.scanned c nd.ckLen).endSlice) = false := by
    simp [Node.scanned, h.slices, h.pos, h.going]
  have step : (scanStep g (nd.scanned c nd.ckLen) u).on t
      = (.ok (), (t.modNode gr.id nd.idx (fun x => { x with crc := nd.scanResult s, sub := 0 })).cut gr.id nd.idx) := by
    rw [scanStep, if_pos (by rw [ckLeft_scanned h]; omega), checkInterval_ends h hc hid]
  have done : Scans s gr ((t.modNode gr.id nd.idx (fun x => { x with crc := nd.scanResult s, sub := 0 })).cut gr.id nd.idx)
      (nd.scanDone (nd.scanResult s)) :=
    (ht.modNode (fun x => { x with crc := nd.scanResult s, sub := 0 }) fun _ => rfl).modNode
      (fun x => { x with pos := x.pos + 1, total := x.total + 1 }) fun _ => rfl
  obtain ⟨g', hg', -, -⟩ := done.graph
  refine ⟨_, (checkSlice_step hg ht.node going (atomically_ok (by rw [ht.held]; exact h.free) step rfl)).trans
    (checkSlice_over hg' done.node ?_ f), done⟩
  simp [Node.scanDone, h.slices]

/-- From any of its blocks on, a scan reads the others and ends with its check value. -/
theorem checkSlice_scans (h : ScanReady s gr nd) (f c j : Nat) (t : State) (ht : Scans s gr t (nd.scanned c j)) (hj : j ≤ nd.ckLen)
    (hc : 0 < j → c = scanValue s nd j) (hf : nd.ckBlocks j + 1 ≤ f) :
    ∃ t', (checkSlice gr.id nd.idx u f).on t = (.ok (), t') ∧ Scans s gr t' (nd.scanDone (nd.scanResult s)) := by
  induction f generalizing c j t with
  | zero => omega
  | succ f ih =>
    by_cases last : j = nd.ckLen
    · subst last
      exact checkSlice_ends h ht hc f
    · have more : j < nd.ckLen := by omega
      obtain ⟨g, hg, hid, hctx⟩ := ht.graph
      have going : ((nd.scanned c j).slices.headD 0 ≤ (nd.scanned c j).pos || (nd.scanned c j).endSlice) = false := by
        simp [Node.scanned, h.slices, h.pos, h.going]
      have step : (scanStep g (nd.scanned c j) u).on t
          = (.ok (), t.modNode gr.id nd.idx (·.scanned (scanValue s nd (j + nd.ckNext j)) (j + nd.ckNext j))) := by
        rw [scanStep, if_neg (by rw [ckLeft_scanned h]; omega), checkBlock_reads h hc more ht hid hctx]
      have read : Scans s gr (t.modNode gr.id nd.idx (·.scanned (scanValue s nd (j + nd.ckNext j)) (j + nd.ckNext j)))
          (nd.scanned (scanValue s nd (j + nd.ckNext j)) (j + nd.ckNext j)) := ht.modNode _ fun _ => rfl
      have fewer := ckBlocks_next nd more
      have within : nd.ckNext j ≤ nd.ckLen - j := Nat.min_le_left _ _
      obtain ⟨t', run, done⟩ := ih _ _ _ read (by omega) (fun _ => rfl) (by omega)
      refine ⟨t', (checkSlice_step hg ht.node going (atomically_ok (by rw [ht.held]; exact h.free) step rfl)).trans run, done⟩

/-- CHECK runs a scan of one interval to its check value. -/
theorem State.checkRun_scans (h : ScanReady s gr nd) (hu : s.onUnit (0xD0 + u) 7 = some (gr, nd)) (hg : s.graph gr.id = some gr)
    (hn : s.node gr.id nd.idx = some nd) (hsub : nd.sub = 0) : Scans s gr (s.checkRun u) (nd.scanDone (nd.scanResult s)) := by
  have first : Scans s gr s (nd.scanned nd.crc 0) := by
    have same : nd.scanned nd.crc 0 = nd := by rw [Node.scanned, ← hsub]
    rw [same]
    exact ⟨⟨s.graphs, rfl⟩, ⟨gr, hg, rfl, rfl⟩, hn⟩
  have len := h.len
  have blocks : nd.ckBlocks 0 + 1 ≤ 1026 * (nd.slices.headD 0 + 1) := by
    rw [h.slices, Node.ckBlocks, if_pos len.1]
    simp only [List.headD_cons]
    omega
  obtain ⟨t, run, done⟩ := checkSlice_scans (u := 0xD0 + u) h _ _ 0 s first (by omega) (by omega) blocks
  have ends : s.checkRun u = t := by
    unfold State.checkRun State.runNode
    rw [hu]
    dsimp only
    rw [run]
  rwa [ends]

end Sys2Proof.Machine
end

section
/-! Granted nodes on their units (O54): a program is bound to its channel, engines run their slices, a chain passes its granules. -/

namespace Sys2Proof.Machine

variable (s : State)

-- TRANSIT

/-- The program of a node that its channel has parked (R86). -/
def State.parkedProg (s : State) (ch : Nat) (gr : Graph) (nd : Node) : Option Prog :=
  (s.chan ch).idle.find? (fun p => p.g == gr.id && p.n == nd.idx)

/-- The program of a TRANSIT node as it begins (R122, R125). -/
def freshProg (gr : Graph) (nd : Node) : Prog :=
  { g := gr.id, n := nd.idx, ctx := gr.ctx, cls := bits (nd.field 26 1) 0 1, seq := nd.seq, checked := !gr.entryOnly, ranges := nd.fp,
    slots := nd.prog, xva := some (nd.field 32 8) }

theorem State.discard_frame (ch : Nat) : (s.discard ch).graphs = s.graphs ∧ (s.discard ch).tile = s.tile ∧ (s.discard ch).sys = s.sys := by
  unfold State.discard
  dsimp only
  split <;> simp only [State.wrap_frame, State.modChan_frame, and_self]

/-- The program that goes on, or begins, on the channel. -/
def State.nextProg (s : State) (ch : Nat) (gr : Graph) (nd : Node) : Prog :=
  { (s.parkedProg ch gr nd).getD (freshProg gr nd) with pairs := [] }

theorem nextProg_own {ch : Nat} {gr : Graph} {nd : Node} : (s.nextProg ch gr nd).g = gr.id ∧ (s.nextProg ch gr nd).n = nd.idx := by
  unfold State.nextProg
  cases h : s.parkedProg ch gr nd with
  | none => exact ⟨rfl, rfl⟩
  | some p => simpa using List.find?_some h

/-- The channel with its program, before it runs (R86, R133, R172). -/
def State.loadProg (s : State) (ch : Nat) (gr : Graph) (nd : Node) (p : Prog) : State :=
  let s := if (s.chan ch).last = some (gr.id, nd.idx) then s else s.discard ch
  let s := s.modChan ch (fun c => { c with prog := some p, mark := some p, idle := c.idle.filter (fun x => !(x.g == gr.id && x.n == nd.idx)) })
  if p.pc = 0 ∧ p.line = 0 ∧ p.item = 0 then s.setFld (F.movetErr ch) 0 else s

theorem State.loadProg_frame (ch : Nat) (gr : Graph) (nd : Node) (p : Prog) : ((s.loadProg ch gr nd p).chan ch).prog = some p
    ∧ (s.loadProg ch gr nd p).graphs = s.graphs ∧ (s.loadProg ch gr nd p).tile = s.tile ∧ (s.loadProg ch gr nd p).sys = s.sys := by
  unfold State.loadProg
  extract_lets u v
  have hu : u.graphs = s.graphs ∧ u.tile = s.tile ∧ u.sys = s.sys := by
    unfold u
    split
    · exact ⟨rfl, rfl, rfl⟩
    · exact s.discard_frame ch
  have hv : (v.chan ch).prog = some p := by simp only [v, State.modChan, State.chan_setChan]
  split
  · exact ⟨hv, hu⟩
  · exact ⟨hv, hu⟩

/-- A slice begins: the node's program is on the channel, the channel runs, and its slot register shows where the program stands. -/
theorem State.bindProg_loads (ch : Nat) (gr : Graph) (nd : Node) (hh : s.holder ch = some (gr, nd)) (hp : (s.chan ch).prog = none)
    (he : s.engines = true) (hk : nd.kind = 1) (hm : nd.field 24 1 = 0) (hecl : s.eclipsed ch = false) :
    s.bindProg ch 0 = ((s.loadProg ch gr nd (s.nextProg ch gr nd)).chTo ch 2).setFld (F.chSlot ch) (s.nextProg ch gr nd).pc := by
  have go : (s.engines && nd.kind == 1 && nd.field 24 1 == 0 && !s.eclipsed ch) = true := by simp [he, hk, hm, hecl]
  unfold State.bindProg State.nextProg State.parkedProg
  rw [hh, hp]
  dsimp only
  rw [if_pos go]
  cases (s.chan ch).idle.find? (fun p => p.g == gr.id && p.n == nd.idx) <;> rfl

theorem State.chTo_slot (ch pc : Nat) : ((s.chTo ch 2).setFld (F.chSlot ch) pc).fld (F.chState ch) = 2
    ∧ ((s.chTo ch 2).setFld (F.chSlot ch) pc).fld (F.chSlot ch) = pc % 4096 := by
  constructor
  · rw [State.fld_setFld_disj _ _ _ _ (.inl (by simp [F.chState, F.chSlot])), State.chTo]
    exact State.fld_setFld_fits _ _ _ (by simp [F.chState]) (by simp [F.chState])
  · exact State.fld_setFld_self _ _ _ (by simp [F.chSlot])

/-- A program on its channel, at its start or where it stood (R86, R122). -/
theorem State.transit_binds (ch : Nat) (gr : Graph) (nd : Node) (hh : s.holder ch = some (gr, nd)) (hp : (s.chan ch).prog = none)
    (he : s.engines = true) (hk : nd.kind = 1) (hm : nd.field 24 1 = 0) (hecl : s.eclipsed ch = false) :
    (s.bindProg ch 0).fld (F.chState ch) = 2 ∧ (s.bindProg ch 0).graphs = s.graphs ∧ (s.bindProg ch 0).tile = s.tile
      ∧ (s.bindProg ch 0).sys = s.sys
      ∧ ((s.bindProg ch 0).chan ch).prog = some (s.nextProg ch gr nd)
      ∧ (s.bindProg ch 0).fld (F.chSlot ch) = (s.nextProg ch gr nd).pc % 4096 := by
  obtain ⟨prog, graphs, tile, sys⟩ := s.loadProg_frame ch gr nd (s.nextProg ch gr nd)
  rw [s.bindProg_loads ch gr nd hh hp he hk hm hecl]
  generalize s.loadProg ch gr nd (s.nextProg ch gr nd) = u at prog graphs tile sys
  exact ⟨(u.chTo_slot ch _).1, graphs, tile, sys, prog, (u.chTo_slot ch _).2⟩

-- slices on units

theorem State.copyRun_lines (ch : Nat) (s1 s2 : State) (p : Prog) (b : List Byte) (hc : (s.bindProg ch 1).isCopy ch = true)
    (hs : (s.bindProg ch 1).atSlot ch 2 = some (p, b)) (hf : (atomically (.node p.g p.n) (fetchSlot ch p)).on (s.bindProg ch 1) = (.ok (), s1))
    (hm : (movetRun ch (s1.isCopy ch)).on s1 = (.ok (), s2)) : s.copyRun ch = s2.settleCh ch := by
  simp only [State.copyRun, hc, if_true, State.movet, State.slotRun, hs, hf, State.runCh, hm]

theorem State.copyRun_movet (ch : Nat) (hc : (s.bindProg ch 1).isCopy ch = true) : s.copyRun ch = (s.bindProg ch 1).movet ch := by
  simp only [State.copyRun, hc, if_true]

theorem State.runNode_ok {g n t : Nat} {m : M Unit} {s1 : State} (h : m.on s = (.ok (), s1)) : s.runNode g n t m = s1 := by
  simp only [State.runNode, h]

theorem State.runNode_miss {g n t : Nat} {m : M Unit} {s1 : State} {a : Nat} {w : Bool} (h : m.on s = (.error (.miss a w), s1)) :
    s.runNode g n t m = { s1.modNode g n (fun x => { x with stall := true }) with
      walks := s1.walks ++ [{ t := t, xva := a, write := w, who := .node g n }] } := by
  simp only [State.runNode, h]

theorem State.runNode_wait {g n t : Nat} {m : M Unit} {s1 : State} (h : m.on s = (.error .wait, s1)) : s.runNode g n t m = s1 := by
  simp only [State.runNode, h]

theorem State.runNode_stop {g n t : Nat} {m : M Unit} {s1 : State} {st de : Nat} (h : m.on s = (.error (.stop st de), s1)) :
    s.runNode g n t m = s1.failNode g n st de := by
  simp only [State.runNode, h]

-- CHAIN

/-- What CHAIN passes to a stage: how far the stage before it has written (R88). -/
def passed (g : Nat) (s : State) (x : Node × Node) : State := s.modNode g x.2.idx (fun y => { y with hw := x.1.handed })

theorem passed_others (g n : Nat) (l : List (Node × Node)) (h : ∀ x ∈ l, x.2.idx ≠ n) : (l.foldl (passed g) s).node g n = s.node g n :=
  proj_foldl (p := fun t => t.node g n) fun t x hx => t.node_modNode_ne g (fun y => { y with hw := x.1.handed }) (fun _ => rfl) (h x hx)

theorem passed_node (g : Nat) (l : List (Node × Node)) (hd : (l.map (fun x => x.2.idx)).Nodup) {x : Node × Node} (hx : x ∈ l) :
    (l.foldl (passed g) s).node g x.2.idx = (s.node g x.2.idx).map (fun y => { y with hw := x.1.handed }) := by
  induction l generalizing s with
  | nil => cases hx
  | cons z l ih =>
    obtain ⟨fresh, rest⟩ := List.nodup_cons.1 hd
    rcases List.mem_cons.1 hx with rfl | hx
    · refine (passed_others _ g x.2.idx l fun y hy he => fresh (List.mem_map.2 ⟨y, hy, he⟩)).trans ?_
      exact s.node_modNode g x.2.idx (fun y => { y with hw := x.1.handed }) fun _ => rfl
    · refine (ih _ rest hx).trans ?_
      rw [passed, s.node_modNode_ne g (fun y => { y with hw := z.1.handed }) (fun _ => rfl)
        (fun he => fresh (List.mem_map.2 ⟨x, hx, he.symm⟩))]

/-- A state without its graphs. -/
def State.ungraphed (s : State) : State := { s with graphs := [] }

theorem passed_frame (g : Nat) (l : List (Node × Node)) : (l.foldl (passed g) s).ungraphed = s.ungraphed :=
  proj_foldl (p := State.ungraphed) fun _ _ _ => rfl

theorem State.chainStep_passes (g n : Nat) (gr : Graph) (nd : Node) (hg : s.graph g = some gr) (hn : s.node g n = some nd) (he : s.engines = true)
    (hk : nd.kind = 8) (ho : nd.st = .opened) :
    s.chainStep g n = ((gr.stages nd).zip ((gr.stages nd).drop 1)).foldl (passed g) s := by
  simp only [State.chainStep, hg, hn, he, hk, ho, beq_self_eq_true, Bool.and_self, if_true]
  rfl

theorem find?_of_nodup {l : List Node} (hd : (l.map (·.idx)).Nodup) {x : Node} (hx : x ∈ l) : l.find? (·.idx == x.idx) = some x := by
  induction l with
  | nil => cases hx
  | cons y l ih =>
    obtain ⟨fresh, rest⟩ := List.nodup_cons.1 hd
    rcases List.mem_cons.1 hx with rfl | hx
    · simp
    · have ne : y.idx ≠ x.idx := fun he => fresh (List.mem_map.2 ⟨x, hx, he.symm⟩)
      simpa [ne] using ih rest hx

theorem stages_sublist (gr : Graph) (nd : Node) : (gr.stages nd).Sublist gr.nodes := by
  unfold Graph.stages
  split
  · exact List.filter_sublist
  · exact List.nil_sublist _

/-- A stage of a chain, its nodes having distinct indices, knows how far the stage before it has written (R88). -/
theorem State.chainStep_stage (g n : Nat) (gr : Graph) (nd : Node) (hg : s.graph g = some gr) (hn : s.node g n = some nd) (he : s.engines = true)
    (hk : nd.kind = 8) (ho : nd.st = .opened) (hd : (gr.nodes.map (·.idx)).Nodup) {i : Nat} {x y : Node} (hx : (gr.stages nd)[i]? = some x)
    (hy : (gr.stages nd)[i + 1]? = some y) : (s.chainStep g n).node g y.idx = some { y with hw := x.handed } := by
  rw [s.chainStep_passes g n gr nd hg hn he hk ho]
  have sub := stages_sublist gr nd
  have behind : (((gr.stages nd).zip ((gr.stages nd).drop 1)).map (fun x => x.2.idx)).Nodup := by
    have second : ((gr.stages nd).zip ((gr.stages nd).drop 1)).map Prod.snd = (gr.stages nd).drop 1 :=
      List.map_snd_zip (by simp)
    have idx : ((gr.stages nd).zip ((gr.stages nd).drop 1)).map (fun x => x.2.idx) = ((gr.stages nd).drop 1).map (·.idx) := by
      conv_rhs => rw [← second, List.map_map]
      rfl
    rw [idx]
    exact hd.sublist (((List.drop_sublist 1 _).trans sub).map _)
  have pair : (x, y) ∈ (gr.stages nd).zip ((gr.stages nd).drop 1) := by
    refine List.mem_of_getElem? (i := i) (List.getElem?_zip_eq_some.2 ⟨hx, ?_⟩)
    rw [List.getElem?_drop, Nat.add_comm]
    exact hy
  have found : s.node g y.idx = some y := by
    unfold State.node
    rw [hg]
    exact find?_of_nodup hd (sub.subset (List.mem_of_getElem? hy))
  rw [passed_node s g _ behind pair, found]
  rfl

/-- Settles O54: each row's step is that of its engine, and what the engine leaves is said by the lemmas above. -/
theorem nodesRunOnUnits : Obligations.NodesRunOnUnits := by
  unfold Obligations.NodesRunOnUnits
  refine ⟨fun s ch gr nd hh hp he hk hm hecl => ?_, fun s s1 s2 ch p b hc hs hf hm => ?_, fun s ch hc => ?_, fun s s0 e gr nd x m hu hx h0 hm => ?_,
    fun s s0 i gr nd m hu h0 hm => ?_, fun s e gr nd hu hx => ?_,
    fun s u gr nd hu hg hn hsl hpos htot hsub hend hin hsp hct hres hcmp hheld hok hecc hold => ?_, fun s g n gr nd hg hn he hk ho hd => ?_⟩
  · obtain ⟨state, graphs, tile, sys, prog, slot⟩ := s.transit_binds ch gr nd hh hp he hk hm hecl
    obtain ⟨hpg, hpn⟩ := nextProg_own s (ch := ch) (gr := gr) (nd := nd)
    refine ⟨_, rfl, state, graphs, tile, sys, ?_, fun p hfind => ?_, fun hfind => ?_⟩
    · rw [prog, slot]
      simp [hpg, hpn]
    · have parked : s.parkedProg ch gr nd = some p := hfind
      rw [prog, State.nextProg, parked]
      simp
    · have parked : s.parkedProg ch gr nd = none := hfind
      rw [prog, State.nextProg, parked]
      simp [freshProg]
  · exact congrArg Host.Outcome.next (s.copyRun_lines ch s1 s2 p b hc hs hf hm)
  · exact congrArg Host.Outcome.next (s.copyRun_movet ch hc)
  · have run : s.contractRun e = s0.runNode gr.id nd.idx gr.ctx m := by
      simp only [State.contractRun, hu, hx, h0, hm]
    refine ⟨fun s1 h => ?_, fun s1 a w h => ?_, fun s1 h => ?_, fun s1 st de h => ?_⟩
    · exact congrArg Host.Outcome.next (run.trans (s0.runNode_ok h))
    · exact congrArg Host.Outcome.next (run.trans (s0.runNode_miss h))
    · exact congrArg Host.Outcome.next (run.trans (s0.runNode_wait h))
    · exact congrArg Host.Outcome.next (run.trans (s0.runNode_stop h))
  · have run : s.vectorRun i = s0.runNode gr.id nd.idx gr.ctx m := by
      simp only [State.vectorRun, hu, h0, hm]
    refine ⟨fun s1 h => ?_, fun s1 a w h => ?_, fun s1 h => ?_, fun s1 st de h => ?_⟩
    · exact congrArg Host.Outcome.next (run.trans (s0.runNode_ok h))
    · exact congrArg Host.Outcome.next (run.trans (s0.runNode_miss h))
    · exact congrArg Host.Outcome.next (run.trans (s0.runNode_wait h))
    · exact congrArg Host.Outcome.next (run.trans (s0.runNode_stop h))
  · have rests : s.contractRun e = s := by simp only [State.contractRun, hu, hx]
    exact congrArg Host.Outcome.next rests
  · have scans := s.checkRun_scans ⟨hsl, hpos, htot, hend, hin, hsp, hct, hres, hcmp, hheld, hok, hecc, hold⟩ hu hg hn hsub
    obtain ⟨l, same⟩ := scans.same
    refine ⟨_, rfl, by rw [same], by rw [same], by rw [same], by rw [same], by rw [same], ?_⟩
    rw [show (s.checkRun u).node gr.id nd.idx = _ from scans.node]
    simp [Node.scanDone, hpos, Node.scanResult, scanValue]
  · have frame := passed_frame s g ((gr.stages nd).zip ((gr.stages nd).drop 1))
    rw [← s.chainStep_passes g n gr nd hg hn he hk ho] at frame
    refine ⟨_, rfl, (congrArg State.chans frame :), (congrArg State.tile frame :), (congrArg State.regs frame :), (congrArg State.ctxs frame :),
      (congrArg State.counters frame :), fun i x y hx hy => ?_⟩
    rw [s.chainStep_stage g n gr nd hg hn he hk ho hd hx hy]
    simp

end Sys2Proof.Machine
end

section
/-! Reads of structures (R265): they leave graphs, tile memory and counters as they are, and give as many bytes as they are asked for. -/

namespace Sys2Proof.Machine

variable {β γ : Type} {P : List Graph × List Host.Cell × List (Nat × W32)}

/-- From a state with the plan `P` an access ends in one, with an answer that `R` admits if it goes on. -/
def Reads (P : List Graph × List Host.Cell × List (Nat × W32)) (m : M β) (R : β → Prop) : Prop :=
  ∀ s : State, s.plan = P → (m.on s).2.plan = P ∧ ∀ x, (m.on s).1 = .ok x → R x

theorem reads_pure {R : β → Prop} {x : β} (h : R x) : Reads P (pure x : M β) R := by
  intro s hs
  rw [on_pure]
  exact ⟨hs, fun y hy => by cases hy; exact h⟩

theorem reads_throw {R : β → Prop} (e : Err) : Reads P (throw e : M β) R := by
  intro s hs
  rw [on_throw]
  exact ⟨hs, fun y hy => by cases hy⟩

theorem reads_bind {Q : β → Prop} {R : γ → Prop} {m : M β} {f : β → M γ} (hm : Reads P m Q) (hf : ∀ x, Q x → Reads P (f x) R) :
    Reads P (m >>= f) R := by
  intro s hs
  obtain ⟨plan, answer⟩ := hm s hs
  cases h : m.on s with
  | mk r t =>
    rw [h] at plan answer
    cases r with
    | ok x =>
      rw [on_bind_ok h]
      exact hf x (answer x rfl) t plan
    | error e =>
      rw [on_bind_error h]
      exact ⟨plan, fun y hy => by cases hy⟩

theorem reads_get {R : β → Prop} {f : State → M β} (hf : ∀ s, s.plan = P → Reads P (f s) R) : Reads P (get >>= f) R := by
  intro s hs
  rw [on_bind_ok (on_get s)]
  exact hf s hs s hs

theorem reads_set {R : β → Prop} {t : State} {f : PUnit → M β} (ht : t.plan = P) (hf : Reads P (f ()) R) : Reads P (set t >>= f) R := by
  intro s _
  rw [on_bind_ok (on_set t s)]
  exact hf t ht

theorem reads_modify {R : β → Prop} {g : State → State} {f : PUnit → M β} (hg : ∀ s, (g s).plan = s.plan) (hf : Reads P (f ()) R) :
    Reads P (modify g >>= f) R := by
  intro s hs
  rw [on_bind_ok (on_modify g s)]
  exact hf (g s) ((hg s).trans hs)

theorem reads_mapM {R : γ → β → Prop} {f : γ → M β} (hf : ∀ y, Reads P (f y) (R y)) (l : List γ) :
    Reads P (l.mapM f) (fun zs => List.Forall₂ R l zs) := by
  induction l with
  | nil => exact reads_pure .nil
  | cons y l ih =>
    rw [List.mapM_cons]
    exact reads_bind (hf y) fun z hz => reads_bind ih fun zs hzs => reads_pure (.cons hz hzs)

-- what accesses leave alone

theorem State.debit_plan (s : State) (c t z : Nat) : (s.debit c t z).plan = s.plan := by
  obtain ⟨credit, owed, h⟩ := s.debit_lit c t z
  rw [h]
  rfl

theorem State.sysWr_plan (s : State) (pa : Nat) (l : List Byte) : (s.sysWr pa l).plan = s.plan := by
  induction l generalizing s pa with
  | nil => rfl
  | cons b l ih => exact (ih _ _).trans rfl

theorem State.walkPaid_plan (s : State) (t xva : Nat) (w : Bool) : (s.walkPaid t xva w).plan = s.plan :=
  proj_foldl (p := State.plan) fun u _ _ => u.debit_plan 3 8 64

theorem State.install_plan (s : State) (x : Xl) : (s.install x).plan = s.plan := rfl

theorem State.walked_plan (s : State) (t xva : Nat) (w : Bool) (x : Xl) (l : List (Nat × Nat)) : (s.walked t xva w x l).plan = s.plan :=
  (State.install_plan _ x).trans rfl

theorem State.raise_plan (s : State) (f : FaultReq) : (s.raise f).plan = s.plan := plan_of_rest (s.raise_rest f)

theorem State.request_plan (s : State) (f : FaultReq) : (s.request f).2.plan = s.plan :=
  plan_of_rest ((State.iqPush_rest _ _).trans (s.mkRec_rest f 1))

theorem length_sysRd (s : State) (pa n : Nat) : (s.sysRd pa n).length = n := by
  induction n generalizing pa with
  | zero => rfl
  | succ n ih => simp [State.sysRd, ih]

theorem length_rawRd (s : State) (pa n : Nat) : (s.rawRd pa n).length = n := by
  induction n generalizing pa with
  | zero => rfl
  | succ n ih => simp [State.rawRd, ih]

theorem length_ownSeen (s : State) (q : Req) (pa : Nat) (l : List Byte) : (s.ownSeen q pa l).length = l.length := by
  unfold State.ownSeen
  split <;> simp

-- the reads

theorem accFault_reads (q : Req) (unit cause : Nat) (w : Bool) (xva : Nat) : Reads P (accFault q unit cause w xva) (fun _ => True) := by
  unfold accFault
  exact reads_get fun s hs => reads_set ((s.raise_plan _).trans hs) (reads_pure trivial)

theorem physRead_reads (q : Req) (pa n : Nat) (nc : Bool) : Reads P (physRead q pa n nc) (fun b => b.length = n) := by
  unfold physRead
  refine reads_get fun s hs => ?_
  dsimp only
  split
  · exact reads_bind (accFault_reads _ _ _ _ _) fun _ _ => reads_throw _
  · exact reads_bind (accFault_reads _ _ _ _ _) fun _ _ => reads_throw _
  · split
    · refine reads_set ?_ (reads_pure ?_)
      · exact coll_ite (g := State.plan) ((State.sysWr_plan _ _ _).trans hs) hs
      · rw [length_ownSeen, length_rawRd]
    · exact reads_pure (by rw [length_ownSeen, length_sysRd])

theorem ctlRead_reads (q : Req) (pa n : Nat) (nc : Bool) : Reads P (ctlRead q pa n nc) (fun b => b.length = n) := by
  unfold ctlRead
  exact reads_bind (physRead_reads q pa n nc) fun b hb => reads_modify (fun s => s.debit_plan _ _ _) (reads_pure hb)

theorem fetchAt_reads (q : Req) (s : State) (hs : s.plan = P) (a k : Nat) : Reads P (structRead.fetchAt q s a k) (fun b => b.length = k) := by
  unfold structRead.fetchAt
  dsimp only
  split
  · exact reads_set ((State.raise_plan _ _).trans ((s.walkPaid_plan _ _ _).trans hs)) (reads_throw _)
  · split
    · exact reads_set ((State.walked_plan _ _ _ _ _ _).trans ((s.walkPaid_plan _ _ _).trans hs)) (ctlRead_reads _ _ _ _)
    · split
      · exact reads_throw _
      · refine reads_set ?_ (reads_throw _)
        have asked : ∀ f, ((s.walkPaid q.t a false).request f).2.plan = P := fun f => (State.request_plan _ f).trans ((s.walkPaid_plan _ _ _).trans hs)
        exact coll_ite (g := State.plan) (asked _) (asked _)

theorem length_flatten {l : List (Nat × Nat)} {zs : List (List Byte)} (h : List.Forall₂ (fun x z => z.length = x.2) l zs) :
    zs.flatten.length = (l.map (·.2)).sum := by
  induction h with
  | nil => rfl
  | cons hx _ ih => simp [hx, ih]

/-- The pieces of the first blocks of a range are as long as the range up to there. -/
theorem blocks_sum_upto (a n k : Nat) (hn : 0 < n) (hk : k ≤ (a + n - 1) / 256 - a / 256) :
    ((List.range (k + 1)).map (fun k => Nat.min (a + n) ((a / 256 + k + 1) * 256) - Nat.max a ((a / 256 + k) * 256))).sum
      = min (a + n) ((a / 256 + k + 1) * 256) - a := by
  induction k with
  | zero =>
    have first : Nat.max a (a / 256 * 256) = a := Nat.max_eq_left (by omega)
    simp only [List.range_succ, List.range_zero, List.nil_append, List.map_cons, List.map_nil, List.sum_cons, List.sum_nil, Nat.add_zero, first]
  | succ k ih =>
    rw [List.range_succ, List.map_append, List.sum_append, ih (by omega)]
    have low : Nat.max a ((a / 256 + (k + 1)) * 256) = max a ((a / 256 + (k + 1)) * 256) := rfl
    have high : Nat.min (a + n) ((a / 256 + (k + 1) + 1) * 256) = min (a + n) ((a / 256 + (k + 1) + 1) * 256) := rfl
    simp only [List.map_cons, List.map_nil, List.sum_cons, List.sum_nil, Nat.add_zero, low, high]
    omega

theorem blocks_sum (a n : Nat) : ((blocks a n).map (·.2)).sum = n := by
  unfold blocks
  split
  · next h => simp [h]
  · next h =>
    have upto := blocks_sum_upto a n _ (by omega) (Nat.le_refl _)
    rw [List.map_map]
    refine Eq.trans upto ?_
    omega

theorem structRead_reads (q : Req) (xva n : Nat) : Reads P (structRead q xva n) (fun b => b.length = n) := by
  unfold structRead
  refine reads_bind (reads_mapM (R := fun x z => z.length = x.2) ?_ _) fun zs hzs => reads_pure ((length_flatten hzs).trans (blocks_sum xva n))
  rintro ⟨a, k⟩
  dsimp only
  split
  · exact ctlRead_reads _ _ _ _
  · refine reads_get fun s hs => ?_
    split
    · split
      · exact ctlRead_reads _ _ _ _
      · exact fetchAt_reads q s hs a k
    · exact fetchAt_reads q s hs a k

end Sys2Proof.Machine
end

section
/-! The fetch of nodes (R68): how far a graph's fetch is, what failures and steps leave of it, and what each fetched node adds. -/

namespace Sys2Proof.Machine

variable (s : State) (g : Nat)

/-- Of a graph: its failure, the failure of its fetch, and how many of its nodes have been fetched. -/
def Graph.fetch (x : Graph) : Option (Nat × Nat × Nat) × Option (Nat × Nat) × Nat := (x.fail, x.stopped, x.fetchedN)

/-- How far the fetch of graph `g` is, tile memory and the counters. -/
def State.fetchOf (s : State) : Option (Option (Nat × Nat × Nat) × Option (Nat × Nat) × Nat) × List Host.Cell × List (Nat × W32) :=
  ((s.graph g).map Graph.fetch, s.tile, s.counters)

theorem fetchOf_of_plan {s t : State} (h : t.plan = s.plan) : t.fetchOf g = s.fetchOf g := by
  obtain ⟨-, tile, counters⟩ := plan_eq h
  unfold State.fetchOf
  rw [graph_of_plan h, tile, counters]

theorem State.modGraph_fetchOf (f : Graph → Graph) (hid : ∀ x, (f x).id = x.id) (hf : ∀ x, s.graph g = some x → (f x).fetch = x.fetch) :
    (s.modGraph g f).fetchOf g = s.fetchOf g := by
  unfold State.fetchOf
  rw [s.graph_modGraph g f hid]
  cases hx : s.graph g with
  | none => rfl
  | some x => exact congrArg (fun y => (some y, s.tile, s.counters)) (hf x hx)

theorem State.modNode_fetchOf (n : Nat) (f : Node → Node) : (s.modNode g n f).fetchOf g = s.fetchOf g :=
  s.modGraph_fetchOf g _ (fun _ => rfl) fun _ _ => rfl

theorem State.countSlice_fetchOf (n : Nat) : (s.countSlice g n).fetchOf g = s.fetchOf g :=
  (State.modGraph_fetchOf _ g (fun x => { x with slices := x.slices + 1 }) (fun _ => rfl) fun _ _ => rfl).trans (s.modNode_fetchOf g n _)

/-- The waiting nodes of a graph that fails leave it: its fetch is as far as before (R90). -/
theorem State.stopWaiters_fetchOf : (s.stopWaiters g).fetchOf g = s.fetchOf g := by
  unfold State.stopWaiters
  split
  · next x hx =>
    extract_lets gone eph
    refine coll_ite (g := fun t => t.fetchOf g) rfl ((fetchOf_of_plan g rfl).trans ?_)
    exact s.modGraph_fetchOf g (fun x => { x with nodes := x.nodes.filter (fun n => !gone.contains n.idx) }) (fun _ => rfl) fun _ _ => rfl
  · rfl

/-- A node that fails leaves the failure of its graph as it is, where the graph has failed already (R90). -/
theorem State.failNode_fetchOf (n status detail : Nat) (h : ∀ x, s.graph g = some x → x.fail.isSome = true) :
    (s.failNode g n status detail).fetchOf g = s.fetchOf g := by
  unfold State.failNode
  extract_lets u v
  have hu : u.fetchOf g = s.fetchOf g := by
    refine (fetchOf_of_plan g rfl).trans (coll_ite (g := fun t => t.fetchOf g) (s.countSlice_fetchOf g n) rfl)
  have hv : v.fetchOf g = u.fetchOf g := by
    unfold v
    split
    · exact (fetchOf_of_plan g rfl).trans ((State.modNode_fetchOf _ g n _).trans (fetchOf_of_plan g rfl))
    · rfl
  have hw : (v.modNode g n (fun x => { x with st := .failed, status := status, detail := detail, stall := false })).fetchOf g = s.fetchOf g :=
    (v.modNode_fetchOf g n _).trans (hv.trans hu)
  generalize v.modNode g n (fun x => { x with st := .failed, status := status, detail := detail, stall := false }) = w at hw
  refine (State.stopWaiters_fetchOf _ g).trans ((w.modGraph_fetchOf g _ (fun x => ?_) fun x hx => ?_).trans hw)
  · split <;> rfl
  · have failed : x.fail.isSome = true := by
      have same := congrArg Prod.fst hw
      simp only [State.fetchOf, hx, Option.map_some] at same
      obtain ⟨y, hy, hxy⟩ := Option.map_eq_some_iff.1 same.symm
      have : y.fail = x.fail := congrArg Prod.fst hxy
      rw [← this]
      exact h y hy
    rw [if_pos failed]

/-- A node that is refused: its graph has failed, and no more of it is fetched (R75, R90). -/
theorem State.refuseNode_fetch (n detail : Nat) (x : Graph) (hx : s.graph g = some x) :
    (s.refuseNode g n 0x1B detail).fetchOf g
      = (some (if x.fail.isSome then x.fail else some (n, 0x1B, detail), x.stopped, x.fetchedN), s.tile, s.counters) := by
  unfold State.refuseNode
  extract_lets u
  have hu : u.graph g = some (if x.fail.isSome then x else { x with fail := some (n, 0x1B, detail) }) := by
    refine (s.graph_modGraph g _ fun y => ?_).trans ?_
    · split <;> rfl
    · rw [hx]
      simp
  rw [u.failNode_fetchOf g n 0x1B detail fun y hy => ?_]
  · rw [State.fetchOf, hu]
    split <;> rfl
  · rw [hu] at hy
    obtain rfl := Option.some.inj hy
    split
    · assumption
    · rfl

/-- Of a graph whose next nodes are fetched, one after another: it has failed on the way, or these nodes have been added (R68, R75). -/
def Taken (gr : Graph) (bs : List (List Byte)) (x : Graph) : Prop :=
  (x.fail.isSome = true ∧ gr.fetchedN < x.fetchedN)
    ∨ (x.fail = none ∧ x.fetchedN = gr.fetchedN + bs.length
        ∧ ∃ l, x.nodes = gr.nodes ++ l ∧ l.map (·.bytes) = bs ∧ ∀ m ∈ l, m.st = .fetched)

/-- A graph with a further fetched node. -/
def Graph.fetched (x : Graph) (nd : Node) : Graph := { x with nodes := x.nodes ++ [nd], fetchedN := x.fetchedN + 1 }

theorem taken_fetched {gr x : Graph} {bs : List (List Byte)} (h : Taken gr bs x) (hf : x.fail = none) (nd : Node) (hst : nd.st = .fetched) :
    Taken gr (bs ++ [nd.bytes]) (x.fetched nd) := by
  rcases h with ⟨failed, -⟩ | ⟨-, count, l, nodes, bytes, fresh⟩
  · rw [hf] at failed
    cases failed
  · refine .inr ⟨hf, ?_, l ++ [nd], ?_, ?_, ?_⟩
    · simp only [Graph.fetched, count, List.length_append, List.length_singleton, Nat.add_assoc]
    · simp only [Graph.fetched, nodes, List.append_assoc]
    · simp only [List.map_append, bytes, List.map_cons, List.map_nil]
    · intro m hm
      rcases List.mem_append.1 hm with hm | hm
      · exact fresh m hm
      · rw [List.mem_singleton.1 hm]
        exact hst

/-- The next node of a graph as it is fetched (R92). -/
def State.nextFetched (s : State) (x : Graph) (b : List Byte) : Node :=
  { idx := x.fetchedN, bytes := b, seq := ((x.chainAt x.fetchedN).map (·.seq)).getD (s.ctx x.ctx).nodeSeq }

/-- The state in which the next node of a graph stands in the window. -/
def State.windowed (s : State) (g : Nat) (x : Graph) (b : List Byte) : State :=
  (if x.chainLeft x.fetchedN = 0 then s.modCtx x.ctx (fun y => { y with nodeSeq := (s.ctx x.ctx).nodeSeq + 1 }) else s).modGraph g
    (·.fetched (s.nextFetched x b))

theorem State.takeNode_failed {x : Graph} (hx : s.graph g = some x) (hf : x.fail.isSome = true) (b : List Byte) : s.takeNode g b = s := by
  simp only [State.takeNode, hx, hf, if_true]

theorem State.takeNode_enters {x : Graph} (hx : s.graph g = some x) (hf : x.fail = none) (b : List Byte) :
    s.takeNode g b = s.windowed g x b ∨ ∃ c, s.takeNode g b = (s.windowed g x b).refuseNode g x.fetchedN 0x1B c := by
  unfold State.takeNode
  rw [hx]
  dsimp only
  rw [if_neg (by simp [hf])]
  split
  · next c _ => exact .inr ⟨c, rfl⟩
  · exact .inl rfl

theorem State.windowed_graph {x : Graph} (hx : s.graph g = some x) (b : List Byte) : (s.windowed g x b).tile = s.tile
    ∧ (s.windowed g x b).counters = s.counters ∧ (s.windowed g x b).graph g = some (x.fetched (s.nextFetched x b)) := by
  unfold State.windowed
  generalize s.nextFetched x b = nd
  have plan : (if x.chainLeft x.fetchedN = 0 then s.modCtx x.ctx (fun y => { y with nodeSeq := (s.ctx x.ctx).nodeSeq + 1 }) else s).plan = s.plan :=
    coll_ite (g := State.plan) rfl rfl
  generalize (if x.chainLeft x.fetchedN = 0 then s.modCtx x.ctx (fun y => { y with nodeSeq := (s.ctx x.ctx).nodeSeq + 1 }) else s) = v at plan
  refine ⟨(plan_eq plan).2.1, (plan_eq plan).2.2, ?_⟩
  rw [v.graph_modGraph g (·.fetched nd) fun _ => rfl, graph_of_plan plan, hx]
  rfl

/-- One more node is taken, or the graph has failed (R68, R75, R92). -/
theorem State.takeNode_taken {gr x : Graph} {bs : List (List Byte)} (hx : s.graph g = some x) (h : Taken gr bs x) (b : List Byte) :
    (s.takeNode g b).tile = s.tile ∧ (s.takeNode g b).counters = s.counters ∧ ∃ y, (s.takeNode g b).graph g = some y ∧ Taken gr (bs ++ [b]) y := by
  rcases h with ⟨failed, more⟩ | ⟨none, rest⟩
  · rw [s.takeNode_failed g hx failed]
    exact ⟨rfl, rfl, x, hx, .inl ⟨failed, more⟩⟩
  · obtain ⟨tile, counters, graph⟩ := s.windowed_graph g hx b
    rcases s.takeNode_enters g hx none b with good | ⟨c, bad⟩
    · rw [good]
      exact ⟨tile, counters, _, graph, taken_fetched (.inr ⟨none, rest⟩) none (s.nextFetched x b) rfl⟩
    · have refused := State.refuseNode_fetch (s.windowed g x b) g x.fetchedN c _ graph
      rw [← bad] at refused
      have fetch := congrArg Prod.fst refused
      obtain ⟨y, hy, fetched⟩ := Option.map_eq_some_iff.1 fetch
      have failed : y.fail = some (x.fetchedN, 0x1B, c) := by
        refine (congrArg Prod.fst fetched).trans (if_neg ?_)
        simp [Graph.fetched, none]
      have count : y.fetchedN = x.fetchedN + 1 := (congrArg (fun p => p.2.2) fetched :)
      have before := rest.1
      refine ⟨(congrArg (fun p => p.2.1) refused).trans tile, (congrArg (fun p => p.2.2) refused).trans counters, y, hy, .inl ⟨?_, ?_⟩⟩
      · rw [failed]
        rfl
      · omega

/-- Nodes are taken one after another (R68). -/
theorem State.takeNodes_taken {gr : Graph} (l : List (List Byte)) {bs : List (List Byte)} {x : Graph} (hx : s.graph g = some x) (h : Taken gr bs x) :
    (l.foldl (fun t b => t.takeNode g b) s).tile = s.tile ∧ (l.foldl (fun t b => t.takeNode g b) s).counters = s.counters
      ∧ ∃ y, (l.foldl (fun t b => t.takeNode g b) s).graph g = some y ∧ Taken gr (bs ++ l) y := by
  induction l generalizing s bs x with
  | nil => exact ⟨rfl, rfl, x, hx, by rwa [List.append_nil]⟩
  | cons b l ih =>
    obtain ⟨tile, counters, y, hy, taken⟩ := s.takeNode_taken g hx h b
    obtain ⟨tile', counters', z, hz, taken'⟩ := ih (s.takeNode g b) hy taken
    refine ⟨tile'.trans tile, counters'.trans counters, z, hz, ?_⟩
    rwa [List.append_assoc] at taken'

/-- The nodes that a read of `k` nodes holds. -/
def nodeImages (b : List Byte) (k : Nat) : List (List Byte) := (List.range k).map (fun i => slice b (64 * i) 64)

theorem nodeImages_flatten (b : List Byte) (k : Nat) (h : b.length = 64 * k) : (nodeImages b k).flatten = b := by
  have upto : ∀ j, j ≤ k → (nodeImages b j).flatten = b.take (64 * j) := by
    intro j hj
    induction j with
    | zero => simp [nodeImages]
    | succ j ih =>
      have whole : slice b (64 * j) 64 = (b.drop (64 * j)).take 64 := by
        have len : ((b.drop (64 * j)).take 64).length = 64 := by
          rw [List.length_take, List.length_drop]
          omega
        simp only [slice, len, Nat.sub_self, List.replicate_zero, List.append_nil]
      rw [nodeImages, List.range_succ, List.map_append, List.flatten_append]
      refine (congrArg (· ++ _) (ih (by omega))).trans ?_
      simp only [List.map_cons, List.map_nil, List.flatten_cons, List.flatten_nil, List.append_nil, whole]
      rw [← List.take_add]
      rfl
  rw [upto k (Nat.le_refl k), List.take_of_length_le (by omega)]

/-- What the fetch of at least one node leaves of its graph, as a check. -/
theorem taken_check {gr x : Graph} {b : List Byte} {k : Nat} (hk : 0 < k) (hb : b.length = 64 * k) (h : Taken gr (nodeImages b k) x) :
    (gr.fetchedN < x.fetchedN && (x.fail.isSome || (x.fetchedN == gr.fetchedN + k && x.nodes.take gr.nodes.length == gr.nodes
      && (x.nodes.drop gr.nodes.length).flatMap (·.bytes) == b && (x.nodes.drop gr.nodes.length).all (·.st == .fetched)))) = true := by
  rcases h with ⟨failed, more⟩ | ⟨-, count, l, nodes, bytes, fresh⟩
  · simp [failed, more]
  · have images : (nodeImages b k).length = k := by simp [nodeImages]
    rw [images] at count
    have flat : l.flatMap (·.bytes) = b := by
      rw [List.flatMap_def, bytes, nodeImages_flatten b k hb]
    have states : l.all (·.st == .fetched) = true := by simpa using fresh
    have more : gr.fetchedN < x.fetchedN := by omega
    simp only [nodes, List.take_left, List.drop_left, flat, states, count, beq_self_eq_true, Bool.and_self, Bool.or_true, Bool.and_true,
      decide_eq_true_eq]
    omega

end Sys2Proof.Machine
end

section
/-! Nodes enter the window (O51): the fetch of up to four nodes, their registration, and the grant of units (R68, R75, R83). -/

namespace Sys2Proof.Machine

variable (s : State)

-- NODE_FETCH

/-- How many nodes of a graph are fetched at once: up to the end of their block of four, as many as are left and the window has room for (R67, R68). -/
def State.fetchCount (s : State) (gr : Graph) : Nat :=
  Nat.min (Nat.min (4 - (gr.xva + 64 * gr.fetchedN) / 64 % 4) (gr.count - gr.fetchedN))
    (Nat.min (s.fld (F.winQuota gr.ctx) - s.inFlight (some gr.ctx)) (131072 - s.inFlight none))

/-- The read of the next nodes of a graph. -/
def State.nodeRead (s : State) (gr : Graph) : M (List Byte) :=
  structRead { t := gr.ctx, unit := 0xD8, who := .entry gr.id } (gr.xva + 64 * gr.fetchedN) (64 * s.fetchCount gr)

/-- The next nodes of a graph can be fetched (R67, R68). -/
structure Fetches (s : State) (g : Nat) (gr : Graph) : Prop where
  granting : s.granting = true
  graph : s.graph g = some gr
  listed : gr.entryOnly = false
  fail : gr.fail = none
  stopped : gr.stopped = none
  room : s.fetchCount gr ≠ 0

variable {s} {g : Nat} {gr : Graph}

theorem Fetches.may (h : Fetches s g gr) :
    ¬ ((!s.granting) = true ∨ gr.entryOnly = true ∨ gr.fail.isSome = true ∨ gr.stopped.isSome = true ∨ s.fetchCount gr = 0) := by
  simp [h.granting, h.listed, h.fail, h.stopped, h.room]

theorem Fetches.reads (h : Fetches s g gr) {b : List Byte} {s1 : State} (hr : (s.nodeRead gr).on s = (.ok b, s1)) :
    s.fetchNodes g = (nodeImages b (s.fetchCount gr)).foldl (fun t b => t.takeNode g b) s1 := by
  have go := h.may
  unfold State.nodeRead State.fetchCount at hr
  unfold State.fetchCount at go ⊢
  unfold State.fetchNodes
  rw [h.graph]
  dsimp only
  rw [if_neg go, hr, nodeImages, List.foldl_map]

theorem Fetches.breaks (h : Fetches s g gr) {st de : Nat} {s1 : State} (hr : (s.nodeRead gr).on s = (.error (.stop st de), s1)) :
    s.fetchNodes g = (s1.modGraph g (fun x => { x with stopped := some (st, de) })).stopWaiters g := by
  have go := h.may
  unfold State.nodeRead State.fetchCount at hr
  unfold State.fetchCount at go
  unfold State.fetchNodes
  rw [h.graph]
  dsimp only
  rw [if_neg go, hr]

theorem State.nodeRead_plan {r : Except Err (List Byte)} {s1 : State} (hr : (s.nodeRead gr).on s = (r, s1)) : s1.plan = s.plan := by
  have reads := (structRead_reads { t := gr.ctx, unit := 0xD8, who := .entry gr.id } (gr.xva + 64 * gr.fetchedN) (64 * s.fetchCount gr) s rfl).1
  rw [show (structRead _ _ _).on s = (r, s1) from hr] at reads
  exact reads

theorem State.nodeRead_length {b : List Byte} {s1 : State} (hr : (s.nodeRead gr).on s = (.ok b, s1)) : b.length = 64 * s.fetchCount gr := by
  have reads := (structRead_reads { t := gr.ctx, unit := 0xD8, who := .entry gr.id } (gr.xva + 64 * gr.fetchedN) (64 * s.fetchCount gr) s rfl).2
  rw [show (structRead _ _ _).on s = (.ok b, s1) from hr] at reads
  exact reads b rfl

/-- The nodes of a read that succeeds are taken (R68). -/
theorem Fetches.takes (h : Fetches s g gr) {b : List Byte} {s1 : State} (hr : (s.nodeRead gr).on s = (.ok b, s1)) :
    (s.fetchNodes g).tile = s.tile ∧ (s.fetchNodes g).counters = s.counters
      ∧ ∃ y, (s.fetchNodes g).graph g = some y ∧ Taken gr (nodeImages b (s.fetchCount gr)) y := by
  have plan := s.nodeRead_plan hr
  obtain ⟨-, tile, counters⟩ := plan_eq plan
  have first : Taken gr [] gr := .inr ⟨h.fail, rfl, [], by simp, rfl, by simp⟩
  obtain ⟨tile', counters', taken⟩ := s1.takeNodes_taken g (nodeImages b (s.fetchCount gr)) ((graph_of_plan plan g).trans h.graph) first
  rw [h.reads hr]
  exact ⟨tile'.trans tile, counters'.trans counters, taken⟩

/-- A read that fails stops the fetch of the graph (R68, R90). -/
theorem Fetches.stops (h : Fetches s g gr) {st de : Nat} {s1 : State} (hr : (s.nodeRead gr).on s = (.error (.stop st de), s1)) :
    ∃ y, (s.fetchNodes g).graph g = some y ∧ y.stopped = some (st, de) ∧ y.fetchedN = gr.fetchedN := by
  have graph := (graph_of_plan (s.nodeRead_plan hr) g).trans h.graph
  have told : (s1.modGraph g (fun x => { x with stopped := some (st, de) })).graph g = some { gr with stopped := some (st, de) } := by
    rw [s1.graph_modGraph g (fun x => { x with stopped := some (st, de) }) fun _ => rfl, graph]
    rfl
  have fetch := congrArg Prod.fst (State.stopWaiters_fetchOf (s1.modGraph g (fun x => { x with stopped := some (st, de) })) g)
  rw [← h.breaks hr] at fetch
  simp only [State.fetchOf, told, Option.map_some] at fetch
  obtain ⟨y, hy, same⟩ := Option.map_eq_some_iff.1 fetch
  exact ⟨y, hy, (congrArg (fun p => p.2.1) same :), (congrArg (fun p => p.2.2) same :)⟩

end Sys2Proof.Machine
end

section
/-! Registration and grants (O51): a node in the scoreboard (R75 to R79), a slice opened on granted units (R83, R84). -/

namespace Sys2Proof.Machine

variable (s : State)

-- NODE_REGISTER

theorem State.warmPage_plan (t : Nat) (x : Nat × Bool) : (s.warmPage t x).plan = s.plan := by
  unfold State.warmPage
  dsimp only
  split
  · rfl
  · split
    · exact (State.walked_plan _ _ _ _ _ _).trans (s.walkPaid_plan _ _ _)
    · exact s.walkPaid_plan _ _ _

theorem State.warm_plan (t : Nat) (l : List Range) : (s.warm t l).plan = s.plan := proj_foldl (p := State.plan) fun u x _ => u.warmPage_plan t x

/-- A node that enters the scoreboard stands there as it was registered, but for its age (R77, R79). -/
theorem State.register_node (g t : Nat) (m : Node) (l : List Range) (h : (s.node g m.idx).isSome = true) :
    ∃ age, (State.markReady ((s.putNode g m).warm t l)).node g m.idx = some { m with st := .registered, age := age } := by
  obtain ⟨x, hx⟩ := Option.isSome_iff_exists.1 h
  obtain ⟨age, hage⟩ := State.markReady_node ((s.putNode g m).warm t l) g m.idx
  have put : (s.putNode g m).node g m.idx = some { m with st := .registered } := by
    unfold State.putNode State.node
    rw [s.graph_modNode]
    unfold State.node at hx
    obtain ⟨y, hy, found⟩ := Option.bind_eq_some_iff.1 hx
    rw [hy]
    refine (find?_updFirst (p := fun z => z.idx == m.idx) (f := fun _ => { m with st := .registered }) (fun z _ => by simp) y.nodes).trans ?_
    rw [show y.nodes.find? (fun z => z.idx == m.idx) = some x from found]
    rfl
  refine ⟨age { m with st := .registered }, ?_⟩
  rw [hage, node_of_graphs (plan_eq ((s.putNode g m).warm_plan t l)).1, put]
  rfl

theorem State.register_frame (g t : Nat) (m : Node) (l : List Range) : (State.markReady ((s.putNode g m).warm t l)).tile = s.tile :=
  (State.markReady_frame _).1.trans (plan_eq ((s.putNode g m).warm_plan t l)).2.1

section Register

variable {s} {s1 : State} {g : Nat} {gr : Graph} {n : Node}

theorem State.register_plain (hn : s.nextNode g = some (gr, n)) (h6 : n.kind ≠ 6) (h8 : n.kind ≠ 8) {f : Found} {m : Node}
    (hr : (regPlain { t := gr.ctx, unit := 0xD8, who := .node g n.idx } n (s.sliceLimit gr.ctx)).on s = (.ok (f, m), s1)) :
    s.register g = if !s1.sbFits gr.ctx (scoreboard f.fp).length then s
      else ((s1.putNode g { m with ranges := scoreboard f.fp, selfRw := selfOverlap f.fp }).warm gr.ctx f.fp).markReady := by
  simp only [State.register, hn, if_neg h6, if_neg h8, hr]

theorem State.register_refused (hn : s.nextNode g = some (gr, n)) (h6 : n.kind ≠ 6) (h8 : n.kind ≠ 8) {st de : Nat}
    (hr : (regPlain { t := gr.ctx, unit := 0xD8, who := .node g n.idx } n (s.sliceLimit gr.ctx)).on s = (.error (.stop st de), s1)) :
    s.register g = s1.refuseNode g n.idx st de := by
  simp only [State.register, hn, if_neg h6, if_neg h8, hr, State.regFail]

theorem State.register_chain (hn : s.nextNode g = some (gr, n)) (h8 : n.kind = 8) (hl : (gr.stages n).length = n.field 24 1) {fs : List Found}
    {ns : List Node} {rs : List Range}
    (hr : (regStages { t := gr.ctx, unit := 0xD8, who := .node g n.idx } g (gr.stages n)).on s = (.ok (.ok fs), s1))
    (hc : regChain (s1.handle gr.ctx) n fs (s.sliceLimit gr.ctx) = .ok (ns, rs)) :
    s.register g = if !s1.sbFits gr.ctx rs.length then s
      else (((ns.foldl (fun s m => s.putNode g m) s1).putNode g { n with ranges := rs, slices := (ns.getLast?.map (·.slices)).getD [] }).warm
        gr.ctx rs).markReady := by
  have h6 : ¬ n.kind = 6 := by omega
  simp only [State.register, hn, if_neg h6, if_pos h8, hl, ne_eq, not_true_eq_false, if_false, hr, hc]

theorem State.register_waits (hn : s.nextNode g = some (gr, n)) (h8 : n.kind = 8) (hl : (gr.stages n).length ≠ n.field 24 1) :
    s.register g = s := by
  have h6 : ¬ n.kind = 6 := by omega
  simp only [State.register, hn, if_neg h6, if_pos h8, if_pos hl]

end Register

-- NODE_GRANT

/-- The XCLK of a grant concerns the rotation of first place alone (R442). -/
theorem State.grantXclk_lit (u : Nat) : ∃ free now first used,
    s.grantXclk u = { s with free := free, grantNow := now, grantFirst := first, grantUsed := used } := by
  unfold State.grantXclk State.passGrant
  dsimp only [State.drawBool]
  split
  · exact ⟨_, _, _, _, rfl⟩
  · split
    · exact ⟨_, _, _, _, rfl⟩
    · split
      · exact ⟨_, _, _, _, rfl⟩
      · exact ⟨_, _, _, _, rfl⟩

/-- The nodes that compete for units (R83). -/
def State.candidates (s : State) : List (Graph × Node) := s.graphs.flatMap (fun g => (g.nodes.filter (s.competes g)).map (fun n => (g, n)))

theorem State.grantXclk_same (u : Nat) : (s.grantXclk u).candidates = s.candidates ∧ (s.grantXclk u).grantFor = s.grantFor := by
  obtain ⟨free, now, first, used, h⟩ := s.grantXclk_lit u
  rw [h]
  exact ⟨rfl, rfl⟩

/-- What the grant of a slice leaves alone: tile and system memory, counters, registers, contexts and the time. -/
def State.aside (s : State) : List Host.Cell × List (Nat × Byte) × List (Nat × W32) × List (Nat × W64) × List (Nat × Ctx) × Nat :=
  (s.tile, s.sys, s.counters, s.regs, s.ctxs, s.aon)

theorem State.moveIdle_aside (g n ch : Nat) : (s.moveIdle g n ch).aside = s.aside ∧ (s.moveIdle g n ch).graphs = s.graphs := by
  unfold State.moveIdle
  split
  · exact ⟨rfl, rfl⟩
  · exact ⟨rfl, rfl⟩

theorem State.modNode_aside (g n : Nat) (f : Node → Node) : (s.modNode g n f).aside = s.aside := rfl

/-- A node whose slice is open on these units since this time, with the bytes it was fetched with. -/
def OpenOn (x : Node) (us : List Nat) (began : Nat) (bytes : List Byte) : Prop :=
  x.st = .opened ∧ x.units = us ∧ x.began = began ∧ x.endSlice = false ∧ x.pos = 0 ∧ x.bytes = bytes

/-- A slice of a node opens on its units, now (R84). -/
theorem State.openSlice_opens (g n : Nat) (us : List Nat) (nd : Node) (h : s.node g n = some nd) :
    (s.openSlice g (n, us)).aside = s.aside ∧ ∃ x, (s.openSlice g (n, us)).node g n = some x ∧ OpenOn x us s.aon nd.bytes := by
  unfold State.openSlice
  extract_lets u v
  have hu : u.aside = s.aside ∧ u.node g n = some nd := by
    unfold u
    split
    · next ch _ =>
      obtain ⟨aside, graphs⟩ := s.moveIdle_aside g n ch
      exact ⟨aside, (congrFun₂ (node_of_graphs graphs) g n).trans h⟩
    · exact ⟨rfl, h⟩
  have hv : v.aside = s.aside ∧ ∃ y, v.node g n = some y ∧ y.bytes = nd.bytes := by
    unfold v
    split
    · refine ⟨(u.modNode_aside g n _).trans hu.1, { nd with acq := u.tileNo, seen := [] }, ?_, rfl⟩
      refine (u.node_modNode g n (fun x => { x with acq := u.tileNo, seen := [] }) fun _ => rfl).trans ?_
      rw [hu.2]
      rfl
    · exact ⟨hu.1, nd, hu.2, rfl⟩
  obtain ⟨aside, y, hy, bytes⟩ := hv
  have time : v.aon = s.aon := (congrArg (fun p => p.2.2.2.2.2) aside :)
  refine ⟨(v.modNode_aside g n _).trans aside, ?_⟩
  rw [v.node_modNode g n, hy]
  · exact ⟨_, rfl, rfl, rfl, time, rfl, rfl, bytes⟩
  · exact fun _ => rfl

end Sys2Proof.Machine
end

section
/-! The grant of a unit (R83, R88), and how nodes enter the window in all (O51). -/

namespace Sys2Proof.Machine

variable {s : State} {u : Nat} {gr : Graph} {nd : Node}

/-- The slices of a grant open: those of the nodes concerned, and of the CHAIN over them (R84, R88). -/
def State.openGrant (s : State) (gr : Graph) (nd : Node) (us : List (Nat × List Nat)) : State :=
  if nd.kind = 8 then (us.foldl (fun t x => t.openSlice gr.id x) s).openSlice gr.id (nd.idx, [])
  else us.foldl (fun t x => t.openSlice gr.id x) s

theorem State.grant_to (hg : s.granting = true) {us : List (Nat × List Nat)}
    (hp : (s.grantXclk u).pickGrant u ((s.grantXclk u).candidates.foldr (s.grantXclk u).rankIns []) [] = some ((gr, nd), us)) :
    s.grant u = ((s.grantXclk u).openGrant gr nd us).noteGrant u gr.ctx := by
  unfold State.candidates at hp
  simp only [State.grant, hg, Bool.not_true, Bool.false_eq_true, if_false, hp, State.openGrant]

theorem State.grant_nobody (hp : (s.grantXclk u).pickGrant u ((s.grantXclk u).candidates.foldr (s.grantXclk u).rankIns []) [] = none) :
    s.grant u = s := by
  unfold State.candidates at hp
  unfold State.grant
  split
  · rfl
  · simp only [hp]

theorem State.grant_not (hg : s.granting = false) : s.grant u = s := by
  simp only [State.grant, hg, Bool.not_false, if_true]

theorem State.candidates_nil (h : ∀ g ∈ s.graphs, ∀ n ∈ g.nodes, s.competes g n = false) : s.candidates = [] := by
  refine List.flatMap_eq_nil_iff.2 fun g hg => ?_
  rw [List.map_eq_nil_iff, List.filter_eq_nil_iff]
  exact fun n hn => by simp [h g hg n hn]

/-- A unit goes to the one node that competes and can take it: its slice is open on these units (R83, R84). -/
theorem State.grant_alone {us : List Nat} (hg : s.granting = true) (hk : nd.kind ≠ 8) (hn : s.node gr.id nd.idx = some nd)
    (hc : s.candidates = [(gr, nd)]) (hu : s.grantFor (some u) [] gr nd = some [(nd.idx, us)]) :
    (s.grant u).aside = s.aside ∧ ∃ x, (s.grant u).node gr.id nd.idx = some x ∧ OpenOn x us s.aon nd.bytes := by
  obtain ⟨cands, offer⟩ := s.grantXclk_same u
  have pick : (s.grantXclk u).pickGrant u ((s.grantXclk u).candidates.foldr (s.grantXclk u).rankIns []) [] = some ((gr, nd), [(nd.idx, us)]) := by
    rw [cands, hc, List.foldr_cons, List.foldr_nil, State.rankIns, State.pickGrant, offer, hu]
  rw [State.grant_to hg pick, State.openGrant, if_neg hk, List.foldl_cons, List.foldl_nil]
  obtain ⟨free, now, first, used, lit⟩ := s.grantXclk_lit u
  have node : (s.grantXclk u).node gr.id nd.idx = some nd := by
    rw [node_of_graphs (s := s) (by rw [lit]), hn]
  have aside : (s.grantXclk u).aside = s.aside := by
    rw [lit]
    rfl
  have time : (s.grantXclk u).aon = s.aon := by rw [lit]
  obtain ⟨aside', x, hx, hopen⟩ := (s.grantXclk u).openSlice_opens gr.id nd.idx us nd node
  rw [time] at hopen
  exact ⟨aside'.trans aside, x, hx, hopen⟩

/-- Settles O51: nodes are taken from the bytes that the read gives, a registered node keeps what registration found, and a granted slice
opens on its units. -/
theorem nodesEnterTheWindow : Obligations.NodesEnterTheWindow := by
  unfold Obligations.NodesEnterTheWindow
  refine ⟨fun s s1 g k gr b hg hgr he hf hst hk hk0 hr => ?_, fun s s1 g k st de gr hg hgr he hf hst hk hk0 hr => ?_,
    fun s s1 g gr n m f hn h6 h8 hr => ⟨fun fits => ?_, fun full => ?_⟩, fun s s1 g st de gr n hn h6 h8 hr => ?_,
    fun s s1 g gr n fs ns rs hn h8 hl hr hc => ⟨fun fits => ?_, fun full => ?_⟩, fun s g gr n hn h8 hl => ?_,
    fun s u n gr nd us hg hk hi hgr hnd hc hu => ?_, fun s s1 u gr nd us hg hs1 hp => ?_, fun s u hc => ?_, fun s u hg => ?_⟩
  · subst hk
    have hr : (s.nodeRead gr).on s = (.ok b, s1) := hr
    obtain ⟨tile, counters, y, hy, taken⟩ := Fetches.takes ⟨hg, hgr, he, hf, hst, hk0⟩ hr
    refine ⟨_, rfl, tile, counters, ?_⟩
    rw [hy]
    exact taken_check (Nat.pos_of_ne_zero hk0) (s.nodeRead_length hr) taken
  · subst hk
    have hr : (s.nodeRead gr).on s = (.error (.stop st de), s1) := hr
    obtain ⟨y, hy, stopped, count⟩ := Fetches.stops ⟨hg, hgr, he, hf, hst, hk0⟩ hr
    refine ⟨_, rfl, ?_⟩
    rw [hy]
    simp [stopped, count]
  · have step := (State.register_plain hn h6 h8 hr).trans (if_neg (by simp [fits]))
    refine ⟨_, congrArg Host.Outcome.next step, rfl, s1.register_frame g gr.ctx _ f.fp, fun held => ?_⟩
    obtain ⟨age, node⟩ := s1.register_node g gr.ctx { m with ranges := scoreboard f.fp, selfRw := selfOverlap f.fp } f.fp held
    exact (congrArg (Option.any _) node).trans (by simp)
  · exact congrArg Host.Outcome.next ((State.register_plain hn h6 h8 hr).trans (if_pos (by simp [full])))
  · exact congrArg Host.Outcome.next (State.register_refused hn h6 h8 hr)
  · exact congrArg Host.Outcome.next ((State.register_chain hn h8 hl hr hc).trans (if_neg (by simp [fits])))
  · exact congrArg Host.Outcome.next ((State.register_chain hn h8 hl hr hc).trans (if_pos (by simp [full])))
  · exact congrArg Host.Outcome.next (State.register_waits hn h8 hl)
  · subst hi
    have node : s.node gr.id nd.idx = some nd := by rw [State.node, hgr]; exact hnd
    obtain ⟨aside, x, hx, st, units, began, ends, pos, bytes⟩ := State.grant_alone hg hk node hc hu
    refine ⟨_, rfl, ?_, (congrArg (fun p => p.1) aside :), (congrArg (fun p => p.2.1) aside :), (congrArg (fun p => p.2.2.1) aside :),
      (congrArg (fun p => p.2.2.2.1) aside :), (congrArg (fun p => p.2.2.2.2.1) aside :)⟩
    rw [hx]
    simp [st, units, began, ends, pos, bytes]
  · subst hs1
    exact congrArg Host.Outcome.next (State.grant_to hg hp)
  · obtain ⟨cands, -⟩ := s.grantXclk_same u
    refine congrArg Host.Outcome.next (State.grant_nobody ?_)
    rw [cands, State.candidates_nil hc]
    rfl
  · exact congrArg Host.Outcome.next (State.grant_not hg)

end Sys2Proof.Machine
end

section
/-! A refutation of `Obligations.DescriptorsComeAndGo` (O36). Its clause on HANDLE_FREE says which handles the tenant has afterwards, and
lets the tenant's hold queue hold any record. The record of the DESTROY_TENSOR that completes is written with those that wait and whose rings
have a free slot (R65), and a record of CREATE_TENSOR brings its handle into use (R96). R65 writes a record whose ring has a free slot at
once; a premise that no CREATE_TENSOR record waits with a free slot, or that none waits at all (as the clause on the response of the write
has it), is what the clause lacks. -/

namespace Sys2Proof.Machine

/-- A DESTROY_TENSOR of tenant 1 for handle 1 whose step has run. -/
def destroyOfHandle1 : Entry :=
  { id := 0, sq := 0, bytes := leBytes 1 4 ++ List.replicate 15 0 ++ leBytes 4 1 ++ List.replicate 44 0, started := true }

/-- X0 with tenant 1 enabled and 64 free slots in its ring CQ0: handle 1 retires with `destroyOfHandle1`, and the record of tenant 1's
CREATE_TENSOR for handle 0 waits. -/
def retiresBehindCreate : State :=
  ({ State.reset with phase := .x0 }.setFld (F.cqLog2 1 0) 6).setCtx 1
    { phase := .enabled, entries := [destroyOfHandle1], handles := [{ h := 1, d := descOf [], retiring := some 0 }]
      holdQ := [recOfTenant1] }

theorem retiresBehindCreate_retiring :
    (retiresBehindCreate.ctx 1).handles.find? (fun x => x.h == 1 && x.retiring.isSome) = some { h := 1, d := descOf [], retiring := some 0 } := by
  decide +kernel

theorem retiresBehindCreate_others : (retiresBehindCreate.ctx 1).handles.filter (·.h != 1) = [] := by decide +kernel

theorem handleFree_retiresBehindCreate :
    ((retiresBehindCreate.handleFree 1 1).ctx 1).handles = [{ h := 0, d := descOf [] }] := by decide +kernel

/-- Refutes O36: in `retiresBehindCreate` the freeing of handle 1 brings handle 0 into use. -/
theorem not_descriptorsComeAndGo : ¬ Obligations.DescriptorsComeAndGo := by
  intro h
  obtain ⟨-, -, -, -, -, handleFree⟩ := h retiresBehindCreate 1 destroyOfHandle1 (by decide)
  obtain ⟨u, hu, handles, -⟩ := handleFree 1 _ (by decide +kernel) retiresBehindCreate_retiring
  obtain rfl : retiresBehindCreate.handleFree 1 1 = u := Host.Outcome.next.inj hu
  have remaining : ((retiresBehindCreate.handleFree 1 1).ctx 1).handles = (retiresBehindCreate.ctx 1).handles.filter (·.h != 1) := handles
  rw [handleFree_retiresBehindCreate, retiresBehindCreate_others] at remaining
  exact absurd remaining (by decide)

end Sys2Proof.Machine
end

section
/-! A refutation of `Obligations.ReleasesAndProgramsEnd` (O56). Its clause on a PROGRAM_COMPLETE with a failure finds the node that fails by
its index, and does not ask that the indices of a graph's nodes differ. The failure of a node abandons its graph, whose WAIT nodes that wait
stop at once and leave the window by their indices (R90); a WAIT node with the index of the program's node takes it along. The block numbers
the nodes of a graph in the order of their fetch (`State.takeNode`); the premise that their indices differ is what the clause lacks. -/

namespace Sys2Proof.Machine

/-- A TRANSIT node in an open slice on channel 5; `waitNode0` has the same index. -/
def transitNode0 : Node := { idx := 0, bytes := [1], seq := 0, st := .opened, units := [5] }

/-- The graph `sharesIndex` with `transitNode0` in place of its TIMED node. -/
def sharesTransitIndex : Graph := { sharesIndex with nodes := [transitNode0, waitNode0] }

/-- The program of `transitNode0`, which has ended with a failure. -/
def failedProg : Prog :=
  { g := 0, n := 0, ctx := 0, cls := 0, seq := 0, checked := false, ranges := [], slots := [], ended := true, status := 0x15 }

/-- X0 with `failedProg` on channel 5, nothing outstanding. -/
def drainsSharedIndex : State :=
  { State.reset with phase := .x0, graphs := [sharesTransitIndex], chans := [(5, { prog := some failedProg })] }

theorem progDone_drainsSharedIndex : (drainsSharedIndex.progDone 5).node 0 0 = none := by decide +kernel

/-- Refutes O56: in `drainsSharedIndex` the program's node fails, and is gone with the WAIT node of its index. -/
theorem not_releasesAndProgramsEnd : ¬ Obligations.ReleasesAndProgramsEnd := by
  intro h
  obtain ⟨-, -, -, -, failure, -⟩ := h drainsSharedIndex 5
  obtain ⟨t, ht, -, -, -, -, -, -, failed⟩ := failure failedProg transitNode0 rfl rfl rfl (by decide) (by decide +kernel) rfl (by decide)
    (by decide)
  obtain rfl : drainsSharedIndex.progDone 5 = t := Host.Outcome.next.inj ht
  have gone : (drainsSharedIndex.progDone 5).node failedProg.g failedProg.n = none := progDone_drainsSharedIndex
  rw [gone] at failed
  exact absurd failed (by decide)

end Sys2Proof.Machine
end

section
/-! Owners of channels and vector stages (O20): the write of an owner's register, and the owner in effect. -/

namespace Sys2Proof.Machine

variable (s : State) {off : Nat}

/-- A register of the engines whose one field that software writes is an owner (R427, R428). -/
structure OwnerReg (off : Nat) : Prop where
  word : off % 8 = 0
  engines : 0x20000 ≤ off ∧ off < 0x30480
  specs : Reg.specs off = [⟨0, 4, .rw, false, 0, 15⟩]
  hole : ∀ v, Reg.hole off 0 v = (8 ≤ v && v ≤ 14 : Bool)

theorem ownerReg_chCfg (ch : Fin 64) : OwnerReg (Reg.chCfg ch) where
  word := by simp only [Reg.chCfg]; omega
  engines := by simp only [Reg.chCfg]; omega
  specs := by fin_cases ch <;> rfl
  hole v := by
    have range : 0x20000 ≤ Reg.chCfg ch ∧ Reg.chCfg ch < 0x20800 := by simp only [Reg.chCfg]; omega
    exact if_pos (.inl range)

theorem ownerReg_vsCfg (i : Fin 16) : OwnerReg (Reg.vsCfg i) where
  word := by simp only [Reg.vsCfg]; omega
  engines := by simp only [Reg.vsCfg]; omega
  specs := by fin_cases i <;> rfl
  hole v := by
    have range : 0x30400 ≤ Reg.vsCfg i ∧ Reg.vsCfg i < 0x30480 := by simp only [Reg.vsCfg]; omega
    exact if_pos (.inr range)

/-- An owner is legal if it is a tenant or none, or if it stands there already (R119, R421). -/
theorem OwnerReg.legal_iff (h : OwnerReg off) (old new : W64) : Reg.legal off old new = true
    ↔ bits new.toNat 0 4 = bits old.toNat 0 4 ∨ bits new.toNat 0 4 < 8 ∨ bits new.toNat 0 4 = 15 := by
  have share : (off != Reg.bwCfg) = true := by
    have := h.engines
    simp only [Reg.bwCfg, bne_iff_ne]
    omega
  have fits : bits new.toNat 0 4 < 16 := Nat.mod_lt _ (by decide)
  simp only [Reg.legal, h.specs, List.all_cons, List.all_nil, h.hole, share, Bool.and_true, Bool.true_or, beq_iff_eq, reduceCtorEq,
    Bool.or_eq_true, Bool.and_eq_true, Bool.not_eq_true', decide_eq_true_eq, Bool.and_eq_false_iff, decide_eq_false_iff_not, false_or]
  omega

theorem bits_owner (o : BitVec 4) : bits (o.zeroExtend 64 : W64).toNat 0 4 = o.toNat := by
  have := o.isLt
  simp only [bits, BitVec.zeroExtend, BitVec.toNat_setWidth, Nat.shiftRight_zero]
  omega

/-- The checks that do not concern a register of the engines. -/
theorem OwnerReg.unchecked (h : OwnerReg off) (ch : W64) :
    Reg.debug off = false ∧ s.eMarked off ch = false ∧ s.baseLive off ch = false ∧ Reg.own off = 0 ∧ off ≠ Reg.faultCfg ∧ off ≠ Reg.tmShared
      ∧ off ≠ Reg.fqBase := by
  have := h.engines
  refine ⟨?_, s.eMarked_none off ch ?_, ?_, ?_, ?_⟩
  · simp only [Reg.debug, Reg.dbgCtrl, Reg.dbgPeek, Bool.or_eq_false_iff, beq_eq_false_iff_ne, Bool.and_eq_false_iff, decide_eq_false_iff_not]
    omega
  · simp only [Reg.mask, h.specs]
    rfl
  · have low : (0x60000 ≤ off : Bool) = false := by simp only [decide_eq_false_iff_not]; omega
    simp only [State.baseLive, low, Bool.false_and]
  · unfold Reg.own
    rw [if_neg (by simp only [Reg.mcCtrl]; omega), if_neg (by simp only [Reg.fqHead]; omega)]
  · simp only [Reg.faultCfg, Reg.tmShared, Reg.fqBase]
    omega

/-- A write of a legal owner: the register takes it, whatever is locked, and the write has its effect (R119, R226). -/
theorem State.hostWrite_owner (hw : s.windowOpen = true) (hc : s.pins.clkRun = true) (h : OwnerReg off) (o : BitVec 4)
    (ho : o.toNat < 8 ∨ o = 15) : ∃ r : W64, bits r.toNat 0 4 = o.toNat
      ∧ s.hostWrite off 8 (o.zeroExtend 64) = (s.setReg off r).wrote off (~~~0) (o.zeroExtend 64) (s.reg off) := by
  have rw4 : Reg.mask off (·.t == .rw) = 0xF ∧ Reg.mask off (·.t == .rwl) = 0 ∧ Reg.mask off (·.t == .w1c) = 0 := by
    simp only [Reg.mask, h.specs]
    decide
  obtain ⟨mrw, mrwl, mw1c⟩ := rw4
  obtain ⟨debug, marked, live, own, fault, shared, fq⟩ := h.unchecked s (s.reg off ^^^ o.zeroExtend 64)
  have new : (s.reg off &&& ~~~(~~~0)) ||| (o.zeroExtend 64 &&& ~~~0) = o.zeroExtend 64 := by
    simp only [BitVec.ofNat_eq_ofNat, BitVec.not_zero, BitVec.not_allOnes, BitVec.and_zero, BitVec.zero_or, BitVec.and_allOnes]
  have legal : Reg.legal off (s.reg off) (o.zeroExtend 64) = true := by
    rw [h.legal_iff, bits_owner]
    rcases ho with lt | rfl
    · exact .inr (.inl lt)
    · exact .inr (.inr rfl)
  have free : (~~~0 &&& ~~~(0 : W64)) = ~~~0 := by decide
  refine ⟨Reg.written off (s.reg off) (o.zeroExtend 64) (~~~0) (s.lockOf off), ?_, ?_⟩
  · rw [bits_written _ _ _ _ _ 0 4 (by rw [mrw, mrwl]; cases s.lockOf off <;> decide) (by rw [mw1c]; decide), bits_owner]
  · have engines := h.engines
    rw [s.hostWrite_word off _ hw hc h.word (by omega),
      s.regWrite_accepted off _ _ _ new debug marked live legal fault shared (fun _ => ⟨by rw [mrwl]; exact BitVec.and_zero, fq⟩), own, free]

/-- A write of an owner that is none and is not there yet is discarded and counted (R119, R421). -/
theorem State.hostWrite_badOwner (hw : s.windowOpen = true) (hc : s.pins.clkRun = true) (h : OwnerReg off) (o : BitVec 4)
    (h8 : 8 ≤ o.toNat) (h15 : o ≠ 15) (hne : s.fld ⟨off, 0, 4⟩ ≠ o.toNat) : s.hostWrite off 8 (o.zeroExtend 64) = s.sat F.badAcc := by
  obtain ⟨debug, marked, live, -, -⟩ := h.unchecked s (s.reg off ^^^ o.zeroExtend 64)
  have new : (s.reg off &&& ~~~(~~~0)) ||| (o.zeroExtend 64 &&& ~~~0) = o.zeroExtend 64 := by
    simp only [BitVec.ofNat_eq_ofNat, BitVec.not_zero, BitVec.not_allOnes, BitVec.and_zero, BitVec.zero_or, BitVec.and_allOnes]
  have illegal : Reg.legal off (s.reg off) (o.zeroExtend 64) = false := by
    have other : o.toNat ≠ 15 := fun e => h15 (BitVec.eq_of_toNat_eq e)
    rw [Bool.eq_false_iff, ne_eq, h.legal_iff, bits_owner]
    rintro (same | small | none)
    · exact hne same.symm
    · omega
    · exact other none
  have engines := h.engines
  rw [s.hostWrite_word off _ hw hc h.word (by omega)]
  unfold State.regWrite
  simp only [new, debug, marked, live, illegal, Bool.false_and, Bool.false_eq_true, if_false, Bool.not_false, Bool.or_true, if_true]

-- channels

theorem State.wrote_chCfg (ch : Fin 64) (v was : W64) : s.wrote (Reg.chCfg ch) (~~~0) v was = s.ownerWrite ch := by
  have range : 0x20000 ≤ Reg.chCfg ch ∧ Reg.chCfg ch < 0x20800 := by simp only [Reg.chCfg]; omega
  have hit : Reg.chCfg ch % 0x20 = 0 ∧ (bits (~~~0 : W64).toNat 0 4 != 0) = true := ⟨by simp only [Reg.chCfg]; omega, by decide⟩
  have chan : (Reg.chCfg ch - 0x20000) / 0x20 = ch := by simp only [Reg.chCfg]; omega
  unfold State.wrote
  rw [if_neg (by simp only [Reg.mcCtrl]; omega), if_neg (by omega), if_neg (by omega), if_pos range, if_pos hit, chan]

@[simp] theorem State.chan_modChan (n : Nat) (f : Chan → Chan) : (s.modChan n f).chan n = f (s.chan n) := s.chan_setChan n _

theorem State.chan_modChan_ne {n k : Nat} (f : Chan → Chan) (h : k ≠ n) : (s.modChan n f).chan k = s.chan k := s.chan_setChan_ne n k _ h.symm

/-- A channel loses its run-ahead state (R172). -/
def Chan.bare (c : Chan) : Chan := { c with staged := [], pre := [], last := none }

theorem State.discard_chan (ch : Nat) : (s.discard ch).chan = (s.modChan ch Chan.bare).chan := by
  unfold State.discard
  dsimp only
  split <;> rfl

/-- Beside the channel, a discard changes the count of the bytes alone. -/
theorem State.discard_fld (ch : Nat) (f : Fld) (h : Reg.chRadisc ch ≠ f.off) : (s.discard ch).fld f = s.fld f := by
  unfold State.discard
  dsimp only
  split
  · rfl
  · exact State.fld_setFld_off _ (F.radisc ch) f _ h

/-- A channel keeps its owner in effect while it has a program, or has that owner (R119). -/
theorem State.applyOwner_stays (ch : Nat)
    (h : s.fld (F.chOwner ch) = (s.chan ch).owner ∨ (s.chan ch).prog.isSome = true ∨ (s.chan ch).idle ≠ []) : s.applyOwner ch = s := by
  unfold State.applyOwner
  exact if_pos (by simpa using h)

/-- A free channel with another owner in effect takes that of its register, and begins as the new owner's (R119, R139). -/
theorem State.applyOwner_takes (ch : Fin 64) (ho : s.fld (F.chOwner ch) ≠ (s.chan ch).owner) (hp : (s.chan ch).prog = none)
    (hi : (s.chan ch).idle = []) : ((s.applyOwner ch).chan ch).owner = s.fld (F.chOwner ch) ∧ ((s.applyOwner ch).chan ch).stampSeq = 0
      ∧ (∀ k, k ≠ ch.val → (s.applyOwner ch).chan k = s.chan k) ∧ (s.applyOwner ch).fld (F.chOwner ch) = s.fld (F.chOwner ch)
      ∧ (s.eclipsed ch = false → (s.applyOwner ch).fld (F.chState ch) = if s.fld (F.chOwner ch) = 15 then 0 else 1) := by
  have eclipsed : (s.discard ch).eclipsed ch = s.eclipsed ch := by
    rw [State.eclipsed, s.discard_fld ch _ (by simp only [Reg.chRadisc, F.ecl, Reg.ecl]; omega), State.eclipsed]
  have owner : (s.discard ch).fld (F.chOwner ch) = s.fld (F.chOwner ch) :=
    s.discard_fld ch _ (by simp only [Reg.chRadisc, F.chOwner, Reg.chCfg]; omega)
  have others : ∀ k, k ≠ ch.val → (s.discard ch).chan k = s.chan k := fun k hk => by
    rw [s.discard_chan, s.chan_modChan_ne _ hk]
  have away : (F.chState ch).off ≠ (F.chOwner ch).off := by simp only [F.chState, F.chOwner, Reg.chStatus, Reg.chCfg]; omega
  unfold State.applyOwner
  rw [if_neg (by simp [ho, hp, hi])]
  simp only [State.modChan_frame, eclipsed]
  cases he : s.eclipsed ch with
  | true =>
    simp only [if_true, State.chan_modChan, State.modChan_frame, owner, reduceCtorEq, false_implies, and_true, true_and]
    exact fun k hk => (State.chan_modChan_ne _ _ hk).trans (others k hk)
  | false =>
    simp only [Bool.false_eq_true, if_false, State.chTo, State.setFld_frame, State.chan_modChan, State.fld_setFld_off _ _ _ _ away,
      State.modChan_frame, owner, true_and]
    refine ⟨fun k hk => (State.chan_modChan_ne _ _ hk).trans (others k hk), fun _ => ?_⟩
    refine State.fld_setFld_fits _ _ _ (by simp [F.chState]) ?_
    split <;> simp [F.chState]

theorem State.ownerWrite_takes (ch : Nat) (h : s.chSt ch ≤ 1) : s.ownerWrite ch = s.applyOwner ch := if_pos h

theorem State.ownerWrite_stays (ch : Nat) (h : s.fld (F.chOwner ch) = (s.chan ch).owner ∨ 1 < s.chSt ch ∨ (s.chan ch).prog.isSome = true
    ∨ (s.chan ch).idle ≠ []) : s.ownerWrite ch = s := by
  unfold State.ownerWrite
  split
  · exact s.applyOwner_stays ch (by rcases h with h | h | h <;> [exact .inl h; omega; exact .inr h])
  · rfl

-- vector stages

theorem State.wrote_vsCfg (i : Fin 16) (v was : W64) : s.wrote (Reg.vsCfg i) (~~~0) v was = s.applyVs := by
  have range : 0x30400 ≤ Reg.vsCfg i ∧ Reg.vsCfg i < 0x30480 := by simp only [Reg.vsCfg]; omega
  have hit : (bits (~~~0 : W64).toNat 0 4 != 0) = true := by decide
  unfold State.wrote
  rw [if_neg (by simp only [Reg.mcCtrl]; omega), if_neg (by omega), if_neg (by omega), if_neg (by omega), if_pos range, if_pos hit]

/-- One stage takes its owner (R226). -/
def State.takeStage (s : State) (i : Nat) : State :=
  if s.fld (F.vsOwner i) = s.vsOwn i || s.vsBusy i then s
  else { s with vsOwners := Sparse.set (fun _ => 15) s.vsOwners i (s.fld (F.vsOwner i)) }

theorem State.takeStage_lit (i : Nat) : ∃ l, s.takeStage i = { s with vsOwners := l } := by
  unfold State.takeStage
  split
  · exact ⟨_, rfl⟩
  · exact ⟨_, rfl⟩

theorem State.takeStage_own (i j : Nat) :
    (s.takeStage i).vsOwn j = if i = j ∧ s.vsBusy j = false then s.fld (F.vsOwner j) else s.vsOwn j := by
  unfold State.takeStage
  split
  · next h =>
    rw [Bool.or_eq_true, decide_eq_true_eq] at h
    split
    · next hj =>
      obtain ⟨rfl, idle⟩ := hj
      exact (h.resolve_right (by simp [idle])).symm
    · rfl
  · next h =>
    simp only [Bool.or_eq_true, decide_eq_true_eq, not_or, Bool.not_eq_true] at h
    by_cases hj : i = j
    · subst hj
      rw [if_pos ⟨rfl, h.2⟩]
      exact Sparse.get_set_self
    · rw [if_neg (fun e => hj e.1)]
      exact Sparse.get_set_ne hj

theorem State.foldl_takeStage_own (j : Nat) (l : List Nat) : (l.foldl State.takeStage s).vsOwn j
    = if j ∈ l ∧ s.vsBusy j = false then s.fld (F.vsOwner j) else s.vsOwn j := by
  induction l generalizing s with
  | nil => simp
  | cons i l ih =>
    obtain ⟨owners, lit⟩ := s.takeStage_lit i
    have busy : (s.takeStage i).vsBusy j = s.vsBusy j := by rw [lit]; rfl
    have reg : (s.takeStage i).fld (F.vsOwner j) = s.fld (F.vsOwner j) := by rw [lit]; rfl
    rw [List.foldl_cons, ih, busy, reg, s.takeStage_own]
    cases s.vsBusy j with
    | true => simp
    | false => by_cases hl : j ∈ l <;> simp [hl, eq_comm (a := i)]

/-- Every stage that is not busy has the owner of its register in effect; a busy one keeps its owner (R119, R226). -/
theorem State.applyVs_own (j : Nat) (hj : j < 16) : s.applyVs.vsOwn j = if s.vsBusy j = false then s.fld (F.vsOwner j) else s.vsOwn j := by
  have all := s.foldl_takeStage_own j (List.range 16)
  simp only [List.mem_range, hj, true_and] at all
  exact all

/-- A legal owner stands in the channel's register at once; whether the channel takes it is judged then (R119, log entry 60). -/
theorem State.hostWrite_chOwner (hw : s.windowOpen = true) (hc : s.pins.clkRun = true) (ch : Fin 64) (o : BitVec 4)
    (ho : o.toNat < 8 ∨ o = 15) : ∃ u : State, s.hostWrite (Reg.chCfg ch) 8 (o.zeroExtend 64) = u.ownerWrite ch
      ∧ u.fld (F.chOwner ch) = o.toNat ∧ u.chans = s.chans ∧ u.chSt ch = s.chSt ch ∧ u.eclipsed ch = s.eclipsed ch := by
  obtain ⟨r, hr, write⟩ := s.hostWrite_owner hw hc (ownerReg_chCfg ch) o ho
  refine ⟨s.setReg (Reg.chCfg ch) r, write.trans (State.wrote_chCfg _ ch _ _), (s.fld_setReg_self (F.chOwner ch) r).trans hr, rfl,
    s.fld_setReg_ne _ _ _ ?_, congrArg (· == 1) (s.fld_setReg_ne _ (F.ecl ch) _ ?_)⟩
  · simp only [F.chState, Reg.chStatus, Reg.chCfg]
    omega
  · simp only [F.ecl, Reg.ecl, Reg.chCfg]
    omega

/-- Settles O20: a legal owner stands in its register at once, and a free channel or stage takes it; an illegal one is counted. -/
theorem ownerChangesWhenFree : Obligations.OwnerChangesWhenFree := by
  unfold Obligations.OwnerChangesWhenFree
  intro s hw hc
  refine ⟨fun ch o ho => ?_, fun ch o h8 h15 hne => ?_, fun i o ho => ?_, fun i o h8 h15 hne => ?_⟩
  · obtain ⟨u, write, reg, chans, state, ecl⟩ := s.hostWrite_chOwner hw hc ch o ho
    have chan : u.chan = s.chan := by unfold State.chan; rw [chans]
    refine ⟨_, congrArg Host.Outcome.next write, ?_⟩
    by_cases busy : (s.chan ch).owner = o.toNat ∨ 1 < s.chSt ch ∨ (s.chan ch).prog.isSome = true ∨ (s.chan ch).idle ≠ []
    · rw [u.ownerWrite_stays ch (by rw [reg, chan, state, eq_comm]; exact busy)]
      refine ⟨reg, fun hne hst hp hi => ?_, fun _ => ⟨chans, state⟩, fun k _ => congrFun chan k⟩
      rcases busy with h | h | h | h
      · exact absurd h hne
      · omega
      · simp [hp] at h
      · exact absurd hi h
    · have free := busy
      simp only [not_or, Nat.not_lt, Bool.not_eq_true, Option.isSome_eq_false_iff, Option.isNone_iff_eq_none, ne_eq, not_not] at free
      obtain ⟨hne, hst, hp, hi⟩ := free
      obtain ⟨owner, seq, others, register, shows⟩ := u.applyOwner_takes ch (by rw [reg, chan]; exact fun e => hne e.symm)
        (by rw [chan]; exact hp) (by rw [chan]; exact hi)
      have none : (o = 15) = (o.toNat = 15) := propext ⟨fun e => e ▸ rfl, fun e => BitVec.eq_of_toNat_eq e⟩
      rw [u.ownerWrite_takes ch (by rw [state]; exact hst)]
      refine ⟨register.trans reg, fun _ _ _ _ => ⟨owner.trans reg, seq, fun he => ?_⟩, fun h => absurd h busy,
        fun k hk => (others k hk).trans (congrFun chan k)⟩
      rw [shows (by rw [ecl]; exact he), reg]
      simp only [none]
  · have bad := s.hostWrite_badOwner hw hc (ownerReg_chCfg ch) o h8 h15 hne
    refine ⟨_, congrArg Host.Outcome.next bad, s.fld_sat_self _ _ (by decide), rfl, s.fld_setFld_off F.badAcc (F.chOwner ch) _ ?_⟩
    simp only [F.badAcc, Reg.badAcc, F.chOwner, Reg.chCfg]
    omega
  · obtain ⟨r, hr, write⟩ := s.hostWrite_owner hw hc (ownerReg_vsCfg i) o ho
    rw [State.wrote_vsCfg] at write
    refine ⟨_, congrArg Host.Outcome.next write, ?_⟩
    have reg : (s.setReg (Reg.vsCfg i) r).fld (F.vsOwner i) = o.toNat := (s.fld_setReg_self (F.vsOwner i) r).trans hr
    have own := (s.setReg (Reg.vsCfg i) r).applyVs_own i i.isLt
    have busy : (s.setReg (Reg.vsCfg i) r).vsBusy i = s.vsBusy i := rfl
    obtain ⟨owners, lit⟩ := (s.setReg (Reg.vsCfg i) r).applyVs_lit
    rw [busy, reg] at own
    refine ⟨?_, fun idle => own.trans (if_pos idle), fun held => own.trans (if_neg (by simp [held])), ?_, ?_⟩
    · rw [lit]
      exact reg
    · rw [lit]
      rfl
    · rw [lit]
      rfl
  · have bad := s.hostWrite_badOwner hw hc (ownerReg_vsCfg i) o h8 h15 hne
    refine ⟨_, congrArg Host.Outcome.next bad, s.fld_sat_self _ _ (by decide), s.fld_setFld_off F.badAcc (F.vsOwner i) _ ?_, rfl⟩
    simp only [F.badAcc, Reg.badAcc, F.vsOwner, Reg.vsCfg]
    omega

end Sys2Proof.Machine
end

section
/-! The slot at which a channel stands (R123, R125): its fetch, its effect's place in the row, the step to the next slot. -/

namespace Sys2Proof.Machine

variable {s : State} {ch op : Nat} {p : Prog} {b : List Byte}

theorem State.atSlot_some (h : s.atSlot ch op = some (p, b)) :
    (s.chan ch).prog = some p ∧ p.ended = false ∧ s.held (.node p.g p.n) = false := by
  unfold State.atSlot at h
  split at h
  · next q hq =>
    simp only [Option.ite_none_right_eq_some, Option.some.injEq, Prod.mk.injEq, Bool.and_eq_true, Bool.not_eq_true'] at h
    obtain ⟨⟨⟨⟨⟨⟨⟨⟨-, running⟩, -⟩, -⟩, -⟩, -⟩, -⟩, free⟩, rfl, -⟩ := h
    exact ⟨hq, running, free⟩
  · exact nomatch h

/-- Slots that the instruction buffer holds, or that need no fetch, are not read again (R123). -/
theorem fetchSlot_inHand (hp : (s.chan ch).prog = some p) (h : p.inHand = true) : (fetchSlot ch p).on s = (.ok (), s) := by
  unfold fetchSlot
  unfold Prog.inHand at h
  cases hx : p.xva with
  | none => rfl
  | some x =>
    simp only [hx, Option.isNone_some, Bool.false_or, List.all_eq_true, List.mem_range] at h
    refine on_forM fun j hj => ?_
    obtain ⟨i, hi, rfl⟩ := List.mem_map.1 hj
    rw [on_bind_ok (on_get s), hp]
    simp only [h i (List.mem_range.1 hi), Bool.not_true, Bool.false_eq_true, if_false]
    rfl

/-- A slot at hand has its effect on the state as it is. -/
theorem State.slotRun_inHand (hs : s.atSlot ch op = some (p, b)) (h : p.inHand = true) (f : State → Prog → List Byte → State) :
    s.slotRun ch op f = f s p b := by
  obtain ⟨hp, -, free⟩ := State.atSlot_some hs
  have fetched := atomically_ok free (fetchSlot_inHand hp h) rfl
  simp only [State.slotRun, hs, fetched]

theorem State.slotRun_fetched {s1 : State} (hs : s.atSlot ch op = some (p, b))
    (hf : (atomically (.node p.g p.n) (fetchSlot ch p)).on s = (.ok (), s1)) (f : State → Prog → List Byte → State) :
    s.slotRun ch op f = f s1 p b := by
  simp only [State.slotRun, hs, hf]

theorem State.slotRun_stops {s1 : State} {st de : Nat} (hs : s.atSlot ch op = some (p, b))
    (hf : (atomically (.node p.g p.n) (fetchSlot ch p)).on s = (.error (.stop st de), s1)) (f : State → Prog → List Byte → State) :
    s.slotRun ch op f = s1.endProg ch st de := by
  simp only [State.slotRun, hs, hf]

theorem State.chTo_chSt (n : Nat) (h : n < 16) : (s.chTo ch n).fld (F.chState ch) = n :=
  s.fld_setFld_fits _ _ (by simp [F.chState]) (by simpa [F.chState] using h)

theorem State.endProg_chSt (st de : Nat) : (s.endProg ch st de).chSt ch = 7 := by
  rw [State.endProg, State.chSt, State.chTo_chSt 7 (by decide)]

/-- A channel with a program on it. -/
def Chan.holding (c : Chan) (p : Prog) : Chan := { c with prog := some p }

/-- A program that has not failed ends with success (R141). -/
def Prog.succeeded (p : Prog) : Prog := { p with ended := true, status := 1, detail := 0 }

theorem State.endProg_chan (hp : (s.chan ch).prog = some p) (he : p.ended = false) :
    (s.endProg ch 1 0).chan ch = (s.chan ch).holding p.succeeded := by
  have running : ((s.forget [.chan ch]).chan ch).prog = some p := hp
  simp only [State.endProg, State.chTo, State.setFld_frame, State.modProg, State.chan_modChan, running, Option.map_some, he,
    Bool.false_and, Bool.false_eq_true, if_false]
  rfl

/-- A program at the begin of a slot. -/
def Prog.moved (p : Prog) (pc : Nat) : Prog := { p with pc := pc, line := 0, item := 0, begun := [], kept := [], blocks := [] }

/-- The channel runs, its program at the begin of a slot. -/
def State.toSlot (s : State) (ch pc : Nat) : State := (s.modProg ch (·.moved pc)).chTo ch 2

theorem State.toSlot_chan (hp : (s.chan ch).prog = some p) (pc : Nat) :
    (s.toSlot ch pc).chan ch = (s.chan ch).holding (p.moved pc) := by
  simp only [State.toSlot, State.chTo, State.setFld_frame, State.modProg, State.chan_modChan, hp, Option.map_some, Chan.holding]

/-- What a channel's step through its program leaves: the other channels, graphs, memory, counters and ports. -/
structure Beside (s : State) (ch : Nat) (t : State) : Prop where
  others : ∀ k, k ≠ ch → t.chan k = s.chan k
  graphs : t.graphs = s.graphs
  memory : t.tile = s.tile ∧ t.sys = s.sys
  counters : t.counters = s.counters
  port : t.txns = s.txns ∧ t.owed = s.owed
  waits : ∀ w ∈ t.waits, w ∈ s.waits

theorem Beside.trans {t u : State} (h : Beside s ch t) (h' : Beside t ch u) : Beside s ch u where
  others k hk := (h'.others k hk).trans (h.others k hk)
  graphs := h'.graphs.trans h.graphs
  memory := ⟨h'.memory.1.trans h.memory.1, h'.memory.2.trans h.memory.2⟩
  counters := h'.counters.trans h.counters
  port := ⟨h'.port.1.trans h.port.1, h'.port.2.trans h.port.2⟩
  waits w hw := h.waits w (h'.waits w hw)

theorem State.modChan_beside (f : Chan → Chan) : Beside s ch (s.modChan ch f) :=
  ⟨fun _ hk => s.chan_modChan_ne f hk, rfl, ⟨rfl, rfl⟩, rfl, ⟨rfl, rfl⟩, fun _ hw => hw⟩

theorem State.setFld_beside (f : Fld) (v : Nat) : Beside s ch (s.setFld f v) :=
  ⟨fun _ _ => rfl, rfl, ⟨rfl, rfl⟩, rfl, ⟨rfl, rfl⟩, fun _ hw => hw⟩

theorem State.forget_beside (ws : List Who) : Beside s ch (s.forget ws) :=
  ⟨fun _ _ => rfl, rfl, ⟨rfl, rfl⟩, rfl, ⟨rfl, rfl⟩, fun _ hw => (List.mem_filter.1 hw).1⟩

theorem State.endProg_beside (st de : Nat) : Beside s ch (s.endProg ch st de) := by
  rw [State.endProg, State.chTo, State.modProg]
  exact ((State.forget_beside _).trans (State.modChan_beside _)).trans (State.setFld_beside _ _)

theorem State.toSlot_beside (pc : Nat) : Beside s ch (s.toSlot ch pc) := by
  rw [State.toSlot, State.chTo, State.modProg]
  exact (State.modChan_beside _).trans (State.setFld_beside _ _)

theorem State.toSlot_chSt (pc : Nat) : (s.toSlot ch pc).chSt ch = 2 := by
  rw [State.toSlot, State.chSt, State.chTo_chSt 2 (by decide)]

/-- Behind the last slot the program ends as by a HALT (R125). -/
theorem State.goSlot_eq (hp : (s.chan ch).prog = some p) (pc : Nat) : s.goSlot ch pc
    = if p.slots.length ≤ pc then (s.toSlot ch pc).endProg ch 1 0 else (s.toSlot ch pc).setFld (F.chSlot ch) pc := by
  have prog : ((s.toSlot ch pc).chan ch).prog = some (p.moved pc) := by
    rw [State.toSlot_chan hp]
    rfl
  have go : s.goSlot ch pc = match ((s.toSlot ch pc).chan ch).prog with
      | some p => if p.slots.length ≤ pc then (s.toSlot ch pc).endProg ch 1 0 else (s.toSlot ch pc).setFld (F.chSlot ch) pc
      | none => s.toSlot ch pc := rfl
  rw [go, prog]
  rfl

/-- The channel has gone on to slot `pc` of its program. -/
structure GoesOn (s : State) (ch : Nat) (p : Prog) (pc : Nat) (t : State) : Prop where
  stands : t.standsAt ch pc = true
  prog : ∃ q, (t.chan ch).prog = some q ∧ q.g = p.g ∧ q.n = p.n ∧ q.iters = p.iters ∧ q.issued = p.issued
  chan : (t.chan ch).relq = (s.chan ch).relq ∧ (t.chan ch).stampSeq = (s.chan ch).stampSeq
  beside : Beside s ch t

theorem State.standsAt_of {q : Prog} {pc : Nat} (hq : (s.chan ch).prog = some q) (hpc : q.pc = pc)
    (h : if q.slots.length ≤ pc then q.ended = true ∧ q.status = 1 ∧ s.chSt ch = 7 else q.ended = false ∧ s.chSt ch = 2) :
    s.standsAt ch pc = true := by
  unfold State.standsAt
  rw [hq]
  split at h <;> simp [*]

theorem State.goSlot_goesOn (hp : (s.chan ch).prog = some p) (he : p.ended = false) (pc : Nat) : GoesOn s ch p pc (s.goSlot ch pc) := by
  have chan := State.toSlot_chan hp pc
  have state := s.toSlot_chSt (ch := ch) pc
  have beside := s.toSlot_beside (ch := ch) pc
  rw [State.goSlot_eq hp]
  generalize s.toSlot ch pc = u at chan state beside
  have prog : (u.chan ch).prog = some (p.moved pc) := by rw [chan]; rfl
  split
  · next last =>
    have ended : (u.endProg ch 1 0).chan ch = (s.chan ch).holding (p.moved pc).succeeded := by
      rw [State.endProg_chan prog he, chan]
      rfl
    have drains := u.endProg_chSt (ch := ch) 1 0
    have beside' := u.endProg_beside (ch := ch) 1 0
    generalize u.endProg ch 1 0 = t at ended drains beside'
    have prog' : (t.chan ch).prog = some (p.moved pc).succeeded := by rw [ended]; rfl
    have stands : t.standsAt ch pc = true := State.standsAt_of prog' rfl ((if_pos last).mpr ⟨rfl, rfl, drains⟩)
    exact ⟨stands, ⟨_, prog', rfl, rfl, rfl, rfl⟩, by rw [ended]; exact ⟨rfl, rfl⟩, beside.trans beside'⟩
  · next more =>
    have runs : (u.setFld (F.chSlot ch) pc).chSt ch = 2 :=
      (u.fld_setFld_disj _ _ _ (.inl (by simp [F.chState, F.chSlot]))).trans state
    have beside' := State.setFld_beside (s := u) (ch := ch) (F.chSlot ch) pc
    have chan' : (u.setFld (F.chSlot ch) pc).chan ch = (s.chan ch).holding (p.moved pc) := by
      simp only [State.setFld_frame, chan]
    generalize u.setFld (F.chSlot ch) pc = t at runs beside' chan'
    have prog' : (t.chan ch).prog = some (p.moved pc) := by rw [chan']; rfl
    have stands : t.standsAt ch pc = true := State.standsAt_of prog' rfl ((if_neg more).mpr ⟨he, runs⟩)
    exact ⟨stands, ⟨_, prog', rfl, rfl, rfl, rfl⟩, by rw [chan']; exact ⟨rfl, rfl⟩, beside.trans beside'⟩

end Sys2Proof.Machine
end

section
/-! What the slots of a program do beside going on (R136 to R139): waits, queued operations, stamps. -/

namespace Sys2Proof.Machine

variable {s : State} {ch op : Nat} {p : Prog} {b : List Byte}

-- waits

theorem State.setFld_ctrSettle (f : Fld) (v c : Nat) : (s.setFld f v).ctrSettle c = (s.ctrSettle c).setFld f v := by
  unfold State.ctrSettle
  simp only [State.setFld_frame]
  split <;> rfl

/-- A wait whose condition does not hold yet is pending (R440). -/
theorem State.addWait_unmet (w : Wait) (h : condHolds w.cond (s.counter w.counter) w.value = false) :
    s.addWait w = { s.ctrSettle w.counter with waits := (s.ctrSettle w.counter).waits ++ [{ w with met := false }] } := by
  unfold State.addWait
  simp only [State.ctrSettle_counter, h]

/-- A channel enters WAIT with its wait pending (R136). -/
theorem State.chan_waits (w : Wait) (h : condHolds w.cond (s.counter w.counter) w.value = false) :
    ((s.chTo ch 3).addWait w).waits = (s.ctrSettle w.counter).waits ++ [{ w with met := false }]
      ∧ ((s.chTo ch 3).addWait w).fld (F.chState ch) = 3 ∧ ((s.chTo ch 3).addWait w).chan ch = s.chan ch
      ∧ ((s.chTo ch 3).addWait w).counters = s.counters ∧ ((s.chTo ch 3).addWait w).tile = s.tile := by
  obtain ⟨n, l, lit⟩ := s.ctrSettle_lit w.counter
  have state := s.chTo_chSt (ch := ch) 3 (by decide)
  rw [State.addWait_unmet w (by simpa only [State.chTo, State.setFld_frame] using h), State.chTo, State.setFld_ctrSettle, lit]
  exact ⟨rfl, state, rfl, rfl, rfl⟩

-- the release queue

/-- A program with one more batch of writes begun (R137). -/
def Prog.batched (p : Prog) : Prog := { p with issued := p.issued + 1 }

/-- An operation has entered the release queue behind the writes issued so far, and the channel has gone on (R137). -/
structure Released (s : State) (ch : Nat) (p : Prog) (o : RelOp) (pc : Nat) (t : State) : Prop where
  stands : t.standsAt ch pc = true
  prog : ∃ q, (t.chan ch).prog = some q ∧ q.g = p.g ∧ q.n = p.n ∧ q.issued = p.issued + 1
  queue : ∃ x : RelOp, (t.chan ch).relq = (s.chan ch).relq ++ [x] ∧ x.barrier = p.issued ∧ x.g = o.g ∧ x.n = o.n ∧ x.op = o.op ∧ x.a = o.a
    ∧ x.v = o.v ∧ x.space = o.space
  stampSeq : (t.chan ch).stampSeq = (s.chan ch).stampSeq
  beside : Beside s ch t

theorem State.release_goes (hp : (s.chan ch).prog = some p) (he : p.ended = false) (o : RelOp) (pc : Nat) :
    Released s ch p o pc ((s.release ch o).goSlot ch pc) := by
  have chan : ∃ x : RelOp, (s.release ch o).chan ch = { s.chan ch with relq := (s.chan ch).relq ++ [x], prog := some p.batched }
      ∧ x.barrier = p.issued ∧ x.g = o.g ∧ x.n = o.n ∧ x.op = o.op ∧ x.a = o.a ∧ x.v = o.v ∧ x.space = o.space := by
    unfold State.release
    simp only [State.chan_modChan, hp, Option.map_some]
    exact ⟨_, rfl, rfl, rfl, rfl, rfl, rfl, rfl, rfl⟩
  have beside : Beside s ch (s.release ch o) := by
    unfold State.release
    exact State.modChan_beside _
  obtain ⟨x, chan, fields⟩ := chan
  generalize s.release ch o = u at chan beside
  obtain ⟨stands, ⟨q, hq, hg, hn, -, issued⟩, ⟨relq, seq⟩, beside'⟩ := State.goSlot_goesOn (s := u) (ch := ch) (p := p.batched) (by rw [chan]) he pc
  rw [chan] at relq seq
  exact ⟨stands, ⟨q, hq, hg, hn, issued⟩, ⟨x, relq, fields⟩, seq, beside.trans beside'⟩

-- stamps

/-- An access that lies in its space is allowed to a program whose accesses are not held against footprints (R74, R135). -/
theorem fpCheck_ok {q : Req} {w : Bool} {a n : Int} (hc : p.checked = false) (h0 : 0 ≤ a) (h : a + n ≤ 67108864) :
    (fpCheck p q 1 w a n).on s = (.ok (), s) := by
  have inside : (decide (a < 0) || decide ((if 1 = 0 then 2 ^ 48 else 67108864 : Int) < a + n)) = false := by
    simp
    omega
  unfold fpCheck
  simp only [hc, Bool.false_and, Bool.or_false, inside, Bool.false_eq_true, if_false]
  rfl

/-- A stamp into tile memory goes to its address as it stands (R139). -/
theorem stampPlace_tile {q : Req} (hc : p.checked = false) (hsp : bits (fieldAt b 1 1) 0 1 = 1)
    (hok : s.tileOkRange q.t true (fieldAt b 8 6) 16 = true) : (stampPlace p q b).on s = (.ok (fieldAt b 8 6, false), s) := by
  have last := s.tileOkRange_each hok (x := fieldAt b 8 6 + 15) (by omega) (by omega)
  have room : fieldAt b 8 6 + 16 ≤ 67108864 := by
    simp only [State.tileOk, Bool.and_eq_true, decide_eq_true_eq] at last
    omega
  unfold stampPlace
  simp only [hsp]
  rw [on_bind_ok (fpCheck_ok hc (by omega) (by omega)), if_neg (by decide), on_bind_ok (tileCheck_ok hok)]
  rfl

theorem leBytes_length (n v : Nat) : (leBytes n v).length = n := by
  induction n generalizing v with
  | zero => rfl
  | succ n ih => rw [leBytes, List.length_cons, ih]

theorem State.stampRec_length (t : Nat) : (s.stampRec ch t).1.length = 16 := by
  simp only [State.stampRec, List.length_append, leBytes_length]

theorem tileByte_of_tile {t : State} (h : t.tile = s.tile) : t.tileByte = s.tileByte := by
  unfold State.tileByte
  rw [h]

theorem State.tileWr_lit (a : Nat) (l : List Byte) : ∃ m, s.tileWr a l = { s with tile := m } := by
  induction l generalizing a s with
  | nil => exact ⟨_, rfl⟩
  | cons x l ih =>
    obtain ⟨m, h⟩ := ih (s := s.setTileByte a x) (a + 1)
    exact ⟨m, h⟩

theorem State.tileRd_tileWr (a : Nat) (l : List Byte) : (s.tileWr a l).tileRd a l.length = l := by
  rw [tileRd_map]
  refine Eq.trans (List.map_congr_left fun x hx => ?_) (map_range' l a)
  rw [State.tileByte_tileWr, if_pos]
  simpa using hx

theorem State.tileByte_tileWr_off {a x : Nat} {l : List Byte} (h : x < a ∨ a + l.length ≤ x) : (s.tileWr a l).tileByte x = s.tileByte x := by
  rw [State.tileByte_tileWr, if_neg (by omega)]

/-- A state whose tile memory has taken the bytes `r` at `a` and no others, and whose other memories are as they were (R188). -/
structure Stamped (s : State) (a : Nat) (r : List Byte) (t : State) : Prop where
  bytes : t.tileRd a r.length = r
  others : ∀ x, x < a ∨ a + r.length ≤ x → t.tileByte x = s.tileByte x
  memory : t.sys = s.sys
  counters : t.counters = s.counters
  port : t.txns = s.txns ∧ t.owed = s.owed

theorem Stamped.of_modChan {n a : Nat} {f : Chan → Chan} {r : List Byte} {t : State} (h : Stamped (s.modChan n f) a r t) : Stamped s a r t := by
  obtain ⟨bytes, others, memory, counters, port⟩ := h
  simp only [State.modChan_frame] at others memory counters port
  exact ⟨bytes, others, memory, counters, port⟩

theorem tileStore_stamps {q : Req} {a : Nat} {l : List Byte} (h : s.tileOkRange q.t true a l.length = true)
    (hu : s.upsets.contains q.unit = false) (he : s.eccIn a l.length = []) :
    ∃ t, (tileStore q a l).on s = (.ok (), t) ∧ Stamped s a l t ∧ t.chan = s.chan := by
  obtain ⟨no, old, gs, write⟩ := tileWrite_clean h hu he
  unfold tileWrite at write
  rw [on_bind_ok (tileCheck_ok h)] at write
  have tile : ({ s.tileWr a l with tileNo := no, tileOld := old, graphs := gs } : State).tileByte = (s.tileWr a l).tileByte := tileByte_of_tile rfl
  obtain ⟨m, lit⟩ := s.tileWr_lit a l
  refine ⟨_, write, ⟨?_, fun x hx => ?_, ?_, ?_, ?_⟩, ?_⟩
  · rw [tileRd_map, tile, ← tileRd_map, State.tileRd_tileWr]
  · rw [tile, State.tileByte_tileWr_off hx]
  · rw [lit]
  · rw [lit]
  · rw [lit]
    exact ⟨rfl, rfl⟩
  · rw [lit]
    rfl

theorem tileOkRange_of_regs {t : State} (h : t.regs = s.regs) : t.tileOkRange = s.tileOkRange := by
  funext c w a n
  simp only [State.tileOkRange, State.tileOk, State.inOwn, State.inShared, fld_of_regs h]

/-- A STAMP with `after` 1 queues its record (R139). -/
theorem stampSlot_queues (hc : p.checked = false) (hf : fieldAt b 1 1 = 3) (hok : s.tileOkRange p.ctx true (fieldAt b 8 6) 16 = true)
    (hq : (s.chan ch).relq.length < 8) : (stampSlot ch p b).on s
      = (.ok (), (s.release ch { g := p.g, n := p.n, op := 2, a := fieldAt b 8 6, space := 1, barrier := 0 }).goSlot ch (p.pc + 1)) := by
  have place := stampPlace_tile (q := s.chReq ch p) hc (by rw [hf]; rfl) hok
  have after : bit 3 1 = true := rfl
  unfold stampSlot
  rw [on_bind_ok (on_get s), on_bind_ok place]
  simp only [hf, after, if_true]
  rw [on_bind_ok (on_get s), if_neg (by omega), on_modify]
  rfl

theorem State.stampRec_modChan (f : Chan → Chan) (hf : ∀ c, (f c).stampSeq = c.stampSeq) (t : Nat) :
    ((s.modChan ch f).stampRec ch t).1 = (s.stampRec ch t).1 := by
  have stamp : (s.modChan ch f).stampFor t = s.stampFor t := rfl
  simp only [State.stampRec, stamp, State.chan_modChan, hf]

/-- A channel with the program as it stands before its line (R144). -/
def State.lineBegun (s : State) (p : Prog) (c : Chan) : Chan := { c with back := (s.node p.g p.n).map (fun n => (p, n)) }

/-- A STAMP into tile memory writes its record there at once (R139). -/
theorem stampSlot_writes (hp : (s.chan ch).prog = some p) (hc : p.checked = false) (hf : fieldAt b 1 1 = 1)
    (hok : s.tileOkRange p.ctx true (fieldAt b 8 6) 16 = true) (he : s.eccIn (fieldAt b 8 6) 16 = []) (hu : s.upsets.contains ch = false) :
    ∃ t, (stampSlot ch p b).on s = (.ok (), t.goSlot ch (p.pc + 1)) ∧ Stamped s (fieldAt b 8 6) (s.stampRec ch p.ctx).1 t
      ∧ (t.chan ch).prog = some p ∧ (t.chan ch).stampSeq = (s.chan ch).stampSeq + 1 := by
  have place := stampPlace_tile (q := s.chReq ch p) hc (by rw [hf]; rfl) hok
  have now : bit 1 1 = false := rfl
  have tile : ¬bits 1 0 1 = 0 := by decide
  have record : (s.modChan ch (s.lineBegun p)).stampRec ch p.ctx
      = ((s.stampRec ch p.ctx).1, (s.modChan ch (s.lineBegun p)).modChan ch (fun c => { c with stampSeq := c.stampSeq + 1 })) :=
    Prod.ext (State.stampRec_modChan (s.lineBegun p) (fun _ => rfl) p.ctx) rfl
  have range : ((s.modChan ch (s.lineBegun p)).modChan ch (fun c => { c with stampSeq := c.stampSeq + 1 })).tileOkRange = s.tileOkRange :=
    tileOkRange_of_regs (by simp only [State.modChan_frame])
  obtain ⟨t, store, stamped, chan⟩ := tileStore_stamps (q := s.chReq ch p) (a := fieldAt b 8 6) (l := (s.stampRec ch p.ctx).1)
    (s := (s.modChan ch (s.lineBegun p)).modChan ch (fun c => { c with stampSeq := c.stampSeq + 1 }))
    (by rw [State.stampRec_length, range]; exact hok) hu (by rw [State.stampRec_length]; exact he)
  refine ⟨t, ?_, stamped.of_modChan.of_modChan, ?_, ?_⟩
  · have begun : (beginLine ch p).on s = (.ok (), s.modChan ch (s.lineBegun p)) := rfl
    unfold stampSlot
    rw [on_bind_ok (on_get s), on_bind_ok place]
    simp only [hf, now, tile, Bool.false_eq_true, if_false]
    rw [on_bind_ok begun, on_bind_ok (on_get _), record]
    dsimp only
    rw [on_bind_ok (on_set _ _), on_bind_ok store, on_modify]
  · rw [chan, State.chan_modChan, State.chan_modChan]
    exact hp
  · rw [chan, State.chan_modChan, State.chan_modChan]
    rfl

end Sys2Proof.Machine
end

section
/-! The slots one by one: where each leaves its channel (R123 to R140). -/

namespace Sys2Proof.Machine

variable {s : State} {ch op : Nat} {p : Prog} {b : List Byte}

/-- An acquire is a mark at its node (R286). -/
theorem State.acquires_frame (g n : Nat) : (s.acquires g n).chan = s.chan ∧ (s.acquires g n).chans = s.chans
    ∧ (s.acquires g n).regs = s.regs ∧ (s.acquires g n).counters = s.counters ∧ (s.acquires g n).waits = s.waits
    ∧ (s.acquires g n).tile = s.tile ∧ (s.acquires g n).sys = s.sys :=
  ⟨rfl, rfl, rfl, rfl, rfl, rfl, rfl⟩

theorem State.settleCh_free {q : Prog} (hq : (s.chan ch).prog = some q) (h : s.held (.node q.g q.n) = false) : s.settleCh ch = s := by
  simp only [State.settleCh, hq, h, Bool.false_eq_true, and_false, if_false]

theorem State.held_of_txns {t : State} (h : t.txns = s.txns) (w : Who) : t.held w = s.held w := by
  simp only [State.held, h]

/-- How the four ends of an access leave its channel (R143, R144, R146). -/
theorem State.runCh_ends {r : State} {c : Nat} {m : M Unit} (h : r = s.runCh ch c m) :
    (∀ s1, m.on s = (.ok (), s1) → (.next r : Out) = .next (s1.settleCh ch))
    ∧ (∀ s1 a w, m.on s = (.error (.miss a w), s1) → (.next r : Out) = .next (s1.missChan ch c a w))
    ∧ (∀ s1, m.on s = (.error .wait, s1) → (.next r : Out) = .next (s1.settleCh ch))
    ∧ (∀ s1 st de, m.on s = (.error (.stop st de), s1) → (.next r : Out) = .next (s1.endProg ch st de)) := by
  subst h
  refine ⟨fun s1 h => ?_, fun s1 a w h => ?_, fun s1 h => ?_, fun s1 st de h => ?_⟩ <;> simp only [State.runCh, h]

/-- A program with the iteration counts `it` (R135). -/
def Prog.counting (p : Prog) (it : List (Nat × Nat)) : Prog := { p with iters := it }

theorem State.loopSlot_goes (hs : s.atSlot ch 3 = some (p, b)) (hb : p.inHand = true) :
    GoesOn s ch (p.counting (loopNext b p.pc p.iters).2) (loopNext b p.pc p.iters).1 (s.loopSlot ch) := by
  obtain ⟨hp, he, -⟩ := State.atSlot_some hs
  have slot : s.loopSlot ch
      = (s.modProg ch (·.counting (loopNext b p.pc p.iters).2)).goSlot ch (loopNext b p.pc p.iters).1 :=
    State.slotRun_inHand hs hb _
  have chan : (s.modProg ch (·.counting (loopNext b p.pc p.iters).2)).chan ch
      = (s.chan ch).holding (p.counting (loopNext b p.pc p.iters).2) := by
    simp only [State.modProg, State.chan_modChan, hp, Option.map_some, Chan.holding]
  have beside : Beside s ch (s.modProg ch (·.counting (loopNext b p.pc p.iters).2)) := by
    rw [State.modProg]
    exact State.modChan_beside _
  rw [slot]
  generalize s.modProg ch (·.counting (loopNext b p.pc p.iters).2) = u at chan beside
  obtain ⟨stands, prog, held, beside'⟩ := State.goSlot_goesOn (s := u) (ch := ch)
    (p := p.counting (loopNext b p.pc p.iters).2) (by rw [chan, Chan.holding]) he (loopNext b p.pc p.iters).1
  rw [chan] at held
  exact ⟨stands, prog, held, beside.trans beside'⟩

theorem State.waitSlot_goes (hs : s.atSlot ch 5 = some (p, b)) (hb : p.inHand = true)
    (hc : condHolds (fieldAt b 1 1) (s.counter (fieldAt b 2 2)) (BitVec.ofNat 32 (fieldAt b 4 4)) = true) :
    GoesOn (s.acquires p.g p.n) ch p (p.pc + 1) (s.waitSlot ch) := by
  obtain ⟨hp, he, -⟩ := State.atSlot_some hs
  have slot : s.waitSlot ch = (s.acquires p.g p.n).goSlot ch (p.pc + 1) := (State.slotRun_inHand hs hb _).trans (if_pos hc)
  rw [slot]
  exact State.goSlot_goesOn (s := s.acquires p.g p.n) hp he _

theorem State.waitSlot_waits (hs : s.atSlot ch 5 = some (p, b)) (hb : p.inHand = true)
    (hc : condHolds (fieldAt b 1 1) (s.counter (fieldAt b 2 2)) (BitVec.ofNat 32 (fieldAt b 4 4)) = false) :
    s.waitSlot ch = (s.chTo ch 3).addWait ⟨p.ctx, .chan ch, fieldAt b 2 2, fieldAt b 1 1, BitVec.ofNat 32 (fieldAt b 4 4), s.aon,
      fieldAt b 8 4, false⟩ :=
  (State.slotRun_inHand hs hb _).trans (if_neg (by rw [hc]; decide))

/-- The operation of a SIGNAL slot (R137). -/
def sigOp (p : Prog) (b : List Byte) : RelOp :=
  { g := p.g, n := p.n, op := fieldAt b 1 1, a := fieldAt b 2 2, v := BitVec.ofNat 32 (fieldAt b 4 4), barrier := 0 }

/-- The state at a SIGNAL slot, behind its FENCE in the pairing profile (R295). -/
def State.sigFenced (s : State) (p : Prog) : State := if s.fld (F.ordProfile p.ctx) = 1 then s.acquires p.g p.n else s

theorem State.sigFenced_frame (p : Prog) : (s.sigFenced p).chan = s.chan ∧ (s.sigFenced p).chans = s.chans
    ∧ (s.sigFenced p).counters = s.counters ∧ (s.sigFenced p).tile = s.tile := by
  unfold State.sigFenced
  split <;> exact ⟨rfl, rfl, rfl, rfl⟩

theorem State.signalSlot_eq (hs : s.atSlot ch 6 = some (p, b)) (hb : p.inHand = true)
    (hd : s.fld (F.ordProfile p.ctx) = 1 → s.drained p = true) : s.signalSlot ch
      = if 8 ≤ (s.chan ch).relq.length then (s.sigFenced p).chTo ch 4
        else ((s.sigFenced p).release ch (sigOp p b)).goSlot ch (p.pc + 1) := by
  have passes : ¬(s.fld (F.ordProfile p.ctx) = 1 ∧ (!s.drained p) = true) := fun ⟨h1, h2⟩ => by simp [hd h1] at h2
  have chan := (s.sigFenced_frame p).1
  rw [← chan]
  exact (State.slotRun_inHand hs hb _).trans (if_neg passes)

theorem State.signalSlot_holds (hs : s.atSlot ch 6 = some (p, b)) (hb : p.inHand = true)
    (hf : s.fld (F.ordProfile p.ctx) = 1) (hd : s.drained p = false) : s.signalSlot ch = s :=
  (State.slotRun_inHand hs hb _).trans (if_pos ⟨hf, by rw [hd]; rfl⟩)

theorem State.fenceSlot_goes (hs : s.atSlot ch 7 = some (p, b)) (hb : p.inHand = true) (hd : s.drained p = true) :
    (s.fenceSlot ch).standsAt ch (p.pc + 1) = true ∧ (s.fenceSlot ch).tile = s.tile ∧ (s.fenceSlot ch).sys = s.sys
      ∧ (s.fenceSlot ch).counters = s.counters := by
  obtain ⟨hp, he, -⟩ := State.atSlot_some hs
  have slot : s.fenceSlot ch = (if fieldAt b 1 1 = 1 then s.acquires p.g p.n else s).goSlot ch (p.pc + 1) :=
    (State.slotRun_inHand hs hb _).trans (if_pos hd)
  rw [slot]
  split
  · obtain ⟨stands, -, -, beside⟩ := State.goSlot_goesOn (s := s.acquires p.g p.n) hp he (p.pc + 1)
    exact ⟨stands, beside.memory.1, beside.memory.2, beside.counters⟩
  · obtain ⟨stands, -, -, beside⟩ := State.goSlot_goesOn hp he (p.pc + 1)
    exact ⟨stands, beside.memory.1, beside.memory.2, beside.counters⟩

theorem State.fenceSlot_holds (hs : s.atSlot ch 7 = some (p, b)) (hb : p.inHand = true) (hd : s.drained p = false) : s.fenceSlot ch = s :=
  (State.slotRun_inHand hs hb _).trans (if_neg (by rw [hd]; decide))

/-- A STAMP whose record needs no credit ends with its step. -/
theorem State.stampOp_eq {t : State} {q : Prog} (hs : s.atSlot ch 8 = some (p, b)) (hb : p.inHand = true)
    (run : (stampSlot ch p b).on s = (.ok (), t)) (port : t.txns = s.txns ∧ t.owed = s.owed)
    (hq : (t.chan ch).prog = some q) (hg : q.g = p.g) (hn : q.n = p.n) : s.stampOp ch = t := by
  obtain ⟨-, -, free⟩ := State.atSlot_some hs
  have ends : s.runCh ch p.ctx (atomically (.node p.g p.n) (stampSlot ch p b)) = t.settleCh ch := by
    simp only [State.runCh, atomically_ok free run port.2]
  have free' : t.held (.node q.g q.n) = false := by rw [hg, hn, State.held_of_txns port.1, free]
  calc s.stampOp ch = s.runCh ch p.ctx (atomically (.node p.g p.n) (stampSlot ch p b)) := State.slotRun_inHand hs hb _
    _ = t.settleCh ch := ends
    _ = t := State.settleCh_free hq free'

theorem State.stampOp_queues (hs : s.atSlot ch 8 = some (p, b)) (hb : p.inHand = true) (hc : p.checked = false) (hf : fieldAt b 1 1 = 3)
    (hok : s.tileOkRange p.ctx true (fieldAt b 8 6) 16 = true) (hq : (s.chan ch).relq.length < 8) :
    Released s ch p { g := p.g, n := p.n, op := 2, a := fieldAt b 8 6, space := 1, barrier := 0 } (p.pc + 1) (s.stampOp ch) := by
  obtain ⟨hp, he, -⟩ := State.atSlot_some hs
  have run := stampSlot_queues hc hf hok hq
  have goes := State.release_goes hp he { g := p.g, n := p.n, op := 2, a := fieldAt b 8 6, space := 1, barrier := 0 } (p.pc + 1)
  generalize (s.release ch { g := p.g, n := p.n, op := 2, a := fieldAt b 8 6, space := 1, barrier := 0 }).goSlot ch (p.pc + 1) = t at run goes
  obtain ⟨q, hq, hg, hn, -⟩ := goes.prog
  rw [State.stampOp_eq hs hb run goes.beside.port hq hg hn]
  exact goes

theorem State.stampOp_writes (hs : s.atSlot ch 8 = some (p, b)) (hb : p.inHand = true) (hc : p.checked = false) (hf : fieldAt b 1 1 = 1)
    (hok : s.tileOkRange p.ctx true (fieldAt b 8 6) 16 = true) (he : s.eccIn (fieldAt b 8 6) 16 = []) (hu : s.upsets.contains ch = false) :
    ∃ u, Stamped s (fieldAt b 8 6) (s.stampRec ch p.ctx).1 u ∧ (u.chan ch).stampSeq = (s.chan ch).stampSeq + 1
      ∧ GoesOn u ch p (p.pc + 1) (s.stampOp ch) := by
  obtain ⟨hp, running, -⟩ := State.atSlot_some hs
  obtain ⟨u, run, stamped, prog, seq⟩ := stampSlot_writes hp hc hf hok he hu
  have goes := State.goSlot_goesOn prog running (p.pc + 1)
  generalize u.goSlot ch (p.pc + 1) = t at run goes
  obtain ⟨q, hq, hg, hn, -⟩ := goes.prog
  have port := goes.beside.port
  rw [State.stampOp_eq hs hb run ⟨port.1.trans stamped.port.1, port.2.trans stamped.port.2⟩ hq hg hn]
  exact ⟨u, stamped, seq, goes⟩

theorem State.haltSlot_eq (hs : s.atSlot ch 0xF = some (p, b)) (hb : p.inHand = true) : s.haltSlot ch = s.endProg ch 1 0 :=
  State.slotRun_inHand hs hb _

theorem State.moveRun_eq (k : Nat) (hs : s.atSlot ch 1 = some (p, b)) (hb : p.inHand = true) :
    s.moveRun ch k = s.runCh ch p.ctx (moveLines ch p.pc (if k = 0 then (mvOf b).lines else k)) :=
  State.slotRun_inHand hs hb _

theorem State.movet_eq (hs : s.atSlot ch 2 = some (p, b)) (hb : p.inHand = true) :
    s.movet ch = s.runCh ch p.ctx (movetRun ch (s.isCopy ch)) :=
  State.slotRun_inHand hs hb _

end Sys2Proof.Machine
end

section
/-! The slots of a move program (O55). -/

namespace Sys2Proof.Machine

/-- Settles O55: each slot is its own rule on a channel whose slot is at hand; the four ends of an access serve MOVE and MOVET alike. -/
theorem slotsRun : Obligations.SlotsRun := by
  unfold Obligations.SlotsRun
  intro s ch p b
  refine ⟨fun hs hb => ?nop, fun hs hb => ?loop, fun hs hb hc => ?goes, fun hs hb hc => ?waits, fun hs hb hd hq => ?signal,
    fun hs hb hd hq => ?full, fun hs hb hf hd => ?pairing, fun hs hb hd => ?fence, fun hs hb hd => ?fenced,
    fun hs hb hc hf hok _ he hu => ?stamp, fun hs hb hc hf hok hq => ?queued, fun hs hb => ?halt, fun k m hs hb hm => ?move,
    fun hs hb => ?movet, fun s1 hs hf => ?fetched, fun s1 op st de hs hop h4 hf => ?stops⟩
  case nop =>
    obtain ⟨hp, running, -⟩ := State.atSlot_some hs
    obtain ⟨stands, -, -, beside⟩ := State.goSlot_goesOn hp running (p.pc + 1)
    exact ⟨_, congrArg Host.Outcome.next (State.slotRun_inHand hs hb _), stands, beside.graphs, beside.memory.1, beside.memory.2,
      beside.counters, beside.others⟩
  case loop =>
    obtain ⟨stands, ⟨q, hq, -, -, iters, -⟩, -, beside⟩ := State.loopSlot_goes hs hb
    refine ⟨_, rfl, stands, ?_, beside.graphs, beside.memory.1, beside.memory.2, beside.counters, beside.others⟩
    rw [hq, Option.any_some, iters]
    exact beq_self_eq_true _
  case goes =>
    obtain ⟨stands, -, -, beside⟩ := State.waitSlot_goes hs hb hc
    exact ⟨_, rfl, beside.counters, stands, beside.waits, beside.memory.1⟩
  case waits =>
    obtain ⟨waits, state, chan, counters, tile⟩ := s.chan_waits (ch := ch) ⟨p.ctx, .chan ch, fieldAt b 2 2, fieldAt b 1 1,
      BitVec.ofNat 32 (fieldAt b 4 4), s.aon, fieldAt b 8 4, false⟩ hc
    refine ⟨_, congrArg Host.Outcome.next (State.waitSlot_waits hs hb hc), counters, state, ?_, tile, waits⟩
    rw [chan, (State.atSlot_some hs).1]
  case signal =>
    obtain ⟨hp, running, -⟩ := State.atSlot_some hs
    have slot : s.signalSlot ch = ((s.sigFenced p).release ch (sigOp p b)).goSlot ch (p.pc + 1) :=
      (State.signalSlot_eq hs hb hd).trans (if_neg (by omega))
    obtain ⟨chan, -, counters, tile⟩ := s.sigFenced_frame p
    obtain ⟨stands, ⟨q, hq, -, -, issued⟩, ⟨x, queue, barrier, hg, hn, ho, ha, hv, -⟩, -, beside⟩ :=
      (s.sigFenced p).release_goes (ch := ch) (by rw [chan]; exact hp) running (sigOp p b) (p.pc + 1)
    rw [chan] at queue
    refine ⟨_, congrArg Host.Outcome.next slot, beside.counters.trans counters, beside.memory.1.trans tile, stands, ?_, ?_, ?_⟩
    · rw [queue, List.dropLast_concat]
    · rw [queue, List.getLast?_concat, Option.map_some, hg, hn, ho, ha, hv, barrier]
      rfl
    · rw [hq, Option.any_some, issued]
      exact beq_self_eq_true _
  case full =>
    have slot : s.signalSlot ch = (s.sigFenced p).chTo ch 4 := (State.signalSlot_eq hs hb hd).trans (if_pos hq)
    obtain ⟨-, chans, counters, -⟩ := s.sigFenced_frame p
    exact ⟨_, congrArg Host.Outcome.next slot, counters, State.chTo_chSt 4 (by decide), chans⟩
  case pairing => exact congrArg Host.Outcome.next (State.signalSlot_holds hs hb hf hd)
  case fence => exact ⟨_, rfl, State.fenceSlot_goes hs hb hd⟩
  case fenced => exact congrArg Host.Outcome.next (State.fenceSlot_holds hs hb hd)
  case stamp =>
    obtain ⟨u, stamped, seq, goes⟩ := State.stampOp_writes hs hb hc hf hok he hu
    obtain ⟨tile, sys⟩ := goes.beside.memory
    have bytes := stamped.bytes
    have others := stamped.others
    rw [State.stampRec_length] at bytes others
    refine ⟨_, rfl, goes.stands, ?_, goes.chan.2.trans seq, fun a ha => ?_, sys.trans stamped.memory, goes.beside.counters.trans stamped.counters⟩
    · rw [tileRd_map, tileByte_of_tile tile, ← tileRd_map, bytes]
    · rw [tileByte_of_tile tile, others a ha]
  case queued =>
    obtain ⟨stands, -, ⟨x, queue, barrier, hg, hn, ho, ha, -, space⟩, seq, beside⟩ := State.stampOp_queues hs hb hc hf hok hq
    refine ⟨_, rfl, stands, beside.memory.1, beside.memory.2, seq, ?_, ?_⟩
    · rw [queue, List.dropLast_concat]
    · rw [queue, List.getLast?_concat, Option.map_some, hg, hn, ho, ha, space, barrier]
  case halt =>
    obtain ⟨hp, running, -⟩ := State.atSlot_some hs
    have beside := s.endProg_beside (ch := ch) 1 0
    refine ⟨_, congrArg Host.Outcome.next (State.haltSlot_eq hs hb), s.endProg_chSt 1 0, ?_, beside.memory.1, beside.memory.2,
      beside.graphs, beside.counters⟩
    rw [State.endProg_chan hp running]
    simp [Chan.holding, Prog.succeeded]
  case move =>
    subst hm
    exact State.runCh_ends (State.moveRun_eq k hs hb)
  case movet => exact State.runCh_ends (State.movet_eq hs hb)
  case fetched => exact congrArg Host.Outcome.next (State.slotRun_fetched hs hf _)
  case stops =>
    have ends (f : State → Prog → List Byte → State) : s.slotRun ch op f = s1.endProg ch st de := State.slotRun_stops hs hf f
    have slots : op = 0 ∨ op = 1 ∨ op = 2 ∨ op = 3 ∨ op = 5 ∨ op = 6 ∨ op = 7 ∨ op = 8 ∨ op = 0xF := by omega
    rcases slots with rfl | rfl | rfl | rfl | rfl | rfl | rfl | rfl | rfl
    all_goals exact congrArg Host.Outcome.next (ends _)

end Sys2Proof.Machine
end

section
/-! Parts of the state that an access leaves as they are. -/

namespace Sys2Proof.Machine

variable {β γ δ : Type} {p : State → δ} {x : δ}

/-- An access that starts where `p` gives `x` ends there. -/
def Holding (p : State → δ) (x : δ) (m : M β) : Prop := ∀ s, p s = x → p (m.on s).2 = x

theorem holding_pure {y : β} : Holding p x (pure y : M β) := fun _ h => h

theorem holding_throw {e : Err} : Holding p x (throw e : M β) := fun _ h => h

theorem holding_bind {m : M β} {f : β → M γ} (hm : Holding p x m) (hf : ∀ y, Holding p x (f y)) : Holding p x (m >>= f) := by
  intro s hs
  have mid := hm s hs
  cases h : m.on s with
  | mk r t =>
    rw [h] at mid
    cases r with
    | ok y =>
      rw [on_bind_ok h]
      exact hf y t mid
    | error e =>
      rw [on_bind_error h]
      exact mid

theorem holding_get {f : State → M β} (hf : ∀ s, p s = x → Holding p x (f s)) : Holding p x (get >>= f) := fun s hs => hf s hs s hs

theorem holding_set {t : State} (ht : p t = x) : Holding p x (set t : M PUnit) := fun _ _ => ht

theorem holding_modify {g : State → State} (hg : ∀ s, p (g s) = p s) : Holding p x (modify g : M PUnit) := fun s hs => (hg s).trans hs

theorem holding_forM {l : List γ} {f : γ → M PUnit} (hf : ∀ y, Holding p x (f y)) : Holding p x (l.forM f) := by
  induction l with
  | nil => exact holding_pure
  | cons y l ih => exact holding_bind (hf y) fun _ => ih

end Sys2Proof.Machine
end

section
/-! The phase of power at a write of tile memory, and at what `wake` lets go on (R358, R409). -/

namespace Sys2Proof.Machine

variable {s : State} {q : Req} {ph : Phase}

theorem accFault_phase (unit cause : Nat) (w : Bool) (xva : Nat) : Holding State.phase ph (accFault q unit cause w xva) := by
  unfold accFault
  exact holding_get fun s hs => holding_bind (holding_set ((s.raise_frame _).1.trans hs)) fun _ => holding_pure

theorem tileCheck_phase (w : Bool) (a n : Nat) : Holding State.phase ph (tileCheck q w a n) := by
  unfold tileCheck
  refine holding_get fun s hs => ?_
  split
  · exact holding_pure
  · exact holding_bind (holding_set hs) fun _ => holding_bind (accFault_phase _ _ _ _) fun _ => holding_throw

theorem wordCheck_phase (u d : Nat) (w : List (Nat × Byte)) : Holding State.phase ph (wordCheck q u d w) := by
  unfold wordCheck
  refine holding_get fun s hs => ?_
  dsimp only
  split
  · refine holding_bind (holding_set hs) fun _ => ?_
    split
    · exact holding_bind (accFault_phase _ _ _ _) fun _ => holding_throw
    · exact holding_pure
  · exact holding_pure

theorem State.corrected_phase (w : Who) : (s.corrected w).phase = s.phase := by cases w <;> rfl

theorem eccCheck_phase (a n : Nat) (w : Bool) : Holding State.phase ph (eccCheck q a n w) := by
  unfold eccCheck
  refine holding_get fun s hs => ?_
  dsimp only
  split
  · exact holding_bind (accFault_phase _ _ _ _) fun _ => holding_throw
  · refine holding_forM fun e => holding_get fun u hu => ?_
    exact holding_bind (holding_set (State.corrected_phase _ |>.trans hu)) fun _ => holding_bind (accFault_phase _ _ _ _) fun _ => holding_pure

theorem State.setTileBytes_phase (l : List (Nat × Byte)) : (l.foldl (fun s c => s.setTileByte c.1 c.2) s).phase = s.phase :=
  proj_foldl (p := State.phase) fun _ _ _ => rfl

theorem tilePut_phase (l : List (Nat × Byte)) : (s.tilePut q l).phase = s.phase := by
  obtain ⟨no, old, gs, lit⟩ := tilePut_lit (s := s) (q := q) l
  rw [lit]
  exact State.setTileBytes_phase l

theorem tileWord_phase (w : List (Nat × Nat × Nat)) : Holding State.phase ph (tileWord q w) := by
  unfold tileWord
  refine holding_get fun s hs => holding_bind (wordCheck_phase _ _ _) fun _ => ?_
  refine holding_bind (holding_forM fun g => eccCheck_phase _ _ _) fun _ => holding_modify fun u => ?_
  exact tilePut_phase _

theorem tileWrite_phase (a : Nat) (b : List Byte) : Holding State.phase ph (tileWrite q a b) := by
  unfold tileWrite tileStore
  exact holding_bind (tileCheck_phase _ _ _) fun _ => holding_forM fun _ => tileWord_phase _

theorem State.timedRelease_phase (g n : Nat) : (s.timedRelease g n).phase = s.phase := by
  unfold State.timedRelease
  split <;> rfl

theorem State.ephAct_phase (d : EphDue) : (s.ephAct d).phase = s.phase := by
  unfold State.ephAct
  dsimp only
  split
  · exact (s.addCounter_frame _ _).1
  · have write := tileWrite_phase (q := { t := d.e.tenant, unit := 0xDC, who := .entry 0 }) (d.e.stBase + 16 * (d.e.fires % 2 ^ d.e.stLog2))
      (ephRecord d) s rfl
    split
    · next h => rw [h] at write; exact write
    · next h => rw [h] at write; exact write
  · split
    · rfl
    · split <;> simp [State.merFault]
  · rfl

theorem State.ephWaited_phase : s.ephWaited.phase = s.phase := by
  refine (proj_foldl (p := State.phase) fun u d _ => ?_).trans rfl
  split
  · exact State.timedRelease_phase _ _
  · exact State.ephAct_phase _

theorem State.flushRecs_phase (c : Nat) : (s.flushRecs c).phase = s.phase := congrArg Prod.fst (s.flushRecs_tasks c)

/-- `wake` returns to X0 (R409). -/
theorem State.wakeUp_phase (h : s.phase = .x1) : s.wakeUp.phase = .x0 := by
  unfold State.wakeUp
  rw [if_pos (by rw [h]; rfl)]
  refine (State.sendMsgs_frame _).1.trans ?_
  exact (proj_foldl (p := State.phase) fun u c _ => u.flushRecs_phase c).trans State.ephWaited_phase

end Sys2Proof.Machine
end

section
/-! WAKE, the debug peek and the shared partition (O25). -/

namespace Sys2Proof.Machine

variable {s : State}

/-- The clear engine leaves zeros in its range (R196). -/
theorem tileByte_tileClear (b n a : Nat) : (s.tileClear b n).tileByte a = if b ≤ a ∧ a < b + n then 0 else s.tileByte a := by
  refine (Sparse.get_filter_key _ (fun k => decide (k < b) || decide (b + n ≤ k)) s.tile a).trans ?_
  by_cases h : b ≤ a ∧ a < b + n
  · rw [if_pos h, if_neg (by simp; omega)]
  · rw [if_neg h, if_pos (by simp; omega)]
    rfl

-- wake

theorem State.wrote_pwrCtrl (m v was : W64) : s.wrote Reg.pwrCtrl m v was = if bits (v &&& m).toNat 0 1 = 1 then s.wakeUp else s := rfl

/-- A write of 1 to `wake` changes no register by itself (R409). -/
theorem State.hostWrite_wake (hw : s.windowOpen = true) (hc : s.pins.clkRun = true) :
    s.hostWrite Reg.pwrCtrl 8 1 = (s.setReg Reg.pwrCtrl (s.reg Reg.pwrCtrl)).wakeUp := by
  have legal : ∀ new : W64, Reg.legal Reg.pwrCtrl (s.reg Reg.pwrCtrl) new = true := fun new => rfl
  have rwl : Reg.mask Reg.pwrCtrl (·.t == .rwl) = 0 := rfl
  have written : ∀ m locked, Reg.written Reg.pwrCtrl (s.reg Reg.pwrCtrl) 1 m locked = s.reg Reg.pwrCtrl := by
    intro m locked
    have rw0 : Reg.mask Reg.pwrCtrl (·.t == .rw) = 0 := rfl
    have w1c : Reg.mask Reg.pwrCtrl (·.t == .w1c) = 0 := rfl
    simp only [Reg.written, rw0, rwl, w1c, ite_self, BitVec.ofNat_eq_ofNat, BitVec.and_zero, BitVec.or_zero, BitVec.not_zero, BitVec.and_allOnes]
  rw [s.hostWrite_word _ _ hw hc (by decide) (by decide), s.regWrite_accepted Reg.pwrCtrl _ _ _ rfl (by decide) rfl rfl (legal _) (by decide)
    (by decide) (fun _ => ⟨by rw [rwl]; exact BitVec.and_zero, by decide⟩), written, State.wrote_pwrCtrl]
  exact if_pos (by decide)

theorem State.wakeUp_error (h : s.phase ≠ .x1) : s.wakeUp = s.sat F.wakeErr := if_neg (by rw [beq_iff_eq]; exact h)

-- the peek

theorem State.wrote_dbgPeek (m v was : W64) (hm : (bits m.toNat 6 20 != 0) = true) : s.wrote Reg.dbgPeek m v was = s.peekWord := by
  show (if (bits m.toNat 6 20 != 0) = true then _ else _) = _
  exact if_pos hm

theorem bits_peek (w : BitVec 20) : bits (BitVec.ofNat 64 (w.toNat * 64)).toNat 6 20 = w.toNat := by
  have := w.isLt
  rw [BitVec.toNat_ofNat, bits, Nat.shiftRight_eq_div_pow]
  omega

/-- Any address may be peeked at (R421). -/
theorem legal_dbgPeek (old new : W64) : Reg.legal Reg.dbgPeek old new = true := by
  have specs : Reg.specs Reg.dbgPeek = [⟨6, 20, .rw, false, 0, 2 ^ 20⟩] := rfl
  have fits : bits new.toNat 6 20 ≤ 2 ^ 20 := Nat.le_of_lt (bits_lt _ _ _)
  have hole : Reg.hole Reg.dbgPeek 6 (bits new.toNat 6 20) = false := rfl
  have share : (Reg.dbgPeek != Reg.bwCfg) = true := rfl
  simp only [Reg.legal, specs, List.all_cons, List.all_nil, fits, hole, share, Nat.zero_le, decide_true, Bool.not_false, Bool.and_true,
    Bool.or_true, Bool.true_or]

/-- A write of an address to XH_DBG_PEEK, the debug registers not locked, peeks there (R415). -/
theorem State.hostWrite_peek (w : BitVec 20) (hw : s.windowOpen = true) (hc : s.pins.clkRun = true) (hd : s.relay.dbgLock = false) :
    ∃ v : W64, s.hostWrite Reg.dbgPeek 8 (BitVec.ofNat 64 (w.toNat * 64)) = (s.setReg Reg.dbgPeek v).peekWord ∧ bits v.toNat 6 20 = w.toNat := by
  have rwl : Reg.mask Reg.dbgPeek (·.t == .rwl) = 0 := rfl
  have free (ch : W64) : s.eMarked Reg.dbgPeek ch = false ∧ s.baseLive Reg.dbgPeek ch = false := ⟨rfl, rfl⟩
  have other : (Reg.dbgPeek == Reg.faultCfg) = false ∧ (Reg.dbgPeek == Reg.tmShared) = false ∧ ¬Reg.dbgPeek = Reg.fqBase := by decide
  have write (v : W64) : s.regWrite Reg.dbgPeek (~~~0) v
      = (s.setReg Reg.dbgPeek (Reg.written Reg.dbgPeek (s.reg Reg.dbgPeek) v (~~~0 &&& ~~~(Reg.own Reg.dbgPeek) &&& ~~~0)
          (if Reg.relayDomain Reg.dbgPeek then s.relay.locked else s.coreLock))).peekWord := by
    unfold State.regWrite
    simp only [hd, Bool.and_false, free, legal_dbgPeek, rwl, other, BitVec.ofNat_eq_ofNat, BitVec.and_zero, bne_self_eq_false,
      Bool.false_and, Bool.false_eq_true, if_false, Bool.not_true, Bool.or_self, false_and]
    exact State.wrote_dbgPeek (~~~0) v _ (by decide)
  refine ⟨_, (s.hostWrite_word _ _ hw hc (by decide) (by decide)).trans (write _), ?_⟩
  have writable (locked : Bool) : ((~~~0 &&& ~~~(Reg.own Reg.dbgPeek) &&& ~~~0) &&& (Reg.mask Reg.dbgPeek (·.t == .rw)
      ||| if locked then 0 else Reg.mask Reg.dbgPeek (·.t == .rwl)) : W64) = 0x3FFFFC0 := by
    cases locked <;> decide
  have clears : Reg.mask Reg.dbgPeek (·.t == .w1c) = 0 := rfl
  exact (bits_written _ _ _ _ _ _ _ (by rw [writable]; decide) (by rw [clears]; decide)).trans (bits_peek w)

/-- The registers XH_DBG_DATA show the first `n` pieces of 8 bytes of a tile word (R415). -/
def State.showWord (s : State) (a n : Nat) : State :=
  (List.range n).foldl (fun u k => u.setReg (Reg.dbgData k) (BitVec.ofNat 64 (le (u.tileRd (a + 8 * k) 8)))) s

theorem State.showWord_tile (a n : Nat) : (s.showWord a n).tile = s.tile := by
  unfold State.showWord
  exact proj_foldl (p := State.tile) fun u k _ => by simp only [State.setReg_frame]

theorem State.showWord_succ (a n : Nat) : s.showWord a (n + 1)
    = (s.showWord a n).setReg (Reg.dbgData n) (BitVec.ofNat 64 (le (s.tileRd (a + 8 * n) 8))) := by
  have read : (s.showWord a n).tileRd (a + 8 * n) 8 = s.tileRd (a + 8 * n) 8 := by
    rw [tileRd_map, tileRd_map, tileByte_of_tile (s.showWord_tile a n)]
  rw [← read]
  unfold State.showWord
  rw [List.range_succ, List.foldl_append]
  rfl

theorem State.showWord_data (a : Nat) {n k : Nat} (hk : k < n) :
    (s.showWord a n).reg (Reg.dbgData k) = BitVec.ofNat 64 (le (s.tileRd (a + 8 * k) 8)) := by
  induction n with
  | zero => omega
  | succ n ih =>
    rw [State.showWord_succ, State.reg_setReg]
    split
    · next h =>
      have same : n = k := by
        simp only [Reg.dbgData] at h
        omega
      rw [same]
    · next h => exact ih (by have : n ≠ k := fun e => h (by rw [e]); omega)

theorem State.showWord_fld (a n : Nat) (f : Fld) (h : f.off < 0x90080) : (s.showWord a n).fld f = s.fld f := by
  induction n with
  | zero => rfl
  | succ n ih =>
    rw [State.showWord_succ, State.fld_setReg_ne _ _ f _ (by simp only [Reg.dbgData]; omega), ih]

/-- A peek that is enabled, outside the partitions in use, of a word without errors (R415). -/
theorem State.peekWord_shows (he : s.fld F.peekEn = 1) (hs : s.inShared (64 * s.fld F.peekAddr) = false)
    (ho : ∀ t : Fin 8, s.fld (F.enable t) = 1 → s.inOwn t (64 * s.fld F.peekAddr) = false) (hc : s.eccIn (64 * s.fld F.peekAddr) 64 = []) :
    s.peekWord = ((s.setFld F.peekUe 0).setFld F.peekCe 0).showWord (64 * s.fld F.peekAddr) 8 := by
  have outside : (List.range 8).any (fun t => s.fld (F.enable t) == 1 && s.inOwn t (64 * s.fld F.peekAddr)) = false := by
    rw [List.any_eq_false]
    intro t ht
    rw [List.mem_range] at ht
    rw [Bool.and_eq_true, beq_iff_eq]
    rintro ⟨enabled, own⟩
    rw [ho ⟨t, ht⟩ enabled] at own
    cases own
  have on : (s.fld F.peekEn == 0) = false := by rw [he]; rfl
  unfold State.peekWord
  simp only [on, hs, outside, hc, List.any_nil, Bool.or_self, Bool.and_false, Bool.false_eq_true, if_false]
  rfl

-- the shared partition

/-- XH_TM_SHARED as it stands but for `shr_en`. -/
def withoutShrEn (old : W64) : W64 := old &&& ~~~0x10000

theorem bits_withoutShrEn (old : W64) (lo w : Nat) (h : lo + w ≤ 16 ∨ 16 < lo) : bits (withoutShrEn old).toNat lo w = bits old.toNat lo w := by
  refine Nat.eq_of_testBit_eq fun i => ?_
  rw [bits_testBit, bits_testBit, BitVec.testBit_toNat, BitVec.testBit_toNat]
  by_cases hi : i < w
  · have other : (0x10000 : W64).getLsbD (lo + i) = false := by
      rw [← BitVec.testBit_toNat, show (0x10000 : W64).toNat = 2 ^ 16 from rfl, Nat.testBit_two_pow]
      exact decide_eq_false (by omega)
    have inside : lo + i < 64 ∨ old.getLsbD (lo + i) = false := (Nat.lt_or_ge _ _).imp_right (BitVec.getLsbD_of_ge _ _)
    rw [withoutShrEn, BitVec.getLsbD_and, BitVec.getLsbD_not, other]
    rcases inside with h | h <;> simp [h]
  · simp [hi]

theorem shrEn_withoutShrEn (old : W64) : bits (withoutShrEn old).toNat 16 1 = 0 := by
  refine Nat.eq_of_testBit_eq fun i => ?_
  rw [bits_testBit, BitVec.testBit_toNat, Nat.zero_testBit]
  by_cases hi : i < 1
  · obtain rfl : i = 0 := by omega
    have cleared : (~~~0x10000 : W64).getLsbD (16 + 0) = false := by decide
    rw [withoutShrEn, BitVec.getLsbD_and, cleared, Bool.and_false, Bool.and_false]
  · rw [decide_eq_false hi, Bool.false_and]

theorem bit_bits (v i : Nat) : bit v i = (bits v i 1 == 1) := rfl

theorem legal_withoutShrEn (old : W64) : Reg.legal Reg.tmShared old (withoutShrEn old) = true := by
  have specs : Reg.specs Reg.tmShared = [⟨0, 6, .rwl, false, 0, 63⟩, ⟨8, 6, .rwl, false, 0, 63⟩, ⟨16, 1, .rwl, false, 0, 1⟩,
    ⟨17, 1, .rw, false, 0, 1⟩, ⟨20, 3, .rw, false, 0, 7⟩, ⟨32, 8, .rw, false, 0, 255⟩] := rfl
  have fits : bits (withoutShrEn old).toNat 16 1 ≤ 1 := Nat.le_of_lt_succ (bits_lt _ _ _)
  have hole : Reg.hole Reg.tmShared 16 (bits (withoutShrEn old).toNat 16 1) = false := rfl
  have share : (Reg.tmShared != Reg.bwCfg) = true := rfl
  simp only [Reg.legal, specs, List.all_cons, List.all_nil, fits, hole, share, bits_withoutShrEn old 0 6 (by decide),
    bits_withoutShrEn old 8 6 (by decide), bits_withoutShrEn old 17 1 (by decide), bits_withoutShrEn old 20 3 (by decide),
    bits_withoutShrEn old 32 8 (by decide), beq_self_eq_true, Nat.zero_le, decide_true, Bool.not_false, Bool.and_true, Bool.or_true, Bool.true_or]

/-- A write of 0 to `shr_en` that may be written: the block clears the field itself, once the clear is over (R195). -/
theorem State.hostWrite_shrEn (hw : s.windowOpen = true) (hc : s.pins.clkRun = true) (hl : s.coreLock = false) (he : s.fld F.shrEn = 1) :
    s.hostWrite Reg.tmShared 8 (s.reg Reg.tmShared &&& ~~~0x10000)
      = s.sharedOff.setReg Reg.tmShared (Reg.written Reg.tmShared (s.reg Reg.tmShared) (withoutShrEn (s.reg Reg.tmShared)) (~~~0x10000) false) := by
  have set : bit (s.reg Reg.tmShared).toNat 16 = true := by
    rw [bit_bits, show bits (s.reg Reg.tmShared).toNat 16 1 = 1 from he]
    rfl
  have cleared : bit (withoutShrEn (s.reg Reg.tmShared)).toNat 16 = false := by
    rw [bit_bits, shrEn_withoutShrEn]
    rfl
  have new : (s.reg Reg.tmShared &&& ~~~(~~~0)) ||| (withoutShrEn (s.reg Reg.tmShared) &&& ~~~0) = withoutShrEn (s.reg Reg.tmShared) := by
    simp only [BitVec.ofNat_eq_ofNat, BitVec.not_zero, BitVec.not_allOnes, BitVec.and_zero, BitVec.zero_or, BitVec.and_allOnes]
  have unchecked (ch : W64) : s.eMarked Reg.tmShared ch = false ∧ s.baseLive Reg.tmShared ch = false := ⟨rfl, rfl⟩
  have plain : Reg.debug Reg.tmShared = false ∧ Reg.relayDomain Reg.tmShared = false ∧ (Reg.tmShared == Reg.faultCfg) = false
      ∧ ¬Reg.tmShared = Reg.fqBase := by decide
  have wrote (u : State) (m v was : W64) : u.wrote Reg.tmShared m v was = u := rfl
  have select : (~~~0 &&& ~~~(Reg.own Reg.tmShared) &&& ~~~0x10000 : W64) = ~~~0x10000 := by decide
  refine (s.hostWrite_word _ (withoutShrEn (s.reg Reg.tmShared)) hw hc (by decide) (by decide)).trans ?_
  unfold State.regWrite
  simp only [new, unchecked, plain, legal_withoutShrEn, set, cleared, hl, beq_self_eq_true, Bool.false_and, Bool.and_self,
    Bool.not_false, Bool.not_true, Bool.or_self, Bool.false_eq_true, if_false, if_true, false_and, wrote, select]

theorem State.sharedOff_begins (he : s.fld F.shrEn = 1) (hc : s.clears.any (·.tenant.isNone) = false) : s.sharedOff = { s with
    clears := s.clears ++ [⟨s.fld F.shrBase * 1048576, (s.fld F.shrLimit + 1 - s.fld F.shrBase) * 1048576, none⟩] } :=
  if_pos ⟨he, by rw [hc]; rfl⟩

/-- A field that a write does not select keeps its value (R6). -/
theorem bits_unwritten (off : Nat) (old v m : W64) (locked : Bool) (lo w : Nat) (hm : ∀ i < w, m.getLsbD (lo + i) = false) :
    bits (Reg.written off old v m locked).toNat lo w = bits old.toNat lo w := by
  refine Nat.eq_of_testBit_eq fun i => ?_
  rw [bits_testBit, bits_testBit, BitVec.testBit_toNat, BitVec.testBit_toNat]
  by_cases hi : i < w
  · simp only [Reg.written, BitVec.getLsbD_and, BitVec.getLsbD_or, BitVec.getLsbD_not, hm i hi, Bool.false_and, Bool.and_false, Bool.not_false,
      Bool.and_true, Bool.or_false]
    cases h : old.getLsbD (lo + i) with
    | false => rw [Bool.false_and, Bool.false_and]
    | true => rw [decide_eq_true (BitVec.lt_of_getLsbD h), Bool.and_self, Bool.and_self]
  · rw [decide_eq_false hi, Bool.false_and, Bool.false_and]

/-- Settles O25. -/
theorem wakePeekAndSharedPartition : Obligations.WakePeekAndSharedPartition := by
  unfold Obligations.WakePeekAndSharedPartition
  intro s hc
  refine ⟨fun hx => ?wakeError, fun hx => ?wake, fun w hw hd he hs ho hecc => ?peek, fun hw hl he hq => ?disable, fun c hx hf => ?cleared⟩
  case wakeError =>
    have window : s.windowOpen = true := by simp [State.windowOpen, hx]
    refine ⟨_, congrArg Host.Outcome.next ((State.hostWrite_wake window hc).trans (State.wakeUp_error (by simp [hx]))), ?_⟩
    simp only [State.sat_frame, State.setReg_frame]
    refine ⟨hx, ?_, trivial, trivial⟩
    rw [State.fld_sat_self _ _ _ (by decide), State.fld_setReg_ne _ _ F.wakeErr _ (by decide)]
    rfl
  case wake =>
    have window : s.windowOpen = true := by simp [State.windowOpen, hx]
    exact ⟨_, congrArg Host.Outcome.next (State.hostWrite_wake window hc), State.wakeUp_phase hx, State.wakeUp_aon _⟩
  case peek =>
    obtain ⟨v, write, addr⟩ := State.hostWrite_peek w hw hc hd
    have at_ : (s.setReg Reg.dbgPeek v).fld F.peekAddr = w.toNat := (s.fld_setReg_self F.peekAddr v).trans addr
    have same (f : Fld) (h : Reg.dbgPeek ≠ f.off) : (s.setReg Reg.dbgPeek v).fld f = s.fld f := s.fld_setReg_ne Reg.dbgPeek f v h
    have shared (a : Nat) : (s.setReg Reg.dbgPeek v).inShared a = s.inShared a := by
      rw [State.inShared, same F.shrEn (by decide), same F.shrBase (by decide), same F.shrLimit (by decide), State.inShared]
    have own (t : Fin 8) (a : Nat) : (s.setReg Reg.dbgPeek v).inOwn t a = s.inOwn t a := by
      have away (o : Nat) (ho : o < 0x1000) : Reg.dbgPeek ≠ Reg.ten t o := by
        have := t.isLt
        simp only [Reg.dbgPeek, Reg.ten]
        omega
      rw [State.inOwn, same (F.tmEn t) (away _ (by decide)), same (F.tmBase t) (away _ (by decide)), same (F.tmLimit t) (away _ (by decide)),
        State.inOwn]
    have enable (t : Fin 8) : Reg.dbgPeek ≠ (F.enable t).off := by fin_cases t <;> decide
    have shows : (s.setReg Reg.dbgPeek v).peekWord = _ := State.peekWord_shows ((same F.peekEn (by decide)).trans he)
      (by rw [at_, shared]; exact hs) (fun t ht => by rw [at_, own]; exact ho t (by rwa [same _ (enable t)] at ht)) (by rw [at_]; exact hecc)
    rw [at_] at shows
    have tile : (((s.setReg Reg.dbgPeek v).setFld F.peekUe 0).setFld F.peekCe 0).tile = s.tile := by
      simp only [State.setFld_frame, State.setReg_frame]
    refine ⟨_, congrArg Host.Outcome.next (write.trans shows), ?_, ?_, ?_, fun k => ?_, (State.showWord_tile _ _).trans tile⟩
    · rw [State.showWord_fld _ _ _ (by decide), State.fld_setFld_disj _ _ _ _ (by decide), State.fld_setFld_disj _ _ _ _ (by decide), at_]
    · rw [State.showWord_fld _ _ _ (by decide), State.fld_setFld_disj _ _ _ _ (by decide),
        State.fld_setFld_fits _ _ _ (by decide) (by decide)]
    · rw [State.showWord_fld _ _ _ (by decide), State.fld_setFld_fits _ _ _ (by decide) (by decide)]
    · rw [State.showWord_data _ k.isLt, tileRd_map, tileByte_of_tile tile, ← tileRd_map]
  case disable =>
    refine ⟨_, congrArg Host.Outcome.next (State.hostWrite_shrEn hw hc hl he), ?_, ?_, ?_⟩
    · exact (State.fld_setReg_self _ F.shrEn _).trans ((bits_unwritten _ _ _ _ _ _ _ (by decide)).trans he)
    · rw [State.sharedOff_begins he hq]
      rfl
    · rw [State.sharedOff_begins he hq]
      rfl
  case cleared =>
    have row : execSharedClearDone s
        = .next { (s.tileClear c.base c.len).setFld F.shrEn 0 with clears := rmFirst (fun x => x == c) s.clears } := by
      unfold execSharedClearDone
      rw [hf]
      exact congrArg Host.Outcome.next (if_pos (by rw [hx]; rfl))
    refine ⟨_, row, State.fld_setFld_self _ F.shrEn 0 (by decide), rfl, fun a h1 h2 => ?_, fun a h => ?_⟩
    · exact (tileByte_tileClear _ _ _).trans (if_pos ⟨h1, h2⟩)
    · exact (tileByte_tileClear _ _ _).trans (if_neg (by omega))

end Sys2Proof.Machine
end

section
/-! A refutation of `Obligations.TenantsAreCleared` (O47). Its clause on CLEAR_TENANT_DONE says that the cleared tenant has no handles and no
other context changes, and lets the Mission Controller's hold queue hold any record. The command's own record is written behind those that
wait (R65, R393), and a record of CREATE_TENSOR brings its handle into use in the context that it names (R96). The block queues a record with
its own context alone (`State.emit`); a premise that every waiting record names the context in whose queue it stands is what the clause
lacks. -/

namespace Sys2Proof.Machine

/-- A CLEAR_TENANT of tenant 1 whose step has run. -/
def clearOfTenant1 : Entry := { id := 0, sq := 0, bytes := leBytes 1 0x42 ++ List.replicate 7 0 ++ leBytes 1 1, started := true }

/-- X0 with 64 free slots in the Mission Controller's ring, tenant 1 under `clearOfTenant1`, which has nothing left to clear, and
`recOfTenant1` in the Mission Controller's hold queue. -/
def clearsBehindForeignRecord : State :=
  (({ State.reset with phase := .x0 }.setFld (F.cqLog2 8 0) 6).setCtx 8
    { phase := .enabled, entries := [clearOfTenant1], holdQ := [recOfTenant1] }).setCtx 1 { clearing := some 0 }

theorem clearDone_clearsBehindForeignRecord :
    ((clearsBehindForeignRecord.clearDone 1).ctx 1).handles = [{ h := 0, d := descOf [] }] := by decide +kernel

/-- Refutes O47: in `clearsBehindForeignRecord` the end of tenant 1's CLEAR_TENANT gives it a handle. -/
theorem not_tenantsAreCleared : ¬ Obligations.TenantsAreCleared := by
  intro h
  obtain ⟨-, -, clearDone⟩ := h clearsBehindForeignRecord (by decide)
  obtain ⟨t, ht, -, handles, -⟩ := clearDone 1 0 (by decide +kernel) (by decide) (by decide)
  obtain rfl : clearsBehindForeignRecord.clearDone 1 = t := Host.Outcome.next.inj ht
  have none : ((clearsBehindForeignRecord.clearDone 1).ctx 1).handles = [] := handles
  rw [clearDone_clearsBehindForeignRecord] at none
  exact absurd none (by decide)

end Sys2Proof.Machine
end

section
/-! Frames at their receiver (R327): what the head of the queue hands over, and what an answer to another chip changes. -/

namespace Sys2Proof.Machine

variable {s : State} {f : Frame}

/-- The state without the oldest frame for the core. -/
def State.tookFrame (s : State) (l : List Frame) : State := s.setRelay { s.relay with inbox := l }

theorem State.takeFrame_head {l : List Frame} {p : Frame → Bool} (g : Frame → State → State) (he : s.engines = true)
    (hi : s.relay.inbox = f :: l) (hp : p f = true) : s.takeFrame p g = g f (s.tookFrame l) := by
  unfold State.takeFrame
  rw [hi]
  simp only [he, hp, Bool.and_self, if_true]
  rfl

/-- A state that differs from another in the ports' queues alone. -/
structure Answers (s t : State) : Prop where
  rest : t.rest = s.rest
  regs : t.regs = s.regs
  relay : t.relay.noPorts = s.relay.noPorts

theorem Answers.refl : Answers s s := ⟨rfl, rfl, rfl⟩

theorem Answers.memory {t : State} (h : Answers s t) : t.tile = s.tile ∧ t.counters = s.counters :=
  ⟨(congrArg State.tile h.rest :), (congrArg State.counters h.rest :)⟩

theorem Answers.queue {t : State} (h : Answers s t) : t.relay.inbox = s.relay.inbox ∧ t.relay.rx = s.relay.rx :=
  ⟨(congrArg Relay.inbox h.relay :), (congrArg Relay.rx h.relay :)⟩

theorem Answers.reads {t : State} (h : Answers s t) : t.tileByte = s.tileByte ∧ t.counter = s.counter := by
  obtain ⟨tile, counters⟩ := h.memory
  refine ⟨tileByte_of_tile tile, ?_⟩
  unfold State.counter
  rw [counters]

/-- An answer to another chip leaves through a port. -/
theorem State.answer_answers (h : f.srcChip ≠ s.self) (typ seq word : Nat) : Answers s (s.answer typ f seq word) := by
  obtain ⟨relay, regs⟩ := s.routeOn_other none
    { f := s.mkFrame typ 0 f.srcChip f.srcTenant f.dstTenant f.mailbox seq word, who := none }
  have out : s.answer typ f seq word = s.sendOut (s.mkFrame typ 0 f.srcChip f.srcTenant f.dstTenant f.mailbox seq word) := if_neg h
  rw [out]
  exact ⟨State.sendOut_rest _ _ _, regs, relay⟩

theorem self_of_regs {t : State} (h : t.regs = s.regs) : t.self = s.self := fld_of_regs h F.chipId

theorem State.modRx_at {i : Nat} {x : RxPair} (hx : s.relay.rx[i]? = some x) (g : RxPair → RxPair) :
    (s.modRx i g).relay.rx[i]? = some (g x) := by
  simp [State.modRx, hx]

theorem Answers.beside {t : State} {i : Nat} {g : RxPair → RxPair} (h : Answers (s.modRx i g) t) :
    t.relay.inbox = s.relay.inbox ∧ t.tile = s.tile ∧ t.counters = s.counters ∧ t.regs = s.regs :=
  ⟨h.queue.1, h.memory.1, h.memory.2, h.regs⟩

theorem Answers.entry {t : State} {i : Nat} {x : RxPair} {g : RxPair → RxPair} (h : Answers (s.modRx i g) t)
    (hx : s.relay.rx[i]? = some x) : t.relay.rx[i]? = some (g x) := by
  rw [h.queue.2]
  exact State.modRx_at hx g

/-- Changes that agree on the entry of the pair are one. -/
theorem State.modRx_congr {i : Nat} {x : RxPair} (hx : s.relay.rx[i]? = some x) {g k : RxPair → RxPair} (h : g x = k x) :
    s.modRx i g = s.modRx i k := by
  have same : s.relay.rx.modify i g = s.relay.rx.modify i k := by
    refine List.ext_getElem? fun j => ?_
    rw [List.getElem?_modify, List.getElem?_modify]
    by_cases hj : i = j
    · subst hj
      rw [hx]
      simp only [if_true, Option.map_eq_map, Option.map_some, h]
    · simp only [hj, if_false]
  rw [State.modRx, State.modRx, same]

/-- A change that leaves the entry of the pair as it is. -/
theorem State.modRx_same {i : Nat} {x : RxPair} (hx : s.relay.rx[i]? = some x) {g : RxPair → RxPair} (hg : g x = x) : s.modRx i g = s := by
  rw [State.modRx_congr hx (k := id) hg, State.modRx, List.modify_id]
  rfl

theorem State.modRx_modRx (i : Nat) (g k : RxPair → RxPair) : (s.modRx i g).modRx i k = s.modRx i (k ∘ g) := by
  simp only [State.modRx, State.setRelay, List.modify_modify_eq]

end Sys2Proof.Machine
end

section
/-! DATA and BATCH frames (O58): the steps of R327 at the receiver. -/

namespace Sys2Proof.Machine

variable {s : State} {f : Frame} {m : Mailbox} {i : Nat} {x : RxPair}

/-- The mailbox admits the frame's source (R325, R401). -/
structure Admits (s : State) (f : Frame) (m : Mailbox) : Prop where
  enabled : s.fld (F.enable f.dstTenant) = 1
  mailbox : (s.ctx f.dstTenant).mailboxes.find? (·.idx == f.mailbox) = some m
  inService : s.markedOut f.srcChip = false
  source : m.srcAny = true ∨ m.srcGroup = s.sourceOf f.srcChip ∧ m.srcTenant = f.srcTenant

/-- Without a mailbox to go to, a frame is refused with NACK 0x02. -/
theorem State.receiveFrame_nowhere (h : s.fld (F.enable f.dstTenant) = 0
    ∨ (s.ctx f.dstTenant).mailboxes.find? (·.idx == f.mailbox) = none) : s.receiveFrame f = s.answer 4 f f.pairSeq 2 := by
  unfold State.receiveFrame
  dsimp only
  split
  · next h1 h2 =>
    rcases h with h | h
    · rw [h1] at h
      exact absurd h (by decide)
    · rw [h2] at h
      cases h
  · rfl

/-- A frame from a source that its mailbox does not accept is counted and refused with NACK 0x03 (R327, R401). -/
theorem State.receiveFrame_refused (h1 : s.fld (F.enable f.dstTenant) = 1)
    (h2 : (s.ctx f.dstTenant).mailboxes.find? (·.idx == f.mailbox) = some m)
    (h : s.markedOut f.srcChip = true ∨ m.srcAny = false ∧ (m.srcGroup ≠ s.sourceOf f.srcChip ∨ m.srcTenant ≠ f.srcTenant)) :
    s.receiveFrame f = (s.sat (F.mbxViol f.dstTenant)).answer 4 f f.pairSeq 3 := by
  unfold State.receiveFrame
  simp only [h1, h2]
  refine if_pos ?_
  rcases h with h | ⟨ha, h | h⟩
  · rw [h, Bool.true_or]
  · simp [ha, h]
  · simp [ha, h]

/-- A frame of an admitted source whose pair has its entry goes on to steps 5 to 7 of R327. -/
theorem State.receiveFrame_checks (h : Admits s f m) (hi : s.rxIdx f = some i) : s.receiveFrame f = s.checkFrame i m f := by
  obtain ⟨enabled, mailbox, inService, source⟩ := h
  unfold State.receiveFrame
  simp only [enabled, mailbox, hi]
  refine if_neg ?_
  rcases source with h | ⟨h, h'⟩
  · simp [inService, h]
  · simp [inService, h, h']

-- steps 5 to 7

/-- A DATA frame of a pair in step, in its turn and with its word, is accepted (R327). -/
theorem State.checkFrame_accepts (hx : s.relay.rx[i]? = some x) (hs : x.synced = true) (ht : f.typ = 1)
    (hq : f.pairSeq % 2 ^ 24 = x.expected) (hw : f.word = crc32c (frameMsg f x.nodeSeq)) : s.checkFrame i m f = s.acceptFrame i m f := by
  have data : (f.typ == 2) = false := by rw [ht]; rfl
  have turn : (f.pairSeq % 2 ^ 24 != x.expected) = false := bne_eq_false_iff_eq.2 hq
  have word : (f.word != crc32c (frameMsg f x.nodeSeq)) = false := bne_eq_false_iff_eq.2 hw
  unfold State.checkFrame
  rw [hx]
  simp only [data, hs, turn, word, Bool.not_true, Bool.not_false, Bool.false_and, Bool.and_false, Bool.false_eq_true, if_false]

/-- A BATCH frame in its turn, with its word and not stale, is accepted (R327, R330). -/
theorem State.checkFrame_acceptsBatch (hx : s.relay.rx[i]? = some x) (ht : f.typ = 2) (hq : f.pairSeq % 2 ^ 24 = x.expected)
    (hw : f.word = crc32c (frameMsg f (batchSeq f)))
    (hf : x.stale (BitVec.ofNat 32 (fieldAt f.payload 20 4)) (batchSeq f) (BitVec.ofNat 8 (fieldAt f.payload 15 1)) = false) :
    s.checkFrame i m f = s.acceptFrame i m f := by
  have batch : (f.typ == 2) = true := by rw [ht]; rfl
  have turn : (f.pairSeq % 2 ^ 24 != x.expected) = false := bne_eq_false_iff_eq.2 hq
  have word : (f.word != crc32c (frameMsg f (batchSeq f))) = false := bne_eq_false_iff_eq.2 hw
  unfold State.checkFrame
  rw [hx]
  simp only [batch, turn, word, hf, Bool.not_true, Bool.and_false, Bool.false_eq_true, if_false, if_true]

/-- The state with the time of a pair's last NACK 0x01 changed. -/
def State.nackedOn (s : State) (i : Nat) (t : Option Nat) : State := s.modRx i (fun y => { y with nackedAt := t })

/-- NACK 0x01 changes of its pair's entry the time of the last one alone. -/
theorem State.nackSeq_answers (hx : s.relay.rx[i]? = some x) (h : f.srcChip ≠ s.self) : ∃ t, Answers (s.nackedOn i t) (s.nackSeq i x f) := by
  have same : s.nackedOn i x.nackedAt = s := State.modRx_same hx rfl
  have now : Answers (s.nackedOn i (some s.aon)) (State.nackSeq.go s i x f) := State.answer_answers (s := s.nackedOn i (some s.aon)) h _ _ _
  unfold State.nackSeq
  split
  · split
    · exact ⟨x.nackedAt, by rw [same]; exact .refl⟩
    · exact ⟨_, now⟩
  · exact ⟨_, now⟩

/-- A DATA frame of a pair in step that is out of its turn or has a wrong word is not accepted (R327). -/
theorem State.checkFrame_refuses (hx : s.relay.rx[i]? = some x) (hs : x.synced = true) (ht : f.typ = 1)
    (h : f.pairSeq % 2 ^ 24 ≠ x.expected ∨ f.word ≠ crc32c (frameMsg f x.nodeSeq)) (hself : f.srcChip ≠ s.self) :
    ∃ t, Answers (s.nackedOn i t) (s.checkFrame i m f) := by
  have nack := State.nackSeq_answers hx hself
  have same : s.nackedOn i x.nackedAt = s := State.modRx_same hx rfl
  have data : (f.typ == 2) = false := by rw [ht]; rfl
  unfold State.checkFrame
  rw [hx]
  simp only [data, hs, Bool.not_true, Bool.false_and, Bool.true_and, Bool.false_eq_true, if_false]
  by_cases hq : f.pairSeq % 2 ^ 24 = x.expected
  · have word : (f.word != crc32c (frameMsg f x.nodeSeq)) = true := bne_iff_ne.2 (h.resolve_left (not_not_intro hq))
    rw [if_neg (by rw [bne_iff_ne]; exact not_not_intro hq), if_pos word]
    exact nack
  · rw [if_pos (bne_iff_ne.2 hq)]
    split
    · exact nack
    · exact ⟨x.nackedAt, by rw [same]; exact State.answer_answers hself _ _ _⟩

-- step 8 and what follows

/-- An entry that has accepted a frame (R327). -/
def RxPair.accepted (x : RxPair) (f : Frame) (left : Nat) : RxPair :=
  { x with expected := (f.pairSeq + 1) % 2 ^ 24, synced := true, srcChip := f.srcChip, left := left }

/-- An entry with one more frame to acknowledge, at the time `now` (R329). -/
def RxPair.counting (x : RxPair) (now : Nat) : RxPair :=
  { x with unacked := x.unacked + 1, accAt := if x.unacked = 0 then now else x.accAt }

/-- An acknowledgement leaves at once: at the end of a batch, or for the sixteenth frame (R329). -/
def RxPair.due (x : RxPair) (batch : Bool) : Bool := (!batch && x.left == 0) || 16 ≤ x.unacked

/-- An entry without frames to acknowledge. -/
def RxPair.reported (x : RxPair) : RxPair := { x with unacked := 0 }

/-- An entry after one more frame, with its acknowledgement if that leaves at once. -/
def RxPair.counted (x : RxPair) (now : Nat) (batch : Bool) : RxPair :=
  if (x.counting now).due batch then (x.counting now).reported else x.counting now

/-- The acceptance of a frame counts towards the next acknowledgement (R329). -/
def State.countFrame (s : State) (i : Nat) (f : Frame) (batch : Bool) : State :=
  let s := s.modRx i (·.counting s.aon)
  match s.relay.rx[i]? with
  | some x => if x.due batch then s.ackPair i f else s
  | none => s

theorem State.countFrame_answers (hx : s.relay.rx[i]? = some x) (batch : Bool) (h : f.srcChip ≠ s.self) :
    Answers (s.modRx i (·.counted s.aon batch)) (s.countFrame i f batch) := by
  have entry := State.modRx_at hx (·.counting s.aon)
  unfold State.countFrame
  dsimp only
  rw [entry]
  dsimp only
  by_cases due : (x.counting s.aon).due batch = true
  · have ack : (s.modRx i (·.counting s.aon)).ackPair i f = ((s.modRx i (·.counting s.aon)).modRx i (·.reported)).answer 3 f
        (((x.counting s.aon).expected + 2 ^ 24 - 1) % 2 ^ 24) 0 := by
      unfold State.ackPair
      rw [entry]
      rfl
    have same : (s.modRx i (·.counting s.aon)).modRx i (·.reported) = s.modRx i (·.counted s.aon batch) :=
      (s.modRx_modRx i _ _).trans (State.modRx_congr hx (if_pos due).symm)
    rw [if_pos due, ack, same]
    exact State.answer_answers (s := s.modRx i _) h _ _ _
  · have same : s.modRx i (·.counting s.aon) = s.modRx i (·.counted s.aon batch) := State.modRx_congr hx (if_neg due).symm
    rw [if_neg due, same]
    exact .refl

theorem RxPair.due_iff (batch : Bool) : x.due batch = true ↔ batch = false ∧ x.left = 0 ∨ 16 ≤ x.unacked := by
  simp [RxPair.due]

theorem RxPair.counted_entry (now : Nat) (batch : Bool) : (x.counted now batch).expected = x.expected ∧ (x.counted now batch).left = x.left
    ∧ (x.counted now batch).nodeSeq = x.nodeSeq ∧ (x.counted now batch).runEpoch = x.runEpoch
    ∧ (x.counted now batch).unacked = if batch = false ∧ x.left = 0 ∨ 15 ≤ x.unacked then 0 else x.unacked + 1 := by
  have due : (x.counting now).due batch = true ↔ batch = false ∧ x.left = 0 ∨ 15 ≤ x.unacked :=
    (RxPair.due_iff batch).trans (or_congr_right (Nat.add_le_add_iff_right (n := 1)))
  unfold RxPair.counted
  split
  · next h => exact ⟨rfl, rfl, rfl, rfl, (if_pos (due.1 h)).symm⟩
  · next h => exact ⟨rfl, rfl, rfl, rfl, (if_neg (h ∘ due.2)).symm⟩

/-- The request of the write of an accepted frame. -/
def frameReq (f : Frame) : Req := { t := f.dstTenant, unit := 0xDF, who := .chan 0xDF }

/-- A DATA frame outside the window of its mailbox is consumed, counted and refused with NACK 0x07 (R198, R327). -/
theorem State.acceptFrame_outside (ht : f.typ = 1) (hw : m.winLen < f.offset + f.lenM1 + 1) : s.acceptFrame i m f
    = ((s.modRx i fun y => y.accepted f (y.left - 1)).sat (F.mbxViol f.dstTenant)).answer 4 f f.pairSeq 7 := by
  have data : (f.typ == 2) = false := by rw [ht]; rfl
  unfold State.acceptFrame
  simp only [data, Bool.not_false, Bool.true_and, hw, decide_true, if_true, Bool.false_eq_true, if_false]
  rfl

/-- A DATA frame inside the window whose write succeeds counts one arrival (R198, R333). -/
theorem State.acceptFrame_writes {u : State} (ht : f.typ = 1) (hw : f.offset + f.lenM1 + 1 ≤ m.winLen)
    (h : (tileWrite (frameReq f) (m.winBase + f.offset) (slice f.payload 0 (f.lenM1 + 1))).on
      (s.modRx i fun y => y.accepted f (y.left - 1)) = (.ok (), u)) :
    s.acceptFrame i m f = (u.addCounter m.counter 1).countFrame i f false := by
  have data : (f.typ == 2) = false := by rw [ht]; rfl
  have inside : ¬m.winLen < f.offset + f.lenM1 + 1 := by omega
  unfold State.acceptFrame
  simp only [data, Bool.not_false, Bool.true_and, inside, decide_false, Bool.false_eq_true, if_false]
  unfold RxPair.accepted frameReq at h
  rw [h]
  rfl

/-- An entry with the epochs of a BATCH frame (R330). -/
def RxPair.batched (x : RxPair) (f : Frame) : RxPair :=
  { x with nodeSeq := batchSeq f, runEpoch := BitVec.ofNat 32 (fieldAt f.payload 20 4), repEpoch := BitVec.ofNat 8 (fieldAt f.payload 15 1) }

/-- A BATCH frame to a mailbox without a stream log opens its batch (R330, R333). -/
theorem State.acceptFrame_batch (ht : f.typ = 2) (hm : m.slogEn = false) : s.acceptFrame i m f
    = (s.modRx i fun y => (y.accepted f (fieldAt f.payload 24 1)).batched f).countFrame i f true := by
  have batch : (f.typ == 2) = true := by rw [ht]; rfl
  unfold State.acceptFrame
  simp only [batch, hm, Bool.not_true, Bool.false_and, Bool.false_eq_true, if_false, if_true]
  rw [show (fun y : RxPair => (y.accepted f (fieldAt f.payload 24 1)).batched f)
    = (fun y => y.batched f) ∘ (fun y => y.accepted f (fieldAt f.payload 24 1)) from rfl, ← State.modRx_modRx]
  rfl

theorem slice_prefix {b : List Byte} {n : Nat} (h : n ≤ b.length) : slice b 0 n = b.take n := by
  unfold slice
  simp [Nat.min_eq_left h]

/-- A state whose tile memory has taken the bytes `b` at `a` and no others, with the relay, the registers and the counters as they were. -/
structure Landed (s : State) (a : Nat) (b : List Byte) (t : State) : Prop where
  bytes : t.tileRd a b.length = b
  others : ∀ c, c < a ∨ a + b.length ≤ c → t.tileByte c = s.tileByte c
  relay : t.relay = s.relay
  regs : t.regs = s.regs
  counters : t.ctrNow = s.ctrNow ∧ t.counter = s.counter

theorem tileWrite_lands {q : Req} {a : Nat} {b : List Byte} (hok : s.tileOkRange q.t true a b.length = true)
    (hu : s.upsets.contains q.unit = false) (he : s.eccIn a b.length = []) : ∃ t, (tileWrite q a b).on s = (.ok (), t) ∧ Landed s a b t := by
  obtain ⟨no, old, gs, write⟩ := tileWrite_clean hok hu he
  obtain ⟨tile, lit⟩ := s.tileWr_lit a b
  have same : ({ s.tileWr a b with tileNo := no, tileOld := old, graphs := gs } : State).tileByte = (s.tileWr a b).tileByte := tileByte_of_tile rfl
  refine ⟨_, write, ?_, fun c hc => ?_, ?_, ?_, ?_⟩
  · rw [tileRd_map, same, ← tileRd_map, State.tileRd_tileWr]
  · rw [same, State.tileByte_tileWr_off hc]
  all_goals rw [lit]
  exact ⟨rfl, rfl⟩

/-- What the acceptance of a DATA frame inside the window changes (R198, R333), but for its acknowledgement: `u` holds the frame's bytes in
their place and one arrival more. -/
structure Arrived (s : State) (i : Nat) (m : Mailbox) (f : Frame) (u : State) : Prop where
  relay : u.relay = (s.modRx i fun y => y.accepted f (y.left - 1)).relay
  regs : u.regs = s.regs
  bytes : u.tileRd (m.winBase + f.offset) (f.lenM1 + 1) = f.payload.take (f.lenM1 + 1)
  others : ∀ a, a < m.winBase + f.offset ∨ m.winBase + f.offset + f.lenM1 + 1 ≤ a → u.tileByte a = s.tileByte a
  alone : s.ctrNow.find? (·.counter == m.counter) = none → u.counter m.counter = s.counter m.counter + 1
  joins : ∀ y : CtrNow, s.ctrNow.find? (·.counter == m.counter) = some y →
    u.counter m.counter = (y.push none 1).stands.getLastD 0 ∨ u.counter m.counter = s.counter m.counter + 1
  counters : ∀ c, c ≠ m.counter → u.counter c = s.counter c

/-- A DATA frame inside the window arrives. -/
theorem State.acceptFrame_arrives (hx : s.relay.rx[i]? = some x) (ht : f.typ = 1) (hw : f.offset + f.lenM1 + 1 ≤ m.winLen)
    (hl : f.lenM1 + 1 ≤ f.payload.length) (hok : s.tileOkRange f.dstTenant true (m.winBase + f.offset) (f.lenM1 + 1) = true)
    (he : s.eccIn (m.winBase + f.offset) (f.lenM1 + 1) = []) (hu : s.upsets.contains 0xDF = false) (h : f.srcChip ≠ s.self) :
    ∃ u, Arrived s i m f u ∧ Answers (u.modRx i (·.counted u.aon false)) (s.acceptFrame i m f) := by
  have length : (slice f.payload 0 (f.lenM1 + 1)).length = f.lenM1 + 1 := by rw [slice_prefix hl, List.length_take, Nat.min_eq_left hl]
  obtain ⟨v, write, bytes, others, relay, regs, now, counter⟩ := tileWrite_lands (q := frameReq f)
    (s := s.modRx i fun y => y.accepted f (y.left - 1)) (a := m.winBase + f.offset) (b := slice f.payload 0 (f.lenM1 + 1))
    (by rw [length]; exact hok) hu (by rw [length]; exact he)
  rw [length] at bytes others
  rw [slice_prefix hl] at bytes
  have tile : (v.addCounter m.counter 1).tileByte = v.tileByte := tileByte_of_tile (by simp only [State.addCounter_frame])
  have pairs : (v.addCounter m.counter 1).relay = v.relay := by simp only [State.addCounter_frame]
  refine ⟨v.addCounter m.counter 1, ⟨pairs.trans relay, ?_, ?_, fun a ha => ?_, fun alone => ?_, fun y hy => ?_, fun c hc => ?_⟩, ?_⟩
  · simp only [State.addCounter_frame]
    exact regs
  · rw [tileRd_map, tile, ← tileRd_map, bytes]
  · rw [tile]
    exact others a (by omega)
  · rw [State.addCounter_counter _ _ _ (by rw [now]; exact alone), counter]
    rfl
  · have joined := v.ctrOp_joins m.counter none 1 y (by rw [now]; exact hy)
    rwa [counter] at joined
  · exact (v.counter_ctrOp_ne m.counter c none 1 hc.symm).trans (congrFun counter c)
  · rw [State.acceptFrame_writes ht hw write]
    refine State.countFrame_answers (x := x.accepted f (x.left - 1)) ?_ false ?_
    · rw [pairs, relay]
      exact State.modRx_at hx _
    · have same : (v.addCounter m.counter 1).self = s.self := self_of_regs (by simp only [State.addCounter_frame]; exact regs)
      rw [same]
      exact h

theorem exec_data {l : List Frame} (he : s.engines = true) (hi : s.relay.inbox = f :: l) (ht : f.typ = 1) :
    exec .data s = .next ((s.tookFrame l).receiveFrame f) :=
  congrArg Host.Outcome.next (State.takeFrame_head _ he hi (by rw [ht]; rfl))

theorem exec_batch {l : List Frame} (he : s.engines = true) (hi : s.relay.inbox = f :: l) (ht : f.typ = 2) :
    exec .batch s = .next ((s.tookFrame l).receiveFrame f) :=
  congrArg Host.Outcome.next (State.takeFrame_head _ he hi (by rw [ht]; rfl))

theorem mbxViol_counts {t n : Nat} (ht : t < 8) (hn : s.fld (F.mbxViol t) = n) :
    (s.sat (F.mbxViol t)).fld (F.mbxViol t) = Nat.min (2 ^ 64 - 1) (n + 1) ∧ (s.sat (F.mbxViol t)).self = s.self := by
  have own : (F.mbxViol t).off ≠ F.chipId.off := by
    simp only [F.mbxViol, F.tenCnt, F.chipId, Reg.ten, Reg.fabId]
    omega
  rw [← hn]
  exact ⟨s.fld_sat_self (F.mbxViol t) 1 (Nat.le_refl 64), s.fld_setFld_off _ F.chipId _ own⟩

/-- The rest of an acceptance's row: the frame has left the queue, and the pair's entry is as the acceptance counts it. -/
theorem Arrived.answered {l : List Frame} {u t : State} (h : Arrived (s.tookFrame l) i m f u) (ha : Answers (u.modRx i (·.counted u.aon false)) t)
    (hx : s.relay.rx[i]? = some x) : t.relay.inbox = l ∧ (t.relay.rx[i]?).map (fun y => (y.expected, y.left, y.unacked))
      = some ((f.pairSeq + 1) % 2 ^ 24, x.left - 1, if x.left ≤ 1 ∨ 15 ≤ x.unacked then 0 else x.unacked + 1) := by
  have entry : u.relay.rx[i]? = some (x.accepted f (x.left - 1)) := by
    rw [h.relay]
    exact State.modRx_at (s := s.tookFrame l) hx _
  obtain ⟨expected, left, -, -, unacked⟩ := (x.accepted f (x.left - 1)).counted_entry u.aon false
  have last : x.left - 1 = 0 ↔ x.left ≤ 1 := by omega
  refine ⟨ha.queue.1.trans (congrArg Relay.inbox h.relay), ?_⟩
  rw [ha.entry entry, Option.map_some, expected, left, unacked]
  simp only [RxPair.accepted, true_and, last]

/-- Settles O58. -/
theorem receivedFrames : Obligations.ReceivedFrames := by
  unfold Obligations.ReceivedFrames
  intro s f l he hi hself
  refine ⟨fun m i x hen hmb hout hsrc hrx hx hs hlen hn => ?_, fun ht hno => ?_, fun m ht ht8 hen hmb hrej => ?_⟩
  · have checks := State.receiveFrame_checks (s := s.tookFrame l) ⟨hen, hmb, hout, hsrc⟩ (i := i) hrx
    refine ⟨fun ht hq hw hin hok hecc hup => ?inside, fun ht hq hw hwin ht8 => ?outside, fun ht hbad => ?refused,
      fun ht hq hw hfresh hlog => ?batch⟩
    case inside =>
      obtain ⟨u, arrived, answers⟩ := State.acceptFrame_arrives (s := s.tookFrame l) (m := m) hx ht hin (by omega) hok hecc hup hself
      rw [← State.checkFrame_accepts (s := s.tookFrame l) hx hs ht hq hw, ← checks] at answers
      obtain ⟨inbox, entry⟩ := arrived.answered answers hx
      obtain ⟨tile, counter⟩ := answers.reads
      refine ⟨_, exec_data he hi ht, inbox, ?_, fun a ha => ?_, fun alone => ?_, fun y hy => ?_, fun c hc => ?_,
        answers.regs.trans arrived.regs, entry⟩
      · rw [tileRd_map, tile]
        exact (tileRd_map (s := u) _ _).symm.trans arrived.bytes
      · exact (congrFun tile a).trans (arrived.others a ha)
      · exact (congrFun counter _).trans (arrived.alone alone)
      · rw [counter]
        exact arrived.joins y hy
      · exact (congrFun counter c).trans (arrived.counters c hc)
    case outside =>
      obtain ⟨count, own⟩ := mbxViol_counts (s := (s.tookFrame l).modRx i fun y => y.accepted f (y.left - 1))
        (n := s.fld (F.mbxViol f.dstTenant)) ht8 rfl
      have answers := State.answer_answers (s := ((s.tookFrame l).modRx i fun y => y.accepted f (y.left - 1)).sat (F.mbxViol f.dstTenant))
        (f := f) (own ▸ hself) 4 f.pairSeq 7
      rw [← State.acceptFrame_outside ht hwin, ← State.checkFrame_accepts (s := s.tookFrame l) hx hs ht hq hw, ← checks] at answers
      obtain ⟨inbox, rx⟩ := answers.queue
      obtain ⟨tile, counters⟩ := answers.memory
      simp only [State.sat_frame] at inbox rx tile counters
      refine ⟨_, exec_data he hi ht, inbox, tile, counters, (fld_of_regs answers.regs _).trans count, ?_⟩
      rw [rx, State.modRx_at (s := s.tookFrame l) hx]
      rfl
    case refused =>
      obtain ⟨t, answers⟩ := State.checkFrame_refuses (s := s.tookFrame l) (m := m) hx hs ht hbad hself
      rw [← checks] at answers
      obtain ⟨inbox, tile, counters, regs⟩ := answers.beside (s := s.tookFrame l)
      refine ⟨_, exec_data he hi ht, inbox, tile, counters, regs, ?_⟩
      rw [answers.entry (s := s.tookFrame l) hx, Option.map_some, ← hs]
    case batch =>
      have opened := State.modRx_at (s := s.tookFrame l) hx (fun y => (y.accepted f (fieldAt f.payload 24 1)).batched f)
      have answers := State.countFrame_answers opened true hself
      rw [← State.acceptFrame_batch ht hlog, ← State.checkFrame_acceptsBatch (s := s.tookFrame l) hx ht hq hw hfresh, ← checks] at answers
      have entry := answers.entry opened
      rw [State.modRx_modRx] at answers
      obtain ⟨inbox, tile, counters, regs⟩ := answers.beside
      obtain ⟨expected, left, nodeSeq, runEpoch, -⟩ := RxPair.counted_entry (x := (x.accepted f (fieldAt f.payload 24 1)).batched f) s.aon true
      refine ⟨_, exec_batch he hi ht, inbox, tile, counters, regs, ?_⟩
      rw [entry, Option.map_some]
      exact congrArg some (Prod.ext expected (Prod.ext left (Prod.ext nodeSeq runEpoch)))
  · have answers := State.answer_answers (s := s.tookFrame l) hself 4 f.pairSeq 2
    rw [← State.receiveFrame_nowhere (s := s.tookFrame l) hno] at answers
    obtain ⟨tile, counters⟩ := answers.memory
    exact ⟨_, exec_data he hi ht, answers.queue.1, tile, counters, answers.regs, answers.queue.2⟩
  · obtain ⟨count, own⟩ := mbxViol_counts (s := s.tookFrame l) (n := s.fld (F.mbxViol f.dstTenant)) ht8 rfl
    have answers := State.answer_answers (s := (s.tookFrame l).sat (F.mbxViol f.dstTenant)) (f := f) (own ▸ hself) 4 f.pairSeq 3
    rw [← State.receiveFrame_refused (s := s.tookFrame l) hen hmb hrej] at answers
    obtain ⟨inbox, rx⟩ := answers.queue
    obtain ⟨tile, counters⟩ := answers.memory
    simp only [State.sat_frame] at inbox rx tile counters
    exact ⟨_, exec_data he hi ht, inbox, tile, counters, rx, (fld_of_regs answers.regs _).trans count⟩

end Sys2Proof.Machine
end

section
/-! A refutation of `Obligations.ManagerSettings` (O49). Its clause on SET_SPLIT says that the mode in effect is the entry's two bits, and lets
the entry hold any operands. The mode is one bit of XH_SPLIT_STATUS (R225), and a mode of 2 or 3 fails the entry at
admission (R224, R59, `State.entryBadOperand`); that the entry has passed the checks of its operands is the premise that the clause lacks. -/

namespace Sys2Proof.Machine

/-- A SET_SPLIT whose byte 8 is 2, as admission refuses it. -/
def splitOfMode2 : Entry := { id := 0, sq := 0, bytes := leBytes 1 0x45 ++ List.replicate 7 0 ++ leBytes 1 2 ++ List.replicate 55 0 }

/-- X0 with `splitOfMode2` among the Mission Controller's entries. -/
def splitsIntoMode2 : State := { State.reset with phase := .x0 }.setCtx 8 { phase := .enabled, entries := [splitOfMode2] }

theorem splitOfMode2_mode : bits (splitOfMode2.field 8 1) 0 2 = 2 := by decide

theorem splitsIntoMode2_oldest : splitsIntoMode2.oldest 8 0x45 = some splitOfMode2 := by decide

/-- The checks of R59 refuse the entry at byte 8. -/
theorem splitOfMode2_refused : splitsIntoMode2.entryCheck 8 splitOfMode2 = some (0x13, 8) := by decide +kernel

/-- Refutes O49: whatever SET_SPLIT makes of `splitsIntoMode2`, the mode in effect is 0 or 1, not 2. -/
theorem not_managerSettings : ¬ Obligations.ManagerSettings := by
  intro h
  obtain ⟨-, -, setSplit, -⟩ := h splitsIntoMode2 splitOfMode2 (by decide) (by decide) (by decide) (by decide)
  obtain ⟨t, -, mode, -⟩ := setSplit splitsIntoMode2_oldest (by rw [splitOfMode2_mode]; omega)
  have oneBit : t.fld F.splitMode < 2 := t.fld_lt F.splitMode
  rw [mode, splitOfMode2_mode] at oneBit
  omega

end Sys2Proof.Machine
end

section
/-! A row of a VECTOR node on its stage (R228, R229): the sources that are no tensors, the buffers, and what one entry of the list begins and
ends with. -/

namespace Sys2Proof.Machine

variable {s t : State} {m : List Host.Cell} {x : RowCtx} {nd : Node} {v : VecSt} {e : List Byte}

/-- What the rows of a VECTOR node work with: the rows done, the list, the present row with its buffers. -/
def Node.rowWork (y : Node) : Nat × List (List Byte) × VecSt := (y.pos, y.ops, y.vec)

/-- A state in which tile memory is `m` and the present row of `nd` stands as `v`, and which differs from `s` beside that by graphs, by what
the order of accesses keeps (R291), and by free values drawn. -/
structure RowWork (s : State) (m : List Host.Cell) (x : RowCtx) (nd : Node) (v : VecSt) (t : State) : Prop where
  same : ∃ gs f no old, t = { s with tile := m, graphs := gs, free := f, tileNo := no, tileOld := old }
  node : (t.node x.g x.n).map Node.rowWork = some (nd.pos, nd.ops, v)

theorem RowWork.found (h : RowWork s m x nd v t) : ∃ y, t.node x.g x.n = some y ∧ y.rowWork = (nd.pos, nd.ops, v) :=
  Option.map_eq_some_iff.1 h.node

theorem RowWork.modNode (h : RowWork s m x nd v t) {f : Node → Node} {w : VecSt} (hf : ∀ y, (f y).idx = y.idx)
    (hw : ∀ y, y.rowWork = (nd.pos, nd.ops, v) → (f y).rowWork = (nd.pos, nd.ops, w)) : RowWork s m x nd w (t.modNode x.g x.n f) := by
  obtain ⟨y, hy, work⟩ := h.found
  obtain ⟨⟨gs, k, no, old, rfl⟩, -⟩ := h
  refine ⟨⟨_, _, _, _, rfl⟩, ?_⟩
  rw [State.node_modNode _ _ _ f hf, hy]
  exact congrArg some (hw y work)

theorem RowWork.drawn (h : RowWork s m x nd v t) (k : Nat) : RowWork s m x nd v { t with free := k } := by
  obtain ⟨⟨gs, f, no, old, rfl⟩, hn⟩ := h
  exact ⟨⟨_, _, _, _, rfl⟩, hn⟩

/-- What is done whole is done when no write of the node waits (R180, R266). -/
theorem RowWork.atomically {α : Type} {w : Who} {a : M α} {r : α} {t' : State} {m' : List Host.Cell} {v' : VecSt} (h : RowWork s m x nd v t)
    (hw : s.held w = false) (ha : a.on t = (.ok r, t')) (h' : RowWork s m' x nd v' t') : (atomically w a).on t = (.ok r, t') := by
  obtain ⟨⟨gs, f, no, old, rfl⟩, -⟩ := h
  obtain ⟨⟨gs', f', no', old', rfl⟩, -⟩ := h'
  exact atomically_ok hw ha rfl

-- buffers

def VecSt.setBuf (v : VecSt) (k : Nat) (l : List W32) : VecSt := { v with bufs := v.bufs.set k l }

theorem VecSt.getD_setBuf {k : Nat} (hk : k < v.bufs.length) (l : List W32) : (v.setBuf k l).bufs.getD k [] = l := by
  simp [VecSt.setBuf, hk]

theorem VecSt.getD_setBuf_ne {j k : Nat} (h : k ≠ j) (l : List W32) : (v.setBuf k l).bufs.getD j [] = v.bufs.getD j [] := by
  simp [VecSt.setBuf, h]

theorem bufRead_written (h : RowWork s m x nd v t) {k : Nat} (hb : v.bufs.getD k [] ≠ []) :
    (bufRead x k).on t = (.ok ((v.bufs.getD k []).map (·.toNat)), t) := by
  obtain ⟨y, hy, work⟩ := h.found
  obtain ⟨-, -, vec⟩ : y.pos = nd.pos ∧ y.ops = nd.ops ∧ y.vec = v := by simpa [Node.rowWork] using work
  have full : (v.bufs.getD k []).isEmpty = false := by simpa using hb
  unfold bufRead
  rw [on_bind_ok (on_get t)]
  simp only [hy, vec, full, Bool.false_eq_true, if_false]
  rfl

theorem bufWrite_sets (h : RowWork s m x nd v t) (k : Nat) (l : List Nat) :
    ∃ t', (bufWrite x k l).on t = (.ok (), t') ∧ RowWork s m x nd (v.setBuf k (l.map (BitVec.ofNat 32))) t' := by
  refine ⟨_, rfl, h.modNode (fun _ => rfl) fun y work => ?_⟩
  obtain ⟨pos, ops, vec⟩ : y.pos = nd.pos ∧ y.ops = nd.ops ∧ y.vec = v := by simpa [Node.rowWork] using work
  simp [Node.rowWork, VecSt.setBuf, pos, ops, vec]

/-- A source that is no tensor and has a value (R229). -/
def VecSt.plain (v : VecSt) (c : Nat) : Prop := (8 ≤ c ∧ c ≤ 11 ∧ v.bufs.getD (c - 8) [] ≠ []) ∨ c = 12 ∨ c = 15

theorem srcRead_plain (h : RowWork s m x nd v t) {c : Nat} (hc : v.plain c) :
    (srcRead x e c).on t = (.ok (v.operand x.len e c), t) := by
  unfold srcRead VecSt.operand
  rcases hc with ⟨low, high, full⟩ | rfl | rfl
  · rw [if_neg (by omega), if_neg (by omega), if_pos low, if_neg (by omega), if_neg (by omega)]
    exact bufRead_written h full
  · rfl
  · rfl

/-- A buffer of `len` positions with these written, behind `old` where they are not the whole row. -/
def rowFilled (len : Nat) (old : List W32) (ps : List (Nat × Nat)) : List Nat :=
  ps.foldl (fun b p => b.set p.1 p.2) (if ps.length = len then List.replicate len 0 else old.map (·.toNat))

/-- A row, or positions of it, into a buffer (R231). -/
theorem dstRow_fills (h : RowWork s m x nd v t) {c : Nat} (hc : 8 ≤ c) (ty : Nat) {ps : List (Nat × Nat)}
    (hb : ps.length = x.len ∨ v.bufs.getD (c - 8) [] ≠ []) : ∃ t', (dstRow x e c ty ps).on t = (.ok (), t')
      ∧ RowWork s m x nd (v.setBuf (c - 8) ((rowFilled x.len (v.bufs.getD (c - 8) []) ps).map (BitVec.ofNat 32))) t' := by
  unfold dstRow rowFilled
  rw [if_pos hc]
  by_cases whole : ps.length = x.len
  · obtain ⟨t', write, work⟩ := bufWrite_sets h (c - 8) (ps.foldl (fun b p => b.set p.1 p.2) (List.replicate x.len 0))
    simp only [whole, if_true, beq_self_eq_true]
    exact ⟨t', (on_bind_ok (on_pure _ t)).trans write, work⟩
  · obtain ⟨t', write, work⟩ := bufWrite_sets h (c - 8) (ps.foldl (fun b p => b.set p.1 p.2) ((v.bufs.getD (c - 8) []).map (·.toNat)))
    simp only [whole, if_false, beq_iff_eq]
    exact ⟨t', (on_bind_ok (bufRead_written h (hb.resolve_left whole))).trans write, work⟩

theorem range_pairs (n : Nat) (f : Nat → Nat) : (List.range n).map (fun i => (i, f i)) = (List.range n).zip ((List.range n).map f) := by
  have pairs := List.zip_map' (f := id) (g := f) (l := List.range n)
  rw [List.map_id] at pairs
  exact pairs.symm

/-- Values set at their positions, from the first on. -/
theorem foldl_set_zip (l b : List Nat) (h : l.length ≤ b.length) :
    ((List.range l.length).zip l).foldl (fun b p => b.set p.1 p.2) b = l ++ b.drop l.length := by
  induction l using List.reverseRecOn generalizing b with
  | nil => rfl
  | append_singleton l a ih =>
    rw [List.length_append, List.length_singleton] at h ⊢
    rw [List.range_succ, List.zip_append (List.length_range), List.foldl_append, ih b (by omega)]
    rw [List.drop_eq_getElem_cons (by omega : l.length < b.length)]
    refine (List.set_append_right _ _ (Nat.le_refl _)).trans ?_
    rw [Nat.sub_self, List.set_cons_zero, List.append_assoc]
    rfl

theorem rowFilled_row {len : Nat} {l : List Nat} (h : l.length = len) (old : List W32) : rowFilled len old ((List.range len).zip l) = l := by
  subst h
  simp [rowFilled, foldl_set_zip]

theorem rowFilled_first {len : Nat} {l : List Nat} {old : List W32} (h : l.length ≤ len) (ho : old.length = len) :
    (rowFilled len old ((List.range l.length).zip l)).take l.length = l := by
  unfold rowFilled
  rw [foldl_set_zip]
  · simp
  · split <;> simp [ho, h]

theorem dstRow_row (h : RowWork s m x nd v t) {c : Nat} (hc : 8 ≤ c) (ty : Nat) {l : List Nat} (hl : l.length = x.len) :
    ∃ t', (dstRow x e c ty ((List.range x.len).zip l)).on t = (.ok (), t') ∧ RowWork s m x nd (v.setBuf (c - 8) (l.map (BitVec.ofNat 32))) t' := by
  obtain ⟨t', write, work⟩ := dstRow_fills (e := e) h hc ty (ps := (List.range x.len).zip l) (.inl (by simp [hl]))
  rw [rowFilled_row hl] at work
  exact ⟨t', write, work⟩

-- elementwise operations

/-- What an elementwise operation makes of the row (R230). -/
def VecSt.elemRow (v : VecSt) (len : Nat) (e : List Byte) : List Nat :=
  (List.range len).map (fun j => elemOp (VOp.op e) (VOp.dom e) (VOp.round e)
    ((v.operand len e (VOp.s0 e)).getD j 0) ((v.operand len e (VOp.s1 e)).getD j 0) ((v.operand len e (VOp.s2 e)).getD j 0))

/-- An elementwise operation on row buffers (R230). -/
theorem elemStep_fills (h : RowWork s m x nd v t) (hd : 8 ≤ VOp.d e) (hw : s.held x.q.who = false) (h0 : v.plain (VOp.s0 e))
    (h1 : v.plain (VOp.s1 e)) (h2 : v.plain (VOp.s2 e)) : ∃ t', (elemStep x e).on t = (.ok (), t')
      ∧ RowWork s m x nd (v.setBuf (VOp.d e - 8) ((v.elemRow x.len e).map (BitVec.ofNat 32))) t' := by
  obtain ⟨t', write, work⟩ := dstRow_row (e := e) h hd (if VOp.op e = 9 then domType (1 - VOp.dom e) else domType (VOp.dom e))
    (l := v.elemRow x.len e) (by simp [VecSt.elemRow])
  unfold elemStep
  rw [on_bind_ok (srcRead_plain h h0), on_bind_ok (srcRead_plain h h1), on_bind_ok (srcRead_plain h h2)]
  dsimp only
  rw [range_pairs]
  exact ⟨t', h.atomically hw write work, work⟩

end Sys2Proof.Machine
end

section
/-! Row operations of a VECTOR node on row buffers (R231, R232). -/

namespace Sys2Proof.Machine

variable {s t : State} {m : List Host.Cell} {x : RowCtx} {nd : Node} {v : VecSt} {e : List Byte}

/-- The row operations with results of a row shape (R231). -/
def shapedOp (op : Nat) : Bool := op == 0x14 || op == 0x15 || op == 0x16 || op == 0x19 || op == 0x1A

/-- A result of a row shape. -/
def RowRes.shaped : RowRes → Bool
  | .shape _ => true
  | .open_ b => !b
  | _ => false

/-- The results of TOPK (R230). -/
def RowRes.paired : RowRes → Bool
  | .top _ _ => true
  | _ => false

/-- Which form a result has, the operation says. -/
theorem rowOp_form (op dom k eps : Nat) (a g b : List Nat) (h : 0x11 ≤ op) (h' : op ≤ 0x1A) :
    ((rowOp op dom k eps a g b).shaped, (rowOp op dom k eps a g b).paired) = (shapedOp op, op == 0x18) := by
  have ops : op = 0x11 ∨ op = 0x12 ∨ op = 0x13 ∨ op = 0x14 ∨ op = 0x15 ∨ op = 0x16 ∨ op = 0x17 ∨ op = 0x18 ∨ op = 0x19 ∨ op = 0x1A := by omega
  rcases ops with rfl | rfl | rfl | rfl | rfl | rfl | rfl | rfl | rfl | rfl
  · rfl
  · cases max : rmax dom a <;> simp only [rowOp, max] <;> rfl
  · cases min : rmin dom a <;> simp only [rowOp, min] <;> rfl
  · rfl
  · rfl
  · by_cases whole : a.length % Nat.max 1 k ≠ 0
    · simp only [rowOp, if_pos whole]
      rfl
    · simp only [rowOp, if_neg whole]
      rfl
  · cases order : rankOrder dom a <;> simp only [rowOp, order] <;> rfl
  · rfl
  · rfl
  · cases a <;> rfl

/-- What a row operation makes of whole rows (R231, R232). -/
def VecSt.rowRes (v : VecSt) (len : Nat) (e : List Byte) : RowRes :=
  rowOp (VOp.op e) (VOp.dom e) (VOp.k e) (VOp.imm e) (v.operand len e (VOp.s0 e))
    (if opSources (VOp.op e) = 3 then v.operand len e (VOp.s1 e) else []) (if opSources (VOp.op e) = 3 then v.operand len e (VOp.s2 e) else [])

/-- A result with free values where R231 and R232 state none (log entry 47). -/
inductive RowRes.Closed : RowRes → RowRes → Prop
  | scalar (u : Nat) (i : Bool) : Closed (.scalar u i) (.scalar u i)
  | shape (l : List Nat) : Closed (.shape l) (.shape l)
  | top (vs is : List Nat) : Closed (.top vs is) (.top vs is)
  | drawn (u : Nat) (i : Bool) : Closed (.open_ true) (.scalar u i)
  | drawnShape (l : List Nat) : Closed (.open_ false) (.shape l)

theorem RowRes.Closed.stated {r : RowRes} {b : Bool} : ¬ r.Closed (.open_ b) := nofun

theorem RowRes.Closed.same {r r' : RowRes} (h : r.Closed r') : r'.shaped = r.shaped ∧ (r'.paired = r.paired) := by
  cases h <;> exact ⟨rfl, rfl⟩

/-- The domain type of a row operation's result. -/
def rowTy (e : List Byte) : Nat := if VOp.op e = 0x17 then 6 else domType (VOp.dom e)

/-- The row that values of a row shape make. -/
def shapeRow (len : Nat) (l : List Nat) : List Nat := ((List.range l.length).zip l).foldl (fun b p => b.set p.1 p.2) (List.replicate len 0)

/-- A result of the whole row goes into row buffers (R231). -/
def rowPut (x : RowCtx) (e : List Byte) : RowRes → M Unit
  | .scalar u _ => dstRow x e (VOp.d e) (rowTy e) ((List.range x.len).zip (List.replicate x.len u))
  | .shape l => dstRow x e (VOp.d e) (rowTy e) ((List.range x.len).zip (shapeRow x.len l))
  | .top vs is => do
    dstRow x e (VOp.d e) (rowTy e) ((List.range vs.length).zip vs)
    dstRow x e (VOp.s2 e) 6 ((List.range is.length).zip is)
  | .open_ _ => return ()

theorem on_mapM_one {α β : Type} {f : α → M β} {a : α} {b : β} {t' : State} (h : (f a).on t = (.ok b, t')) :
    ([a].mapM f).on t = (.ok [b], t') := by
  rw [List.mapM_cons, on_bind_ok h]
  rfl

theorem on_forM_one {α : Type} (f : α → M PUnit) (a : α) : ([a].forM f).on t = (f a).on t := by
  show (f a >>= fun _ => pure ()).on t = _
  rw [on_bind]
  cases (f a).on t with
  | mk r u => cases r <;> rfl

theorem atomically_congr {w : Who} {a b : M Unit} (h : a.on t = b.on t) : (atomically w a).on t = (atomically w b).on t := by
  unfold atomically
  rw [on_bind_ok (on_get t), on_bind_ok (on_get t), h]

theorem drawPats_on (n : Nat) (t : State) : ∃ l k, ((List.range n).mapM (fun _ => drawPat)).on t = (.ok l, { t with free := k }) := by
  generalize List.range n = is
  induction is generalizing t with
  | nil => exact ⟨[], t.free, rfl⟩
  | cons i is ih =>
    obtain ⟨l, k, draw⟩ := ih { t with free := t.free + 1 }
    refine ⟨Config.freeNat t.free % 2 ^ 32 :: l, k, ?_⟩
    rw [List.mapM_cons, on_bind_ok (rfl : drawPat.on t = (.ok _, { t with free := t.free + 1 })), on_bind_ok draw]
    rfl

/-- What goes on with a result, free values drawn where none is stated. -/
def rowClosed {α : Type} (e : List Byte) (p : Nat) (k : RowRes → M α) : RowRes → M α
  | .open_ true => do k (.scalar (← drawPat) (VOp.dom e == 1 || VOp.op e == 0x17))
  | .open_ false => do k (.shape (← (List.range p).mapM (fun _ => drawPat)))
  | r => k r

theorem rowClosed_goesOn (h : RowWork s m x nd v t) (p : Nat) (r : RowRes) : ∃ r' t', RowRes.Closed r r' ∧ RowWork s m x nd v t'
    ∧ ∀ {α : Type} (k : RowRes → M α), (rowClosed e p k r).on t = (k r').on t' := by
  cases r with
  | scalar u i => exact ⟨_, t, .scalar u i, h, fun k => rfl⟩
  | shape l => exact ⟨_, t, .shape l, h, fun k => rfl⟩
  | top vs is => exact ⟨_, t, .top vs is, h, fun k => rfl⟩
  | open_ scalar =>
    cases scalar with
    | true =>
      have draw : drawPat.on t = (.ok (Config.freeNat t.free % 2 ^ 32), { t with free := t.free + 1 }) := rfl
      exact ⟨_, _, .drawn _ _, h.drawn _, fun k => on_bind_ok draw⟩
    | false =>
      obtain ⟨l, n, draw⟩ := drawPats_on p t
      exact ⟨_, _, .drawnShape l, h.drawn n, fun k => on_bind_ok draw⟩

/-- A source of the row: a buffer written whole, the immediate, or none. -/
def VecSt.fits (v : VecSt) (len c : Nat) : Prop := (8 ≤ c ∧ c ≤ 11 ∧ (v.bufs.getD (c - 8) []).length = len) ∨ c = 12 ∨ c = 15

theorem VecSt.fits.plain {len c : Nat} (h : v.fits len c) (hlen : 0 < len) : v.plain c := by
  refine h.imp_left fun ⟨low, high, full⟩ => ⟨low, high, fun none => ?_⟩
  rw [none] at full
  exact absurd full (Nat.ne_of_lt hlen)

/-- Such a source has no position behind the row. -/
theorem VecSt.fits.whole {len c : Nat} (h : v.fits len c) : ((v.operand len e c).drop 0).take len = v.operand len e c := by
  refine List.take_of_length_le ?_
  unfold VecSt.operand
  rcases h with ⟨low, high, full⟩ | rfl | rfl
  · rw [if_neg (by omega), if_neg (by omega)]
    exact (List.length_map _).trans_le full.le
  · simp
  · simp

theorem whole_third {len c : Nat} (h : v.fits len c) {p : Prop} [Decidable p] :
    ((if p then v.operand len e c else []).drop 0).take len = if p then v.operand len e c else [] := by
  split
  · exact h.whole
  · simp

theorem srcRead_third (h : RowWork s m x nd v t) {c : Nat} (hc : v.plain c) {p : Prop} [Decidable p] {jp : List Nat → M Unit} :
    (if p then srcRead x e c >>= jp else pure [] >>= jp).on t = (jp (if p then v.operand x.len e c else [])).on t := by
  split
  · exact on_bind_ok (srcRead_plain h hc)
  · rfl

theorem segments_whole (h : VOp.seg e = false) : (segments x e).on t = (.ok [(0, 0, x.len)], t) := by
  unfold segments
  rw [h]
  rfl

theorem range_const (n u : Nat) : (List.range n).map (fun i => (0 + i, u)) = (List.range n).zip (List.replicate n u) := by
  have pairs := range_pairs n (fun _ => u)
  simpa using pairs

theorem zip_zero_add (l : List Nat) : ((List.range l.length).zip l).map (fun p => (0 + p.1, p.2)) = (List.range l.length).zip l := by
  simp

theorem rowStep_puts (h : RowWork s m x nd v t) (hlen : 0 < x.len) (h0 : v.fits x.len (VOp.s0 e)) (h1 : v.fits x.len (VOp.s1 e))
    (h2 : v.fits x.len (VOp.s2 e)) (hseg : VOp.seg e = false) (hd : 8 ≤ VOp.d e) (hop : 0x11 ≤ VOp.op e) (hop' : VOp.op e ≤ 0x1A)
    (htop : VOp.op e = 0x18 → 8 ≤ VOp.s2 e) :
    ∃ r t', RowRes.Closed (v.rowRes x.len e) r ∧ RowWork s m x nd v t' ∧ (rowStep x e).on t = (atomically x.q.who (rowPut x e r)).on t' := by
  unfold rowStep
  extract_lets op cut ty shaped
  rw [on_bind_ok (srcRead_plain h (h0.plain hlen))]
  extract_lets third
  rw [srcRead_third h (h1.plain hlen)]
  simp only [third]
  rw [srcRead_third h (h2.plain hlen), on_bind_ok (segments_whole hseg)]
  have whole : rowOp op (VOp.dom e) (VOp.k e) (VOp.imm e) (cut (v.operand x.len e (VOp.s0 e)) 0 x.len)
      (cut (if opSources op = 3 then v.operand x.len e (VOp.s1 e) else []) 0 x.len)
      (cut (if opSources op = 3 then v.operand x.len e (VOp.s2 e) else []) 0 x.len) = v.rowRes x.len e := by
    simp only [cut, h0.whole, whole_third h1, whole_third h2]
    rfl
  obtain ⟨r, t', closed, work, goesOn⟩ := rowClosed_goesOn (e := e) h x.len (v.rowRes x.len e)
  refine ⟨r, t', closed, work, ?_⟩
  have one := goesOn (fun r => (pure (0, 0, x.len, r) : M (Nat × Nat × Nat × RowRes)))
  rw [← whole] at one
  rw [on_bind_ok (on_mapM_one (b := (0, 0, x.len, r)) (t' := t') (by exact one))]
  obtain ⟨shape, pair⟩ : (v.rowRes x.len e).shaped = shaped ∧ (v.rowRes x.len e).paired = (VOp.op e == 0x18) :=
    Prod.mk.inj (rowOp_form _ _ _ _ _ _ _ hop hop')
  rw [← closed.same.1] at shape
  rw [← closed.same.2] at pair
  rw [← shape]
  cases r with
  | scalar u i =>
    refine atomically_congr ?_
    rw [on_forM_one]
    dsimp only
    rw [if_pos hd, range_const]
    rfl
  | shape l =>
    simp only [RowRes.shaped, if_true, List.foldl_cons, List.foldl_nil, Nat.zero_add]
    rfl
  | top vs is =>
    have second : 8 ≤ VOp.s2 e := htop (beq_iff_eq.1 pair.symm)
    refine atomically_congr ?_
    rw [on_forM_one]
    dsimp only
    rw [if_pos hd, if_pos second, zip_zero_add, zip_zero_add]
    rfl
  | open_ b => exact absurd closed RowRes.Closed.stated

/-- The row behind an operation with this result (R231). -/
def VecSt.rowDone (v : VecSt) (len : Nat) (e : List Byte) : RowRes → VecSt
  | .scalar u _ => v.setBuf (VOp.d e - 8) ((List.replicate len u).map (BitVec.ofNat 32))
  | .shape l => v.setBuf (VOp.d e - 8) ((shapeRow len l).map (BitVec.ofNat 32))
  | .top vs is =>
    (v.setBuf (VOp.d e - 8) ((rowFilled len (v.bufs.getD (VOp.d e - 8) []) ((List.range vs.length).zip vs)).map (BitVec.ofNat 32))).setBuf
      (VOp.s2 e - 8) ((rowFilled len (v.bufs.getD (VOp.s2 e - 8) []) ((List.range is.length).zip is)).map (BitVec.ofNat 32))
  | .open_ _ => v

theorem shapeRow_length (len : Nat) (l : List Nat) : (shapeRow len l).length = len := by
  have keeps (ps : List (Nat × Nat)) (b : List Nat) : (ps.foldl (fun b p => b.set p.1 p.2) b).length = b.length := by
    induction ps generalizing b with
    | nil => rfl
    | cons p ps ih => rw [List.foldl_cons, ih, List.length_set]
  rw [shapeRow, keeps, List.length_replicate]

theorem rowPut_fills (h : RowWork s m x nd v t) (hlen : 0 < x.len) (hd : 8 ≤ VOp.d e) (hb : (v.bufs.getD (VOp.d e - 8) []).length = x.len)
    {r : RowRes} (htop : r.paired = true → 8 ≤ VOp.s2 e ∧ VOp.s2 e ≠ VOp.d e ∧ (v.bufs.getD (VOp.s2 e - 8) []).length = x.len) :
    ∃ t', (rowPut x e r).on t = (.ok (), t') ∧ RowWork s m x nd (v.rowDone x.len e r) t' := by
  have some_ {l : List W32} (hl : l.length = x.len) : l ≠ [] := fun none => by
    rw [none] at hl
    exact absurd hl (Nat.ne_of_lt hlen)
  cases r with
  | scalar u i => exact dstRow_row h hd _ (List.length_replicate ..)
  | shape l => exact dstRow_row h hd _ (shapeRow_length _ _)
  | top vs is =>
    obtain ⟨hs, ne, hs2⟩ := htop rfl
    obtain ⟨t1, first, work1⟩ := dstRow_fills (e := e) h hd (rowTy e) (ps := (List.range vs.length).zip vs) (.inr (some_ hb))
    have second := dstRow_fills (e := e) work1 hs 6 (ps := (List.range is.length).zip is)
    rw [VecSt.getD_setBuf_ne (by omega)] at second
    obtain ⟨t2, put, work2⟩ := second (.inr (some_ hs2))
    exact ⟨t2, (on_bind_ok first).trans put, work2⟩
  | open_ b => exact ⟨t, rfl, h⟩

/-- A row operation on row buffers (R231, R232). -/
theorem rowStep_fills (h : RowWork s m x nd v t) (hw : s.held x.q.who = false) (hlen : 0 < x.len) (h0 : v.fits x.len (VOp.s0 e))
    (h1 : v.fits x.len (VOp.s1 e)) (h2 : v.fits x.len (VOp.s2 e)) (hseg : VOp.seg e = false) (hop : 0x11 ≤ VOp.op e) (hop' : VOp.op e ≤ 0x1A)
    (hd : 8 ≤ VOp.d e) (hb : (v.bufs.getD (VOp.d e - 8) []).length = x.len)
    (htop : VOp.op e = 0x18 → 8 ≤ VOp.s2 e ∧ VOp.s2 e ≤ 11 ∧ VOp.s2 e ≠ VOp.d e) :
    ∃ r t', (v.rowRes x.len e).Closed r ∧ (rowStep x e).on t = (.ok (), t') ∧ RowWork s m x nd (v.rowDone x.len e r) t' := by
  obtain ⟨r, u, closed, work, puts⟩ := rowStep_puts h hlen h0 h1 h2 hseg hd hop hop' fun top => (htop top).1
  have pair : (v.rowRes x.len e).paired = (VOp.op e == 0x18) := (Prod.mk.inj (rowOp_form _ _ _ _ _ _ _ hop hop')).2
  obtain ⟨t', put, done⟩ := rowPut_fills (r := r) work hlen hd hb fun top => by
    rw [closed.same.2, pair, beq_iff_eq] at top
    obtain ⟨low, high, ne⟩ := htop top
    exact ⟨low, ne, (h2.resolve_right (by omega)).2.2⟩
  exact ⟨r, t', closed, puts.trans (work.atomically hw put done), done⟩

end Sys2Proof.Machine
end

section
/-! One entry of the list of a VECTOR node, from its command to the state that it leaves (R228, R230). -/

namespace Sys2Proof.Machine

variable {s t : State} {m : List Host.Cell} {i : Nat} {gr : Graph} {nd : Node} {v : VecSt} {ts : List (Option Desc)} {t0 : Desc} {r : Nat}
  {e : List Byte}

/-- Stage `i` stands at the entry `e`, which is not its list's last, on row `r` of a node that no write holds. -/
structure VecReady (s : State) (i : Nat) (gr : Graph) (nd : Node) (ts : List (Option Desc)) (t0 : Desc) (r : Nat) (e : List Byte) : Prop where
  unit : s.onUnit (0xC0 + i) 3 = some (gr, nd)
  graph : s.graph gr.id = some gr
  node : s.node gr.id nd.idx = some nd
  tensors : s.vecNode gr nd = some (ts, t0)
  row : nd.vec.row = some r
  stage : nd.stageOf r = 0xC0 + i
  more : nd.pos < nd.slices.headD 0
  going : nd.endSlice = false
  entry : nd.ops[nd.vec.op]? = some e
  next : nd.vec.op + 1 < nd.ops.length
  bufs : nd.vec.bufs.length = 4
  free : s.held (.node gr.id nd.idx) = false

theorem State.pickRow_present {n : Node} (h : n.vec.row = some r) (rows : Nat) : s.pickRow n rows = (r, s) := by
  rw [State.pickRow, h]

theorem VecReady.entry_getD (h : VecReady s i gr nd ts t0 r e) : nd.ops.getD nd.vec.op [] = e := by
  rw [List.getD_eq_getElem?_getD, h.entry]
  rfl

/-- The command of the entry's operation runs it. -/
theorem VecReady.vectorOp (h : VecReady s i gr nd ts t0 r e) : s.vectorOp i (VOp.op e) = s.runNode gr.id nd.idx gr.ctx (vecStep gr.id nd.idx) := by
  have more : (decide (nd.slices.headD 0 ≤ nd.pos) || nd.endSlice && nd.vec.op == 0) = false := by
    have := h.more
    simp only [h.going, Bool.false_and, Bool.or_false, decide_eq_false_iff_not]
    omega
  unfold State.vectorOp
  simp only [h.unit, h.tensors, State.pickRow_present h.row, more, h.entry_getD, h.stage]
  simp

/-- What the entry works with. -/
def rowCtx (gr : Graph) (nd : Node) (ts : List (Option Desc)) (t0 : Desc) (r : Nat) : RowCtx :=
  { g := gr.id, n := nd.idx, ts := ts, r := r, len := t0.size t0.inner, c0 := (rowsOf t0).getD r [], inner := t0.inner
    q := { t := gr.ctx, unit := nd.stageOf r, who := .node gr.id nd.idx, no := 0 } }

/-- The state in which the entry begins. -/
def State.rowBegun (s : State) (g n r : Nat) : State := (s.modNode g n (fun y => { y with vec := { y.vec with row := some r } })).replayReads g n

theorem VecReady.begins (h : VecReady s i gr nd ts t0 r e) :
    RowWork s s.tile (rowCtx gr nd ts t0 r) nd nd.vec (s.rowBegun gr.id nd.idx r) := by
  have start : RowWork s s.tile (rowCtx gr nd ts t0 r) nd nd.vec s := ⟨⟨s.graphs, s.free, s.tileNo, s.tileOld, rfl⟩, by
    rw [show s.node (rowCtx gr nd ts t0 r).g (rowCtx gr nd ts t0 r).n = some nd from h.node]
    rfl⟩
  have row : RowWork s s.tile (rowCtx gr nd ts t0 r) nd nd.vec (s.modNode gr.id nd.idx (fun y => { y with vec := { y.vec with row := some r } })) := by
    refine start.modNode (f := fun y => { y with vec := { y.vec with row := some r } }) (fun _ => rfl) fun y work => ?_
    obtain ⟨pos, ops, vec⟩ : y.pos = nd.pos ∧ y.ops = nd.ops ∧ y.vec = nd.vec := by simpa [Node.rowWork] using work
    simp only [Node.rowWork, pos, ops, vec, ← h.row]
  exact row.modNode (f := fun y => { y with again := y.reads }) (fun _ => rfl) fun _ work => work

/-- The node's step is that of its entry, behind which it stands at the next one. -/
theorem VecReady.step (h : VecReady s i gr nd ts t0 r e)
    (run : (vecEntry (rowCtx gr nd ts t0 r) e).on (s.rowBegun gr.id nd.idx r) = (.ok (), t)) (work : RowWork s m (rowCtx gr nd ts t0 r) nd v t)
    (hv : v.op = nd.vec.op) : ∃ t', (vecStep gr.id nd.idx).on s = (.ok (), t')
      ∧ RowWork s m (rowCtx gr nd ts t0 r) nd { v with op := nd.vec.op + 1 } t' := by
  refine ⟨_, ?_, (work.modNode (f := fun y => { y with reads := [], again := [] }) (w := v) (fun _ => rfl) fun _ work => work).modNode
    (f := fun y => if y.vec.op + 1 < y.ops.length
      then { y with atomic := y.atomic || decide (VOp.op e ≥ 0x1B), vec := { y.vec with op := y.vec.op + 1 } }
      else { y with atomic := y.atomic || decide (VOp.op e ≥ 0x1B), pos := y.pos + 1, total := y.total + 1, vec := { row := none, done := r :: y.vec.done } })
    (fun y => by split <;> rfl) fun y work => ?_⟩
  · unfold vecStep
    rw [on_bind_ok (on_get s), h.graph, h.node]
    simp only [h.tensors, State.pickRow_present h.row, h.entry_getD]
    rw [on_bind_ok (on_set _ _)]
    exact on_bind_ok run
  · obtain ⟨pos, ops, vec⟩ : y.pos = nd.pos ∧ y.ops = nd.ops ∧ y.vec = v := by simpa [Node.rowWork] using work
    have next := h.next
    simp only [Node.rowWork, pos, ops, vec, hv, if_pos next]

-- the commands

/-- The commands of the elementwise operations, of the row operations, and of the bank atomics, with their opcodes (R230). -/
def elemInstrs : List ((Fin 16 → Instr) × Nat) :=
  [(Instr.add, 0x01), (Instr.sub, 0x02), (Instr.mul, 0x03), (Instr.fma, 0x04), (Instr.min, 0x05), (Instr.max, 0x06), (Instr.abs, 0x07),
    (Instr.rshift, 0x08), (Instr.cvt, 0x09), (Instr.cmplt, 0x0A), (Instr.cmpeq, 0x0B), (Instr.select, 0x0C), (Instr.exp, 0x0D),
    (Instr.log, 0x0E), (Instr.rsqrt, 0x0F), (Instr.recip, 0x10)]
def rowInstrs : List ((Fin 16 → Instr) × Nat) :=
  [(Instr.rsum, 0x11), (Instr.rmax, 0x12), (Instr.rmin, 0x13), (Instr.softmax, 0x14), (Instr.layernorm, 0x15), (Instr.groupnorm, 0x16),
    (Instr.argmax, 0x17), (Instr.topk, 0x18), (Instr.scan, 0x19), (Instr.scanmax, 0x1A)]
def atomInstrs : List ((Fin 16 → Instr) × Nat) := [(Instr.atomadd, 0x1B), (Instr.xchg, 0x1C)]

theorem vectorInstrs_exec {x : (Fin 16 → Instr) × Nat} (hx : x ∈ elemInstrs ++ rowInstrs ++ atomInstrs) (i : Fin 16) (s : State) :
    exec (x.1 i) s = .next (s.vectorOp i x.2) := by
  fin_cases hx <;> rfl

theorem elemInstrs_ops : ∀ x ∈ elemInstrs, x.2 < 0x11 := by decide
theorem rowInstrs_ops : ∀ x ∈ rowInstrs, 0x11 ≤ x.2 ∧ x.2 ≤ 0x1A := by decide
theorem atomInstrs_ops : ∀ x ∈ atomInstrs, x.2 = 0x1B ∨ x.2 = 0x1C := by decide

/-- A command of the entry's operation runs the node's step. -/
theorem VecReady.runs {i : Fin 16} {x : (Fin 16 → Instr) × Nat} (h : VecReady s i gr nd ts t0 r e)
    (hx : x ∈ elemInstrs ++ rowInstrs ++ atomInstrs) (hop : VOp.op e = x.2) :
    exec (x.1 i) s = .next (s.runNode gr.id nd.idx gr.ctx (vecStep gr.id nd.idx)) := by
  rw [vectorInstrs_exec hx, ← hop, h.vectorOp]

theorem VecReady.runs_entry {i : Fin 16} {x : (Fin 16 → Instr) × Nat} (h : VecReady s i gr nd ts t0 r e)
    (hx : x ∈ elemInstrs ++ rowInstrs ++ atomInstrs) (hop : VOp.op e = x.2)
    (run : (vecEntry (rowCtx gr nd ts t0 r) e).on (s.rowBegun gr.id nd.idx r) = (.ok (), t)) (work : RowWork s m (rowCtx gr nd ts t0 r) nd v t)
    (hv : v.op = nd.vec.op) : ∃ t', exec (x.1 i) s = .next t' ∧ RowWork s m (rowCtx gr nd ts t0 r) nd { v with op := nd.vec.op + 1 } t' := by
  obtain ⟨t', step, done⟩ := h.step run work hv
  exact ⟨t', (h.runs hx hop).trans (congrArg Host.Outcome.next (s.runNode_ok step)), done⟩

end Sys2Proof.Machine
end

section
/-! Bank atomics of a VECTOR node (R189, R234): a write of tile memory leaves the row that it is made for as it is, and the atomic changes its
word alone. -/

namespace Sys2Proof.Machine

variable {s t : State} {m : List Host.Cell} {x : RowCtx} {nd : Node} {v : VecSt} {e : List Byte} {q : Req} {g n : Nat}
  {r : Option (Nat × List (List Byte) × VecSt)}

/-- The present row of a node, if the node is there. -/
def rowAt (g n : Nat) (t : State) : Option (Nat × List (List Byte) × VecSt) := (t.node g n).map Node.rowWork

theorem rowAt_modNode {f : Node → Node} (hf : ∀ y, (f y).idx = y.idx) (hw : ∀ y, (f y).rowWork = y.rowWork) :
    rowAt g n (t.modNode g n f) = rowAt g n t := by
  unfold rowAt
  rw [t.node_modNode g n f hf, Option.map_map]
  exact congrArg (Option.map · (t.node g n)) (funext hw)

theorem accFault_rowAt (unit cause : Nat) (w : Bool) (xva : Nat) : Holding (rowAt g n) r (accFault q unit cause w xva) := by
  unfold accFault
  refine holding_get fun s hs => holding_bind (holding_set (Eq.trans ?_ hs)) fun _ => holding_pure
  simp only [rowAt, State.raise_frame]

theorem wordCheck_rowAt (u d : Nat) (w : List (Nat × Byte)) : Holding (rowAt g n) r (wordCheck q u d w) := by
  unfold wordCheck
  refine holding_get fun s hs => ?_
  dsimp only
  split
  · refine holding_bind (holding_set hs) fun _ => ?_
    split
    · exact holding_bind (accFault_rowAt _ _ _ _) fun _ => holding_throw
    · exact holding_pure
  · exact holding_pure

theorem eccCheck_rowAt (hq : q.who = .node g n) (a k : Nat) (w : Bool) : Holding (rowAt g n) r (eccCheck q a k w) := by
  unfold eccCheck
  refine holding_get fun s hs => ?_
  dsimp only
  split
  · exact holding_bind (accFault_rowAt _ _ _ _) fun _ => holding_throw
  · refine holding_forM fun d => holding_get fun u hu => holding_bind (holding_set (Eq.trans ?_ hu)) fun _ =>
      holding_bind (accFault_rowAt _ _ _ _) fun _ => holding_pure
    rw [hq]
    exact rowAt_modNode (t := { u with ecc := u.ecc.filter (·.1 != d.1) }) (f := fun y => { y with corr := y.corr + 1 }) (fun _ => rfl) fun _ => rfl

theorem tilePut_rowAt (hq : q.who = .node g n) (l : List (Nat × Byte)) : rowAt g n (s.tilePut q l) = rowAt g n s := by
  have stored (no : Nat) (old : List TileOld) : rowAt g n (l.foldl (fun s c => s.setTileByte c.1 c.2) { s with tileNo := no, tileOld := old }) = rowAt g n s :=
    proj_foldl (p := rowAt g n) fun _ _ _ => rfl
  unfold State.tilePut
  extract_lets no live old u
  refine coll_ite (stored _ _) ?_
  rw [hq]
  exact (rowAt_modNode (t := u) (f := fun y => { y with seen := ((l.headD (0, 0)).1 / 64, no) :: y.seen.filter (·.1 != (l.headD (0, 0)).1 / 64) })
    (fun _ => rfl) fun _ => rfl).trans (stored _ _)

/-- A write of tile memory for a row leaves the row as it is. -/
theorem tileStore_rowAt (hq : q.who = .node g n) (a : Nat) (b : List Byte) : Holding (rowAt g n) r (tileStore q a b) := by
  unfold tileStore
  refine holding_forM fun _ => ?_
  unfold tileWord
  refine holding_get fun s hs => holding_bind (wordCheck_rowAt _ _ _) fun _ => ?_
  exact holding_bind (holding_forM fun _ => eccCheck_rowAt hq _ _ _) fun _ => holding_modify fun u => tilePut_rowAt hq _

/-- The state in which an access of a row to a range of tile memory goes through. -/
structure Open (s : State) (q : Req) (a k : Nat) : Prop where
  inside : s.tileOkRange q.t true a k = true
  clean : s.eccIn a k = []
  sound : s.upsets.contains q.unit = false

theorem Open.along {a k : Nat} (ho : Open s q a k) (h : RowWork s m x nd v t) : Open t q a k := by
  obtain ⟨⟨gs, f, no, old, rfl⟩, -⟩ := h
  exact ⟨ho.inside, ho.clean, ho.sound⟩

/-- A write of a row stores its bytes, and the row stands as before. -/
theorem RowWork.tileStore (h : RowWork s m x nd v t) (hq : x.q.who = .node x.g x.n) {a : Nat} {l : List Byte} (ho : Open s x.q a l.length) :
    ∃ t', (tileStore x.q a l).on t = (.ok (), t') ∧ RowWork s (t.tileWr a l).tile x nd v t' := by
  obtain ⟨inside, clean, sound⟩ := ho.along h
  obtain ⟨no', old', gs', write⟩ := tileWrite_clean inside sound clean
  unfold tileWrite at write
  rw [on_bind_ok (tileCheck_ok inside)] at write
  have held := tileStore_rowAt (r := rowAt x.g x.n t) hq a l t rfl
  rw [write] at held
  refine ⟨_, write, ?_, held.trans h.node⟩
  obtain ⟨m', lit⟩ := t.tileWr_lit a l
  obtain ⟨⟨gs, f, no, old, rfl⟩, -⟩ := h
  rw [lit]
  exact ⟨_, _, _, _, rfl⟩

-- the atomic

theorem le_lt (l : List Byte) : le l < 256 ^ l.length := by
  induction l with
  | nil => exact Nat.one_pos
  | cons b l ih =>
    have byte := b.isLt
    rw [le, List.length_cons, Nat.pow_succ]
    omega

theorem tileRd_length (s : State) (a n : Nat) : (s.tileRd a n).length = n := by simp [tileRd_map]

theorem tileRd_of_tile {s t : State} (h : t.tile = s.tile) : t.tileRd = s.tileRd := by
  funext a n
  rw [tileRd_map, tileRd_map, tileByte_of_tile h]

theorem toPat_iv {u : Nat} (h : u < 2 ^ 32) : toPat 32 (iv u) = u := by
  unfold toPat iv sext
  rw [Nat.mod_eq_of_lt h]
  dsimp only
  split <;> omega

/-- The value that an atomic leaves in its word (R234). -/
def atomValue (op cur u : Nat) : Nat := if op = 0x1B then (cur + u) % 2 ^ 32 else u

/-- The word at an address behind an atomic for the operand `u`. -/
def State.atomWord (s : State) (e : List Byte) (a u : Nat) : List Byte := leBytes 4 (atomValue (VOp.op e) (le (s.tileRd a 4)) u)

theorem RowWork.tile (h : RowWork s m x nd v t) : t.tile = m := by
  obtain ⟨⟨gs, f, no, old, rfl⟩, -⟩ := h
  rfl

/-- A bank atomic on a word of 32 bits that the tenant may write: the word takes its value, and the answer is the former one (R189). -/
theorem atomAt_writes {d : Desc} {o j u : Nat} (h : RowWork s s.tile x nd v t) (hq : x.q.who = .node x.g x.n) (hwide : VOp.wide e = false)
    (hl : d.locate ((addrAt d x.c0).set d.inner (iv j)) = some o) (ho : Open s x.q (o / 8) 4) (hu : u < 2 ^ 32) :
    ∃ s' t' : State, s'.tile = s.tile ∧ (atomAt x e d j u).on t = (.ok (le (s.tileRd (o / 8) 4)), t')
      ∧ RowWork s (s'.tileWr (o / 8) (s.atomWord e (o / 8) u)).tile x nd v t' := by
  obtain ⟨inside, clean, sound⟩ := ho.along h
  have pattern : toPat (8 * 4) (iv u) = u := toPat_iv hu
  have word : le (s.tileRd (o / 8) 4) < 2 ^ 32 := by
    have := le_lt (s.tileRd (o / 8) 4)
    rwa [tileRd_length] at this
  have store (t1 : State) (h1 : RowWork s s.tile x nd v t1) : ∃ t', (tileStore x.q (o / 8) (s.atomWord e (o / 8) u)).on t1 = (.ok (), t')
      ∧ RowWork s (t1.tileWr (o / 8) (s.atomWord e (o / 8) u)).tile x nd v t' :=
    h1.tileStore hq (by rw [State.atomWord, leBytes_length]; exact ho)
  unfold atomAt
  simp only [hwide, Bool.false_eq_true, false_and, and_false, if_false, mul_one, hl]
  rw [on_bind_ok (tileCheck_ok inside), on_bind_ok (eccCheck_clean clean), on_bind_ok (on_get t), tileRd_of_tile h.tile, pattern,
    Nat.mod_eq_of_lt word]
  split
  · have counted : RowWork s s.tile x nd v (t.digestMsg x.q.who
        (checkMsg (o / 8) (((List.range 4).zip (leBytes 4 u)).map (fun x => (o / 8 + x.1, x.2))) (t.whoSeq x.q.who).1)) := by
      rw [hq]
      exact h.modNode (fun _ => rfl) fun _ work => work
    obtain ⟨t', write, work⟩ := store _ counted
    exact ⟨_, t', counted.tile, (on_bind_ok (on_set _ t)).trans (on_bind_ok write), work⟩
  · obtain ⟨t', write, work⟩ := store t h
    exact ⟨t, t', h.tile, on_bind_ok write, work⟩

theorem VecSt.operand_one {len c : Nat} (hc : 8 ≤ c ∧ c ≤ 11) (hl : (v.bufs.getD (c - 8) []).length = 1) :
    v.operand len e c = [(v.operand len e c).getD 0 0] ∧ (v.operand len e c).getD 0 0 < 2 ^ 32 := by
  obtain ⟨b, hb⟩ := List.length_eq_one_iff.1 hl
  have one : v.operand len e c = [b.toNat] := by
    rw [VecSt.operand, if_neg (by omega), if_neg (by omega), hb]
    rfl
  rw [one]
  exact ⟨rfl, b.isLt⟩

/-- An atomic of a row of one element; the exchange's second destination takes the word's former value (R234). -/
theorem atomStep_writes {d : Desc} {o : Nat} (h : RowWork s s.tile x nd v t) (hq : x.q.who = .node x.g x.n) (hw : s.held x.q.who = false)
    (hwide : VOp.wide e = false) (hlen : x.len = 1) (hs0 : 8 ≤ VOp.s0 e ∧ VOp.s0 e ≤ 11) (hs1 : 8 ≤ VOp.s1 e ∧ VOp.s1 e ≤ 11)
    (h0 : (v.bufs.getD (VOp.s0 e - 8) []).length = 1) (h1 : (v.bufs.getD (VOp.s1 e - 8) []).length = 1)
    (hs2 : VOp.op e = 0x1C → 8 ≤ VOp.s2 e) (hd : x.ts.getD (VOp.d e) none = some d)
    (hl : d.locate ((addrAt d x.c0).set d.inner (iv ((v.operand 1 e (VOp.s0 e)).getD 0 0))) = some o) (ho : Open s x.q (o / 8) 4) :
    ∃ s' t' : State, s'.tile = s.tile ∧ (atomStep x e).on t = (.ok (), t')
      ∧ RowWork s (s'.tileWr (o / 8) (s.atomWord e (o / 8) ((v.operand 1 e (VOp.s1 e)).getD 0 0))).tile x nd
        (if VOp.op e = 0x1C then v.setBuf (VOp.s2 e - 8) [BitVec.ofNat 32 (le (s.tileRd (o / 8) 4))] else v) t' := by
  have plain {c : Nat} (hc : 8 ≤ c ∧ c ≤ 11) (one : (v.bufs.getD (c - 8) []).length = 1) : v.plain c :=
    .inl ⟨hc.1, hc.2, fun none => by rw [none] at one; exact absurd one (by decide)⟩
  obtain ⟨one0, -⟩ := VecSt.operand_one (e := e) (len := 1) hs0 h0
  obtain ⟨one1, small⟩ := VecSt.operand_one (e := e) (len := 1) hs1 h1
  obtain ⟨s', u, tile, atom, work⟩ := atomAt_writes h hq hwide hl ho small
  unfold atomStep
  rw [on_bind_ok (srcRead_plain h (plain hs0 h0)), on_bind_ok (srcRead_plain h (plain hs1 h1)), hd, hlen, one0, one1]
  by_cases swap : VOp.op e = 0x1C
  · obtain ⟨t', put, done⟩ := dstRow_row (e := e) work (hs2 swap) 6 (l := [le (s.tileRd (o / 8) 4)]) hlen.symm
    rw [hlen] at put
    simp only [if_pos swap]
    exact ⟨s', t', tile, h.atomically hw ((on_bind_ok (on_mapM_one atom)).trans put) done, done⟩
  · simp only [if_neg swap]
    exact ⟨s', u, tile, h.atomically hw (on_bind_ok (on_mapM_one atom)) work, work⟩

end Sys2Proof.Machine
end

section
/-! The operations of a VECTOR node (O57). -/

namespace Sys2Proof.Machine

variable {s t : State} {m : List Host.Cell} {i : Fin 16} {gr : Graph} {nd : Node} {v : VecSt} {ts : List (Option Desc)} {t0 : Desc} {r : Nat}
  {e : List Byte} {x : (Fin 16 → Instr) × Nat}

theorem RowWork.frame {c : RowCtx} (h : RowWork s m c nd v t) : t.sys = s.sys ∧ t.regs = s.regs ∧ t.counters = s.counters := by
  obtain ⟨⟨gs, f, no, old, rfl⟩, -⟩ := h
  exact ⟨rfl, rfl, rfl⟩

/-- What the node holds of its rows. -/
theorem RowWork.map_node {α : Type} {c : RowCtx} (h : RowWork s m c nd v t) (f : Nat → VecSt → α) :
    (t.node c.g c.n).map (fun y => f y.pos y.vec) = some (f nd.pos v) := by
  have row := congrArg (Option.map (fun w : Nat × List (List Byte) × VecSt => f w.1 w.2.2)) h.node
  rwa [Option.map_map] at row

theorem vecEntry_elem {c : RowCtx} (h : VOp.op e < 0x11) : vecEntry c e = elemStep c e := by
  rw [vecEntry, if_neg (by omega), if_neg (by omega)]

theorem vecEntry_row {c : RowCtx} (h : 0x11 ≤ VOp.op e) (h' : VOp.op e ≤ 0x1A) : vecEntry c e = rowStep c e := by
  rw [vecEntry, if_neg (by omega), if_pos h]

theorem vecEntry_atom {c : RowCtx} (h : VOp.op e = 0x1B ∨ VOp.op e = 0x1C) : vecEntry c e = atomStep c e := if_pos h

/-- A row that holds what a row operation answers (R231, R232); what has no stated value fills the buffer. -/
def VecSt.holdsRow (v : VecSt) (len d d2 : Nat) : RowRes → Bool
  | .scalar u _ => v.bufs.getD (d - 8) [] == List.replicate len (BitVec.ofNat 32 u)
  | .shape l => l.length != len || v.bufs.getD (d - 8) [] == l.map (BitVec.ofNat 32)
  | .top vs is => len < vs.length || vs.length != is.length
      || ((v.bufs.getD (d - 8) []).take vs.length == vs.map (BitVec.ofNat 32)
        && (v.bufs.getD (d2 - 8) []).take is.length == is.map (BitVec.ofNat 32))
  | .open_ _ => (v.bufs.getD (d - 8) []).length == len

theorem shapeRow_whole {len : Nat} {l : List Nat} (h : l.length = len) : shapeRow len l = l := by
  subst h
  simp [shapeRow, foldl_set_zip]

theorem rowFilled_words {len : Nat} {l : List Nat} {old : List W32} (h : l.length ≤ len) (ho : old.length = len) :
    ((rowFilled len old ((List.range l.length).zip l)).map (BitVec.ofNat 32)).take l.length = l.map (BitVec.ofNat 32) := by
  rw [← List.map_take, rowFilled_first h ho]

/-- Behind a row operation the row holds its answer. -/
theorem VecSt.rowDone_holdsRow {len : Nat} {a res : RowRes} (closed : a.Closed res) (hd : VOp.d e - 8 < v.bufs.length)
    (hb : (v.bufs.getD (VOp.d e - 8) []).length = len) (htop : a.paired = true → VOp.s2 e - 8 < v.bufs.length
      ∧ VOp.d e - 8 ≠ VOp.s2 e - 8 ∧ (v.bufs.getD (VOp.s2 e - 8) []).length = len) :
    (v.rowDone len e res).holdsRow len (VOp.d e) (VOp.s2 e) a = true := by
  cases closed with
  | scalar u i =>
    rw [holdsRow, rowDone, getD_setBuf hd, List.map_replicate]
    exact beq_self_eq_true _
  | shape l =>
    rw [holdsRow, rowDone, getD_setBuf hd]
    by_cases whole : l.length = len
    · rw [shapeRow_whole whole, beq_self_eq_true, Bool.or_true]
    · rw [bne_iff_ne.2 whole, Bool.true_or]
  | top vs is =>
    obtain ⟨hs2, ne, hb2⟩ := htop rfl
    rw [holdsRow, rowDone, getD_setBuf (by simpa [setBuf] using hs2), getD_setBuf_ne ne.symm, getD_setBuf hd]
    by_cases long : len < vs.length
    · simp [long]
    by_cases same : vs.length = is.length
    · rw [rowFilled_words (by omega) hb, rowFilled_words (by omega) hb2]
      simp
    · simp [same]
  | drawn u i =>
    rw [holdsRow, rowDone, getD_setBuf hd]
    simp
  | drawnShape l =>
    rw [holdsRow, rowDone, getD_setBuf hd]
    simp [shapeRow_length]

theorem VecReady.elem (h : VecReady s i gr nd ts t0 r e) (hx : x ∈ elemInstrs) (hop : VOp.op e = x.2) (hd : 8 ≤ VOp.d e)
    (h0 : nd.vec.plain (VOp.s0 e)) (h1 : nd.vec.plain (VOp.s1 e)) (h2 : nd.vec.plain (VOp.s2 e)) :
    ∃ t, exec (x.1 i) s = .next t ∧ RowWork s s.tile (rowCtx gr nd ts t0 r) nd
      { nd.vec.setBuf (VOp.d e - 8) ((nd.vec.elemRow (t0.size t0.inner) e).map (BitVec.ofNat 32)) with op := nd.vec.op + 1 } t := by
  obtain ⟨t, run, work⟩ := elemStep_fills h.begins hd h.free h0 h1 h2
  rw [← vecEntry_elem (by rw [hop]; exact elemInstrs_ops x hx)] at run
  exact h.runs_entry (by simp [hx]) hop run work rfl

theorem VecReady.rowwise (h : VecReady s i gr nd ts t0 r e) (hx : x ∈ rowInstrs) (hop : VOp.op e = x.2) (hseg : VOp.seg e = false)
    (hlen : 0 < t0.size t0.inner) (hd : 8 ≤ VOp.d e ∧ VOp.d e ≤ 11) (hb : (nd.vec.bufs.getD (VOp.d e - 8) []).length = t0.size t0.inner)
    (h0 : nd.vec.fits (t0.size t0.inner) (VOp.s0 e)) (h1 : nd.vec.fits (t0.size t0.inner) (VOp.s1 e))
    (h2 : nd.vec.fits (t0.size t0.inner) (VOp.s2 e)) (htop : VOp.op e = 0x18 → 8 ≤ VOp.s2 e ∧ VOp.s2 e ≤ 11 ∧ VOp.s2 e ≠ VOp.d e) :
    ∃ (w : VecSt) (t : State), w.holdsRow (t0.size t0.inner) (VOp.d e) (VOp.s2 e) (nd.vec.rowRes (t0.size t0.inner) e) = true ∧ exec (x.1 i) s = .next t
      ∧ RowWork s s.tile (rowCtx gr nd ts t0 r) nd { w with op := nd.vec.op + 1 } t := by
  obtain ⟨low, high⟩ := rowInstrs_ops x hx
  rw [← hop] at low high
  obtain ⟨res, t, closed, run, work⟩ := rowStep_fills h.begins h.free hlen h0 h1 h2 hseg low high hd.1 hb htop
  rw [← vecEntry_row low high] at run
  have op : (nd.vec.rowDone (t0.size t0.inner) e res).op = nd.vec.op := by cases res <;> rfl
  obtain ⟨t', run', work'⟩ := h.runs_entry (by simp [hx]) hop run work op
  have four := h.bufs
  refine ⟨_, t', VecSt.rowDone_holdsRow closed (by omega) hb fun pair => ?_, run', work'⟩
  have top : VOp.op e = 0x18 := beq_iff_eq.1 ((Prod.mk.inj (rowOp_form _ _ _ _ _ _ _ low high)).2.symm.trans pair)
  obtain ⟨low2, high2, ne⟩ := htop top
  exact ⟨by omega, by omega, (h2.resolve_right (by omega)).2.2⟩

theorem VecReady.atom {d : Desc} {o : Nat} (h : VecReady s i gr nd ts t0 r e) (hx : x ∈ atomInstrs) (hop : VOp.op e = x.2)
    (hwide : VOp.wide e = false) (hlen : t0.size t0.inner = 1) (hs0 : 8 ≤ VOp.s0 e ∧ VOp.s0 e ≤ 11) (hs1 : 8 ≤ VOp.s1 e ∧ VOp.s1 e ≤ 11)
    (h0 : (nd.vec.bufs.getD (VOp.s0 e - 8) []).length = 1) (h1 : (nd.vec.bufs.getD (VOp.s1 e - 8) []).length = 1)
    (hs2 : VOp.op e = 0x1C → 8 ≤ VOp.s2 e) (hd : ts.getD (VOp.d e) none = some d)
    (hl : d.locate ((addrAt d ((rowsOf t0).getD r [])).set d.inner (iv ((nd.vec.operand 1 e (VOp.s0 e)).getD 0 0))) = some o)
    (hok : s.tileOkRange gr.ctx true (o / 8) 4 = true) (hecc : s.eccIn (o / 8) 4 = []) (hup : s.upsets.contains (0xC0 + i.val) = false) :
    ∃ s' t : State, s'.tile = s.tile ∧ exec (x.1 i) s = .next t
      ∧ RowWork s (s'.tileWr (o / 8) (s.atomWord e (o / 8) ((nd.vec.operand 1 e (VOp.s1 e)).getD 0 0))).tile (rowCtx gr nd ts t0 r) nd
        { (if VOp.op e = 0x1C then nd.vec.setBuf (VOp.s2 e - 8) [BitVec.ofNat 32 (le (s.tileRd (o / 8) 4))] else nd.vec) with
          op := nd.vec.op + 1 } t := by
  have passes : Open s (rowCtx gr nd ts t0 r).q (o / 8) 4 := ⟨hok, hecc, by rw [← h.stage] at hup; exact hup⟩
  obtain ⟨s', t, tile, run, work⟩ := atomStep_writes (d := d) h.begins rfl h.free hwide hlen hs0 hs1 h0 h1 hs2 hd hl passes
  rw [← vecEntry_atom (by rw [hop]; exact atomInstrs_ops x hx)] at run
  obtain ⟨t', run', work'⟩ := h.runs_entry (by simp [hx]) hop run work (by split <;> rfl)
  exact ⟨s', t', tile, run', work'⟩

/-- Settles O57: each command runs its entry of the list, and what the entry leaves is said by the lemmas above. -/
theorem vectorOperations : Obligations.VectorOperations := by
  unfold Obligations.VectorOperations
  intro s i gr nd t0 r e unit graph node tensors row stage more going entry next bufs free
  obtain ⟨⟨ts, _⟩, found, rfl⟩ := Option.map_eq_some_iff.1 tensors
  have ready : VecReady s i gr nd ts _ r e := ⟨unit, graph, node, found, row, stage, more, going, entry, next, bufs, free⟩
  refine ⟨fun x hx hop hd hc => ?_, fun x hx hop hseg hd htop hc hb hlen => ?_, fun x hx hop => ?_,
    fun x hx d o hop hs2 hwide hlen hs0 hs1 h0 h1 hts hl hok hecc hup => ?_⟩
  · obtain ⟨t, run, work⟩ := ready.elem hx hop hd.1 (hc _ (by simp)) (hc _ (by simp)) (hc _ (by simp))
    obtain ⟨sys, regs, counters⟩ := work.frame
    refine ⟨t, run, work.tile, sys, regs, counters, (work.map_node fun pos w => (pos, w.op, w.bufs.getD (VOp.d e - 8) [])).trans ?_⟩
    show some (nd.pos, nd.vec.op + 1, (nd.vec.setBuf (VOp.d e - 8) _).bufs.getD (VOp.d e - 8) []) = _
    rw [VecSt.getD_setBuf (by omega), VecSt.elemRow, List.map_map, hop]
    rfl
  · obtain ⟨w, t, holds, run, work⟩ := ready.rowwise hx hop hseg hlen hd hb (hc _ (by simp)) (hc _ (by simp)) (hc _ (by simp))
      (fun top => htop (hop.symm.trans top))
    obtain ⟨sys, regs, -⟩ := work.frame
    obtain ⟨y, hy, row⟩ := Option.map_eq_some_iff.1 (work.map_node fun _ w => w)
    refine ⟨t, run, work.tile, sys, regs, ?_⟩
    rw [show t.node gr.id nd.idx = some y from hy, Option.any_some, row, ← hop]
    exact Bool.and_eq_true_iff.2 ⟨beq_self_eq_true _, holds⟩
  · have run := ready.runs hx hop
    refine ⟨fun s1 h => ?_, fun s1 a w h => ?_, fun s1 h => ?_, fun s1 st de h => ?_⟩
    · exact run.trans (congrArg Host.Outcome.next (s.runNode_ok h))
    · exact run.trans (congrArg Host.Outcome.next (s.runNode_miss h))
    · exact run.trans (congrArg Host.Outcome.next (s.runNode_wait h))
    · exact run.trans (congrArg Host.Outcome.next (s.runNode_stop h))
  · rw [found] at hts
    obtain ⟨s', t, same, run, work⟩ := ready.atom hx hop hwide hlen hs0 hs1 h0 h1 (fun swap => (hs2 (hop.symm.trans swap)).1) (Option.some.inj hts)
      hl hok hecc hup
    obtain ⟨sys, -, -⟩ := work.frame
    have word : (s.atomWord e (o / 8) ((nd.vec.operand 1 e (VOp.s1 e)).getD 0 0)).length = 4 := leBytes_length _ _
    refine ⟨t, run, ?_, fun a ha => ?_, sys, fun swap => ?_⟩
    · rw [tileRd_of_tile work.tile, ← word, State.tileRd_tileWr]
      rfl
    · rw [tileByte_of_tile work.tile, State.tileByte_tileWr_off (by rwa [word]), tileByte_of_tile same]
    · have four := ready.bufs
      obtain ⟨low, high⟩ := hs2 (hop.symm.trans swap)
      refine (work.map_node fun _ w => w.bufs.getD (VOp.s2 e - 8) []).trans ?_
      rw [if_pos swap]
      exact congrArg some (VecSt.getD_setBuf (by omega) _)

end Sys2Proof.Machine
end

section
/-! Walks of the page tables (O41, O42): what a walk that returns leaves as it is, what it installs, and how the access behind it goes on. -/

namespace Sys2Proof.Machine

variable (s : State)

/-- The table reads of a walk draw on credit alone (R180). -/
theorem State.walkPaid_lit (t xva : Nat) (write : Bool) :
    ∃ credit owed, s.walkPaid t xva write = { s with credit := credit, owed := owed } := by
  unfold State.walkPaid
  generalize s.trail t xva write = l
  induction l generalizing s with
  | nil => exact ⟨s.credit, s.owed, rfl⟩
  | cons x l ih =>
    obtain ⟨credit, owed, one⟩ := s.debit_lit 3 8 64
    obtain ⟨credit', owed', rest⟩ := ih (s.debit 3 8 64)
    exact ⟨credit', owed', by rw [List.foldl_cons, rest, one]⟩

/-- The state in which a walk has returned and been paid for. -/
def State.walkBack (s : State) (i : Nat) (w : Walk) : State := { s.walkPaid w.t w.xva w.write with walks := s.walks.eraseIdx i }

theorem State.walkBack_frame (i : Nat) (w : Walk) : (s.walkBack i w).walks = s.walks.eraseIdx i ∧ (s.walkBack i w).tlb = s.tlb
    ∧ (s.walkBack i w).sys = s.sys ∧ (s.walkBack i w).tile = s.tile ∧ (s.walkBack i w).chans = s.chans ∧ (s.walkBack i w).regs = s.regs := by
  obtain ⟨credit, owed, paid⟩ := s.walkPaid_lit w.t w.xva w.write
  rw [State.walkBack, paid]
  exact ⟨rfl, rfl, rfl, rfl, rfl, rfl⟩

/-- The caches that a walk fills are the walk cache, the look-aside buffer, and the weight cache by what leaves that (R264). -/
theorem State.walked_frame (t xva : Nat) (write : Bool) (x : Xl) (inval : List (Nat × Nat)) :
    (s.walked t xva write x inval).walks = s.walks ∧ (s.walked t xva write x inval).sys = s.sys
    ∧ (s.walked t xva write x inval).tile = s.tile ∧ (s.walked t xva write x inval).chans = s.chans
    ∧ (s.walked t xva write x inval).regs = s.regs := by
  simp only [State.walked, State.install, State.wcDrop, State.cachePtrs, and_self]

theorem State.walked_installs (t xva : Nat) (write : Bool) (x : Xl) (inval : List (Nat × Nat)) :
    x ∈ (s.walked t xva write x inval).tlb := List.mem_cons_self

theorem State.unstall_frame (w : Who) : (s.unstall w).walks = s.walks ∧ (s.unstall w).tlb = s.tlb ∧ (s.unstall w).sys = s.sys
    ∧ (s.unstall w).tile = s.tile ∧ (s.unstall w).chans = s.chans := by
  cases w with
  | chan ch =>
    rw [State.unstall]
    split
    · exact ⟨rfl, rfl, rfl, rfl, rfl⟩
    · exact ⟨rfl, rfl, rfl, rfl, rfl⟩
  | node g n => exact ⟨rfl, rfl, rfl, rfl, rfl⟩
  | entry id => exact ⟨rfl, rfl, rfl, rfl, rfl⟩

/-- A channel that stalls on its translation runs again (R143). -/
theorem State.unstall_runs {ch : Nat} (h : s.chSt ch = 4) : (s.unstall (.chan ch)).fld (F.chState ch) = 2 := by
  rw [State.unstall, if_pos h, State.chTo_chSt 2 (by decide)]

/-- A node's unit that stalls on its translation goes on (R266). -/
theorem State.unstall_node (g n : Nat) : ((s.unstall (.node g n)).node g n).all (fun x => !x.stall) = true := by
  rw [State.unstall, State.node_modNode s g n (fun x => { x with stall := false }) fun _ => rfl, Option.all_map]
  exact (Option.all_eq_true _ _).2 fun _ _ => rfl

theorem chSt_of_regs {s t : State} (h : t.regs = s.regs) (ch : Nat) : t.chSt ch = s.chSt ch := fld_of_regs h (F.chState ch)

/-- The program of a channel whose access fails ends: the channel drains, and what waits for it is forgotten (R141, R268). -/
theorem State.endProg_forgets (ch st de : Nat) : (∀ x ∈ (s.endProg ch st de).walks, x ∈ s.walks) ∧ (s.endProg ch st de).tlb = s.tlb :=
  ⟨fun _ hx => (List.mem_filter.1 hx).1, rfl⟩

variable {s} {i : Nat} {w : Walk}

/-- A walk that ends in a translation no invalidation has met installs it, and its access is made again (R264). -/
theorem State.walkDone_fresh {x : Xl} (he : s.engines = true) (hi : s.walks[i]? = some w) (hx : s.walk w.t w.xva w.write = .ok x)
    (hw : w.inval = []) : s.walkDone i .data = ((s.walkBack i w).walked w.t w.xva w.write x w.inval).unstall w.who := by
  unfold State.walkDone
  rw [hi]
  dsimp only
  rw [if_neg (by simp [he]), hx]
  dsimp only
  rw [if_neg (by simp [hw])]
  rfl

/-- A walk that ends in a translation an invalidation has met leaves the caches, and its access is made again (R278). -/
theorem State.walkDone_stale {x : Xl} (he : s.engines = true) (hi : s.walks[i]? = some w) (hx : s.walk w.t w.xva w.write = .ok x)
    (hr : ∃ r ∈ w.inval, overlaps (x.xva, x.xva + x.len) r = true) : s.walkDone i .data = (s.walkBack i w).unstall w.who := by
  unfold State.walkDone
  rw [hi]
  dsimp only
  rw [if_neg (by simp [he]), hx]
  dsimp only
  rw [if_pos (List.any_eq_true.2 hr)]
  rfl

/-- A walk that a memory error ends raises a fault, and its work fails (R268). -/
theorem State.walkDone_fails (he : s.engines = true) (hi : s.walks[i]? = some w) {resp : WalkResp} (hresp : resp ≠ .data) :
    ∃ (drawn : Nat) (f : FaultReq) (st de : Nat),
      s.walkDone i resp = (State.raise { s.walkBack i w with free := drawn } f).workFails st de w.who := by
  unfold State.walkDone
  rw [hi]
  dsimp only
  rw [if_neg (by simp [he])]
  cases resp with
  | data => exact absurd rfl hresp
  | busError => exact ⟨_, _, _, _, rfl⟩
  | uncorrectable => exact ⟨_, _, _, _, rfl⟩

/-- The walk of a channel that a memory error ends: the program ends, and no translation comes or goes. -/
theorem State.walkDone_ends {ch : Nat} (he : s.engines = true) (hi : s.walks[i]? = some w) (hwho : w.who = .chan ch) {resp : WalkResp}
    (hresp : resp ≠ .data) : ∃ t, exec (.walkComplete i resp) s = .next t ∧ (∀ x ∈ t.walks, x ∈ s.walks.eraseIdx i) ∧ t.tlb = s.tlb
      ∧ t.fld (F.chState ch) = 7 := by
  obtain ⟨drawn, f, st, de, run⟩ := State.walkDone_fails he hi hresp
  rw [hwho] at run
  obtain ⟨walks, tlb, -⟩ := s.walkBack_frame i w
  have raisedWalks : (State.raise { s.walkBack i w with free := drawn } f).walks = s.walks.eraseIdx i := by rw [← walks]; simp
  have raisedTlb : (State.raise { s.walkBack i w with free := drawn } f).tlb = s.tlb := by rw [← tlb]; simp
  generalize State.raise { s.walkBack i w with free := drawn } f = u at run raisedWalks raisedTlb
  obtain ⟨forgets, keeps⟩ := u.endProg_forgets ch st de
  exact ⟨u.endProg ch st de, congrArg Host.Outcome.next run, fun x hx => raisedWalks ▸ forgets x hx, keeps.trans raisedTlb,
    u.endProg_chSt st de⟩

/-- Settles O41: the walk's return is `walkDone_fresh`, an error `walkDone_ends`. -/
theorem walksReturn : Obligations.WalksReturn := by
  unfold Obligations.WalksReturn
  intro s i w ch he hi hwho _ stalled
  refine ⟨fun x hx hw => ?_, State.walkDone_ends he hi hwho (by decide), State.walkDone_ends he hi hwho (by decide)⟩
  obtain ⟨walks, -, sys, tile, chans, regs⟩ := s.walkBack_frame i w
  obtain ⟨walks', sys', tile', chans', regs'⟩ := (s.walkBack i w).walked_frame w.t w.xva w.write x w.inval
  have installed := (s.walkBack i w).walked_installs w.t w.xva w.write x w.inval
  have run := State.walkDone_fresh he hi hx hw
  generalize (s.walkBack i w).walked w.t w.xva w.write x w.inval = u at run walks' sys' tile' chans' regs' installed
  obtain ⟨walks'', tlb, sys'', tile'', chans''⟩ := u.unstall_frame w.who
  refine ⟨u.unstall w.who, congrArg Host.Outcome.next run, walks''.trans (walks'.trans walks), tlb ▸ installed, ?_,
    sys''.trans (sys'.trans sys), tile''.trans (tile'.trans tile), chans''.trans (chans'.trans chans)⟩
  rw [hwho]
  exact u.unstall_runs ((chSt_of_regs (regs'.trans regs) ch).trans stalled)

theorem State.eachChan_walks (f : Chan → Chan) : (s.eachChan f).walks = s.walks := proj_foldl (p := State.walks) fun _ _ _ => rfl

theorem State.cutStaged_walks (t ch : Nat) (r : Nat × Nat) : (s.cutStaged t ch r).walks = s.walks := by
  unfold State.cutStaged
  exact coll_ite (g := State.walks) rfl rfl

/-- INVALIDATE_XLAT marks the walks of its tenant that are under way (R278). -/
theorem State.invalidate_marks {t : Nat} {e : Entry} (he : s.engines = true) (ho : s.oldest t 0x09 = some e) :
    (s.invalidate t).walks = s.walks.map (fun w => if w.t = t then { w with inval := invalRange e :: w.inval } else w) := by
  unfold State.invalidate
  rw [s.take_oldest t 0x09 _ e he ho]
  refine (proj_foldl (p := State.walks) fun u c _ => u.cutStaged_walks _ _ _).trans ?_
  rw [State.eachChan_walks]
  rfl

/-- Settles O42: INVALIDATE_XLAT marks as `invalidate_marks` says, and the return of a marked walk is `walkDone_stale`. -/
theorem staleWalksInstallNothing : Obligations.StaleWalksInstallNothing := by
  unfold Obligations.StaleWalksInstallNothing
  intro s he
  refine ⟨fun t e ho => ⟨s.invalidate t, rfl, State.invalidate_marks he ho⟩, fun i w x hi hx hr => ?_⟩
  have run := State.walkDone_stale he hi hx hr
  obtain ⟨walks, tlb, -, -, -, regs⟩ := s.walkBack_frame i w
  generalize s.walkBack i w = u at run walks tlb regs
  obtain ⟨walks', tlb', -⟩ := u.unstall_frame w.who
  refine ⟨u.unstall w.who, congrArg Host.Outcome.next run, tlb'.trans tlb, walks'.trans walks, fun ch hwho stalled => ?_,
    fun g n hwho => ?_⟩
  · rw [hwho]
    exact u.unstall_runs ((chSt_of_regs regs ch).trans stalled)
  · rw [hwho]
    exact u.unstall_node g n

end Sys2Proof.Machine
end

section
/-! Outstanding faults of pages (O38): the end of what a unit waited for frees no identifier and takes none, and the resolution of a fault frees
its own. -/

namespace Sys2Proof.Machine

variable (s : State)

/-- The identifiers of the outstanding faults (R271). -/
def State.faultIds (s : State) : List W32 := s.pfaults.map (·.id)

theorem State.setFld_faultIds (f : Fld) (v : Nat) : (s.setFld f v).faultIds = s.faultIds := rfl
theorem State.modChan_faultIds (n : Nat) (f : Chan → Chan) : (s.modChan n f).faultIds = s.faultIds := rfl
theorem State.modGraph_faultIds (g : Nat) (f : Graph → Graph) : (s.modGraph g f).faultIds = s.faultIds := rfl
theorem State.modNode_faultIds (g n : Nat) (f : Node → Node) : (s.modNode g n f).faultIds = s.faultIds := rfl
theorem State.setMer_faultIds (m : Meridian) : (s.setMer m).faultIds = s.faultIds := rfl

/-- What waited may be detached from a fault, which stays outstanding (R272). -/
theorem State.forget_faultIds (ws : List Who) : (s.forget ws).faultIds = s.faultIds := by
  simp only [State.faultIds, State.forget, List.map_map]
  rfl

theorem State.stopWaiters_faultIds (g : Nat) : (s.stopWaiters g).faultIds = s.faultIds := by
  unfold State.stopWaiters
  split
  · refine coll_ite (g := State.faultIds) rfl ?_
    rw [State.setFld_faultIds, State.setMer_faultIds, State.forget_faultIds, State.modGraph_faultIds]
  · rfl

theorem State.failNode_faultIds (g n status detail : Nat) : (s.failNode g n status detail).faultIds = s.faultIds := by
  unfold State.failNode
  extract_lets t u
  have ht : t.faultIds = s.faultIds := (State.forget_faultIds _ _).trans (coll_ite (g := State.faultIds) rfl rfl)
  clear_value t
  have hu : u.faultIds = t.faultIds := by
    simp only [u]
    split <;> rfl
  rw [State.stopWaiters_faultIds, State.modGraph_faultIds, State.modNode_faultIds, hu, ht]

theorem State.endProg_faultIds (ch status detail : Nat) : (s.endProg ch status detail).faultIds = s.faultIds := by
  rw [State.endProg, State.chTo, State.setFld_faultIds, State.modProg, State.modChan_faultIds, State.forget_faultIds]

theorem State.discard_faultIds (ch : Nat) : (s.discard ch).faultIds = s.faultIds := by
  unfold State.discard
  exact coll_ite (g := State.faultIds) rfl rfl

theorem State.eachChan_faultIds (f : Chan → Chan) : (s.eachChan f).faultIds = s.faultIds := proj_foldl (p := State.faultIds) fun _ _ _ => rfl

theorem State.resolveOne_faultIds (id : W32) (abort : Bool) (w : Who) : (s.resolveOne id abort w).faultIds = s.faultIds := by
  cases w with
  | chan ch =>
    rw [State.resolveOne]
    refine coll_ite (g := State.faultIds) rfl (coll_ite (g := State.faultIds) ?_ rfl)
    rw [State.endProg_faultIds, State.discard_faultIds]
  | node g n =>
    rw [State.resolveOne]
    exact coll_ite (g := State.faultIds) (s.failNode_faultIds _ _ _ _) rfl
  | entry id => rfl

/-- A fault that is resolved frees its identifier, and no other (R271, R272). -/
theorem State.resolve_faultIds (f : PFault) (abort : Bool) : (s.resolve f abort).faultIds = s.faultIds.filter (· != f.id) := by
  unfold State.resolve
  extract_lets t r hit stale u
  have ht : t.faultIds = s.faultIds.filter (· != f.id) := by
    rw [State.faultIds, State.faultIds, List.filter_map]
    rfl
  clear_value t
  have hu : u.faultIds = t.faultIds := coll_ite (g := State.faultIds) rfl (State.eachChan_faultIds _ _)
  clear_value u
  exact (proj_foldl (p := State.faultIds) fun v w _ => v.resolveOne_faultIds _ _ w).trans (hu.trans ht)

theorem State.resolve_frees (f : PFault) (abort : Bool) : ∀ x ∈ (s.resolve f abort).pfaults, x.id ≠ f.id := by
  intro x hx
  have listed : x.id ∈ (s.resolve f abort).faultIds := List.mem_map_of_mem hx
  rw [s.resolve_faultIds] at listed
  simpa using (List.mem_filter.1 listed).2

variable {s}

theorem State.resumeFault_resolves {t : Nat} {e : Entry} {f : PFault} (he : s.engines = true) (ho : s.oldest t 0x08 = some e)
    (hf : s.pfaults.find? (fun f => f.t == t && f.id.toNat == e.field 8 4) = some f) :
    s.resumeFault t = (s.resolve f (e.field 12 1 == 1)).finish t e 1 := by
  refine (s.take_oldest t 0x08 _ e he ho).trans ?_
  rw [hf]

/-- At its time a fault is aborted, and a fault of its unit is raised (R271). -/
theorem State.pfTimeout_aborts {t : Nat} {id : W32} {f : PFault} (he : s.engines = true) (hp : s.powerTo = none)
    (hms : s.fld (F.pfTimeout t) ≠ 0) (hq : ∀ r ∈ s.coll.iq, r.id ≠ id) (hf : s.pfaults.find? (fun f => f.t == t && f.id == id) = some f) :
    ∃ r : FaultReq, s.pfTimeout t id = ((s.advanceTo (f.start + 1000000 * s.fld (F.pfTimeout t))).resolve f true).raise r := by
  unfold State.pfTimeout
  rw [hf]
  dsimp only
  rw [if_neg (by simpa [he, hp, hms] using hq)]
  exact ⟨_, rfl⟩

/-- Settles O38: both rows resolve the fault, which frees its identifier (`resolve_frees`). -/
theorem faultsOfPagesResolve : Obligations.FaultsOfPagesResolve := by
  unfold Obligations.FaultsOfPagesResolve
  intro s t f he
  refine ⟨fun e ho hf => ?_, fun id hf hp hms hq => ?_⟩
  · have run := State.resumeFault_resolves he ho hf
    have free := s.resolve_frees f (e.field 12 1 == 1)
    have now := s.resolve_aon f (e.field 12 1 == 1)
    generalize s.resolve f (e.field 12 1 == 1) = u at run free now
    have rest := congrArg Prod.snd (u.finish_work t e 1 0 0)
    have same : (u.finish t e 1).pfaults = u.pfaults := (congrArg State.pfaults rest :)
    obtain ⟨-, -, -, -, gone⟩ := u.finish_still t e 1 0 0
    exact ⟨u.finish t e 1, congrArg Host.Outcome.next run, same ▸ free, gone, (State.finish_aon ..).trans now⟩
  · obtain ⟨r, run⟩ := State.pfTimeout_aborts he hp hms hq hf
    have found := List.find?_some hf
    simp only [Bool.and_eq_true, beq_iff_eq] at found
    obtain ⟨-, rfl⟩ := found
    refine ⟨_, congrArg Host.Outcome.next run, ?_, ?_⟩
    · simp only [State.raise_frame]
      exact State.resolve_frees _ f true
    · simp only [State.raise_frame, State.resolve_aon, State.advanceTo_aon]

end Sys2Proof.Machine
end

section
/-! A refutation of `Obligations.FaultTimersAndSpill` (O45). Its clause on REACTION_TIMEOUT says that outside Vesper mode the record of cause
0x0021 enters the queue, and lets a copy of a bank be of any logical bank. The reaction of `react_act` 1 can pass an epoch boundary, where a
copy that is done writes its logical bank's place in the spare map (R203, R390); for a number of no logical bank that place is another
register, here XH_FAULT_CFG with its Vesper bit. The block copies logical banks alone (`State.bankServes`); that the copies under way are
of logical banks below 512 is the premise that the clause lacks. -/

namespace Sys2Proof.Machine

/-- A contained fault of the physical bank 512, a free spare, whose reaction timer runs. -/
def faultOfSpare : FaultSt := { id := 0, unit := 0x300, cause := 0x17, cls := 3, ctx := 15, line := false, acked := false, timer := true, since := 0 }

/-- A copy that is done, for a logical bank whose place in the spare map would be XH_FAULT_CFG. -/
def copyOfNoBank : Copy := { logical := 0x37800, from_ := 0, into := 2, entry := 0, done := true }

/-- X0 with `faultOfSpare` uncleared and `copyOfNoBank` done. -/
def copiesNoBank : State := { State.reset with phase := .x0, coll := { faults := [faultOfSpare] }, copies := [copyOfNoBank] }

theorem copiesNoBank_plain : copiesNoBank.vesper = false := by decide

/-- The reaction turns on Vesper mode, in which the report is no record (R380). -/
theorem reactExpire_copiesNoBank : (copiesNoBank.reactExpire 0).coll.iq = [] := by decide +kernel

/-- Refutes O45: in `copiesNoBank` the expiry of the reaction timer leaves no record in the queue. -/
theorem not_faultTimersAndSpill : ¬ Obligations.FaultTimersAndSpill := by
  intro h
  obtain ⟨reactionTimeout, -⟩ := h copiesNoBank (by decide) (by decide)
  obtain ⟨t, ht, -, -, record, -⟩ := reactionTimeout 0 faultOfSpare (by decide) (by decide) (by decide)
  obtain rfl : copiesNoBank.reactExpire 0 = t := Host.Outcome.next.inj ht
  have last := record copiesNoBank_plain
  rw [reactExpire_copiesNoBank] at last
  exact absurd last (by simp)

end Sys2Proof.Machine
end

section
/-! What a report leaves of the tenants' registers (R426): none of those that it writes lies in their windows. -/

namespace Sys2Proof.Machine

variable (s : State)

/-- The windows of the tenants (R426). -/
def Reg.Setup (off : Nat) : Prop := 0x10000 ≤ off ∧ off < 0x20000

/-- The registers of the tenants' windows. -/
def State.setup (s : State) (o : {o // Reg.Setup o}) : W64 := s.reg o

theorem State.setReg_setup {o : Nat} (v : W64) (h : ¬Reg.Setup o) : (s.setReg o v).setup = s.setup := by
  funext x
  have hx : o ≠ x.1 := fun e => h (e ▸ x.2)
  rw [State.setup, State.reg_setReg, if_neg hx, State.setup]

theorem State.setFld_setup {f : Fld} (v : Nat) (h : ¬Reg.Setup f.off) : (s.setFld f v).setup = s.setup := s.setReg_setup _ h

theorem State.sat_setup {f : Fld} (n : Nat) (h : ¬Reg.Setup f.off) : (s.sat f n).setup = s.setup := s.setReg_setup _ h

theorem fld_of_setup {s t : State} (h : t.setup = s.setup) {f : Fld} (hf : Reg.Setup f.off) : t.fld f = s.fld f :=
  congrArg (fun w : W64 => bits w.toNat f.lo f.w) (congrFun h ⟨f.off, hf⟩)

theorem irqPend_not_setup {v : Nat} (hv : v < 75) : ¬Reg.Setup (irqFld Reg.irqPend v).off := by
  simp only [Reg.Setup, irqFld, Reg.irqPend]
  omega

theorem vsp_not_setup (u : Nat) : ¬Reg.Setup (Reg.vsp u) := by
  simp only [Reg.Setup, Reg.vsp]
  omega

theorem fabGrp_not_setup (n : Nat) : ¬Reg.Setup (Reg.fabGrp n) := by
  simp only [Reg.Setup, Reg.fabGrp]
  omega

theorem State.sendMsg_setup {v : Nat} (hv : v < 75) : (s.sendMsg v).setup = s.setup := by
  unfold State.sendMsg
  exact coll_ite rfl (coll_ite (s.setFld_setup 0 (irqPend_not_setup hv)) rfl)

theorem State.event_setup {v : Nat} (hv : v < 75) : (s.event v).setup = s.setup := by
  unfold State.event
  exact coll_ite rfl (coll_ite rfl ((State.sendMsg_setup _ hv).trans (s.setFld_setup 1 (irqPend_not_setup hv))))

theorem State.iqPush_setup (r : FRec) : (s.iqPush r).setup = s.setup := by
  unfold State.iqPush
  exact coll_ite (State.event_setup _ (by decide)) rfl

theorem State.setSticky_setup (r : FRec) : (s.setSticky r).setup = s.setup := by
  unfold State.setSticky
  refine proj_foldl (t := s.setColl { s.coll with sticky := some r, stickyRead := false }) fun u w _ => u.setReg_setup _ ?_
  simp only [Reg.Setup, Reg.fqSticky]
  omega

theorem State.overflow_setup (r : FRec) : (s.overflow r).setup = s.setup := by
  unfold State.overflow
  have counted : (s.sat (F.fqOvf r.cls)).setup = s.setup := s.sat_setup 1 (by simp [Reg.Setup, F.fqOvf, Reg.fqOvf])
  generalize s.sat (F.fqOvf r.cls) = t at counted
  dsimp only
  split
  · exact coll_ite ((t.setSticky_setup r).trans counted) counted
  · exact (t.setSticky_setup r).trans counted

theorem State.vspShow_setup (u : Nat) : (s.vspShow u).setup = s.setup := by
  unfold State.vspShow
  exact (State.setFld_setup _ _ (vsp_not_setup u)).trans (s.setFld_setup _ (vsp_not_setup u))

theorem State.vspFault_setup (u : Nat) : (s.vspFault u).setup = s.setup := by
  unfold State.vspFault
  extract_lets was t
  have shown : t.setup = s.setup :=
    (State.vspShow_setup _ u).trans ((State.setFld_setup _ 1 (vsp_not_setup u)).trans (s.sat_setup 1 (vsp_not_setup u)))
  clear_value t
  exact coll_ite ((t.event_setup (by decide)).trans shown) shown

theorem State.drive_setup : s.drive.setup = s.setup := State.setFld_setup _ _ (by simp [Reg.Setup, Reg.faultStatus])

/-- A recorded fault is entered in the collector and shown by the outputs, and its record finds a place or overflows. -/
theorem State.record_setup (f : FaultReq) : (s.record f).1.setup = s.setup := by
  unfold State.record
  dsimp only
  rw [apply_ite Prod.fst, apply_ite Prod.fst, apply_ite Prod.fst]
  refine coll_ite rfl ((coll_ite (State.vspFault_setup _ _) (coll_ite (State.overflow_setup _ _) (State.iqPush_setup _ _))).trans ?_)
  exact (State.drive_setup _).trans (coll_ite (State.setFld_setup _ 1 (by simp [Reg.Setup, Reg.faultStatus])) rfl)

theorem State.overflowed_setup : s.overflowed.setup = s.setup := by
  unfold State.overflowed
  exact coll_ite rfl (State.drive_setup _)

theorem State.floodOut_setup (p : List Byte) (b : Option Nat) : (s.floodOut p b).setup = s.setup := by
  unfold State.floodOut
  exact proj_foldl fun u x _ => coll_ite rfl rfl

theorem State.grpOut_setup (g m : Nat) : (s.grpOut g m).setup = s.setup := by
  unfold State.grpOut
  refine proj_foldl fun u o _ => ?_
  extract_lets n ins t
  have left : t.setup = u.setup := u.setFld_setup _ (fabGrp_not_setup n)
  clear_value t
  refine coll_ite (coll_ite left ?_) rfl
  split
  · exact (t.setFld_setup _ (fabGrp_not_setup n)).trans left
  · exact left

theorem State.nameSelfOut_setup : s.nameSelfOut.setup = s.setup := by
  unfold State.nameSelfOut
  refine coll_ite rfl ((State.floodOut_setup _ _ _).trans ((State.grpOut_setup _ _ _).trans (State.setFld_setup _ _ ?_)))
  simp only [Reg.Setup, F.fabGen, Reg.fabGen]
  omega

theorem State.fatalStop_setup : s.fatalStop.setup = s.setup := by
  unfold State.fatalStop
  exact coll_ite rfl ((State.record_setup _ _).trans (State.nameSelfOut_setup _))

theorem State.raise_setup (f : FaultReq) : (s.raise f).setup = s.setup := by
  unfold State.raise
  extract_lets was
  refine coll_ite rfl (coll_ite rfl ?_)
  have entered : (if (s.record f).2.isSome then (s.record f).1.overflowed else (s.record f).1).setup = s.setup :=
    coll_ite ((State.overflowed_setup _).trans (s.record_setup f)) (s.record_setup f)
  exact coll_ite ((State.fatalStop_setup _).trans entered) entered

end Sys2Proof.Machine
end

section
/-! A node that may complete, or not yet (R79, R89): in either case Meridian and tile memory stay as they are. -/

namespace Sys2Proof.Machine

variable (s : State)

theorem mer_of_work {s t : State} (h : t.work = s.work) : t.mer = s.mer := congrArg (fun w => w.2.mer) h

theorem mer_of_rest {s t : State} (h : t.rest = s.rest) : t.mer = s.mer := (congrArg State.mer h :)

theorem State.applyVs_mer : s.applyVs.mer = s.mer := by
  obtain ⟨owners, h⟩ := s.applyVs_lit
  rw [h]

theorem State.addWait_mer (w : Wait) : (s.addWait w).mer = s.mer := by
  obtain ⟨n, l, h⟩ := s.ctrSettle_lit w.counter
  unfold State.addWait
  rw [h]

theorem State.finish_mer (c : Nat) (e : Entry) (status detail result : Nat) (chan : Option Nat) (after : After) :
    (s.finish c e status detail result chan after).mer = s.mer := by
  unfold State.finish
  dsimp only
  refine coll_ite ((mer_of_work (State.afterRec_work _ _ _)).trans ?_) ((mer_of_work (State.emit_work _ _)).trans rfl)
  split
  · exact (mer_of_rest (State.event_rest _ _)).trans rfl
  · rfl

theorem State.nodeRec_mer (g : Graph) (n : Node) : (s.nodeRec g n).mer = s.mer := by
  unfold State.nodeRec
  dsimp only
  refine coll_ite (mer_of_work (State.emit_work _ _)) ?_
  split
  · exact mer_of_rest (s.event_rest _)
  · rfl

theorem State.cvuDone_mer (g : Graph) (n : Node) : (s.cvuDone g n).mer = s.mer := by
  simp only [State.cvuDone, State.wrap, State.setFld_frame]

theorem State.endGraph_mer (g : Graph) : (s.endGraph g).mer = s.mer := by
  unfold State.endGraph
  split
  · dsimp only
    split <;> exact State.finish_mer _ _ _ _ _ _ _ _
  · rfl

theorem State.endEntryGraph_mer (g : Graph) (n : Node) : (s.endEntryGraph g n).mer = s.mer := by
  unfold State.endEntryGraph
  split
  · exact (State.finish_mer _ _ _ _ _ _ _ _).trans (coll_ite (State.cvuDone_mer _ g n) rfl)
  · rfl

theorem State.retire_mer (g : Graph) (n : Node) : (s.retire g n).mer = s.mer := by
  unfold State.retire
  exact (State.applyVs_mer _).trans ((State.nodeRec_mer _ _ _).trans (coll_ite (State.cvuDone_mer _ g n) rfl))

theorem State.graphDone_mer (g : Nat) : (s.graphDone g).mer = s.mer := by
  rcases s.graphDone_cases g with h | ⟨x, -, h⟩
  · rw [h]
  · rw [h]; exact s.endGraph_mer x

theorem State.markReady_mer : s.markReady.mer = s.mer := by
  unfold State.markReady
  exact coll_ite ((proj_foldl (p := State.mer) fun t w _ => t.addWait_mer w).trans rfl) rfl

theorem State.completeNode_mer (g n : Nat) : (s.completeNode g n).mer = s.mer := by
  unfold State.completeNode
  split
  · next gr nd _ _ =>
    have stages : ((gr.stages nd).foldl (fun t m => t.retire gr m) s).mer = s.mer := proj_foldl (p := State.mer) fun t m _ => t.retire_mer gr m
    exact coll_ite (s.endEntryGraph_mer gr nd)
      ((State.markReady_mer _).trans ((State.graphDone_mer _ _).trans ((State.retire_mer _ _ _).trans stages)))
  · rfl

theorem State.nodeCompletes_cases (g n : Nat) : s.nodeCompletes g n = s
    ∨ ∃ gr nd, s.graph g = some gr ∧ s.node g n = some nd ∧ s.nodeCompletes g n = s.completeNode g n := by
  unfold State.nodeCompletes
  split
  · next gr nd hg hn =>
    split
    · exact .inr ⟨gr, nd, hg, hn, rfl⟩
    · exact .inl rfl
  · exact .inl rfl

theorem State.nodeCompletes_leaves (g n : Nat) : (s.nodeCompletes g n).tile = s.tile ∧ (s.nodeCompletes g n).mer = s.mer
    ∧ ((s.nodeCompletes g n).node g n = none ∨ (s.nodeCompletes g n).node g n = s.node g n) := by
  rcases s.nodeCompletes_cases g n with h | ⟨gr, nd, hg, hn, h⟩
  · rw [h]; exact ⟨rfl, rfl, .inr rfl⟩
  · have hi : nd.idx = n := by
      obtain ⟨x, -, hx⟩ := Option.bind_eq_some_iff.1 hn
      simpa using List.find?_some hx
    obtain ⟨gone, tile, -⟩ := s.completeNode_over g n gr nd hg hn hi
    rw [h]
    exact ⟨tile, s.completeNode_mer g n, .inl (nodeOver_node _ gone)⟩

end Sys2Proof.Machine
end

section
/-! A write of tile memory that no node makes leaves the graphs as they are (R291). -/

namespace Sys2Proof.Machine

variable {s : State} {q : Req} {id : Nat} {gs : List Graph}

theorem accFault_graphs (unit cause : Nat) (w : Bool) (xva : Nat) : Holding State.graphs gs (accFault q unit cause w xva) := by
  unfold accFault
  refine holding_get fun s hs => holding_bind (holding_set (Eq.trans ?_ hs)) fun _ => holding_pure
  simp only [State.raise_frame]

theorem wordCheck_graphs (u d : Nat) (w : List (Nat × Byte)) : Holding State.graphs gs (wordCheck q u d w) := by
  unfold wordCheck
  refine holding_get fun s hs => ?_
  dsimp only
  split
  · refine holding_bind (holding_set hs) fun _ => ?_
    split
    · exact holding_bind (accFault_graphs _ _ _ _) fun _ => holding_throw
    · exact holding_pure
  · exact holding_pure

theorem eccCheck_graphs (hq : q.who = .entry id) (a n : Nat) (w : Bool) : Holding State.graphs gs (eccCheck q a n w) := by
  unfold eccCheck
  refine holding_get fun s hs => ?_
  dsimp only
  split
  · exact holding_bind (accFault_graphs _ _ _ _) fun _ => holding_throw
  · rw [hq]
    exact holding_forM fun e => holding_get fun u hu => holding_bind (holding_set hu) fun _ =>
      holding_bind (accFault_graphs _ _ _ _) fun _ => holding_pure

theorem tilePut_graphs (hq : q.who = .entry id) (l : List (Nat × Byte)) : (s.tilePut q l).graphs = s.graphs := by
  have stored (no : Nat) (old : List TileOld) :
      (l.foldl (fun (s : State) c => s.setTileByte c.1 c.2) { s with tileNo := no, tileOld := old }).graphs = s.graphs :=
    proj_foldl (p := State.graphs) fun _ _ _ => rfl
  unfold State.tilePut
  rw [hq]
  exact coll_ite (stored _ _) (stored _ _)

theorem tileStore_graphs (hq : q.who = .entry id) (a : Nat) (b : List Byte) : Holding State.graphs gs (tileStore q a b) := by
  unfold tileStore
  refine holding_forM fun _ => ?_
  unfold tileWord
  refine holding_get fun s hs => holding_bind (wordCheck_graphs _ _ _) fun _ => ?_
  exact holding_bind (holding_forM fun _ => eccCheck_graphs hq _ _ _) fun _ => holding_modify fun u => tilePut_graphs hq _

/-- A write that is no node's stores its bytes, and beside them changes only what the order of accesses keeps (R291). -/
theorem tileWrite_entry (hq : q.who = .entry id) {a : Nat} {l : List Byte} (h : s.tileOkRange q.t true a l.length = true)
    (hu : s.upsets.contains q.unit = false) (he : s.eccIn a l.length = []) :
    ∃ no old, (tileWrite q a l).on s = (.ok (), { s.tileWr a l with tileNo := no, tileOld := old }) := by
  obtain ⟨no, old, gs, write⟩ := tileWrite_clean h hu he
  have store := write
  unfold tileWrite at store
  rw [on_bind_ok (tileCheck_ok h)] at store
  have graphs := tileStore_graphs hq a l s rfl
  rw [store] at graphs
  obtain ⟨m, lit⟩ := s.tileWr_lit a l
  have same : gs = (s.tileWr a l).graphs := by rw [lit]; exact graphs
  rw [same] at write
  exact ⟨no, old, write⟩

end Sys2Proof.Machine
end

section
/-! What an ephemeris entry leaves as it is when it re-arms or retires (R355). -/

namespace Sys2Proof.Machine

variable {s t u : State}

/-- `t` differs from `s` in the table of entries, in XH_EPH_STATUS and in the count of periods that tenant `v` has skipped alone. -/
structure Rearmed (s : State) (v : Nat) (t : State) : Prop where
  lit : ∃ l r, t = { s with mer := { s.mer with eph := l }, regs := r }
  regs : ∀ o, o ≠ Reg.ephStatus → o ≠ (F.ephSkip v).off → t.reg o = s.reg o

theorem Rearmed.trans {v : Nat} (h : Rearmed s v t) (k : Rearmed t v u) : Rearmed s v u where
  lit := by
    obtain ⟨l, r, rfl⟩ := h.lit
    obtain ⟨l', r', rfl⟩ := k.lit
    exact ⟨l', r', rfl⟩
  regs o h1 h2 := (k.regs o h1 h2).trans (h.regs o h1 h2)

theorem setEph_rearmed (l : List Eph) (v : Nat) : Rearmed s v (s.setEph l) where
  lit := ⟨l, _, rfl⟩
  regs o h1 _ := by
    unfold State.setEph State.setFld
    rw [State.reg_setReg, if_neg (show F.ephUsed.off ≠ o from Ne.symm h1)]
    rfl

theorem ephSkip_rearmed (v k : Nat) : Rearmed s v (s.sat (F.ephSkip v) k) where
  lit := ⟨s.mer.eph, _, rfl⟩
  regs o _ h2 := by
    unfold State.sat State.setFld
    rw [State.reg_setReg, if_neg (Ne.symm h2)]

theorem State.ephArm_tenant {e x : Eph} {k : Nat} (h : s.ephArm e = some (x, k)) : x.tenant = e.tenant := by
  unfold State.ephArm at h
  extract_lets p at h
  split at h
  · obtain ⟨rfl, -⟩ := Prod.mk.inj (Option.some.inj h)
    rfl
  · split at h
    · cases h
    · obtain ⟨rfl, -⟩ := Prod.mk.inj (Option.some.inj h)
      rfl

theorem ephNext_rearmed (e : Eph) : Rearmed s e.tenant (s.ephNext e) := by
  unfold State.ephNext
  have out := setEph_rearmed (s := s) (s.mer.eph.filter (·.idx != e.idx)) e.tenant
  generalize s.setEph (s.mer.eph.filter (·.idx != e.idx)) = t at out
  dsimp only
  split
  · exact out
  · split
    · next x k hx =>
      rw [State.ephArm_tenant hx]
      have back := out.trans (setEph_rearmed (t.mer.eph ++ [x]) e.tenant)
      split
      · exact back
      · exact back.trans (ephSkip_rearmed e.tenant k)
    · exact out

theorem ephNext_once {e : Eph} (h : e.period = 0) : s.ephNext e = s.setEph (s.mer.eph.filter (·.idx != e.idx)) := by
  unfold State.ephNext
  rw [h]
  rfl

theorem Rearmed.fld {v : Nat} (h : Rearmed s v t) {f : Fld} (h1 : f.off ≠ Reg.ephStatus) (h2 : f.off ≠ (F.ephSkip v).off) : t.fld f = s.fld f :=
  congrArg (fun w : W64 => bits w.toNat f.lo f.w) (h.regs f.off h1 h2)

/-- The partition check of a tenant reads its partition's registers and those of the shared one (R194). -/
theorem Rearmed.tileOkRange {v : Nat} (h : Rearmed s v t) (hv : v < 8) : t.tileOkRange v = s.tileOkRange v := by
  have shared : t.reg Reg.tmShared = s.reg Reg.tmShared := by
    refine h.regs _ (by decide) ?_
    simp only [F.ephSkip, F.tenCnt, Reg.tmShared, Reg.ten]
    omega
  have own : t.reg (Reg.ten v 0x30) = s.reg (Reg.ten v 0x30) := by
    refine h.regs _ ?_ ?_
    · simp only [Reg.ephStatus, Reg.ten]
      omega
    · simp only [F.ephSkip, F.tenCnt, Reg.ten]
      omega
  have one (w : Bool) (a : Nat) : t.tileOk v w a = s.tileOk v w a := by
    unfold State.tileOk State.inOwn State.inShared State.fld F.tmEn F.tmBase F.tmLimit F.shrEn F.shrBase F.shrLimit F.shrWrEn F.shrLoader F.shrRdMask
    dsimp only
    rw [shared, own]
  funext w a n
  simp only [State.tileOkRange, one]

/-- A due entry has left its place in the table, at the moment `m` of its position: nothing else of the state, but the time and the registers
of the table, has changed yet. -/
structure AtDue (s : State) (m : Nat) (e : Eph) (t : State) : Prop where
  aon : t.aon = Nat.max s.aon m
  tile : t.tile = s.tile
  counters : t.counters = s.counters
  now : t.ctrNow = s.ctrNow
  graphs : t.graphs = s.graphs
  ecc : t.ecc = s.ecc
  upsets : t.upsets = s.upsets
  due : t.mer.due = s.mer.due
  range : e.tenant < 8 → t.tileOkRange e.tenant = s.tileOkRange e.tenant
  misses : e.tenant < 8 → t.fld (F.dlMiss e.tenant) = s.fld (F.dlMiss e.tenant)
  once : e.period = 0 → t.mer.eph = s.mer.eph.filter (·.idx != e.idx)

theorem ephNext_atDue (m : Nat) (e : Eph) : AtDue s m e ((s.advanceTo m).ephNext e) := by
  have moved := ephNext_rearmed (s := s.advanceTo m) e
  have once (h : e.period = 0) : ((s.advanceTo m).ephNext e).mer.eph = s.mer.eph.filter (·.idx != e.idx) := by
    rw [ephNext_once h]
    rfl
  generalize (s.advanceTo m).ephNext e = t at moved once
  have regs (hv : e.tenant < 8) := moved.tileOkRange hv
  have misses (hv : e.tenant < 8) : t.fld (F.dlMiss e.tenant) = s.fld (F.dlMiss e.tenant) := by
    refine moved.fld (f := F.dlMiss e.tenant) ?_ ?_
    · simp only [F.dlMiss, F.tenCnt, Reg.ephStatus, Reg.ten]
      omega
    · simp [F.dlMiss, F.ephSkip, F.tenCnt, Reg.ten]
  obtain ⟨l, r, rfl⟩ := moved.lit
  exact ⟨s.advanceTo_aon m, rfl, rfl, rfl, rfl, rfl, rfl, rfl, regs, misses, once⟩

end Sys2Proof.Machine
end

section
/-! Ephemeris entries act (O43): each row is the re-arming of its entry and, in X0, the entry's action behind it. -/

namespace Sys2Proof.Machine

variable {s t : State} {e : Eph} {m : Nat}

/-- The due action of an entry now: the entry with the time and the position of the edge (R354, R358). -/
def State.dueNow (s : State) (e : Eph) : EphDue := ⟨e, (s.stampOf e.base).ns, (s.stampOf e.base).pos, (s.stampOf e.base).hold⟩

theorem State.ephDue_first {idx k : Nat} (hf : s.mer.eph.find? (fun x => x.idx == idx && x.action == k) = some e)
    (hr : s.reachAt e.base e.pos = some m) (hu : s.merUp = true) (h1 : s.ephFirst e = true) : s.ephDue idx k = some (e, s.advanceTo m) := by
  unfold State.ephDue
  simp only [hf, hr, hu, h1, Bool.and_self, if_true]

theorem action_of_find {idx k : Nat} {l : List Eph} (h : l.find? (fun x => x.idx == idx && x.action == k) = some e) : e.action = k := by
  have here := List.find?_some h
  rw [Bool.and_eq_true] at here
  exact eq_of_beq here.2

/-- In X1 the action waits (R358). -/
theorem State.ephFire_waits (h : s.phase = .x1) :
    s.ephFire e = (s.ephNext e).setMer { (s.ephNext e).mer with due := (s.ephNext e).mer.due ++ [s.dueNow e] } := by
  obtain ⟨l, r, lit⟩ := (ephNext_rearmed (s := s) e).lit
  have phase : (s.ephNext e).phase = .x1 := by rw [lit]; exact h
  unfold State.ephFire
  dsimp only
  rw [phase]
  rfl

theorem ephNext_runs (h : s.phase = .x0) (hc : s.pins.clkRun = true) :
    ((s.ephNext e).phase == .x1 || !(s.ephNext e).pins.clkRun) = false := by
  obtain ⟨l, r, lit⟩ := (ephNext_rearmed (s := s) e).lit
  rw [lit]
  simp [h, hc]

theorem State.ephFire_acts (h : s.phase = .x0) (hc : s.pins.clkRun = true) : s.ephFire e = (s.ephNext e).ephAct (s.dueNow e) := by
  unfold State.ephFire
  dsimp only
  rw [ephNext_runs h hc]
  rfl

/-- An add reaches counter `c`, alone in its XCLK or with what has reached it there, and no other counter (R283). -/
structure Adds (s : State) (c : Nat) (v : W32) (t : State) : Prop where
  alone : s.ctrNow.find? (·.counter == c) = none → t.counter c = s.counter c + v
  joins : ∀ x : CtrNow, s.ctrNow.find? (·.counter == c) = some x →
    t.counter c = (x.push none v).stands.getLastD 0 ∨ t.counter c = s.counter c + v
  others : ∀ d, d ≠ c → t.counter d = s.counter d

theorem counter_of_counters (h : t.counters = s.counters) : t.counter = s.counter := by
  unfold State.counter
  rw [h]

theorem addCounter_adds (hc : t.counters = s.counters) (hn : t.ctrNow = s.ctrNow) (c : Nat) (v : W32) : Adds s c v (t.addCounter c v) := by
  have same := counter_of_counters hc
  refine ⟨fun h => ?_, fun x hx => ?_, fun d hd => ?_⟩
  · rw [← same]
    exact t.ctrOp_alone c none v (by rw [hn]; exact h)
  · rw [← same]
    exact t.ctrOp_joins c none v x (by rw [hn]; exact hx)
  · rw [← same]
    exact t.counter_ctrOp_ne c d none v (Ne.symm hd)

theorem Adds.of_counters {c : Nat} {v : W32} {u : State} (h : Adds s c v t) (hc : u.counters = t.counters) : Adds s c v u := by
  obtain ⟨alone, joins, others⟩ := h
  rw [← counter_of_counters hc] at alone joins others
  exact ⟨alone, joins, others⟩

/-- EPH_ADD's action (R354). -/
theorem State.ephAct_add {d : EphDue} (h : d.e.action = 1) : s.ephAct d = s.addCounter d.e.counter d.e.value := by
  unfold State.ephAct
  dsimp only
  rw [h]
  rfl

theorem ephRecord_length (d : EphDue) : (ephRecord d).length = 16 := by
  simp [ephRecord, leBytes]

/-- EPH_STAMP's action (R354): the record lands in its slot of the ring, and nothing else changes. -/
theorem State.ephAct_stamp {d : EphDue} (h : d.e.action = 2) (hu : s.upsets.contains 0xDC = false)
    (ho : s.tileOkRange d.e.tenant true (d.e.stBase + 16 * (d.e.fires % 2 ^ d.e.stLog2)) 16 = true)
    (he : s.eccIn (d.e.stBase + 16 * (d.e.fires % 2 ^ d.e.stLog2)) 16 = []) :
    ∃ no old, s.ephAct d
      = { s.tileWr (d.e.stBase + 16 * (d.e.fires % 2 ^ d.e.stLog2)) (ephRecord d) with tileNo := no, tileOld := old } := by
  have length := ephRecord_length d
  obtain ⟨no, old, write⟩ := tileWrite_entry (q := { t := d.e.tenant, unit := 0xDC, who := .entry 0 }) (l := ephRecord d) rfl
    (by rw [length]; exact ho) hu (by rw [length]; exact he)
  refine ⟨no, old, ?_⟩
  unfold State.ephAct
  simp only [h, write]

/-- A deadline that is met has no effect (R354). -/
theorem State.ephAct_met {d : EphDue} (h : d.e.action = 3) (hr : reached (s.counter d.e.counter) d.e.value = true) : s.ephAct d = s := by
  unfold State.ephAct
  dsimp only
  rw [h]
  exact if_pos hr

/-- A deadline that is missed: an add to its second counter, a miss counted, and the reports of it (R354). -/
theorem State.ephAct_missed {d : EphDue} (h : d.e.action = 3) (hr : reached (s.counter d.e.counter) d.e.value = false) :
    (s.ephAct d).rest = (s.addCounter d.e.missCounter 1).rest
      ∧ (d.e.tenant < 8 → (s.ephAct d).fld (F.dlMiss d.e.tenant) = Nat.min (2 ^ 64 - 1) (s.fld (F.dlMiss d.e.tenant) + 1)) := by
  have act : s.ephAct d
      = (if d.e.missFault then (((s.addCounter d.e.missCounter 1).sat (F.dlMiss d.e.tenant)).event (ctxVector d.e.tenant)).merFault 0x32
        else ((s.addCounter d.e.missCounter 1).sat (F.dlMiss d.e.tenant)).event (ctxVector d.e.tenant)) := by
    unfold State.ephAct
    dsimp only
    rw [h]
    exact if_neg (by simp [hr])
  have same : (s.addCounter d.e.missCounter 1).fld (F.dlMiss d.e.tenant) = s.fld (F.dlMiss d.e.tenant) :=
    fld_of_regs (by simp only [State.addCounter_frame]) _
  rw [act]
  generalize s.addCounter d.e.missCounter 1 = t at same
  have counted := t.fld_sat_self (F.dlMiss d.e.tenant) 1 (by simp [F.dlMiss, F.tenCnt])
  refine ⟨?_, fun hv => ?_⟩
  · exact coll_ite ((State.raise_rest _ _).trans (State.event_rest _ _)) (State.event_rest _ _)
  · have told := ((t.sat (F.dlMiss d.e.tenant)).event_setup (v := ctxVector d.e.tenant) (by unfold ctxVector; omega))
    have place : Reg.Setup (F.dlMiss d.e.tenant).off := by
      simp only [Reg.Setup, F.dlMiss, F.tenCnt, Reg.ten]
      omega
    refine (fld_of_setup (s := t.sat (F.dlMiss d.e.tenant)) (coll_ite ((State.raise_setup _ _).trans told) told) place).trans (counted.trans ?_)
    rw [same]
    rfl

/-- A TIMED node that is released (R356). -/
def Node.released (x : Node) : Node := { x with st := .between, slices := [], status := 1 }

/-- The release of a node: its one slice is over and counts (R354, R356). -/
def State.released (s : State) (g n : Nat) : State := (s.modNode g n Node.released).countSlice g n

theorem State.timedRelease_live {g n : Nat} (h : (s.graph g).any (fun x => x.fail.isNone && x.stopped.isNone) = true) :
    s.timedRelease g n = s.released g n := by
  unfold State.timedRelease
  rw [h]
  rfl

theorem State.released_node (g n : Nat) : (s.released g n).node g n = (s.node g n).map (fun x => { x.released with run := x.run + 1 }) := by
  unfold State.released
  rw [State.node_countSlice, s.node_modNode g n Node.released fun _ => rfl, Option.map_map]
  rfl

theorem State.released_frame (g n : Nat) : (s.released g n).aon = s.aon ∧ (s.released g n).tile = s.tile ∧ (s.released g n).mer = s.mer :=
  ⟨rfl, rfl, rfl⟩

/-- A node that is released completes if it can, and stands as released if it cannot (R79). -/
theorem State.released_completes (g n : Nat) : ((s.released g n).nodeCompletes g n).aon = s.aon
    ∧ ((s.released g n).nodeCompletes g n).tile = s.tile ∧ ((s.released g n).nodeCompletes g n).mer = s.mer
    ∧ ∀ x : Node, ((s.released g n).nodeCompletes g n).node g n = some x → x.st = .between ∧ x.slices = [] ∧ x.status = 1 := by
  have node := s.released_node g n
  obtain ⟨aon, tile, mer⟩ := s.released_frame g n
  generalize s.released g n = t at node aon tile mer
  obtain ⟨tile', mer', left⟩ := t.nodeCompletes_leaves g n
  refine ⟨(t.nodeCompletes_aon g n).trans aon, tile'.trans tile, mer'.trans mer, fun x hx => ?_⟩
  rcases left with gone | stays
  · rw [gone] at hx
    cases hx
  · rw [stays, node] at hx
    obtain ⟨y, -, rfl⟩ := Option.map_eq_some_iff.1 hx
    exact ⟨rfl, rfl, rfl⟩

theorem State.releaseDue_acts {g n : Nat} (h : s.phase = .x0) (hc : s.pins.clkRun = true) (hn : e.node = some (g, n)) :
    s.releaseDue e = ((s.ephNext e).timedRelease g n).nodeCompletes g n := by
  unfold State.releaseDue
  dsimp only
  rw [ephNext_runs h hc, hn]
  rfl

/-- A row whose entry is due runs it at the moment of its position, and the entry acts in X0. -/
theorem State.ephRow_fires {idx k : Nat} (hf : s.mer.eph.find? (fun x => x.idx == idx && x.action == k) = some e)
    (hr : s.reachAt e.base e.pos = some m) (hu : s.merUp = true) (h1 : s.ephFirst e = true) (hk : k ≠ 0) :
    s.ephRow idx k = (s.advanceTo m).ephFire e := by
  unfold State.ephRow
  rw [State.ephDue_first hf hr hu h1]
  exact if_neg hk

theorem State.ephRow_releases {idx : Nat} (hf : s.mer.eph.find? (fun x => x.idx == idx && x.action == 0) = some e)
    (hr : s.reachAt e.base e.pos = some m) (hu : s.merUp = true) (h1 : s.ephFirst e = true) :
    s.ephRow idx 0 = (s.advanceTo m).releaseDue e := by
  unfold State.ephRow
  rw [State.ephDue_first hf hr hu h1]
  rfl

/-- EPH_ADD at its moment. -/
theorem AtDue.add {d : EphDue} (h : AtDue s m d.e t) (ha : d.e.action = 1) :
    (t.ephAct d).aon = Nat.max s.aon m ∧ Adds s d.e.counter d.e.value (t.ephAct d) ∧ (t.ephAct d).tile = s.tile
      ∧ (t.ephAct d).graphs = s.graphs ∧ (d.e.period = 0 → (t.ephAct d).mer.eph = s.mer.eph.filter (·.idx != d.e.idx)) := by
  rw [State.ephAct_add ha]
  refine ⟨?_, addCounter_adds h.counters h.now _ _, ?_, ?_, fun hp => ?_⟩
  all_goals simp only [State.addCounter_frame]
  · exact h.aon
  · exact h.tile
  · exact h.graphs
  · exact h.once hp

/-- EPH_STAMP at its moment. -/
theorem AtDue.stamp {d : EphDue} (h : AtDue s m d.e t) (hv : d.e.tenant < 8) (ha : d.e.action = 2)
    (ho : s.tileOkRange d.e.tenant true (d.e.stBase + 16 * (d.e.fires % 2 ^ d.e.stLog2)) 16 = true)
    (he : s.eccIn (d.e.stBase + 16 * (d.e.fires % 2 ^ d.e.stLog2)) 16 = []) (hu : s.upsets.contains 0xDC = false) :
    (t.ephAct d).aon = Nat.max s.aon m
      ∧ (t.ephAct d).tileRd (d.e.stBase + 16 * (d.e.fires % 2 ^ d.e.stLog2)) 16 = ephRecord d
      ∧ (∀ a, a < d.e.stBase + 16 * (d.e.fires % 2 ^ d.e.stLog2) ∨ d.e.stBase + 16 * (d.e.fires % 2 ^ d.e.stLog2) + 16 ≤ a →
        (t.ephAct d).tileByte a = s.tileByte a)
      ∧ (t.ephAct d).counters = s.counters ∧ (t.ephAct d).graphs = s.graphs := by
  have clean : t.eccIn = s.eccIn := by
    unfold State.eccIn
    rw [h.ecc]
  obtain ⟨no, old, act⟩ := t.ephAct_stamp ha (by rw [h.upsets]; exact hu) (by rw [h.range hv]; exact ho) (by rw [clean]; exact he)
  have length := ephRecord_length d
  rw [act]
  generalize d.e.stBase + 16 * (d.e.fires % 2 ^ d.e.stLog2) = a
  have same : ({ t.tileWr a (ephRecord d) with tileNo := no, tileOld := old } : State).tileByte = (t.tileWr a (ephRecord d)).tileByte :=
    tileByte_of_tile rfl
  obtain ⟨tile, lit⟩ := t.tileWr_lit a (ephRecord d)
  refine ⟨?_, ?_, fun b hb => ?_, ?_, ?_⟩
  · rw [lit]
    exact h.aon
  · rw [tileRd_map, same, ← tileRd_map, ← length, State.tileRd_tileWr]
  · rw [same, State.tileByte_tileWr_off (by rw [length]; exact hb), tileByte_of_tile h.tile]
  · rw [lit]
    exact h.counters
  · rw [lit]
    exact h.graphs

/-- EPH_DEADLINE at its moment. -/
theorem AtDue.deadline {d : EphDue} (h : AtDue s m d.e t) (hv : d.e.tenant < 8) (ha : d.e.action = 3) :
    (t.ephAct d).aon = Nat.max s.aon m ∧ (t.ephAct d).tile = s.tile
      ∧ (reached (s.counter d.e.counter) d.e.value = true → (t.ephAct d).counters = s.counters)
      ∧ (reached (s.counter d.e.counter) d.e.value = false → Adds s d.e.missCounter 1 (t.ephAct d)
        ∧ (t.ephAct d).fld (F.dlMiss d.e.tenant) = Nat.min (2 ^ 64 - 1) (s.fld (F.dlMiss d.e.tenant) + 1)) := by
  rw [← counter_of_counters h.counters]
  cases hr : reached (t.counter d.e.counter) d.e.value with
  | true =>
    rw [State.ephAct_met ha hr]
    exact ⟨h.aon, h.tile, fun _ => h.counters, nofun⟩
  | false =>
    obtain ⟨rest, missed⟩ := State.ephAct_missed ha hr
    have adds := addCounter_adds h.counters h.now d.e.missCounter 1
    have aon : (t.ephAct d).aon = (t.addCounter d.e.missCounter 1).aon := (congrArg State.aon rest :)
    have tile : (t.ephAct d).tile = (t.addCounter d.e.missCounter 1).tile := (congrArg State.tile rest :)
    simp only [State.addCounter_frame] at aon tile
    refine ⟨aon.trans h.aon, tile.trans h.tile, nofun, fun _ => ⟨adds.of_counters (congrArg State.counters rest :), ?_⟩⟩
    rw [missed hv, h.misses hv]

/-- EPH_RELEASE at its moment. -/
theorem AtDue.release {g n : Nat} (h : AtDue s m e t) (hp : e.period = 0)
    (hg : (s.graph g).any (fun x => x.fail.isNone && x.stopped.isNone) = true) :
    ((t.timedRelease g n).nodeCompletes g n).aon = Nat.max s.aon m
      ∧ (∀ x ∈ ((t.timedRelease g n).nodeCompletes g n).mer.eph, x.idx ≠ e.idx) ∧ ((t.timedRelease g n).nodeCompletes g n).tile = s.tile
      ∧ ∀ x : Node, ((t.timedRelease g n).nodeCompletes g n).node g n = some x → x.st = .between ∧ x.slices = [] ∧ x.status = 1 := by
  have graph : t.graph g = s.graph g := by
    unfold State.graph
    rw [h.graphs]
  rw [State.timedRelease_live (by rw [graph]; exact hg)]
  obtain ⟨aon, tile, mer, node⟩ := t.released_completes g n
  refine ⟨aon.trans h.aon, fun x hx => ?_, tile.trans h.tile, node⟩
  rw [mer, h.once hp] at hx
  simpa using (List.mem_filter.1 hx).2

/-- Settles O43: each row re-arms its entry at the moment of its position (`ephNext_atDue`), and its action follows, or waits in X1. -/
theorem ephemerisEntriesFire : Obligations.EphemerisEntriesFire := by
  unfold Obligations.EphemerisEntriesFire
  intro s idx m e hu hr h1 hv
  have moment := ephNext_atDue (s := s) m e
  have waits (h : s.phase = .x1) := State.ephFire_waits (s := s.advanceTo m) (e := e) h
  have acts (h : s.phase = .x0) (hc : s.pins.clkRun = true) := State.ephFire_acts (s := s.advanceTo m) (e := e) h hc
  have releases (g n : Nat) (h : s.phase = .x0) (hc : s.pins.clkRun = true) (hn : e.node = some (g, n)) :=
    State.releaseDue_acts (s := s.advanceTo m) h hc hn
  generalize (s.advanceTo m).ephNext e = t at moment waits acts releases
  refine ⟨fun hf hx => ?waits, fun hx hc =>
    ⟨fun hf => ?add, fun hf ho he hup => ?stamp, fun hf => ?deadline, fun g n hf hn hp hg => ?release⟩⟩
  case waits =>
    refine ⟨s.ephRow idx 1, rfl, ?_⟩
    rw [State.ephRow_fires hf hr hu h1 (by decide), waits hx]
    exact ⟨moment.aon, moment.counters, moment.tile, congrArg (· ++ _) moment.due⟩
  case add =>
    refine ⟨s.ephRow idx 1, rfl, ?_⟩
    rw [State.ephRow_fires hf hr hu h1 (by decide), acts hx hc]
    obtain ⟨aon, adds, tile, graphs, once⟩ := moment.add (d := (s.advanceTo m).dueNow e) (action_of_find hf)
    exact ⟨aon, adds.alone, adds.joins, adds.others, tile, graphs, once⟩
  case stamp =>
    refine ⟨s.ephRow idx 2, rfl, ?_⟩
    rw [State.ephRow_fires hf hr hu h1 (by decide), acts hx hc]
    exact moment.stamp (d := (s.advanceTo m).dueNow e) hv (action_of_find hf) ho he hup
  case deadline =>
    refine ⟨s.ephRow idx 3, rfl, ?_⟩
    rw [State.ephRow_fires hf hr hu h1 (by decide), acts hx hc]
    obtain ⟨aon, tile, met, missed⟩ := moment.deadline (d := (s.advanceTo m).dueNow e) hv (action_of_find hf)
    refine ⟨aon, tile, met, fun hm => ?_⟩
    obtain ⟨adds, counted⟩ := missed hm
    exact ⟨adds.alone, adds.joins, adds.others, counted⟩
  case release =>
    refine ⟨s.ephRow idx 0, rfl, ?_⟩
    rw [State.ephRow_releases hf hr hu h1, releases g n hx hc hn]
    exact moment.release hp hg

end Sys2Proof.Machine
end

section
/-! Registers that command the relay's ports (R430, R431): the write of a field that only triggers, and the key slots (O23). -/

namespace Sys2Proof.Machine

variable (s : State)

@[simp] theorem State.port_modPort (p : Nat) (f : Port → Port) : (s.modPort p f).port p = f (s.port p) := s.port_setPort p _

theorem State.port_modPort_ne {p k : Nat} (f : Port → Port) (h : k ≠ p) : (s.modPort p f).port k = s.port k :=
  s.port_setPort_ne p k _ h.symm

/-- The state in which a register has been written with the value that it holds: it reads as before. -/
def State.rewritten (s : State) (off : Nat) : State := s.setReg off (s.reg off)

@[simp] theorem State.reg_rewritten (o k : Nat) : (s.rewritten o).reg k = s.reg k := by
  rw [State.rewritten, State.reg_setReg]
  split
  · next h => rw [h]
  · rfl

@[simp] theorem State.fld_rewritten (o : Nat) (f : Fld) : (s.rewritten o).fld f = s.fld f := s.fld_setReg_same o f

/-- A register of triggers has no bit of a type that holds a value. -/
theorem mask_of_triggers {off : Nat} {q : FSpec → Bool} (h : ∀ f ∈ Reg.specs off, q f = false) : Reg.mask off q = 0 := by
  rw [Reg.mask, List.filter_eq_nil_iff.2 fun f hf => by simp [h f hf]]
  rfl

/-- A write to a register of triggers in the ports' windows changes no register by itself, and has its effect (R6, R430, R431). -/
theorem State.hostWrite_trigger {off : Nat} (v : W64) (hw : s.windowOpen = true) (hc : s.pins.clkRun = true) (h8 : off % 8 = 0)
    (hoff : 0x50100 ≤ off ∧ off < 0x50A00) (hwo : ∀ f ∈ Reg.specs off, f.t = .wo ∧ f.e = false) :
    s.hostWrite off 8 v = (s.rewritten off).wrote off (~~~0) v (s.reg off) := by
  have rw0 : Reg.mask off (·.t == .rw) = 0 := mask_of_triggers fun f hf => by rw [(hwo f hf).1]; rfl
  have rwl0 : Reg.mask off (·.t == .rwl) = 0 := mask_of_triggers fun f hf => by rw [(hwo f hf).1]; rfl
  have w1c0 : Reg.mask off (·.t == .w1c) = 0 := mask_of_triggers fun f hf => by rw [(hwo f hf).1]; rfl
  have e0 : Reg.mask off (·.e) = 0 := mask_of_triggers fun f hf => (hwo f hf).2
  have debug : Reg.debug off = false := by
    simp only [Reg.debug, Reg.dbgCtrl, Reg.dbgPeek, Bool.or_eq_false_iff, beq_eq_false_iff_ne, Bool.and_eq_false_iff,
      decide_eq_false_iff_not]
    omega
  have live : ∀ ch, s.baseLive off ch = false := by
    intro ch
    rw [State.baseLive, decide_eq_false (p := 0x60000 ≤ off) (by omega)]
    rfl
  have legal : ∀ new : W64, Reg.legal off (s.reg off) new = true := by
    intro new
    simp only [Reg.legal, Bool.and_eq_true, List.all_eq_true, Bool.or_eq_true, bne_iff_ne]
    exact ⟨fun f hf => by simp [(hwo f hf).1], .inl (by simp only [Reg.bwCfg]; omega)⟩
  have kept : ∀ m locked, Reg.written off (s.reg off) v m locked = s.reg off := by
    intro m locked
    simp only [Reg.written, rw0, rwl0, w1c0, ite_self, BitVec.ofNat_eq_ofNat, BitVec.and_zero, BitVec.or_zero, BitVec.not_zero,
      BitVec.and_allOnes]
  rw [s.hostWrite_word off v hw hc h8 (by omega), s.regWrite_accepted off _ v _ rfl debug (s.eMarked_none _ _ e0) (live _) (legal _)
    (by simp only [Reg.faultCfg]; omega) (by simp only [Reg.tmShared]; omega)
    (fun _ => ⟨by rw [rwl0]; exact BitVec.and_zero, by simp only [Reg.fqBase]; omega⟩), kept, State.rewritten]

-- key slots

@[simp] theorem State.keySlot_modKey (p sl : Nat) (f : KeySlot → KeySlot) : (s.modKey p sl f).keySlot p sl = f (s.keySlot p sl) := by
  simp [State.keySlot, State.modKey]

theorem State.keySlot_modKey_ne (p : Nat) {sl k : Nat} (f : KeySlot → KeySlot) (h : k ≠ sl) :
    (s.modKey p sl f).keySlot p k = s.keySlot p k := by
  simp [State.keySlot, State.modKey, Sparse.get_set_ne h.symm]

theorem State.port_modKey_ne {p q : Nat} (sl : Nat) (f : KeySlot → KeySlot) (h : q ≠ p) : (s.modKey p sl f).port q = s.port q :=
  s.port_modPort_ne _ h

/-- The register `op` of a key slot (R431). -/
theorem keyOp_specs (p : Fin 6) (sl : Fin 4) : Reg.specs (Reg.key p sl 0x28) = [⟨0, 2, .wo, false, 0, 3⟩] := by
  fin_cases p <;> fin_cases sl <;> rfl

theorem State.wrote_keyOp (p : Fin 6) (sl : Fin 4) (v was : W64) :
    s.wrote (Reg.key p sl 0x28) (~~~0) v was = s.keyWrite p sl 0x28 (~~~0) v := by
  fin_cases p <;> fin_cases sl <;> rfl

/-- A command for a key slot (R431). -/
theorem State.hostWrite_keyOp (p : Fin 6) (sl : Fin 4) (v : W64) (hw : s.windowOpen = true) (hc : s.pins.clkRun = true) :
    s.hostWrite (Reg.key p sl 0x28) 8 v = (s.rewritten (Reg.key p sl 0x28)).keyWrite p sl 0x28 (~~~0) v := by
  have place : Reg.key p sl 0x28 % 8 = 0 ∧ 0x50100 ≤ Reg.key p sl 0x28 ∧ Reg.key p sl 0x28 < 0x50A00 := by
    simp only [Reg.key]
    omega
  rw [s.hostWrite_trigger v hw hc place.1 place.2 (by simp [keyOp_specs]), State.wrote_keyOp]

theorem exec_keyLoad (p : Fin 6) (sl : Fin 4) (hw : s.windowOpen = true) (hc : s.pins.clkRun = true) :
    exec (.keyLoad p sl) s = .next ((s.rewritten (Reg.key p sl 0x28)).keyLoad p sl) :=
  congrArg Host.Outcome.next (s.hostWrite_keyOp p sl 1 hw hc)

theorem exec_keyClear (p : Fin 6) (sl : Fin 4) (hw : s.windowOpen = true) (hc : s.pins.clkRun = true) :
    exec (.keyClear p sl) s = .next ((s.rewritten (Reg.key p sl 0x28)).keyClear p sl) :=
  congrArg Host.Outcome.next (s.hostWrite_keyOp p sl 2 hw hc)

/-- The commands for the slot that the port transmits with are discarded and counted (R431). -/
theorem State.keyOp_refused {p sl : Nat} (h : s.fld (F.txKeySel p) = sl) :
    s.keyLoad p sl = s.sat F.badAcc ∧ s.keyClear p sl = s.sat F.badAcc := ⟨if_pos h, if_pos h⟩

/-- Settles O23: either command writes one slot, unless that slot transmits. -/
theorem keySlotsLoadAndClear : Obligations.KeySlotsLoadAndClear := by
  unfold Obligations.KeySlotsLoadAndClear
  refine ⟨fun s p sl hw hc hne => ⟨_, exec_keyLoad s p sl hw hc, ?load⟩, fun s p sl hw hc hne => ⟨_, exec_keyClear s p sl hw hc, ?clear⟩,
    fun s p sl hw hc heq => ?refused⟩
  case load =>
    rw [State.keyLoad, State.fld_rewritten, if_neg hne, State.keySlot_modKey, State.fld_rewritten]
    exact ⟨rfl, fun k hk => State.keySlot_modKey_ne _ p _ fun e => hk (Fin.ext e), fun q hq => State.port_modKey_ne _ sl _ hq,
      fun o => s.reg_rewritten _ o⟩
  case clear =>
    rw [State.keyClear, State.fld_rewritten, if_neg hne, State.keySlot_modKey]
    exact ⟨rfl, rfl, rfl, rfl, fun k hk => State.keySlot_modKey_ne _ p _ fun e => hk (Fin.ext e),
      fun q hq => State.port_modKey_ne _ sl _ hq, fun o => s.reg_rewritten _ o⟩
  case refused =>
    obtain ⟨load, clear⟩ := State.keyOp_refused (s.rewritten (Reg.key p sl 0x28)) ((s.fld_rewritten _ _).trans heq)
    have counted := (State.fld_sat_self (s.rewritten (Reg.key p sl 0x28)) F.badAcc 1 (by decide)).trans (by rw [s.fld_rewritten])
    refine ⟨⟨_, exec_keyLoad s p sl hw hc, ?_⟩, _, exec_keyClear s p sl hw hc, ?_⟩
    · rw [load]
      exact ⟨rfl, counted⟩
    · rw [clear]
      exact ⟨rfl, counted⟩

end Sys2Proof.Machine
end

section
/-! What the collector leaves alone when it records a fault, and what a report leaves of the ports (R29, R384, R401): their registers, and
each port but for the frames queued at it. -/

namespace Sys2Proof.Machine

/-- `p` sees nothing of what the collector writes when it records a fault: its registers and those of interrupts, its own state, the
outputs and the waiting messages. -/
structure BesideCollector {γ : Type} (p : State → γ) : Prop where
  reg : ∀ (s : State) (o : Nat) (v : W64), o < 0xC0 ∨ 0x70000 ≤ o → p (s.setReg o v) = p s
  coll : ∀ (s : State) (c : Coll), p (s.setColl c) = p s
  pins : ∀ (s : State) (x : Pins), p (s.setPins x) = p s
  wait : ∀ (s : State) (l : List Nat), p { s with msgWait := l } = p s

namespace BesideCollector

variable {γ : Type} {p : State → γ} (h : BesideCollector p) (s : State)
include h

theorem fld (f : Fld) (v : Nat) (hf : f.off < 0xC0 ∨ 0x70000 ≤ f.off) : p (s.setFld f v) = p s := h.reg s _ _ hf

theorem sendMsg {v : Nat} (hv : v < 75) : p (s.sendMsg v) = p s := by
  unfold State.sendMsg
  refine coll_ite rfl (coll_ite ((h.wait _ _).trans (h.fld s _ _ (.inl ?_))) rfl)
  simp only [irqFld, Reg.irqPend]
  omega

theorem event {v : Nat} (hv : v < 75) : p (s.event v) = p s := by
  unfold State.event
  refine coll_ite rfl (coll_ite rfl ((h.sendMsg _ hv).trans (h.fld s _ _ (.inl ?_))))
  simp only [irqFld, Reg.irqPend]
  omega

theorem iqPush (r : FRec) : p (s.iqPush r) = p s := by
  unfold State.iqPush
  exact coll_ite ((h.event _ (by decide)).trans (h.coll s _)) (h.coll s _)

theorem setSticky (r : FRec) : p (s.setSticky r) = p s := by
  unfold State.setSticky
  refine (proj_foldl fun u w _ => h.reg u _ _ (.inr ?_)).trans (h.coll s _)
  simp only [Reg.fqSticky]
  omega

theorem overflow (r : FRec) : p (s.overflow r) = p s := by
  unfold State.overflow
  have counted : p (s.sat (F.fqOvf r.cls)) = p s := h.fld s _ _ (.inr (by simp [F.fqOvf, Reg.fqOvf]))
  generalize s.sat (F.fqOvf r.cls) = t at counted
  dsimp only
  split
  · exact coll_ite ((h.setSticky t r).trans counted) counted
  · exact (h.setSticky t r).trans counted

theorem vspFault (u : Nat) : p (s.vspFault u) = p s := by
  have unit : (Reg.vsp u) < 0xC0 ∨ 0x70000 ≤ Reg.vsp u := .inr (by simp only [Reg.vsp]; omega)
  unfold State.vspFault
  extract_lets was t
  have shown : p t = p s := (h.fld _ _ _ unit).trans ((h.fld _ _ _ unit).trans ((h.fld _ _ 1 unit).trans (h.fld s _ _ unit)))
  clear_value t
  exact coll_ite ((h.event t (by decide)).trans shown) shown

theorem drive : p s.drive = p s := (h.fld _ _ _ (.inr (by simp [Reg.faultStatus]))).trans (h.pins s _)

/-- A fault's record. -/
theorem record (f : FaultReq) : p (s.record f).1 = p s := by
  unfold State.record
  dsimp only
  rw [apply_ite Prod.fst, apply_ite Prod.fst, apply_ite Prod.fst]
  refine coll_ite rfl ((coll_ite (h.vspFault _ _) (coll_ite (h.overflow _ _) (h.iqPush _ _))).trans ?_)
  have entered (c : Nat) (x : Coll) : p ((s.mkRec f c).2.setColl x) = p s := (h.coll _ x).trans (h.coll s _)
  exact (h.drive _).trans (coll_ite ((h.fld _ _ 1 (.inr (by simp [Reg.faultStatus]))).trans (entered _ _)) (entered _ _))

theorem overflowed : p s.overflowed = p s := by
  unfold State.overflowed
  exact coll_ite rfl ((h.drive _).trans ((h.coll _ _).trans (h.coll s _)))

theorem entered (f : FaultReq) : p (s.entered f) = p s := by
  unfold State.entered
  exact coll_ite ((h.overflowed _).trans (h.record s f)) (h.record s f)

end BesideCollector

variable (s : State)

/-- The registers of the module and its ports, with their keys (R430, R431). -/
def Reg.Link (off : Nat) : Prop := 0x50000 ≤ off ∧ off < 0x54000

/-- A port but for the frames that wait to leave it. -/
def Port.noQueue (x : Port) : Port := { x with outQ := [] }

/-- The ports' registers, and the ports but for their queues. -/
def State.links (s : State) : ({o // Reg.Link o} → W64) × (Nat → Port) := (fun o => s.reg o, fun k => (s.port k).noQueue)

theorem State.setReg_links {o : Nat} (v : W64) (h : ¬Reg.Link o) : (s.setReg o v).links = s.links := by
  refine Prod.ext (funext fun x => ?_) rfl
  have hx : o ≠ x.1 := fun e => h (e ▸ x.2)
  exact (s.reg_setReg o x v).trans (if_neg hx)

theorem State.links_besideCollector : BesideCollector State.links where
  reg s o v ho := s.setReg_links v (by simp only [Reg.Link]; omega)
  coll _ _ := rfl
  pins _ _ := rfl
  wait _ _ := rfl

theorem fld_of_links {s t : State} (h : t.links = s.links) {f : Fld} (hf : Reg.Link f.off) : t.fld f = s.fld f :=
  congrArg (fun w : W64 => bits w.toNat f.lo f.w) (congrFun (congrArg Prod.fst h) ⟨f.off, hf⟩)

theorem port_of_links {s t : State} (h : t.links = s.links) (k : Nat) : (t.port k).noQueue = (s.port k).noQueue :=
  congrFun (congrArg Prod.snd h) k

/-- What the ports' queues leave of a port. -/
theorem port_frame_of_links {s t : State} (h : t.links = s.links) (k : Nat) : (t.port k).attempts = (s.port k).attempts
    ∧ (t.port k).retrained = (s.port k).retrained ∧ (t.port k).credits = (s.port k).credits
    ∧ (t.port k).lastMaint = (s.port k).lastMaint ∧ (t.port k).keys = (s.port k).keys :=
  have port := port_of_links h k
  ⟨(congrArg Port.attempts port :), (congrArg Port.retrained port :), (congrArg Port.credits port :),
    (congrArg Port.lastMaint port :), (congrArg Port.keys port :)⟩

/-- A change of the frames queued at a port. -/
theorem State.modPort_links (k : Nat) (f : Port → Port) (hf : ∀ x, (f x).noQueue = x.noQueue) : (s.modPort k f).links = s.links := by
  refine Prod.ext rfl (funext fun j => ?_)
  show ((s.modPort k f).port j).noQueue = (s.port j).noQueue
  by_cases h : j = k
  · rw [h, State.port_modPort, hf]
  · rw [s.port_modPort_ne f h]

theorem State.enqueue_links (k : Nat) (q : Queued) : (s.enqueue k q).links = s.links := s.modPort_links k _ fun _ => rfl

theorem State.floodOut_links (b : List Byte) (but : Option Nat) : (s.floodOut b but).links = s.links := by
  unfold State.floodOut
  exact proj_foldl fun u k _ => coll_ite (u.enqueue_links _ _) rfl

theorem State.grpOut_links (g m : Nat) : (s.grpOut g m).links = s.links := by
  have beside (n : Nat) : ¬Reg.Link (Reg.fabGrp n) := by
    simp only [Reg.Link, Reg.fabGrp]
    omega
  unfold State.grpOut
  refine proj_foldl fun u o _ => ?_
  extract_lets n ins t
  have left : t.links = u.links := u.setReg_links _ (beside n)
  clear_value t
  refine coll_ite (coll_ite left ?_) rfl
  split
  · exact (t.setReg_links _ (beside n)).trans left
  · exact left

theorem State.nameSelfOut_links : s.nameSelfOut.links = s.links := by
  unfold State.nameSelfOut
  refine coll_ite rfl ((State.floodOut_links _ _ _).trans ((State.grpOut_links _ _ _).trans (State.setReg_links _ _ ?_)))
  simp only [Reg.Link, F.fabGen, Reg.fabGen]
  omega

theorem State.fatalStop_links : s.fatalStop.links = s.links := by
  unfold State.fatalStop
  exact coll_ite rfl ((State.links_besideCollector.record _ _).trans (State.nameSelfOut_links _))

/-- A report of a fault changes of a port no more than the frames queued at it (R401). -/
theorem State.raise_links (f : FaultReq) : (s.raise f).links = s.links := by
  unfold State.raise
  refine coll_ite rfl (coll_ite rfl ?_)
  have entered := State.links_besideCollector.entered s f
  exact coll_ite ((State.fatalStop_links _).trans entered) entered

end Sys2Proof.Machine
end

section
/-! The states of a link (R314, R317): how an attempt begins and fails, how a port comes up, and how its queued frames go elsewhere. -/

namespace Sys2Proof.Machine

variable (s : State)

theorem State.linkIs_of {p n : Nat} (ha : s.pins.aonRstN = true) (h : s.fld (F.linkState p) = n) : s.linkIs p n = true := by
  simp [State.linkIs, ha, h]

theorem State.linkIs_ne {p n : Nat} (h : s.fld (F.linkState p) ≠ n) : s.linkIs p n = false := by
  simp [State.linkIs, h]

/-- The state that a link is taken to (R430). -/
theorem State.fld_linkTo {p n : Nat} (hn : n < 8) : (s.linkTo p n).fld (F.linkState p) = n :=
  s.fld_setFld_fits (F.linkState p) n (by simp [F.linkState]) hn

theorem linkState_link (p : Fin 6) : Reg.Link (F.linkState p).off := by
  simp only [Reg.Link, F.linkState, Reg.port]
  omega

/-- Where a port goes whose attempt begins: to TRAIN, or, if it may not train, to DOWN (R314). -/
def State.firstState (s : State) (p : Nat) : Nat := if s.mayTrain p then 1 else 0

theorem State.firstState_le (p : Nat) : s.firstState p ≤ 1 := by
  unfold State.firstState
  split <;> decide

/-- Whether a port may train depends on fields and on the relay's reset alone. -/
theorem firstState_of_flds {s t : State} (hp : t.pins.aonRstN = s.pins.aonRstN) (hf : ∀ f, t.fld f = s.fld f) (p : Nat) :
    t.firstState p = s.firstState p := by
  have same : t.mayTrain p = s.mayTrain p := by simp only [State.mayTrain, State.fabDims, State.eclipsed, hp, hf]
  rw [State.firstState, same, State.firstState]

/-- An attempt begins (R314). -/
theorem State.linkStart_state (p : Nat) : (s.linkStart p).fld (F.linkState p) = s.firstState p :=
  State.fld_linkTo _ (Nat.lt_of_le_of_lt (s.firstState_le p) (by decide))

theorem State.linkStart_port (p : Nat) : (s.linkStart p).port p = { s.port p with since := s.aon } :=
  s.port_modPort p fun x => { x with since := s.aon }

-- an attempt fails

/-- One of the first two failed attempts in a row: another begins (R314). -/
theorem State.linkFails_retries {p : Nat} (h : (s.port p).attempts < 2) :
    (s.linkFails p).fld (F.linkState p) = s.firstState p ∧ ((s.linkFails p).port p).attempts = (s.port p).attempts + 1
      ∧ (s.linkFails p).coll = s.coll := by
  have again : s.linkFails p = (s.modPort p (fun x => { x with attempts := (s.port p).attempts + 1 })).linkStart p :=
    if_neg (by omega)
  rw [again, State.linkStart_port, State.port_modPort]
  exact ⟨State.linkStart_state _ p, rfl, rfl⟩

/-- The port that has failed for good, before its fault is reported (R314). -/
def State.linkFailed (s : State) (p : Nat) : State :=
  (s.modPort p (fun x => { x with attempts := (s.port p).attempts + 1, since := s.aon, retrained := false })).linkTo p 5

/-- The third failed attempt in a row takes the port to FAILED, which is reported (R314). -/
theorem State.linkFails_third {p : Nat} (h : 2 ≤ (s.port p).attempts) :
    s.linkFails p = (s.linkFailed p).raise { unit := 0xE8 + p, cause := 0x40, line := true } := if_pos (by omega)

theorem State.linkFails_fails (p : Fin 6) (h : 2 ≤ (s.port p).attempts) :
    (s.linkFails p).fld (F.linkState p) = 5 ∧ ((s.linkFails p).port p).attempts = (s.port p).attempts + 1 := by
  have reported := State.raise_links (s.linkFailed p) { unit := 0xE8 + p, cause := 0x40, line := true }
  have port : (s.linkFailed p).port p = { s.port p with attempts := (s.port p).attempts + 1, since := s.aon, retrained := false } :=
    s.port_modPort p fun x => { x with attempts := (s.port p).attempts + 1, since := s.aon, retrained := false }
  rw [s.linkFails_third h]
  exact ⟨(fld_of_links reported (linkState_link p)).trans (State.fld_linkTo _ (by decide)),
    (port_frame_of_links reported p).1.trans (by rw [port])⟩

/-- A failed attempt brings the port neither up nor to AUTH (R314). -/
theorem State.linkFails_ends (p : Fin 6) : (s.linkFails p).fld (F.linkState p) ≠ 4 ∧ (s.linkFails p).fld (F.linkState p) ≠ 3
    ∧ ((s.linkFails p).port p).attempts = (s.port p).attempts + 1 := by
  rcases Nat.lt_or_ge (s.port p).attempts 2 with h | h
  · obtain ⟨state, attempts, -⟩ := s.linkFails_retries h
    have := s.firstState_le p
    exact ⟨by omega, by omega, attempts⟩
  · obtain ⟨state, attempts⟩ := s.linkFails_fails p h
    exact ⟨by omega, by omega, attempts⟩

-- frames find another port

theorem State.routed_links (arr : Option Nat) (q : Queued) : ((s.routeOn arr q).getD s).links = s.links := by
  unfold State.routeOn
  split
  · rfl
  · exact s.enqueue_links _ _

theorem State.reroute_links (p : Nat) : (s.reroute p).links = s.links := by
  unfold State.reroute
  exact (proj_foldl fun u q _ => u.routed_links _ _).trans (s.modPort_links p _ fun _ => rfl)

theorem State.reroute_coll (p : Nat) : (s.reroute p).coll = s.coll := by
  unfold State.reroute
  refine (coll_foldl fun u q => ?_).trans rfl
  unfold State.routeOn
  split <;> rfl

-- a new row of attempts

/-- A new row of attempts begins (R314, R432). -/
theorem State.linkAgain_begins (p : Fin 6) : (s.linkAgain p).fld (F.linkState p) = s.firstState p
    ∧ ((s.linkAgain p).port p).attempts = 0 := by
  unfold State.linkAgain
  extract_lets st t u
  have ht : t.links = s.links ∧ t.firstState p = s.firstState p := by
    simp only [t]
    split <;> exact ⟨rfl, rfl⟩
  clear_value t
  have hu : u.fld (F.linkState p) = s.firstState p ∧ (u.port p).attempts = 0 := by
    refine ⟨(State.linkStart_state _ p).trans ht.2, ?_⟩
    rw [State.linkStart_port, State.port_modPort]
  clear_value u
  split
  · have links := u.reroute_links p
    exact ⟨(fld_of_links links (linkState_link p)).trans hu.1, (port_frame_of_links links p).1.trans hu.2⟩
  · exact hu

/-- The line of a failed port shows no fault any more (R314, R378). -/
theorem State.linkAgain_line {p : Fin 6} (h : s.fld (F.linkState p) = 5) :
    (s.linkAgain p).coll = (s.lineClear (0xE8 + p) 0x40).coll := by
  unfold State.linkAgain
  rw [h]
  rfl

theorem State.lineClear_line (u cause : Nat) : ∀ f ∈ (s.lineClear u cause).coll.faults, f.unit = u → f.cause = cause → f.line = false := by
  intro f hf hu hc
  obtain ⟨g, -, rfl⟩ := List.mem_map.1 hf
  by_cases hg : (g.unit == u && g.cause == cause) = true
  · rw [if_pos hg]
  · rw [if_neg hg] at hu hc
    simp [hu, hc] at hg

/-- An UP port goes down and trains again, and no fault is recorded (R317). -/
theorem State.linkDrop_retrains (p : Fin 6) (ha : s.pins.aonRstN = true) (h : s.fld (F.linkState p) = 4) :
    (s.linkDrop p).fld (F.linkState p) = s.firstState p ∧ ((s.linkDrop p).port p).retrained = true
      ∧ ((s.linkDrop p).port p).attempts = 0 ∧ (s.linkDrop p).coll = s.coll := by
  have down : s.linkDrop p = ((s.modPort p (fun x => { x with attempts := 0, retrained := true })).linkStart p).reroute p :=
    if_pos (s.linkIs_of ha h)
  rw [down, State.reroute_coll]
  generalize hu : (s.modPort p (fun x => { x with attempts := 0, retrained := true })).linkStart p = u
  have trains : u.fld (F.linkState p) = s.firstState p ∧ (u.port p).retrained = true ∧ (u.port p).attempts = 0 ∧ u.coll = s.coll := by
    rw [← hu, State.linkStart_port, State.port_modPort]
    exact ⟨State.linkStart_state _ p, rfl, rfl, rfl⟩
  obtain ⟨state, retrained, attempts, coll⟩ := trains
  have links := u.reroute_links p
  obtain ⟨attempts', retrained', -⟩ := port_frame_of_links links p
  exact ⟨(fld_of_links links (linkState_link p)).trans state, retrained'.trans retrained, attempts'.trans attempts, coll⟩

-- a port comes up

/-- The frames that wait give up the buffers of the link that was (R317). -/
def State.unbuffered (s : State) (p : Nat) : State :=
  (List.range 6).foldl (fun s k => s.modPort k (fun x => { x with
    outQ := x.outQ.map (fun q => if (q.src.map (·.1)) = some p then { q with src := none } else q) })) s

/-- The port that carries frames from now on, with all buffers of its neighbour free, before a return within one attempt is reported
(R317, R319). -/
def State.linkCame (s : State) (p : Nat) : State :=
  ((s.unbuffered p).modPort p (fun x => { x with
    attempts := 0, retrained := false, credits := [], held := [], freed := [], slotNo := 0, lastMaint := (s.unbuffered p).aon })).linkTo p 4

theorem State.linkUp_eq (p : Nat) : s.linkUp p = if (s.port p).retrained && (s.port p).attempts == 0 then
    (s.linkCame p).raise { unit := 0xE8 + p, cause := 0x41 } else s.linkCame p := rfl

theorem State.unbuffered_links (p : Nat) : (s.unbuffered p).links = s.links :=
  proj_foldl fun u k _ => u.modPort_links k _ fun _ => rfl

theorem State.unbuffered_aon (p : Nat) : (s.unbuffered p).aon = s.aon := proj_foldl fun _ _ _ => rfl

theorem State.linkCame_port (p : Nat) : (s.linkCame p).port p = { (s.unbuffered p).port p with
    attempts := 0, retrained := false, credits := [], held := [], freed := [], slotNo := 0, lastMaint := (s.unbuffered p).aon } :=
  State.port_modPort _ p fun x => { x with
    attempts := 0, retrained := false, credits := [], held := [], freed := [], slotNo := 0, lastMaint := (s.unbuffered p).aon }

theorem State.linkCame_state (p : Nat) : (s.linkCame p).fld (F.linkState p) = 4 := by
  unfold State.linkCame
  exact State.fld_linkTo _ (by decide)

theorem State.linkUp_links (p : Nat) : (s.linkUp p).links = (s.linkCame p).links := by
  rw [State.linkUp_eq]
  exact coll_ite (State.raise_links _ _) rfl

/-- A port comes up (R317, R319). -/
theorem State.linkUp_up (p : Fin 6) : (s.linkUp p).fld (F.linkState p) = 4 ∧ ((s.linkUp p).port p).attempts = 0
    ∧ ((s.linkUp p).port p).credits = [] ∧ ((s.linkUp p).port p).lastMaint = s.aon
    ∧ ((s.linkUp p).port p).keys = (s.port p).keys := by
  obtain ⟨attempts, -, credits, lastMaint, keys⟩ := port_frame_of_links (s.linkUp_links p) p
  obtain ⟨-, -, -, -, kept⟩ := port_frame_of_links (s.unbuffered_links p) p
  have aon := s.unbuffered_aon p
  have state := (fld_of_links (s.linkUp_links p) (linkState_link p)).trans (s.linkCame_state p)
  rw [State.linkCame_port] at attempts credits lastMaint keys
  dsimp only at attempts credits lastMaint keys
  exact ⟨state, attempts, credits, lastMaint.trans aon, keys.trans kept⟩

end Sys2Proof.Machine
end

section
/-! The life of a link: training (O29), the partner's identity and authentication (O30), the loss of an UP link (O31). -/

namespace Sys2Proof.Machine

variable (s : State)

-- training

theorem exec_trainAligned {p : Fin 6} (h : s.linkIs p 1 = true) :
    exec (.trainAligned p) s = .next ((s.linkTo p 2).onWire p (s.identFrame p)) := congrArg Host.Outcome.next (if_pos h)

theorem exec_trainTimeout_train {p : Fin 6} (h : s.linkIs p 1 = true) :
    exec (.trainTimeout p) s = .next ((s.advanceTo ((s.port p).since + 15000000)).linkFails p) := congrArg Host.Outcome.next (if_pos h)

theorem exec_trainTimeout_ident {p : Fin 6} (h1 : s.linkIs p 1 = false) (h : (s.linkIs p 2 || s.linkIs p 3) = true) :
    exec (.trainTimeout p) s = .next ((s.advanceTo ((s.port p).since + 20000000)).linkFails p) :=
  congrArg Host.Outcome.next ((if_neg (by simp [h1])).trans (if_pos h))

theorem exec_failedRetry {p : Fin 6} (h : s.linkIs p 5 = true) :
    exec (.failedRetry p) s = .next ((s.advanceTo ((s.port p).since + 1000000000)).linkAgain p) := congrArg Host.Outcome.next (if_pos h)

/-- A write of 1 to `retrain` of a port (R430). -/
theorem exec_retrain (p : Fin 6) (hw : s.windowOpen = true) (hc : s.pins.clkRun = true) :
    exec (.retrain p) s = .next ((s.rewritten (Reg.port p 8)).linkAgain p) := by
  have place : Reg.port p 8 % 8 = 0 ∧ 0x50100 ≤ Reg.port p 8 ∧ Reg.port p 8 < 0x50A00 := by
    simp only [Reg.port]
    omega
  have specs : Reg.specs (Reg.port p 8) = [⟨0, 1, .wo, false, 0, 1⟩] := by fin_cases p <;> rfl
  have wrote (t : State) (was : W64) : t.wrote (Reg.port p 8) (~~~0) 1 was = t.linkAgain p := by fin_cases p <;> rfl
  refine congrArg Host.Outcome.next ?_
  rw [s.hostWrite_trigger 1 hw hc place.1 place.2 (by simp [specs]), wrote]

/-- A frame that is not encrypted goes on the wire as it is, with its CRC (R310). -/
theorem State.onWire_plain (p : Nat) {f : Frame} (h : f.enc = false) :
    s.onWire p f = s.modPort p (fun x => { x with wire := some (f, crc32c (frameHeader f ++ frameBody f)) }) := by
  unfold State.onWire sealed
  simp only [h, Bool.false_eq_true, if_false]

/-- A trained port sends its identity (R314, R316). -/
theorem State.identSent (p : Fin 6) : ((s.linkTo p 2).onWire p (s.identFrame p)).fld (F.linkState p) = 2
    ∧ (((s.linkTo p 2).onWire p (s.identFrame p)).port p).wire
      = some (s.identFrame p, crc32c (frameHeader (s.identFrame p) ++ frameBody (s.identFrame p)))
    ∧ (((s.linkTo p 2).onWire p (s.identFrame p)).port p).outQ = (s.port p).outQ
    ∧ ∀ k, k ≠ p.val → ((s.linkTo p 2).onWire p (s.identFrame p)).port k = s.port k := by
  rw [State.onWire_plain _ _ rfl]
  generalize crc32c (frameHeader (s.identFrame p) ++ frameBody (s.identFrame p)) = c
  generalize s.identFrame p = f
  refine ⟨s.fld_linkTo (by decide), ?_, ?_, fun k hk => State.port_modPort_ne _ _ hk⟩
  · rw [State.port_modPort]
  · rw [State.port_modPort]
    rfl

/-- What a link identity record begins with (R316). -/
theorem State.identFrame_begins (p : Nat) : (s.identFrame p).typ = 8 ∧ (s.identFrame p).payload.take 8
    = leBytes 2 0xCA4E ++ leBytes 2 0x0A21 ++ leBytes 1 0xB0 ++ leBytes 1 s.relay.role ++ leBytes 2 (s.self + 4096 * p) := ⟨rfl, rfl⟩

/-- An attempt that ends before the third in a row, after some time: another begins (R314). -/
theorem State.attemptEnds {p : Nat} (m : Nat) (h : (s.port p).attempts < 2) :
    ((s.advanceTo m).linkFails p).aon = Nat.max s.aon m
      ∧ (((s.advanceTo m).linkFails p).port p).attempts = (s.port p).attempts + 1
      ∧ ((s.advanceTo m).linkFails p).fld (F.linkState p) = s.firstState p ∧ ((s.advanceTo m).linkFails p).coll = s.coll := by
  obtain ⟨state, attempts, coll⟩ := (s.advanceTo m).linkFails_retries (p := p) h
  exact ⟨(State.linkFails_aon _ p).trans (s.advanceTo_aon m), attempts, state, coll⟩

/-- The eclipse bits lie in no register of a port (R430, R435). -/
theorem eclipsed_linkTo (p : Fin 6) (n u : Nat) : (s.linkTo p n).eclipsed u = s.eclipsed u := by
  unfold State.eclipsed State.linkTo
  rw [s.fld_setFld_off _ _ _ (by simp only [F.linkState, F.ecl, Reg.port, Reg.ecl]; omega)]

/-- A fault of a unit that has none uncleared is recorded with the class of its cause (R378, R383). -/
theorem State.raise_first (f : FaultReq) (hu : s.collUp = true) (hc : s.pins.clkRun = true) (he : s.eclipsed f.unit = false)
    (h0 : causeClass f.cause ≠ 0) (hn : ∀ x ∈ s.coll.faults, x.unit ≠ f.unit) :
    ∃ x ∈ (s.raise f).coll.faults, x.unit = f.unit ∧ x.cause = f.cause ∧ x.cls = causeClass f.cause ∧ x.line = f.line :=
  ⟨_, s.raise_adds f hu hc he h0 hn, rfl, rfl, s.newFault_first f hn, rfl⟩

/-- The third failed attempt in a row fails the port (R314). -/
theorem State.attemptFails {p : Fin 6} (m : Nat) (h : 2 ≤ (s.port p).attempts) (hu : s.collUp = true) (hc : s.pins.clkRun = true)
    (he : s.eclipsed (0xE8 + p) = false) (hn : ∀ f ∈ s.coll.faults, f.unit ≠ 0xE8 + p.val) :
    ((s.advanceTo m).linkFails p).fld (F.linkState p) = 5
      ∧ ∃ f ∈ ((s.advanceTo m).linkFails p).coll.faults, f.unit = 0xE8 + p.val ∧ f.cause = 0x40 ∧ f.cls = 3 ∧ f.line = true := by
  refine ⟨((s.advanceTo m).linkFails_fails p h).1, ?_⟩
  rw [(s.advanceTo m).linkFails_third h]
  exact State.raise_first _ { unit := 0xE8 + p, cause := 0x40, line := true } hu hc
    ((eclipsed_linkTo _ p 5 _).trans he) (show causeClass 0x40 ≠ 0 by decide) hn

/-- A failed port begins a new row of attempts after some time, and its line shows no fault any more (R314). -/
theorem State.retries {p : Fin 6} (m : Nat) (h : s.fld (F.linkState p) = 5) : ((s.advanceTo m).linkAgain p).aon = Nat.max s.aon m
    ∧ ((s.advanceTo m).linkAgain p).fld (F.linkState p) = s.firstState p ∧ (((s.advanceTo m).linkAgain p).port p).attempts = 0
    ∧ ∀ f ∈ ((s.advanceTo m).linkAgain p).coll.faults, f.unit = 0xE8 + p.val → f.cause = 0x40 → f.line = false := by
  obtain ⟨state, attempts⟩ := (s.advanceTo m).linkAgain_begins p
  refine ⟨(State.linkAgain_aon _ p).trans (s.advanceTo_aon m), state, attempts, ?_⟩
  rw [(s.advanceTo m).linkAgain_line (p := p) h]
  exact State.lineClear_line _ _ _

theorem exec_keyCounterLimit {p : Fin 6} (hd : s.keyDead p = true) (ht : (s.keySlot p (s.fld (F.txKeySel p))).told = false) :
    exec (.keyCounterLimit p) s = .next ((s.modKey p (s.fld (F.txKeySel p)) (fun k => { k with told := true })).raise
      { unit := 0xE8 + p, cause := 0x42 }) :=
  congrArg Host.Outcome.next (if_pos (by rw [hd, ht]; rfl))

/-- Settles O29: each row takes the link on, begins another attempt (`attemptEnds`, `linkAgain_begins`) or fails it (`attemptFails`). -/
theorem portsTrain : Obligations.PortsTrain := by
  unfold Obligations.PortsTrain
  intro s p ha
  refine ⟨fun h => ⟨?aligned, fun hn => ?again, fun hn hu hc he hf => ?failed⟩, fun h hn => ?ident, fun h => ?retry,
    fun hw hc => ?retrain, fun hd ht hu hc he hf => ?key⟩
  case aligned =>
    obtain ⟨state, wire, outQ, others⟩ := s.identSent p
    obtain ⟨typ, head⟩ := s.identFrame_begins p
    refine ⟨_, exec_trainAligned s (s.linkIs_of ha h), state, rfl, ?_, outQ, others⟩
    rw [wire, Option.map_some]
    dsimp only
    rw [typ, head]
  case again =>
    exact ⟨_, exec_trainTimeout_train s (s.linkIs_of ha h), s.attemptEnds _ hn⟩
  case failed =>
    exact ⟨_, exec_trainTimeout_train s (s.linkIs_of ha h), s.attemptFails _ hn hu hc he hf⟩
  case ident =>
    have not1 : s.linkIs p 1 = false := s.linkIs_ne (by omega)
    have in23 : (s.linkIs p 2 || s.linkIs p 3) = true :=
      Bool.or_eq_true_iff.2 (h.imp (s.linkIs_of ha) (s.linkIs_of ha))
    exact ⟨_, exec_trainTimeout_ident s not1 in23, s.attemptEnds _ hn⟩
  case retry =>
    exact ⟨_, exec_failedRetry s (s.linkIs_of ha h), s.retries _ h⟩
  case retrain =>
    obtain ⟨state, attempts⟩ := (s.rewritten (Reg.port p 8)).linkAgain_begins p
    exact ⟨_, exec_retrain s p hw hc, state.trans (firstState_of_flds (s := s) (t := s.rewritten (Reg.port p 8)) rfl (s.fld_rewritten _) p), attempts⟩
  case key =>
    obtain ⟨f, hf, hunit, hcause, hcls, -⟩ := State.raise_first
      (s.modKey p (s.fld (F.txKeySel p)) (fun k => { k with told := true })) { unit := 0xE8 + p, cause := 0x42 } hu hc he
      (show causeClass 0x42 ≠ 0 by decide) hf
    exact ⟨_, exec_keyCounterLimit s hd ht, f, hf, hunit, hcause, hcls⟩

-- the partner's identity

/-- The state in which the partner's identity and the outcome of its checks are noted (R316). -/
def State.identNoted (s : State) (p : Nat) (b : List Byte) : State :=
  ((s.setFld (F.partnerChip p) (bits (fieldAt b 6 2) 0 12)).setFld (F.partnerSerial p) (fieldAt b 16 8)).setFld (F.identFail p)
    (s.identCheck p b)

/-- The checks of a partner's record look at none of the fields in which it is noted (R316). -/
theorem State.identCheck_noted (p : Fin 6) (b : List Byte) (c d : Nat) :
    ((s.setFld (F.partnerChip p) c).setFld (F.partnerSerial p) d).identCheck p b = s.identCheck p b := by
  have fld (f : Fld) (h1 : (F.partnerChip p).off ≠ f.off) (h2 : (F.partnerSerial p).off ≠ f.off) :
      ((s.setFld (F.partnerChip p) c).setFld (F.partnerSerial p) d).fld f = s.fld f :=
    (State.fld_setFld_off _ _ f d h2).trans (s.fld_setFld_off _ f c h1)
  have self := fld F.chipId (by simp only [F.partnerChip, Reg.port, F.chipId, Reg.fabId]; omega)
    (by simp only [F.partnerSerial, Reg.port, F.chipId, Reg.fabId]; omega)
  have dims := fld F.dims (by simp only [F.partnerChip, Reg.port, F.dims, Reg.fabId]; omega)
    (by simp only [F.partnerSerial, Reg.port, F.dims, Reg.fabId]; omega)
  have enc := fld (F.encEn p) (by simp only [F.partnerChip, Reg.port, F.encEn]; omega)
    (by simp only [F.partnerSerial, Reg.port, F.encEn]; omega)
  simp only [State.identCheck, State.self, State.fabDims, self, dims, enc, State.setFld_frame]

theorem State.identCheck_le (p : Nat) (b : List Byte) : s.identCheck p b < 16 := by
  unfold State.identCheck
  dsimp only
  repeat' split
  all_goals decide

theorem State.identNoted_encEn (p : Fin 6) (b : List Byte) : (s.identNoted p b).fld (F.encEn p) = s.fld (F.encEn p) := by
  unfold State.identNoted
  rw [State.fld_setFld_off _ _ _ _ (by simp only [F.identFail, F.encEn, Reg.port]; omega),
    State.fld_setFld_off _ _ _ _ (by simp only [F.partnerSerial, F.encEn, Reg.port]; omega),
    State.fld_setFld_off _ _ _ _ (by simp only [F.partnerChip, F.encEn, Reg.port]; omega)]

/-- A record that comes in IDENT is noted and decides whether the port goes on (R314, R316). -/
theorem exec_linkIdentity {p : Fin 6} (b : List Byte) (h : s.linkIs p 2 = true) : exec (.linkIdentity p b) s
    = .next (if s.identCheck p b ≠ 0 then (s.identNoted p b).linkFails p
        else if s.fld (F.encEn p) = 1 then (s.identNoted p b).linkTo p 3 else (s.identNoted p b).linkUp p) := by
  refine congrArg Host.Outcome.next ((if_pos h).trans ?_)
  dsimp only
  rw [s.identCheck_noted, ← State.identNoted, s.identNoted_encEn]

/-- What stands of the partner when its record has passed (R316, R430). -/
theorem State.identNoted_auth {p : Fin 6} {b : List Byte} (h : s.identCheck p b = 0) :
    ((s.identNoted p b).linkTo p 3).fld (F.linkState p) = 3 ∧ ((s.identNoted p b).linkTo p 3).fld (F.identFail p) = 0
      ∧ ((s.identNoted p b).linkTo p 3).fld (F.partnerChip p) = bits (fieldAt b 6 2) 0 12 := by
  refine ⟨State.fld_linkTo _ (by decide), ?_, ?_⟩
  · rw [State.linkTo, State.fld_setFld_disj _ _ _ _ (by simp [F.identFail, F.linkState]), State.identNoted,
      State.fld_setFld_fits _ _ _ (by simp [F.identFail]) (s.identCheck_le p b), h]
  · rw [State.linkTo, State.fld_setFld_disj _ _ _ _ (by simp [F.partnerChip, F.linkState]), State.identNoted,
      State.fld_setFld_disj _ _ _ _ (by simp [F.partnerChip, F.identFail]),
      State.fld_setFld_off _ _ _ _ (by simp only [F.partnerSerial, F.partnerChip, Reg.port]; omega)]
    exact s.fld_setFld_fits (F.partnerChip p) _ (by simp [F.partnerChip]) (bits_lt _ 0 12)

-- authentication

theorem exec_linkAuth_passes {p : Fin 6} {keyId : Nat} (ctr : Nat) (h : s.linkIs p 3 = true)
    (hl : (s.keySlot p (s.fld (F.txKeySel p))).loaded = true) (hk : (s.keySlot p (s.fld (F.txKeySel p))).keyId = keyId) :
    exec (.linkAuth p keyId ctr true) s
      = .next ((s.modKey p (s.fld (F.txKeySel p)) (fun k => { k with ctr := Nat.max k.ctr ctr + 1 })).linkUp p) :=
  congrArg Host.Outcome.next ((if_pos h).trans (if_pos (by rw [hl, hk, beq_self_eq_true]; rfl)))

theorem exec_linkAuth_fails {p : Fin 6} (keyId ctr : Nat) (h : s.linkIs p 3 = true) :
    exec (.linkAuth p keyId ctr false) s = .next ((s.sat (F.authFail p)).linkFails p) :=
  congrArg Host.Outcome.next ((if_pos h).trans (if_neg (by simp)))

/-- A port that comes up keeps the counters of its keys (R335). -/
theorem State.linkUp_keySlot (p : Fin 6) (sl : Nat) : (s.linkUp p).keySlot p sl = s.keySlot p sl := by
  obtain ⟨-, -, -, -, keys⟩ := s.linkUp_up p
  rw [State.keySlot, keys, State.keySlot]

/-- Settles O30: a record or an exchange that passes brings the port on or up (`linkUp_up`), one that does not fails the attempt
(`linkFails_ends`). -/
theorem linkIdentityDecides : Obligations.LinkIdentityDecides := by
  unfold Obligations.LinkIdentityDecides
  intro s p ha
  refine ⟨fun b h hc he => ?auth, fun b h hc he => ?up, fun b h hc => ?fails, fun keyId ctr h hl hk => ?passes,
    fun keyId ctr h => ⟨_, exec_linkAuth_fails s keyId ctr (s.linkIs_of ha h), (s.sat (F.authFail p)).linkFails_ends p⟩⟩
  case auth =>
    refine ⟨_, exec_linkIdentity s b (s.linkIs_of ha h), ?_⟩
    rw [if_neg (by simp [hc]), if_pos he]
    exact s.identNoted_auth hc
  case up =>
    refine ⟨_, exec_linkIdentity s b (s.linkIs_of ha h), ?_⟩
    rw [if_neg (by simp [hc]), if_neg (by omega)]
    obtain ⟨state, attempts, credits, lastMaint, -⟩ := (s.identNoted p b).linkUp_up p
    exact ⟨state, attempts, credits, lastMaint⟩
  case fails =>
    refine ⟨_, exec_linkIdentity s b (s.linkIs_of ha h), ?_⟩
    rw [if_pos hc]
    exact (s.identNoted p b).linkFails_ends p
  case passes =>
    refine ⟨_, exec_linkAuth_passes s ctr (s.linkIs_of ha h) hl hk, (State.linkUp_up _ p).1, ?_⟩
    rw [State.linkUp_keySlot, State.keySlot_modKey]

-- the loss of a link

/-- Settles O31: each row takes the port down (`linkDrop_retrains`), the last after its time. -/
theorem linkLossRetrains : Obligations.LinkLossRetrains := by
  unfold Obligations.LinkLossRetrains
  intro s p ha h
  obtain ⟨state, retrained, attempts, coll⟩ := s.linkDrop_retrains p ha h
  refine ⟨⟨_, rfl, state, retrained, attempts, s.linkDrop_aon p, coll⟩, fun n hn => ?unc, fun n hn => ?auth, ?silent⟩
  case unc => exact ⟨_, congrArg Host.Outcome.next (if_pos hn), state, retrained, coll⟩
  case auth => exact ⟨_, congrArg Host.Outcome.next (if_pos hn), state, retrained, coll⟩
  case silent =>
    refine ⟨_, congrArg Host.Outcome.next (if_pos (s.linkIs_of ha h)), ?_⟩
    generalize (s.port p).lastMaint + 2000 = m
    obtain ⟨state, retrained, -, coll⟩ := (s.advanceTo m).linkDrop_retrains p ha h
    exact ⟨(State.linkDrop_aon _ p).trans (s.advanceTo_aon m), state, retrained, coll⟩

end Sys2Proof.Machine
end

section
/-! Frames that leave a port (R309, R310, R319, R320): which frame a slot carries, and what it does to the port. -/

namespace Sys2Proof.Machine

variable (s : State)

/-- A change of one port that lets `g` stand. -/
theorem State.proj_modPort {β : Type} {g : Port → β} {f : Port → Port} (hf : ∀ x, g (f x) = g x) (p k : Nat) :
    g ((s.modPort p f).port k) = g (s.port k) := by
  by_cases h : k = p
  · rw [h, State.port_modPort, hf]
  · rw [s.port_modPort_ne f h]

-- the frame that a slot carries

/-- A choice among the members of a list is one of them. -/
theorem mem_of_foldl_choice {α : Type} {g : Option α → α → Option α} (hg : ∀ a q r, g a q = some r → a = some r ∨ q = r) {l : List α} {r : α} :
    ∀ a, l.foldl g a = some r → a = some r ∨ r ∈ l := by
  induction l with
  | nil => exact fun a h => .inl h
  | cons q l ih =>
    intro a h
    rcases ih (g a q) h with h | h
    · exact (hg a q r h).imp_right fun (e : q = r) => e ▸ List.mem_cons_self
    · exact .inr (List.mem_cons_of_mem _ h)

/-- The next frame of a lane waits at the port (R320). -/
theorem State.laneNext_mem {x : Port} {fwd : Bool} {v : Nat} {q : Queued} (h : s.laneNext x fwd v = some q) : q ∈ x.outQ := by
  unfold State.laneNext at h
  extract_lets l own at h
  have sub : ∀ r ∈ l, r ∈ x.outQ := fun r hr => (List.mem_filter.1 hr).1
  have mine : ∀ r, own = some r → r ∈ x.outQ := by
    intro r hr
    refine sub r (List.mem_filter.1 ((mem_of_foldl_choice ?_ none hr).resolve_left (by simp))).1
    intro a q r ha
    split at ha
    · next b =>
      split at ha
      · exact .inr (Option.some.inj ha)
      · exact .inl ha
    · exact .inr (Option.some.inj ha)
  have theirs : ∀ r, l.find? (fun q => !q.own) = some r → r ∈ x.outQ := fun r hr => sub r (List.mem_of_find?_eq_some hr)
  cases hf : l.find? (fun q => !q.own) with
  | none =>
    rw [hf] at h
    exact mine q h
  | some a =>
    have ha := theirs a hf
    rw [hf] at h
    cases ho : own with
    | none => exact (Option.some.inj (by simpa only [ho] using h) : a = q) ▸ ha
    | some b =>
      have hb := mine b ho
      simp only [ho, Option.some.injEq] at h
      subst h
      split <;> assumption

/-- The frame that a slot carries waits at the port (R320). -/
theorem State.pick_mem {x : Port} {fwd : Bool} {q : Queued} (h : (s.pick x fwd).1 = some q) : q ∈ x.outQ := by
  have lane (v : Nat) (r : Queued) (hr : s.laneNext x fwd v = some r) : r ∈ x.outQ := s.laneNext_mem hr
  unfold State.pick at h
  cases h0 : s.laneNext x fwd 0 with
  | some r => exact lane 0 q (by simpa only [h0] using h)
  | none =>
  cases h3 : s.laneNext x fwd 3 with
  | some r => exact lane 3 q (by simpa only [h0, h3] using h)
  | none =>
  cases h1 : s.laneNext x fwd 1 with
  | none => exact lane 2 q (by simpa only [h0, h3, h1] using h)
  | some a =>
  cases h2 : s.laneNext x fwd 2 with
  | none => exact lane 1 q (by simpa only [h0, h3, h1, h2] using h)
  | some b =>
    simp only [h0, h3, h1, h2] at h
    split at h
    · exact lane 1 q (h1.trans h)
    · exact lane 2 q (h2.trans h)

/-- With no frame waiting there is none to pick. -/
theorem State.pick_none {x : Port} (fwd : Bool) (h : x.outQ = []) : (s.pick x fwd).1 = none := by
  cases hp : (s.pick x fwd).1 with
  | none => rfl
  | some q => exact absurd (s.pick_mem hp) (by simp [h])

/-- An encrypting port without a usable key (R336). -/
def State.mute (s : State) (p : Nat) : Bool :=
  s.fld (F.encEn p) == 1 && (!(s.keySlot p (s.fld (F.txKeySel p))).loaded || s.keyDead p)

/-- Which of a forwarded and an own frame goes first, and the state after the draw that decides it (R320, log entry 15). -/
def State.firstOf (s : State) (x : Port) : Bool × State :=
  if x.outQ.any (·.own) && x.outQ.any (fun q => !q.own) then s.drawBool else (true, s)

/-- A slot that carries a frame (R309). -/
theorem State.slotSend_frame {p turn : Nat} {q : Queued} (h4 : s.linkIs p 4 = true) (hn : (s.port p).slotNo < 63) (hm : s.mute p = false)
    (hp : (s.firstOf (s.port p)).2.pick (s.port p) (s.firstOf (s.port p)).1 = (some q, turn)) :
    s.slotSend p = (s.firstOf (s.port p)).2.frameLeaves p q turn := by
  unfold State.slotSend
  rw [if_neg (by simp [h4])]
  dsimp only
  rw [if_neg (by omega), ← State.mute, hm, ← State.firstOf]
  simp only [Bool.false_eq_true, if_false, hp]

/-- The 64th slot carries a maintenance frame (R309). -/
theorem State.slotSend_maint {p : Nat} (h4 : s.linkIs p 4 = true) (hn : 63 ≤ (s.port p).slotNo) :
    s.slotSend p = (s.onWire p (s.maintFrame p)).modPort p (fun x => { x with slotNo := 0, freed := [] }) := by
  unfold State.slotSend
  rw [if_neg (by simp [h4])]
  exact if_pos hn

/-- An idle frame (R309). -/
def State.idleFrame (s : State) : Frame := { s.mkFrame 0 0 0 0 0 0 0 0 with srcChip := 0 }

/-- A slot for which no frame waits carries an idle one (R309). -/
theorem State.slotSend_idle {p : Nat} (h4 : s.linkIs p 4 = true) (hn : (s.port p).slotNo < 63) (hq : (s.port p).outQ = []) :
    s.slotSend p = (s.onWire p s.idleFrame).modPort p (fun x => { x with slotNo := x.slotNo + 1 }) := by
  have none : (if s.mute p = true then (none, (s.port p).strTurn) else s.pick (s.port p) true).1 = none := by
    split
    · rfl
    · exact s.pick_none true hq
  unfold State.slotSend
  rw [if_neg (by simp [h4])]
  dsimp only
  rw [if_neg (by omega), ← State.mute, hq]
  simp only [List.any_nil, Bool.false_and, Bool.false_eq_true, if_false]
  split
  · next h => rw [h] at none; cases none
  · rfl

-- a frame leaves

/-- The frame as it leaves on this hop (R310, R312, R334). -/
def State.hopFrame (s : State) (p : Nat) (q : Queued) : Frame :=
  { q.f with alive := (Sparse.get (fun _ => 0) (s.port p).aliveTx q.f.vl + 1) % 256, enc := s.fld (F.encEn p) == 1
             keySel := if s.fld (F.encEn p) == 1 then s.fld (F.txKeySel p) else 0 }

/-- The port whose slot is taken by a frame (R312, R319, R320). -/
def Port.sends (x : Port) (q : Queued) (turn : Nat) : Port :=
  { x with outQ := x.outQ.erase q, strTurn := turn, slotNo := x.slotNo + 1
           aliveTx := Sparse.set (fun _ => 0) x.aliveTx q.f.vl ((Sparse.get (fun _ => 0) x.aliveTx q.f.vl + 1) % 256)
           credits := Sparse.set (fun _ => 0) x.credits (2 * q.f.vl + q.f.dl) (x.used q.f.vl q.f.dl + 1) }

/-- The state in which the frame is on the wire, before the buffer that it held here is free. -/
def State.sends (s : State) (p : Nat) (q : Queued) (turn : Nat) : State :=
  (s.modPort p (fun x => x.sends q turn)).onWire p (s.hopFrame p q)

theorem State.frameLeaves_eq (p : Nat) (q : Queued) (turn : Nat) : s.frameLeaves p q turn =
    if s.fld (F.encEn p) == 1 then
      ((s.sends p q turn).bufFreed q.src).modKey p (s.fld (F.txKeySel p)) (fun k => { k with ctr := k.ctr + 1 })
    else (s.sends p q turn).bufFreed q.src := rfl

/-- A frame that leaves frees a buffer, and changes nothing else of a port (R319). -/
theorem State.bufFreed_proj {β : Type} {g : Port → β} (hg : ∀ x h f, g { x with held := h, freed := f } = g x)
    (src : Option (Nat × Nat × Nat)) (k : Nat) : g ((s.bufFreed src).port k) = g (s.port k) := by
  unfold State.bufFreed
  split
  · refine s.proj_modPort (fun x => ?_) _ k
    exact hg x _ _
  · rfl

theorem State.bufFreed_regs (src : Option (Nat × Nat × Nat)) : (s.bufFreed src).regs = s.regs := by
  unfold State.bufFreed
  split <;> rfl

theorem State.bufFreed_held (a v k : Nat) : Sparse.get (fun _ => 0) ((s.bufFreed (some (a, v, k))).port a).held (2 * v + k)
    = Sparse.get (fun _ => 0) (s.port a).held (2 * v + k) - 1 := by
  unfold State.bufFreed
  rw [State.port_modPort, Sparse.get_set_self]

/-- What a port puts on the wire for a frame (R310, R334). -/
def State.wireOf (s : State) (p : Nat) (f : Frame) : Frame × Nat :=
  sealed f (s.self < neighbour s.fabDims s.self p) (s.keySlot p f.keySel)

theorem State.onWire_port (p : Nat) (f : Frame) : (s.onWire p f).port p = { s.port p with wire := some (s.wireOf p f) } :=
  s.port_modPort p fun x => { x with wire := some (s.wireOf p f) }

/-- A frame on the wire leaves what else there is to a port (R309). -/
theorem State.onWire_proj {β : Type} {g : Port → β} (hg : ∀ x w, g { x with wire := w } = g x) (p : Nat) (f : Frame) (k : Nat) :
    g ((s.onWire p f).port k) = g (s.port k) := by
  refine s.proj_modPort (fun x => ?_) p k
  exact hg x _

/-- A key slot that changes leaves what else there is to a port (R431). -/
theorem State.modKey_proj {β : Type} {g : Port → β} (hg : ∀ x l, g { x with keys := l } = g x) (p sl : Nat) (f : KeySlot → KeySlot) (k : Nat) :
    g ((s.modKey p sl f).port k) = g (s.port k) := by
  refine s.proj_modPort (fun x => ?_) p k
  exact hg x _

/-- The trailer of a frame that is not encrypted is its CRC (R310). -/
theorem State.wireOf_plain (p : Nat) {f : Frame} (h : f.enc = false) : s.wireOf p f = (f, crc32c (frameHeader f ++ frameBody f)) := by
  unfold State.wireOf sealed
  simp only [h, Bool.false_eq_true, if_false]

/-- Encryption leaves the header of a frame (R334). -/
theorem State.wireOf_header (p : Nat) (f : Frame) : (s.wireOf p f).1.enc = f.enc ∧ (s.wireOf p f).1.keySel = f.keySel := by
  unfold State.wireOf sealed
  split <;> exact ⟨rfl, rfl⟩

/-- What a slot takes and shows: the queue, the neighbour's buffers in use, the slots counted, the wire. -/
def Port.outside (x : Port) : List Queued × List (Nat × Nat) × Nat × Option (Frame × Nat) := (x.outQ, x.credits, x.slotNo, x.wire)

/-- A port after a slot that carried a frame (R309, R319, R320). -/
theorem State.frameLeaves_outside (p : Nat) (q : Queued) (turn : Nat) : ((s.frameLeaves p q turn).port p).outside
    = ((s.port p).outQ.erase q, ((s.port p).sends q turn).credits, (s.port p).slotNo + 1,
        some ((s.modPort p (fun x => x.sends q turn)).wireOf p (s.hopFrame p q))) := by
  have freed : (((s.sends p q turn).bufFreed q.src).port p).outside = ((s.sends p q turn).port p).outside :=
    State.bufFreed_proj _ (fun _ _ _ => rfl) _ _
  have sent : ((s.sends p q turn).port p).outside = ((s.port p).outQ.erase q, ((s.port p).sends q turn).credits,
      (s.port p).slotNo + 1, some ((s.modPort p (fun x => x.sends q turn)).wireOf p (s.hopFrame p q))) := by
    rw [State.sends, State.onWire_port, State.port_modPort]
    rfl
  rw [State.frameLeaves_eq, ← sent, ← freed]
  split
  · exact State.modKey_proj _ (fun _ _ => rfl) p _ _ p
  · rfl

theorem State.frameLeaves_regs (p : Nat) (q : Queued) (turn : Nat) : (s.frameLeaves p q turn).regs = s.regs := by
  have freed : ((s.sends p q turn).bufFreed q.src).regs = s.regs := State.bufFreed_regs _ _
  rw [State.frameLeaves_eq]
  split
  · exact freed
  · exact freed

/-- The frame takes a buffer of the neighbour (R319). -/
theorem Port.sends_used (x y : Port) (q : Queued) (turn : Nat) (h : y.credits = (x.sends q turn).credits) :
    y.used q.f.vl q.f.dl = x.used q.f.vl q.f.dl + 1 := by
  rw [Port.used, h, Port.sends, Sparse.get_set_self]

theorem State.frameLeaves_plain {p : Nat} (q : Queued) (turn : Nat) (he : s.fld (F.encEn p) = 0) :
    s.frameLeaves p q turn = (s.sends p q turn).bufFreed q.src := by
  rw [State.frameLeaves_eq, if_neg (by simp [he])]

/-- A port that does not encrypt sends to its neighbour alone (R319). -/
theorem State.frameLeaves_others {p : Nat} {q : Queued} {turn : Nat} (he : s.fld (F.encEn p) = 0) (hq : q.src = none) {k : Nat} (hk : k ≠ p) :
    (s.frameLeaves p q turn).port k = s.port k := by
  rw [s.frameLeaves_plain q turn he, hq]
  exact (State.port_modPort_ne _ _ hk).trans (s.port_modPort_ne _ hk)

/-- A frame that goes on the wire leaves what the slot does not take (R309). -/
theorem State.sends_proj {β : Type} {g : Port → β} (hw : ∀ x w, g { x with wire := w } = g x) (hs : ∀ x q turn, g (Port.sends x q turn) = g x)
    (p : Nat) (q : Queued) (turn k : Nat) : g ((s.sends p q turn).port k) = g (s.port k) := by
  rw [State.sends, State.onWire_proj _ hw]
  refine s.proj_modPort (fun x => ?_) p k
  exact hs x q turn

/-- The buffer that the frame held is free (R319). -/
theorem State.frameLeaves_held {p : Nat} {q : Queued} {turn a v k : Nat} (he : s.fld (F.encEn p) = 0) (hq : q.src = some (a, v, k)) :
    Sparse.get (fun _ => 0) ((s.frameLeaves p q turn).port a).held (2 * v + k)
      = Sparse.get (fun _ => 0) (s.port a).held (2 * v + k) - 1 := by
  have same : ((s.sends p q turn).port a).held = (s.port a).held :=
    s.sends_proj (fun _ _ => rfl) (fun _ _ _ => rfl) p q turn a
  rw [s.frameLeaves_plain q turn he, hq, State.bufFreed_held, same]

/-- An encrypting port counts the frame under its key (R334). -/
theorem State.frameLeaves_counts {p : Nat} (q : Queued) (turn : Nat) (he : s.fld (F.encEn p) = 1) :
    ((s.frameLeaves p q turn).keySlot p (s.fld (F.txKeySel p))).ctr = (s.keySlot p (s.fld (F.txKeySel p))).ctr + 1 := by
  have keys : (((s.sends p q turn).bufFreed q.src).port p).keys = (s.port p).keys :=
    (State.bufFreed_proj _ (fun _ _ _ => rfl) _ _).trans (s.sends_proj (fun _ _ => rfl) (fun _ _ _ => rfl) p q turn p)
  rw [State.frameLeaves_eq, if_pos (by simp [he]), State.keySlot_modKey, State.keySlot, keys, State.keySlot]

/-- A frame of a port that does not encrypt (R310, R312). -/
theorem State.hopFrame_plain {p : Nat} (q : Queued) (he : s.fld (F.encEn p) = 0) : s.hopFrame p q
    = { q.f with alive := (Sparse.get (fun _ => 0) (s.port p).aliveTx q.f.vl + 1) % 256, enc := false, keySel := 0 } := by
  rw [State.hopFrame, he]
  rfl

/-- Nothing but the next free value differs behind a draw. -/
theorem State.firstOf_lit (x : Port) : ∃ n, (s.firstOf x).2 = { s with free := n } := by
  unfold State.firstOf
  split <;> exact ⟨_, rfl⟩

theorem State.firstOf_alone {x : Port} (h : (x.outQ.any (·.own) && x.outQ.any (fun q => !q.own)) = false) : s.firstOf x = (true, s) := by
  rw [State.firstOf, if_neg (by simp [h])]

end Sys2Proof.Machine
end

section
/-! The frames that slots carry, and those that arrive (R309, R311, R313, R321, R323). -/

namespace Sys2Proof.Machine

variable (s : State)

theorem State.modPort_inbox (p : Nat) (f : Port → Port) : (s.modPort p f).relay.inbox = s.relay.inbox := rfl
theorem State.modPort_holdQ (p : Nat) (f : Port → Port) : (s.modPort p f).relay.holdQ = s.relay.holdQ := rfl

-- frames arriving

/-- A received frame counts on its lane (R312). -/
def State.heard (s : State) (p : Nat) (f : Frame) : State :=
  s.modPort p (fun x => { x with aliveRx := Sparse.set (fun _ => 0) x.aliveRx f.vl (f.alive % 256) })

/-- The buffer of a frame that goes no further is free at once (R319). -/
def State.bufferFree (s : State) (p : Nat) (f : Frame) : State := s.modPort p (fun x => { x with
  freed := Sparse.set (fun _ => 0) x.freed (2 * f.vl + f.dl) (Sparse.get (fun _ => 0) x.freed (2 * f.vl + f.dl) + 1) })

/-- The state in which a frame that goes no further is taken. -/
def State.came (s : State) (p : Nat) (f : Frame) : State := (s.heard p f).bufferFree p f

theorem State.came_regs (p : Nat) (f : Frame) : (s.came p f).regs = s.regs := by
  simp only [State.came, State.heard, State.bufferFree, State.modPort_frame]
theorem State.came_inbox (p : Nat) (f : Frame) : (s.came p f).relay.inbox = s.relay.inbox := by
  simp only [State.came, State.heard, State.bufferFree, State.modPort_inbox]
theorem State.came_holdQ (p : Nat) (f : Frame) : (s.came p f).relay.holdQ = s.relay.holdQ := by
  simp only [State.came, State.heard, State.bufferFree, State.modPort_holdQ]

/-- The buffer of a frame that goes on stays in use (R319). -/
def State.bufferHeld (s : State) (p : Nat) (f : Frame) : State := s.modPort p (fun x => { x with
  held := Sparse.set (fun _ => 0) x.held (2 * f.vl + f.dl) (Sparse.get (fun _ => 0) x.held (2 * f.vl + f.dl) + 1) })

/-- A damaged frame is counted and dropped (R311). -/
theorem State.arrive_damaged {p : Nat} {f : Frame} (h4 : s.linkIs p 4 = true) (hok : f.ok = false) (he : f.enc = false) :
    s.arrive p f = s.sat (F.badFrame p) := by
  unfold State.arrive
  rw [if_neg (by simp [h4]), if_pos (by simp [hok]), he]
  rfl

/-- A whole frame of types 1 to 6 that follows the last one of its lane is delivered or goes on (R311, R312, R321). -/
theorem State.arrive_whole {p : Nat} {f : Frame} (h4 : s.linkIs p 4 = true) (hok : f.ok = true) (he : f.enc = false)
    (h1 : 1 ≤ f.typ) (h6 : f.typ ≤ 6) (hd : f.detour ≠ 3)
    (ha : (f.alive + 256 - Sparse.get (fun _ => 0) (s.port p).aliveRx f.vl) % 256 = 1) :
    s.arrive p f = if f.dstChip = s.self then (s.came p f).deliver f (some p)
      else match (s.heard p f).routeOn (some p) { f := f, own := false, src := some (p, f.vl, f.dl) } with
        | some t => t.bufferHeld p f
        | none => (s.came p f).hopLimit f := by
  unfold State.arrive
  rw [if_neg (by simp [h4]), if_neg (by simp [hok]), if_neg (by omega), if_neg (by omega), if_neg (by simp [he])]
  dsimp only
  rw [if_neg (by omega), if_pos ha]
  simp only [he, Bool.false_eq_true, if_false]
  rfl

/-- A frame for this chip's core goes to the core (R321). -/
theorem State.deliver_core {f : Frame} (arr : Option Nat) (h7 : f.typ ≠ 7) (hc : s.relay.coreReady = true) (h1 : s.phase ≠ .x1) :
    s.deliver f arr = s.setRelay { s.relay with inbox := s.relay.inbox ++ [f] } := by
  have notice : isMemberOut f = false := by simp [isMemberOut, h7]
  unfold State.deliver
  rw [if_neg (by simp [notice]), if_neg (by simp [hc]), if_neg (by simp [h7]), if_neg (by simpa using h1)]

/-- In X1 it waits in the relay (R321). -/
theorem State.deliver_held {f : Frame} (arr : Option Nat) (h7 : f.typ ≠ 7) (hc : s.relay.coreReady = true) (h1 : s.phase = .x1)
    (hr : s.relay.holdQ.length < 256) : s.deliver f arr = s.setRelay { s.relay with holdQ := s.relay.holdQ ++ [f] } := by
  have notice : isMemberOut f = false := by simp [isMemberOut, h7]
  unfold State.deliver
  rw [if_neg (by simp [notice]), if_neg (by simp [hc]), if_neg (by simp [h7]), if_pos (by simp [h1]), if_neg (by omega)]

/-- A frame that goes on waits at the port that the route gives it (R323). -/
theorem State.routeOn_goes (arr : Option Nat) (q : Queued) (hh : q.f.hops < 48) :
    s.routeOn arr q = some (s.enqueue (s.choosePort arr q.f.dstChip q.f.detour).1
      { q with f := s.onto arr (s.choosePort arr q.f.dstChip q.f.detour).1 (s.choosePort arr q.f.dstChip q.f.detour).2 q.f }) := by
  unfold State.routeOn
  rw [if_neg (by omega)]

@[simp] theorem State.enqueue_outQ (p : Nat) (q : Queued) : ((s.enqueue p q).port p).outQ = (s.port p).outQ ++ [q] := by
  rw [State.enqueue, State.port_modPort]

/-- A frame that waits leaves what else there is to a port (R320). -/
theorem State.enqueue_proj {β : Type} {g : Port → β} (hg : ∀ x l, g { x with outQ := l } = g x) (p : Nat) (q : Queued) (k : Nat) :
    g ((s.enqueue p q).port k) = g (s.port k) := by
  refine s.proj_modPort (fun x => ?_) p k
  exact hg x _

theorem State.heard_proj {β : Type} {g : Port → β} (hg : ∀ x l, g { x with aliveRx := l } = g x) (p : Nat) (f : Frame) (k : Nat) :
    g ((s.heard p f).port k) = g (s.port k) := by
  refine s.proj_modPort (fun x => ?_) p k
  exact hg x _

theorem State.bufferHeld_proj {β : Type} {g : Port → β} (hg : ∀ x l, g { x with held := l } = g x) (p : Nat) (f : Frame) (k : Nat) :
    g ((s.bufferHeld p f).port k) = g (s.port k) := by
  refine s.proj_modPort (fun x => ?_) p k
  exact hg x _

theorem State.bufferHeld_held (p : Nat) (f : Frame) : Sparse.get (fun _ => 0) ((s.bufferHeld p f).port p).held (2 * f.vl + f.dl)
    = Sparse.get (fun _ => 0) (s.port p).held (2 * f.vl + f.dl) + 1 := by
  rw [State.bufferHeld, State.port_modPort, Sparse.get_set_self]

/-- The state in which a frame that goes on waits at port `o`. -/
def State.goesOn (s : State) (p o : Nat) (f : Frame) (q : Queued) : State := ((s.heard p f).enqueue o q).bufferHeld p f

theorem State.goesOn_regs (p o : Nat) (f : Frame) (q : Queued) : (s.goesOn p o f q).regs = s.regs := by
  simp only [State.goesOn, State.heard, State.enqueue, State.bufferHeld, State.modPort_frame]
theorem State.goesOn_inbox (p o : Nat) (f : Frame) (q : Queued) : (s.goesOn p o f q).relay.inbox = s.relay.inbox := by
  simp only [State.goesOn, State.heard, State.enqueue, State.bufferHeld, State.modPort_inbox]

theorem State.goesOn_outQ (p o : Nat) (f : Frame) (q : Queued) : ((s.goesOn p o f q).port o).outQ = (s.port o).outQ ++ [q] := by
  rw [State.goesOn, State.bufferHeld_proj _ (g := Port.outQ) (fun _ _ => rfl), State.enqueue_outQ,
    s.heard_proj (g := Port.outQ) (fun _ _ => rfl)]

theorem State.goesOn_held (p o : Nat) (f : Frame) (q : Queued) :
    Sparse.get (fun _ => 0) ((s.goesOn p o f q).port p).held (2 * f.vl + f.dl)
      = Sparse.get (fun _ => 0) (s.port p).held (2 * f.vl + f.dl) + 1 := by
  rw [State.goesOn, State.bufferHeld_held, State.enqueue_proj _ (g := Port.held) (fun _ _ => rfl),
    s.heard_proj (g := Port.held) (fun _ _ => rfl)]

/-- A whole frame for another chip goes on by R323. -/
theorem State.arrive_on {p : Nat} {f : Frame} (h4 : s.linkIs p 4 = true) (hok : f.ok = true) (he : f.enc = false)
    (h1 : 1 ≤ f.typ) (h6 : f.typ ≤ 6) (hd : f.detour ≠ 3)
    (ha : (f.alive + 256 - Sparse.get (fun _ => 0) (s.port p).aliveRx f.vl) % 256 = 1) (hs : f.dstChip ≠ s.self) (hh : f.hops < 48) :
    s.arrive p f = s.goesOn p (s.choosePort (some p) f.dstChip f.detour).1 f
      { f := s.onto (some p) (s.choosePort (some p) f.dstChip f.detour).1 (s.choosePort (some p) f.dstChip f.detour).2 f,
        own := false, src := some (p, f.vl, f.dl) } := by
  rw [s.arrive_whole h4 hok he h1 h6 hd ha, if_neg hs, State.routeOn_goes _ _ _ hh]
  rfl

-- maintenance frames

theorem State.setFld_port (f : Fld) (v k : Nat) : (s.setFld f v).port k = s.port k := rfl

/-- What a maintenance frame makes of a port (R313). -/
def Port.maintained (x : Port) (now : Nat) (credits alive : List Nat) (ctr : Nat) : Port :=
  { x with lastMaint := now, rxCtr := ctr
           credits := (List.range 8).foldl (fun l k => Sparse.set (fun _ => 0) l k (Sparse.get (fun _ => 0) l k - credits.getD k 0)) x.credits
           aliveRx := (List.range 4).foldl (fun l v => Sparse.set (fun _ => 0) l v (alive.getD v 0 % 256)) x.aliveRx }

/-- Each of several places that are all different is changed once. -/
theorem Sparse.get_foldl_change (g : Nat → Nat → Nat) (k : Nat) {l : List Nat} (hl : l.Nodup) :
    ∀ m : List (Nat × Nat), Sparse.get (fun _ => 0) (l.foldl (fun m i => Sparse.set (fun _ => 0) m i (g i (Sparse.get (fun _ => 0) m i))) m) k
      = if k ∈ l then g k (Sparse.get (fun _ => 0) m k) else Sparse.get (fun _ => 0) m k := by
  induction l with
  | nil => exact fun m => rfl
  | cons i l ih =>
    intro m
    obtain ⟨hi, hl⟩ := List.nodup_cons.1 hl
    rw [List.foldl_cons, ih hl]
    by_cases hk : k = i
    · rw [hk, if_neg hi, Sparse.get_set_self, if_pos List.mem_cons_self]
    · have other : Sparse.get (fun _ => 0) (Sparse.set (fun _ => 0) m i (g i (Sparse.get (fun _ => 0) m i))) k = Sparse.get (fun _ => 0) m k :=
        Sparse.get_set_ne (Ne.symm hk)
      simp only [other, List.mem_cons, hk, false_or]

/-- The partner's credits (R313). -/
theorem Port.maintained_used (x : Port) (now : Nat) (credits alive : List Nat) (ctr : Nat) (v k : Fin 2) :
    (x.maintained now credits alive ctr).used v k = x.used v k - credits.getD (2 * v + k) 0 := by
  have all := Sparse.get_foldl_change (fun i n => n - credits.getD i 0) (2 * v + k) (List.nodup_range (n := 8)) x.credits
  rw [if_pos (List.mem_range.2 (by omega))] at all
  exact all

/-- A maintenance frame at an UP port (R313). -/
theorem State.maintain_up {p : Nat} (credits alive : List Nat) (ctr sel : Nat) (ready : Bool) (h4 : s.linkIs p 4 = true) :
    ∃ m : State, m.relay = s.relay ∧ m.aon = s.aon
      ∧ s.maintain p credits alive ctr sel ready = ((m.modPort p (fun x => x.maintained m.aon credits alive ctr)).setFld (F.rxLastSel p) sel).setFld
          (F.partnerReady p) (if ready then 1 else 0) := by
  refine ⟨if (List.range 4).foldl (fun a v => a + (alive.getD v 0 + 256 - Sparse.get (fun _ => 0) (s.port p).aliveRx v) % 256) 0 = 0 then s
    else s.sat (F.aliveLoss p) ((List.range 4).foldl (fun a v => a + (alive.getD v 0 + 256 - Sparse.get (fun _ => 0) (s.port p).aliveRx v) % 256) 0),
    ?_, ?_, if_pos h4⟩
  · split <;> rfl
  · split <;> rfl

theorem exec_frameSlotSend {p : Fin 6} {t : State} (h : s.slotSend p = t) : exec (.frameSlotSend p) s = .next t := h ▸ rfl
theorem exec_frameForward {p : Fin 6} {f : Frame} {t : State} (h : s.arrive p f = t) : exec (.frameForward p f) s = .next t := h ▸ rfl
theorem exec_maintenanceFrame {p : Fin 6} {credits alive : List Nat} {ctr sel : Nat} {ready : Bool} {t : State}
    (h : s.maintain p credits alive ctr sel ready = t) : exec (.maintenanceFrame p credits alive ctr sel ready) s = .next t := h ▸ rfl

theorem State.mute_plain {p : Nat} (he : s.fld (F.encEn p) = 0) : s.mute p = false := by
  simp [State.mute, he]

theorem State.mute_keyed {p : Nat} (hl : (s.keySlot p (s.fld (F.txKeySel p))).loaded = true) (hd : s.keyDead p = false) : s.mute p = false := by
  simp [State.mute, hl, hd]

/-- A slot of a port with frames of one kind only carries the picked one (R309, R320). -/
theorem State.slotSend_alone {p turn : Nat} {q : Queued} (h4 : s.linkIs p 4 = true) (hn : (s.port p).slotNo < 63) (hm : s.mute p = false)
    (hk : ((s.port p).outQ.any (·.own) && (s.port p).outQ.any (fun q => !q.own)) = false) (hp : s.pick (s.port p) true = (some q, turn)) :
    s.slotSend p = s.frameLeaves p q turn := by
  have first : s.firstOf (s.port p) = (true, s) := s.firstOf_alone hk
  have sent := s.slotSend_frame (p := p) (q := q) (turn := turn) h4 hn hm (by rw [first]; exact hp)
  rwa [first] at sent

/-- Settles O32: a slot carries the frame that the lanes' order picks, and a frame that comes in is dropped, delivered or sent on. -/
theorem portsCarryFrames : Obligations.PortsCarryFrames := by
  unfold Obligations.PortsCarryFrames
  intro s p ha h
  have h4 : s.linkIs p 4 = true := s.linkIs_of ha h
  refine ⟨?plain, ?either, ?keyed, ?maint, ?idle, ?damaged, ?here, ?on, ?told⟩
  case plain =>
    intro q turn he hn hk hp
    have out := s.frameLeaves_outside p q turn
    simp only [Port.outside, Prod.mk.injEq] at out
    obtain ⟨outQ, credits, slotNo, wire⟩ := out
    refine ⟨s.frameLeaves p q turn, exec_frameSlotSend s (s.slotSend_alone h4 hn (s.mute_plain he) hk hp), outQ,
      (s.port p).sends_used _ q turn credits, slotNo, ?_, s.frameLeaves_regs p q turn, fun hq k hk => s.frameLeaves_others he hq hk,
      fun a v k hq => s.frameLeaves_held he hq⟩
    rintro f rfl
    rw [wire, s.hopFrame_plain q he, State.wireOf_plain _ _ rfl]
  case either =>
    intro hn he hp
    obtain ⟨n, lit⟩ := s.firstOf_lit (s.port p)
    obtain ⟨q, hq⟩ := Option.isSome_iff_exists.1 (hp (s.firstOf (s.port p)).1)
    have sent := s.slotSend_frame (p := p) (q := q) h4 hn (s.mute_plain he)
      (show (s.firstOf (s.port p)).2.pick (s.port p) _ = (some q, _) by rw [lit]; exact Prod.ext hq rfl)
    have out := State.frameLeaves_outside (s.firstOf (s.port p)).2 p q (s.pick (s.port p) (s.firstOf (s.port p)).1).2
    rw [lit] at sent out
    simp only [Port.outside, Prod.mk.injEq] at out
    exact ⟨_, q, exec_frameSlotSend s sent, s.pick_mem hq, out.1, State.frameLeaves_regs _ p q _⟩
  case keyed =>
    intro q turn he hl hd hn hk hp
    have out := s.frameLeaves_outside p q turn
    simp only [Port.outside, Prod.mk.injEq] at out
    obtain ⟨outQ, -, -, wire⟩ := out
    refine ⟨s.frameLeaves p q turn, exec_frameSlotSend s (s.slotSend_alone h4 hn (s.mute_keyed hl hd) hk hp), outQ,
      s.frameLeaves_counts q turn he, ?_, s.frameLeaves_regs p q turn⟩
    obtain ⟨enc, sel⟩ := State.wireOf_header (s.modPort p (fun x => x.sends q turn)) p (s.hopFrame p q)
    rw [wire, Option.map_some, enc, sel]
    simp [State.hopFrame, he]
  case maint =>
    intro hn
    refine ⟨_, exec_frameSlotSend s (s.slotSend_maint h4 hn), ?_⟩
    simp only [State.port_modPort, State.onWire_port]
    rw [State.wireOf_plain _ _ rfl]
    exact ⟨rfl, trivial, trivial, trivial, rfl⟩
  case idle =>
    intro hn hq
    refine ⟨_, exec_frameSlotSend s (s.slotSend_idle h4 hn hq), ?_⟩
    simp only [State.port_modPort, State.onWire_port]
    rw [State.wireOf_plain _ _ rfl]
    exact ⟨rfl, trivial, hq, rfl⟩
  case damaged =>
    intro f hok he
    refine ⟨_, exec_frameForward s (s.arrive_damaged h4 hok he), rfl, ?_⟩
    exact s.fld_sat_self _ _ (by simp [F.badFrame])
  case here =>
    intro f hok he h1 h6 hd hs alive hc
    have come := s.arrive_whole h4 hok he h1 h6 hd alive
    have h7 : f.typ ≠ 7 := by omega
    rw [if_pos hs] at come
    refine ⟨fun hx => ?_, fun hx hr => ?_⟩
    · exact ⟨_, exec_frameForward s (come.trans (State.deliver_core _ _ h7 hc (hx ▸ nofun))),
        congrArg (· ++ [f]) (s.came_inbox p f), s.came_holdQ p f, s.came_regs p f⟩
    · refine ⟨_, exec_frameForward s (come.trans (State.deliver_held _ _ h7 hc hx ?_)),
        s.came_inbox p f, congrArg (· ++ [f]) (s.came_holdQ p f), s.came_regs p f⟩
      rwa [s.came_holdQ]
  case on =>
    intro f hok he h1 h6 hd hs hh alive
    refine ⟨_, exec_frameForward s (s.arrive_on h4 hok he h1 h6 hd alive hs hh), s.goesOn_regs _ _ _ _, s.goesOn_inbox _ _ _ _, ?_, ?_⟩
    · exact s.goesOn_outQ _ _ _ _
    · exact s.goesOn_held _ _ _ _
  case told =>
    intro credits alive ctr sel ready
    obtain ⟨m, relay, aon, e⟩ := s.maintain_up credits alive ctr sel ready h4
    have same (k : Nat) : m.port k = s.port k := congrArg (fun r : Relay => Sparse.get (fun _ => ({} : Port)) r.ports k) relay
    refine ⟨_, exec_maintenanceFrame s e, ?_⟩
    have here : (((m.modPort p (fun x => x.maintained m.aon credits alive ctr)).setFld (F.rxLastSel p) sel).setFld
        (F.partnerReady p) (if ready then 1 else 0)).port p = (s.port p).maintained s.aon credits alive ctr := by
      rw [State.setFld_port, State.setFld_port, State.port_modPort, same, aon]
    rw [here]
    refine ⟨rfl, rfl, State.fld_setFld_fits _ _ _ (by simp [F.partnerReady]) (by split <;> simp [F.partnerReady]), ?_,
      (s.port p).maintained_used s.aon credits alive ctr, fun k hk => ?_⟩
    · rw [State.fld_setFld_disj _ _ _ _ (.inl (by simp [F.rxLastSel, F.partnerReady])), State.fld_setFld_self _ _ _ (by simp [F.rxLastSel])]
      rfl
    · rw [State.setFld_port, State.setFld_port, State.port_modPort_ne _ _ hk, same]

end Sys2Proof.Machine
end

section
/-! What frames that this chip sends, and intervals that pass, leave as it is (R321, R331, R401). -/

namespace Sys2Proof.Machine

variable (s : State)

/-- The state but for the registers and the relay. -/
def State.unsent (s : State) : State := { s with regs := [], relay := {} }

theorem rep_of_unsent {s t : State} (h : t.unsent = s.unsent) : t.rep = s.rep := (congrArg State.rep h :)
theorem coll_of_unsent {s t : State} (h : t.unsent = s.unsent) : t.coll = s.coll := (congrArg State.coll h :)
theorem tile_of_unsent {s t : State} (h : t.unsent = s.unsent) : t.tile = s.tile := (congrArg State.tile h :)

theorem State.setFld_unsent (f : Fld) (v : Nat) : (s.setFld f v).unsent = s.unsent := rfl
theorem State.enqueue_unsent (p : Nat) (q : Queued) : (s.enqueue p q).unsent = s.unsent := rfl

theorem State.sendOut_unsent (f : Frame) (w : Option (Nat × Nat)) : (s.sendOut f w).unsent = s.unsent := by
  unfold State.sendOut State.routeOn
  split <;> rfl

theorem State.notReadyTo_unsent (f : Frame) (n : Nat) : (s.notReadyTo f n).unsent = s.unsent := by
  unfold State.notReadyTo
  extract_lets log t
  exact (State.sendOut_unsent _ _ _).trans (coll_ite rfl rfl)

theorem State.deliver_unsent (f : Frame) (arr : Option Nat) : (s.deliver f arr).unsent = s.unsent := by
  unfold State.deliver
  exact coll_ite rfl (coll_ite (s.notReadyTo_unsent _ _) (coll_ite rfl (coll_ite (coll_ite (s.notReadyTo_unsent _ _) rfl) rfl)))

theorem State.inject_unsent (f : Frame) (w : Option (Nat × Nat)) : (s.inject f w).unsent = s.unsent := by
  unfold State.inject
  exact coll_ite (s.deliver_unsent _ _) (s.sendOut_unsent _ _)

theorem State.floodOut_unsent (b : List Byte) (but : Option Nat) : (s.floodOut b but).unsent = s.unsent := by
  unfold State.floodOut
  refine proj_foldl (p := State.unsent) fun u k _ => ?_
  exact coll_ite (g := State.unsent) (State.enqueue_unsent _ _ _) rfl

theorem State.grpOut_unsent (g m : Nat) : (s.grpOut g m).unsent = s.unsent := by
  unfold State.grpOut
  refine proj_foldl fun u o _ => ?_
  extract_lets n ins t
  have left : t.unsent = u.unsent := State.setFld_unsent _ _ _
  clear_value t ins n
  refine coll_ite (coll_ite left ?_) rfl
  split
  · exact (State.setFld_unsent _ _ _).trans left
  · exact left

theorem State.sendRep_unsent (k : Nat) (l : List Byte) : (s.sendRep k l).unsent = s.unsent := by
  unfold State.sendRep
  exact proj_foldl fun u m _ => u.inject_unsent _ _

theorem State.transmit_unsent : s.transmit.unsent = s.unsent := by
  unfold State.transmit
  refine coll_ite (proj_foldl fun u i _ => ?_) rfl
  split
  · next l _ =>
    extract_lets f t
    have timed : t.unsent = u.unsent := coll_ite rfl rfl
    clear_value t
    exact coll_ite ((State.inject_unsent _ _ _).trans timed) rfl
  · rfl

/-- The state but for the registers, the relay and the intervals. -/
def State.unjudged (s : State) : State := { s with regs := [], relay := {}, rep := { s.rep with intervals := [] } }

theorem unjudged_of_unsent {s t : State} (h : t.unsent = s.unsent) : t.unjudged = s.unjudged := (congrArg State.unjudged h :)

/-- An interval passes. -/
theorem State.passInterval_unsent (i : Interval) : (s.passInterval i).unsent
    = (s.setRep { s.rep with intervals := s.rep.intervals.filter (fun j => !j.is i.t i.seq i.num) }).unsent := by
  unfold State.passInterval
  extract_lets t
  split
  · exact State.transmit_unsent _
  · rfl

theorem State.passInterval_unjudged (i : Interval) : (s.passInterval i).unjudged = s.unjudged :=
  (unjudged_of_unsent (s.passInterval_unsent i)).trans rfl

theorem State.passAll_unjudged : s.passAll.unjudged = s.unjudged := by
  unfold State.passAll
  exact proj_foldl fun u i _ => coll_ite (u.passInterval_unjudged i) rfl

/-- What passing leaves, piece by piece. -/
theorem frame_of_unjudged {s t : State} (h : t.unjudged = s.unjudged) : t.coll = s.coll ∧ t.tile = s.tile ∧ t.graphs = s.graphs ∧ t.aon = s.aon
    ∧ t.rep.inService = s.rep.inService ∧ t.rep.gen = s.rep.gen ∧ t.rep.verdicts = s.rep.verdicts :=
  have rep : { t.rep with intervals := [] } = { s.rep with intervals := [] } := (congrArg State.rep h :)
  ⟨(congrArg State.coll h :), (congrArg State.tile h :), (congrArg State.graphs h :), (congrArg State.aon h :),
    (congrArg Replica.inService rep :), (congrArg Replica.gen rep :), (congrArg Replica.verdicts rep :)⟩

/-- Members of a group that are out of service (R401). -/
def Replica.without (r : Replica) (gone : Nat) : Replica :=
  { r with inService := BitVec.ofNat 3 (r.inService.toNat &&& (7 ^^^ gone)), gen := r.gen + 1, verdicts := []
           active := if bit (r.inService.toNat &&& (7 ^^^ gone)) r.active then r.active
             else ((List.range 3).find? (fun m => bit (r.inService.toNat &&& (7 ^^^ gone)) m)).getD r.member }

/-- Other members of the group are out of service (R401). -/
theorem State.membersOut_others {mask : Nat} (wrong : Bool) (hs : s.rep.size ≠ 0) (ho : s.rep.out = false)
    (hg : mask &&& s.rep.inService.toNat ≠ 0) (hm : bit (mask &&& s.rep.inService.toNat) s.rep.member = false) :
    (s.membersOut mask wrong).unjudged = (s.setRep (s.rep.without (mask &&& s.rep.inService.toNat))).unjudged := by
  unfold State.membersOut
  dsimp only
  rw [if_neg (by simp [hs, ho, hg]), if_neg (by simp [hm])]
  refine (unjudged_of_unsent (State.transmit_unsent _)).trans ((State.passAll_unjudged _).trans (coll_ite ?_ ?_))
  · exact unjudged_of_unsent ((State.floodOut_unsent _ _ _).trans (State.grpOut_unsent _ _ _))
  · exact unjudged_of_unsent (State.grpOut_unsent _ _ _)

/-- A channel that waits for room changes its register alone (R329). -/
theorem State.wakeChans_proj {γ : Type} {p : State → γ} (h : ∀ (u : State) (f : Fld) (v : Nat), p (u.setFld f v) = p u) :
    p s.wakeChans = p s := by
  unfold State.wakeChans
  refine proj_foldl fun u ch _ => ?_
  split
  · exact coll_ite (h u _ _) rfl
  · rfl

/-- Frames that are acknowledged leave the log (R329). -/
theorem State.freeLog_log (i n : Nat) : (s.freeLog i n).relay.log
    = s.relay.log.filter (fun l => !(l.pair == i && seqReached n l.frame.pairSeq)) := by
  unfold State.freeLog
  rw [State.wakeChans_proj _ (p := State.relay) fun _ _ _ => rfl]
  rfl

theorem State.freeLog_tile (i n : Nat) : (s.freeLog i n).tile = s.tile := State.wakeChans_proj _ (p := State.tile) fun _ _ _ => rfl
theorem State.freeLog_graphs (i n : Nat) : (s.freeLog i n).graphs = s.graphs := State.wakeChans_proj _ (p := State.graphs) fun _ _ _ => rfl

end Sys2Proof.Machine
end

section
/-! The replica protocol (O60): digests and intervals, heartbeats, verdicts, members out, notices and audits (R396 to R401). -/

namespace Sys2Proof.Machine

variable (s : State)

-- frames from partners

/-- The state in which a frame of a partner is taken (R398). -/
def State.tookReplica (s : State) (l : List Frame) (m : Nat) : State :=
  (s.tookFrame l).setRep { s.rep with lastHeard := (m, s.aon) :: s.rep.lastHeard.filter (·.1 != m) }

/-- The next frame is one of member `m` of this chip's group, which is in service (R396, R398). -/
structure State.Hears (s : State) (f : Frame) (l : List Frame) (m : Nat) : Prop where
  engines : s.engines = true
  inGroup : s.inGroup = true
  inbox : s.relay.inbox = f :: l
  typ : f.typ = 7
  member : bits (fieldAt f.payload 0 1) 4 2 = m
  group : fieldAt f.payload 2 2 = s.rep.groupId
  partner : s.partners.contains m = true

variable {s} in
/-- A frame of a member in service is taken by the row of its type. -/
theorem State.Hears.taken {f : Frame} {l : List Frame} {m k : Nat} (h : s.Hears f l m) (g : Nat → List Byte → State → State)
    (hk : bits (fieldAt f.payload 0 1) 0 4 = k) : s.takeReplica k g = g m f.payload (s.tookReplica l m) := by
  unfold State.takeReplica
  rw [s.takeFrame_head _ h.engines h.inbox (by simp [h.typ, hk]), h.member]
  refine if_pos ?_
  show (s.inGroup && fieldAt f.payload 2 2 == s.rep.groupId && s.partners.contains m) = true
  rw [h.inGroup, h.partner, h.group]
  simp

theorem State.mem_svcMembers {m : Nat} : m ∈ s.svcMembers ↔ m < s.rep.size ∧ bit s.rep.inService.toNat m = true := by
  simp [State.svcMembers]

/-- A partner is another member in service. -/
theorem State.contains_partners {m : Nat} : s.partners.contains m = true ↔ m ∈ s.svcMembers ∧ m ≠ s.rep.member := by
  simp [State.partners]

theorem State.svcMembers_nodup : s.svcMembers.Nodup := List.nodup_range.filter _

-- digests

/-- The digest of a DIGEST frame (R396). -/
def digestOf (b : List Byte) : Digest :=
  ⟨BitVec.ofNat 64 (fieldAt b 22 8), BitVec.ofNat 32 (fieldAt b 30 4), bit (fieldAt b 34 1) 0, bit (fieldAt b 34 1) 1⟩

/-- The state with one interval (R395). -/
def State.withInterval (s : State) (i : Interval) : State := s.setRep { s.rep with intervals := [i] }

/-- A digest of an interval that this chip has not ended opens it (R397). -/
theorem State.putDigest_opens {t : Nat} {seq : W32} {num m : Nat} {d : Digest} (h : s.rep.intervals = []) :
    s.putDigest t seq num m none d = s.withInterval { t := t, own := none, seq := seq, num := num, digests := [(m, d)] } := by
  unfold State.putDigest
  simp [h, updFirst, Interval.is, State.withInterval]

/-- A digest of the one interval joins it. -/
theorem State.putDigest_joins {t : Nat} {seq : W32} {num m : Nat} {d : Digest} {v : Interval} (h : s.rep.intervals = [v])
    (hv : v.is t seq num = true) :
    s.putDigest t seq num m none d = s.withInterval { v with digests := (m, d) :: v.digests.filter (·.1 != m) } := by
  unfold State.putDigest
  simp [h, updFirst, hv, State.withInterval]

/-- An interval that this chip has not ended is not judged (R397). -/
theorem State.judge_unended {i : Interval} (h : i.own = none) : s.judge i = .wait := by
  unfold State.judge
  exact if_pos (by simp [h])

/-- A list of two holds no third. -/
theorem two_of_nodup {l : List Nat} {a b : Nat} (hl : l.length = 2) (hd : l.Nodup) (ha : a ∈ l) (hb : b ∈ l) (h : a ≠ b) :
    l = [a, b] ∨ l = [b, a] := by
  obtain ⟨x, y, rfl⟩ := List.length_eq_two.1 hl
  simp only [List.mem_cons, List.not_mem_nil, or_false] at ha hb
  rcases ha with rfl | rfl <;> rcases hb with rfl | rfl
  · exact absurd rfl h
  · exact .inl rfl
  · exact .inr rfl
  · exact absurd rfl h

/-- Two members that agree pass the interval (R399). -/
theorem State.judge_agreed {i : Interval} {a b : Nat} {c d : Digest} (ho : i.own.isSome = true) (ha : i.audit = false)
    (hd : i.digests = [(a, c), (b, d)]) (hm : s.svcMembers = [a, b] ∨ s.svcMembers = [b, a]) (hab : a ≠ b)
    (hs : c.sum = d.sum) (hn : c.cnt = d.cnt) (hc : c.failed = false) (hf : d.failed = false) : s.judge i = .pass := by
  have own : i.own.isNone = false := by rw [← Option.not_isSome, ho]; rfl
  unfold State.judge
  rcases hm with hm | hm
  · simp [hm, hd, own, ha, hab, hs, hn, hc, hf]
  · simp [hm, hd, own, ha, hab, hs, hn, hc, hf]

theorem State.judge_withInterval (i j : Interval) : (s.withInterval i).judge j = s.judge j := rfl

/-- One interval is judged. -/
theorem State.settle_waits {i : Interval} (hg : s.inGroup = true) (h : s.judge i = .wait) : (s.withInterval i).settle = s.withInterval i := by
  have group : (s.withInterval i).inGroup = true := hg
  have only : (s.withInterval i).rep.intervals = [i] := rfl
  unfold State.settle
  rw [if_neg (by simp [group]), only, List.foldl_cons, s.judge_withInterval, h]
  rfl

/-- An agreed interval passes, and is none any more (R399). -/
theorem State.settle_passes {i : Interval} (hg : s.inGroup = true) (h : s.judge i = .pass) :
    (s.withInterval i).settle = (s.withInterval i).passInterval i := by
  have group : (s.withInterval i).inGroup = true := hg
  have only : (s.withInterval i).rep.intervals = [i] := rfl
  unfold State.settle
  rw [if_neg (by simp [group]), only, List.foldl_cons, s.judge_withInterval, h]
  rfl

theorem State.passInterval_intervals (i : Interval) :
    (s.passInterval i).rep.intervals = s.rep.intervals.filter (fun j => !j.is i.t i.seq i.num) :=
  congrArg (fun t => t.rep.intervals) (s.passInterval_unsent i)

theorem State.passInterval_only (i : Interval) : ((s.withInterval i).passInterval i).rep.intervals = [] := by
  rw [State.passInterval_intervals, State.withInterval]
  simp [State.setRep, Interval.is]

variable {s} in
/-- A digest of an interval that this chip has not ended is kept (R397). -/
theorem State.Hears.digest_kept {f : Frame} {l : List Frame} {m : Nat} (h : s.Hears f l m) (hk : bits (fieldAt f.payload 0 1) 0 4 = 0)
    (hi : s.rep.intervals = []) : s.digestTaken = (s.tookReplica l m).withInterval
      { t := bits (fieldAt f.payload 8 1) 0 3, own := none, seq := BitVec.ofNat 32 (fieldAt f.payload 12 4),
        num := fieldAt f.payload 20 2, digests := [(m, digestOf f.payload)] } := by
  unfold State.digestTaken
  rw [h.taken _ hk]
  refine (congrArg State.settle (State.putDigest_opens (s.tookReplica l m) (d := digestOf f.payload) hi)).trans ?_
  exact State.settle_waits _ h.inGroup (State.judge_unended _ rfl)

variable {s} in
/-- The digest that makes two members' agree lets the interval pass (R399, R331). -/
theorem State.Hears.digest_passes {f : Frame} {l : List Frame} {m : Nat} {v : Interval} {d : Digest} (h : s.Hears f l m)
    (hk : bits (fieldAt f.payload 0 1) 0 4 = 0) (hi : s.rep.intervals = [v])
    (hv : v.is (bits (fieldAt f.payload 8 1) 0 3) (BitVec.ofNat 32 (fieldAt f.payload 12 4)) (fieldAt f.payload 20 2) = true)
    (ho : v.own.isSome = true) (ha : v.audit = false) (hd : v.digests = [(s.rep.member, d)]) (hf : d.failed = false)
    (h2 : s.svcMembers.length = 2) (hm : s.rep.member ∈ s.svcMembers)
    (hsum : (digestOf f.payload).sum = d.sum) (hcnt : (digestOf f.payload).cnt = d.cnt) (hfail : (digestOf f.payload).failed = false) :
    s.digestTaken.rep.intervals = [] ∧ s.digestTaken.unjudged = (s.tookReplica l m).unjudged := by
  obtain ⟨hin, hne⟩ := s.contains_partners.1 h.partner
  have both : (m, digestOf f.payload) :: v.digests.filter (·.1 != m) = [(m, digestOf f.payload), (s.rep.member, d)] := by
    simp [hd, Ne.symm hne]
  have agreed : (s.tookReplica l m).judge { v with digests := [(m, digestOf f.payload), (s.rep.member, d)] } = .pass :=
    State.judge_agreed _ ho ha rfl (two_of_nodup h2 s.svcMembers_nodup hin hm hne) hne hsum hcnt hfail hf
  have taken : s.digestTaken = ((s.tookReplica l m).withInterval { v with digests := [(m, digestOf f.payload), (s.rep.member, d)] }).passInterval
      { v with digests := [(m, digestOf f.payload), (s.rep.member, d)] } := by
    unfold State.digestTaken
    rw [h.taken _ hk]
    refine Eq.trans ?_ (State.settle_passes (s.tookReplica l m) h.inGroup agreed)
    rw [← both]
    exact congrArg State.settle (State.putDigest_joins (s.tookReplica l m) (d := digestOf f.payload) hi hv)
  rw [taken]
  exact ⟨State.passInterval_only _ _, State.passInterval_unjudged _ _⟩

-- verdicts

theorem exec_digest {t : State} (h : s.digestTaken = t) : exec .digest s = .next t := h ▸ rfl
theorem exec_heartbeat {t : State} (h : s.heartbeatTaken = t) : exec .heartbeat s = .next t := h ▸ rfl
theorem exec_verdict {t : State} (h : s.verdictTaken = t) : exec .verdict s = .next t := h ▸ rfl
theorem exec_ackReport {t : State} (h : s.ackReportTaken = t) : exec .ackReport s = .next t := h ▸ rfl
theorem exec_heartbeatPeriod {t : State} (h : s.heartbeatSend = t) : exec .heartbeatPeriod s = .next t := h ▸ rfl
theorem exec_memberLostTimeout {m : Fin 3} {t : State} (h : s.memberSilent m = t) : exec (.memberLostTimeout m) s = .next t := h ▸ rfl
theorem exec_auditComplete {ours : List Byte} {evidence : Bool} {others : List (Nat × List Byte × Bool)} {t : State}
    (h : s.auditEnds ours evidence others = t) : exec (.auditComplete ours evidence others) s = .next t := h ▸ rfl

/-- A verdict that a member in service has not sent is not agreed (R399). -/
theorem State.agree_waits {out m : Nat} (wrong : Bool) (hm : m ∈ s.svcMembers) (hb : bit out m = false)
    (hv : ∀ v ∈ s.rep.verdicts, v.1 ≠ m) : s.agree out wrong = s := by
  unfold State.agree
  refine if_neg fun all => ?_
  have sent := List.all_eq_true.1 all m hm
  simp only [hb, Bool.false_or, List.any_eq_true, Bool.and_eq_true, beq_iff_eq] at sent
  obtain ⟨v, hin, rfl, -⟩ := sent
  exact hv v hin rfl

/-- A verdict that every remaining member has sent is agreed (R399). -/
theorem State.agree_agreed {out : Nat} (wrong : Bool)
    (h : ∀ m ∈ s.svcMembers, bit out m = true ∨ (m, out) ∈ s.rep.verdicts) : s.agree out wrong = s.membersOut out wrong := by
  unfold State.agree
  refine if_pos (List.all_eq_true.2 fun m hm => ?_)
  rcases h m hm with hb | hv
  · simp [hb]
  · simp only [Bool.or_eq_true, List.any_eq_true]
    exact .inr ⟨_, hv, by simp⟩


/-- A verdict of a member is noted (R399). -/
def State.toldVerdict (s : State) (m out : Nat) : State :=
  s.setRep { s.rep with verdicts := (m, out) :: s.rep.verdicts.filter (·.1 != m) }

variable {s} in
theorem State.Hears.verdict_taken {f : Frame} {l : List Frame} {m : Nat} (h : s.Hears f l m) (hk : bits (fieldAt f.payload 0 1) 0 4 = 2) :
    ∃ wrong, s.verdictTaken = ((s.tookReplica l m).toldVerdict m (bits (fieldAt f.payload 35 1) 0 3)).agree
      (bits (fieldAt f.payload 35 1) 0 3) wrong := by
  unfold State.verdictTaken
  rw [h.taken _ hk]
  exact ⟨_, rfl⟩

variable {s} in
/-- The first verdict is kept (R399). -/
theorem State.Hears.verdict_kept {f : Frame} {l : List Frame} {m : Nat} (h : s.Hears f l m) (hk : bits (fieldAt f.payload 0 1) 0 4 = 2)
    (hv : s.rep.verdicts = []) (hb : bit (bits (fieldAt f.payload 35 1) 0 3) s.rep.member = false) (hm : s.rep.member ∈ s.svcMembers) :
    s.verdictTaken = (s.tookReplica l m).toldVerdict m (bits (fieldAt f.payload 35 1) 0 3) := by
  obtain ⟨-, hne⟩ := s.contains_partners.1 h.partner
  obtain ⟨wrong, taken⟩ := h.verdict_taken hk
  rw [taken]
  refine State.agree_waits _ wrong (m := s.rep.member) hm hb fun v hin => ?_
  have first : v ∈ (m, bits (fieldAt f.payload 35 1) 0 3) :: s.rep.verdicts.filter (·.1 != m) := hin
  rw [hv] at first
  obtain rfl := List.mem_singleton.1 first
  exact hne

/-- Of three members, two name the third (R399, R401). -/
theorem third_out : ∀ m k : Fin 3, m ≠ k → (7 - 2 ^ m.val - 2 ^ k.val) &&& 7 ≠ 0 ∧ bit ((7 - 2 ^ m.val - 2 ^ k.val) &&& 7) k = false
    ∧ (BitVec.ofNat 3 (7 &&& (7 ^^^ ((7 - 2 ^ m.val - 2 ^ k.val) &&& 7)))).toNat = 2 ^ m.val + 2 ^ k.val
    ∧ ∀ i : Fin 3, i = m ∨ i = k ∨ bit (7 - 2 ^ m.val - 2 ^ k.val) i = true := by
  decide

end Sys2Proof.Machine
end

section
/-! Members that are lost, notices, audits and heartbeats (R397, R398, R400, R401), and the replica protocol (O60). -/

namespace Sys2Proof.Machine

variable (s : State)

theorem bit_eq_testBit (v i : Nat) : bit v i = v.testBit i := by
  rw [bit, Nat.shiftRight_eq_div_pow, Nat.testBit_eq_decide_div_mod_eq]
  simp [beq_eq_decide]

theorem bit_two_pow_ne {m k : Nat} (h : m ≠ k) : bit (2 ^ m) k = false := by
  rw [bit_eq_testBit, Nat.testBit_two_pow_of_ne h]

-- the completed verdict

theorem State.without_inService (gone : Nat) : (s.setRep (s.rep.without gone)).rep.inService
    = BitVec.ofNat 3 (s.rep.inService.toNat &&& (7 ^^^ gone)) := rfl

/-- Two of three members that have told the same verdict take the third out (R399, R401). -/
theorem State.agree_third {m out : Nat} (wrong : Bool) (hs : s.rep.size = 3) (ho : s.rep.out = false) (hin : s.rep.inService.toNat = 7)
    (hm : m < 3) (hk : s.rep.member < 3) (hne : m ≠ s.rep.member) (hout : out = 7 - 2 ^ m - 2 ^ s.rep.member)
    (hv : s.rep.verdicts = [(m, out), (s.rep.member, out)]) :
    (s.agree out wrong).rep.inService.toNat = 2 ^ m + 2 ^ s.rep.member ∧ (s.agree out wrong).rep.gen = s.rep.gen + 1
      ∧ (s.agree out wrong).rep.verdicts = [] ∧ (s.agree out wrong).coll = s.coll := by
  obtain ⟨gone, stays, left, all⟩ := third_out ⟨m, hm⟩ ⟨s.rep.member, hk⟩ (by simpa using hne)
  dsimp only at gone stays left all
  rw [← hout] at gone stays left all
  have agreed : s.agree out wrong = s.membersOut out wrong := by
    refine s.agree_agreed wrong fun i hi => ?_
    have three : i < 3 := hs ▸ (s.mem_svcMembers.1 hi).1
    rw [hv]
    rcases all ⟨i, three⟩ with e | e | e
    · exact .inr (by simp [Fin.mk.inj_iff.1 e])
    · exact .inr (by simp [Fin.mk.inj_iff.1 e])
    · exact .inl e
  have after := s.membersOut_others (mask := out) wrong (by omega) ho (by rw [hin]; exact gone) (by rw [hin]; exact stays)
  rw [agreed]
  rw [hin] at after
  obtain ⟨coll, -, -, -, inService, gen, verdicts⟩ := frame_of_unjudged after
  refine ⟨?_, gen, verdicts, coll⟩
  rw [inService, State.without_inService, hin]
  exact left

variable {s} in
/-- The verdict that completes the agreement of two on the third takes it out (R399, R401). -/
theorem State.Hears.verdict_completes {f : Frame} {l : List Frame} {m : Nat} (h : s.Hears f l m) (hk : bits (fieldAt f.payload 0 1) 0 4 = 2)
    (hv : s.rep.verdicts = [(s.rep.member, bits (fieldAt f.payload 35 1) 0 3)]) (hs : s.rep.size = 3) (hm : s.rep.member < 3)
    (hin : s.rep.inService = 7) (hout : bits (fieldAt f.payload 35 1) 0 3 = 7 - 2 ^ m - 2 ^ s.rep.member) :
    s.verdictTaken.rep.inService.toNat = 2 ^ m + 2 ^ s.rep.member ∧ s.verdictTaken.rep.gen = s.rep.gen + 1
      ∧ s.verdictTaken.rep.verdicts = [] ∧ s.verdictTaken.coll = s.coll := by
  obtain ⟨hsvc, hne⟩ := s.contains_partners.1 h.partner
  obtain ⟨hsize, -⟩ := s.mem_svcMembers.1 hsvc
  obtain ⟨-, ho⟩ : s.rep.size ≠ 0 ∧ s.rep.out = false := by simpa [State.inGroup] using h.inGroup
  obtain ⟨wrong, taken⟩ := h.verdict_taken hk
  have told : (m, bits (fieldAt f.payload 35 1) 0 3) :: s.rep.verdicts.filter (·.1 != m)
      = [(m, bits (fieldAt f.payload 35 1) 0 3), (s.rep.member, bits (fieldAt f.payload 35 1) 0 3)] := by
    simp [hv, Ne.symm hne]
  rw [taken]
  exact State.agree_third ((s.tookReplica l m).toldVerdict m _) wrong hs ho (congrArg BitVec.toNat hin) (hs ▸ hsize) hm hne hout told

-- members out

/-- One other member out of service (R401). -/
theorem State.membersOut_one {m : Fin 3} (wrong : Bool) (hs : s.rep.size ≠ 0) (ho : s.rep.out = false)
    (hm : bit s.rep.inService.toNat m = true) (hne : m.val ≠ s.rep.member) :
    bit (s.membersOut (2 ^ m.val) wrong).rep.inService.toNat m = false ∧ (s.membersOut (2 ^ m.val) wrong).rep.gen = s.rep.gen + 1
      ∧ (s.membersOut (2 ^ m.val) wrong).coll = s.coll := by
  have gone : ∀ (m : Fin 3) (x : BitVec 3), bit x.toNat m = true → 2 ^ m.val &&& x.toNat = 2 ^ m.val
      ∧ bit (BitVec.ofNat 3 (x.toNat &&& (7 ^^^ 2 ^ m.val))).toNat m = false := by decide
  obtain ⟨mask, left⟩ := gone m _ hm
  have out := s.membersOut_others (mask := 2 ^ m.val) wrong hs ho (by rw [mask]; positivity) (by rw [mask]; exact bit_two_pow_ne hne)
  rw [mask] at out
  obtain ⟨coll, -, -, -, inService, gen, -⟩ := frame_of_unjudged out
  exact ⟨inService ▸ left, gen, coll⟩

/-- A record finds its place while the queue has one (R387). -/
theorem State.record_placed (f : FaultReq) (hq : s.coll.iq.length < 256) : (s.record f).2 = none := by
  have shown : ∀ {c : Prop} [Decidable c] (t : State) (g : Fld) (v : Nat), (if c then t.setFld g v else t).coll = t.coll := by
    intro c _ t g v
    split <;> rfl
  unfold State.record
  dsimp only
  split
  · rfl
  · generalize hw : State.drive _ = w
    have room : w.iqFull = false := by
      rw [← hw, State.iqFull, State.drive_coll, shown, State.setColl_coll]
      exact decide_eq_false (Nat.not_le.2 hq)
    rw [room, apply_ite Prod.snd, if_neg Bool.false_ne_true]
    exact ite_self _

theorem State.rep_besideCollector : BesideCollector State.rep := ⟨fun _ _ _ _ => rfl, fun _ _ => rfl, fun _ _ => rfl, fun _ _ => rfl⟩

/-- A contained fault of a unit without another does not stop the core, and changes nothing of the group (R377, R384). -/
theorem State.raise_contained (f : FaultReq) (hu : s.collUp = true) (hc : s.pins.clkRun = true) (hf : s.coll.fatal = false)
    (hq : s.coll.iq.length < 256) (h3 : causeClass f.cause = 3) (he : s.eclipsed f.unit = false) (hn : ∀ x ∈ s.coll.faults, x.unit ≠ f.unit) :
    (s.raise f).rep = s.rep := by
  have enters : s.enters f := by
    refine ⟨by rw [h3]; decide, he, List.any_eq_false.2 fun x hx => ?_⟩
    simp [hn x hx]
  have alive : (s.entered f).coll.fatal = false := by
    rw [State.entered, s.record_placed f hq]
    refine Eq.trans (b := (s.record f).1.coll.fatal) rfl ?_
    rw [(s.record_reported f enters).fatal, hf, s.newFault_first f hn, h3]
    rfl
  rw [s.raise_eq f hu hc, alive]
  exact State.rep_besideCollector.entered s f

theorem State.fatalStop_out (ho : s.rep.out = true) : s.fatalStop.rep = s.rep := by
  unfold State.fatalStop
  extract_lets r t
  have out : t.rep.out = true := ho
  rw [if_pos (.inr out)]
  rfl

/-- A report when this chip is out of its group changes nothing of the group (R401). -/
theorem State.raise_out (f : FaultReq) (ho : s.rep.out = true) : (s.raise f).rep = s.rep := by
  have entered : (s.entered f).rep = s.rep := State.rep_besideCollector.entered s f
  have stopped := (s.entered f).fatalStop_out ((congrArg Replica.out entered).trans ho)
  unfold State.raise
  exact coll_ite rfl (coll_ite rfl (coll_ite (stopped.trans entered) entered))

/-- A decision of this member is sent and noted (R399). -/
theorem State.decide_sends (i : Interval) {out : Nat} (wrong : Bool) (hv : s.rep.verdicts = []) :
    ∃ u : State, u.unsent = s.unsent ∧ s.decide i out wrong = (u.toldVerdict u.rep.member out).agree out wrong := by
  refine ⟨s.sendRep 2 (verdictRest i out), s.sendRep_unsent _ _, ?_⟩
  unfold State.decide
  rw [if_neg (by simp [hv])]
  rfl

/-- The one partner is out as soon as this member decides so (R399, R401). -/
theorem State.decide_one {m : Fin 3} (i : Interval) (wrong : Bool) (hg : s.inGroup = true) (hp : s.partners = [m.val]) (hv : s.rep.verdicts = []) :
    bit (s.decide i (2 ^ m.val) wrong).rep.inService.toNat m = false ∧ (s.decide i (2 ^ m.val) wrong).rep.gen = s.rep.gen + 1
      ∧ (s.decide i (2 ^ m.val) wrong).coll = s.coll := by
  obtain ⟨u, sent, decided⟩ := s.decide_sends i (out := 2 ^ m.val) wrong hv
  have rep : u.rep = s.rep := rep_of_unsent sent
  have coll : u.coll = s.coll := coll_of_unsent sent
  have group : s.rep.size ≠ 0 ∧ s.rep.out = false := by simpa [State.inGroup] using hg
  obtain ⟨hin, hne⟩ := s.contains_partners.1 (show s.partners.contains m.val = true by simp [hp])
  rw [← rep] at group hne
  rw [decided, State.agree_agreed _ wrong fun k hk => ?_, ← rep, ← coll]
  · have service : bit u.rep.inService.toNat m = true := by
      rw [rep]
      exact (s.mem_svcMembers.1 hin).2
    exact (u.toldVerdict u.rep.member (2 ^ m.val)).membersOut_one wrong group.1 group.2 service hne
  · by_cases e : k = u.rep.member
    · exact .inr (e ▸ List.mem_cons_self)
    · left
      have mine : k ∈ s.svcMembers := by
        refine s.mem_svcMembers.2 ?_
        rw [← rep]
        exact (State.mem_svcMembers _).1 hk
      have only : k ∈ s.partners := by simpa using s.contains_partners.2 ⟨mine, rep ▸ e⟩
      rw [hp, List.mem_singleton] at only
      rw [only, bit_eq_testBit, Nat.testBit_two_pow_self]

/-- The one partner is lost (R398). -/
theorem State.memberLost_one {m : Fin 3} (hg : s.inGroup = true) (hp : s.partners = [m.val]) (hv : s.rep.verdicts = [])
    (hf : s.coll.fatal = false) (hu : s.collUp = true) (hc : s.pins.clkRun = true) (he : s.eclipsed 0xEF = false)
    (hn : ∀ f ∈ s.coll.faults, f.unit ≠ 0xEF) (hq : s.coll.iq.length < 256) :
    bit (s.memberLost m).rep.inService.toNat m = false ∧ (s.memberLost m).rep.gen = s.rep.gen + 1
      ∧ ∃ f ∈ (s.memberLost m).coll.faults, f.unit = 0xEF ∧ f.cause = 0x71 := by
  have rep := s.raise_contained { unit := 0xEF, cause := 0x71 } hu hc hf hq (show causeClass 0x71 = 3 by decide) he hn
  obtain ⟨x, hx, hunit, hcause, -⟩ := s.raise_first { unit := 0xEF, cause := 0x71 } hu hc he (show causeClass 0x71 ≠ 0 by decide) hn
  have lost : s.memberLost m = (s.raise { unit := 0xEF, cause := 0x71 }).decide { t := 0, own := none, seq := 0, num := 0, digests := [] }
      (2 ^ m.val) false := if_pos (by simp [hg, hp])
  generalize s.raise { unit := 0xEF, cause := 0x71 } = u at rep hx lost
  have group : u.inGroup = true := by
    rw [State.inGroup, rep]
    exact hg
  have partners : u.partners = [m.val] := by
    rw [State.partners, State.svcMembers, rep]
    exact hp
  obtain ⟨left, gen, coll⟩ := u.decide_one { t := 0, own := none, seq := 0, num := 0, digests := [] } false group partners
    ((congrArg Replica.verdicts rep).trans hv)
  rw [lost]
  exact ⟨left, gen.trans (by rw [rep]), x, coll ▸ hx, hunit, hcause⟩

/-- 30 µs without a frame from the one partner (R398). -/
theorem State.memberSilent_lost {m : Fin 3} {since : Nat} (he : s.engines = true) (hg : s.inGroup = true) (hp : s.partners = [m.val])
    (hs : s.rep.lastHeard.find? (·.1 == m.val) = some (m.val, since)) : s.memberSilent m = (s.advanceTo (since + 30000)).memberLost m := by
  unfold State.memberSilent
  rw [hs]
  exact if_pos (by simp [he, hg, hp])

-- notices

/-- The table takes a group's new generation, and the neighbours hear of it (R401). -/
def State.tabled (s : State) (group gen out : Nat) (b : List Byte) (arr : Option Nat) : State :=
  ((s.setFld (F.fabGen group) gen).grpOut group out).floodOut b arr

/-- The state in which a notice is noted in the table and passed on (R401). -/
def State.noticed (s : State) (arr : Option Nat) (f : Frame) (l : List (Option Nat × Frame)) : State :=
  (s.setRelay { s.relay with notices := l }).tabled (bits (fieldAt f.payload 2 2) 0 12) (fieldAt f.payload 4 4)
    (bits (fieldAt f.payload 35 1) 0 3) f.payload arr

/-- The group table holds no other register (R432). -/
theorem State.grpOut_fld (g m : Nat) {f : Fld} (hf : f.off < 0x58000) : (s.grpOut g m).fld f = s.fld f := by
  unfold State.grpOut
  refine proj_foldl (p := fun t : State => t.fld f) fun u o _ => ?_
  extract_lets n ins t
  have other (v : State) (k x : Nat) : (v.setFld (F.grpIn k) x).fld f = v.fld f ∧ (v.setFld (F.grpActive k) x).fld f = v.fld f := by
    constructor <;> refine State.fld_setFld_off _ _ _ _ ?_ <;> simp only [F.grpIn, F.grpActive, Reg.fabGrp] <;> omega
  have left : t.fld f = u.fld f := (other u n ins).1
  clear_value t ins n
  refine coll_ite (g := fun t : State => t.fld f) (coll_ite (g := fun t : State => t.fld f) left ?_) rfl
  split
  · exact ((other t n _).2).trans left
  · exact left

theorem State.floodOut_regs (b : List Byte) (but : Option Nat) : (s.floodOut b but).regs = s.regs := by
  unfold State.floodOut
  refine proj_foldl (p := State.regs) fun u k _ => ?_
  exact coll_ite (g := State.regs) rfl rfl

theorem State.floodOut_notices (b : List Byte) (but : Option Nat) : (s.floodOut b but).relay.notices = s.relay.notices := by
  unfold State.floodOut
  refine proj_foldl (p := fun t : State => t.relay.notices) fun u k _ => ?_
  exact coll_ite (g := fun t : State => t.relay.notices) rfl rfl

theorem State.grpOut_relay (g m : Nat) : (s.grpOut g m).relay = s.relay := by
  unfold State.grpOut
  refine proj_foldl (p := State.relay) fun u o _ => ?_
  extract_lets n ins t
  have same (v : State) (g : Fld) (x : Nat) : (v.setFld g x).relay = v.relay := rfl
  have left : t.relay = u.relay := same u _ _
  clear_value t ins n
  refine coll_ite (coll_ite left ?_) rfl
  split
  · exact (same t _ _).trans left
  · exact left

theorem State.tabled_unsent (group gen out : Nat) (b : List Byte) (arr : Option Nat) : (s.tabled group gen out b arr).unsent = s.unsent := by
  rw [State.tabled, State.floodOut_unsent, State.grpOut_unsent]
  rfl

theorem State.tabled_notices (group gen out : Nat) (b : List Byte) (arr : Option Nat) :
    (s.tabled group gen out b arr).relay.notices = s.relay.notices := by
  rw [State.tabled, State.floodOut_notices, State.grpOut_relay]
  rfl

/-- The table shows the new generation (R401). -/
theorem State.tabled_gen {group gen : Nat} (out : Nat) (b : List Byte) (arr : Option Nat) (hg : group < 4096) (h : gen < 2 ^ 32) :
    (s.tabled group gen out b arr).fld (F.fabGen group) = gen := by
  rw [State.tabled, fld_of_regs (State.floodOut_regs _ _ _), State.grpOut_fld _ _ _ (by simp only [F.fabGen, Reg.fabGen]; omega)]
  exact State.fld_setFld_fits _ _ _ (by simp only [F.fabGen]; omega) h

/-- What faults look at is as before (R401). -/
theorem State.tabled_face {group : Nat} (gen out : Nat) (b : List Byte) (arr : Option Nat) (hg : group < 4096) :
    (s.tabled group gen out b arr).face = s.face := by
  refine (State.floodOut_face _ _ _).trans ((State.grpOut_face _ _ _).trans (State.setFld_face _ _ _ (.inl ?_)))
  simp only [F.fabGen, Reg.fabGen]
  omega

theorem fieldAt_lt (b : List Byte) (o n : Nat) : fieldAt b o n < 256 ^ n := by
  have lt := le_lt (slice b o n)
  rwa [show (slice b o n).length = n by simp [slice]] at lt

theorem State.noticed_unsent (arr : Option Nat) (f : Frame) (l : List (Option Nat × Frame)) : (s.noticed arr f l).unsent = s.unsent := by
  rw [State.noticed, State.tabled_unsent]
  rfl

theorem State.noticed_notices (arr : Option Nat) (f : Frame) (l : List (Option Nat × Frame)) : (s.noticed arr f l).relay.notices = l := by
  rw [State.noticed, State.tabled_notices]
  rfl

theorem State.noticed_gen (arr : Option Nat) (f : Frame) (l : List (Option Nat × Frame)) :
    (s.noticed arr f l).fld (F.fabGen (bits (fieldAt f.payload 2 2) 0 12)) = fieldAt f.payload 4 4 := by
  rw [State.noticed]
  exact State.tabled_gen _ _ _ _ (bits_lt _ 0 12) (fieldAt_lt _ 4 4)

theorem State.noticed_face (arr : Option Nat) (f : Frame) (l : List (Option Nat × Frame)) : (s.noticed arr f l).face = s.face := by
  rw [State.noticed, State.tabled_face _ _ _ _ _ (bits_lt _ 0 12)]
  rfl

/-- A notice that is not newer than the table is dropped (R401). -/
theorem State.noticeTaken_old {arr : Option Nat} {f : Frame} {l : List (Option Nat × Frame)} (hn : s.relay.notices = (arr, f) :: l)
    (ho : serialBelow 32 (s.fld (F.fabGen (bits (fieldAt f.payload 2 2) 0 12))) (fieldAt f.payload 4 4) = false) :
    s.noticeTaken = s.setRelay { s.relay with notices := l } := by
  unfold State.noticeTaken
  rw [hn]
  exact if_neg (ne_true_of_eq_false ho)

/-- A newer notice changes the table alone when this chip is in no group (R401). -/
theorem State.noticeTaken_table {arr : Option Nat} {f : Frame} {l : List (Option Nat × Frame)} (hn : s.relay.notices = (arr, f) :: l)
    (ho : serialBelow 32 (s.fld (F.fabGen (bits (fieldAt f.payload 2 2) 0 12))) (fieldAt f.payload 4 4) = true)
    (hs : s.rep.size = 0) : s.noticeTaken = s.noticed arr f l := by
  have newer : serialBelow 32 ((s.setRelay { s.relay with notices := l }).fld (F.fabGen (bits (fieldAt f.payload 2 2) 0 12)))
    (fieldAt f.payload 4 4) = true := ho
  have rep : (s.noticed arr f l).rep = s.rep := rep_of_unsent (s.noticed_unsent arr f l)
  unfold State.noticeTaken
  rw [hn]
  dsimp only
  rw [if_pos newer, ← State.tabled, ← State.noticed, rep]
  exact if_neg fun h => h.1 hs

/-- The state in which this chip is out of its group by a notice (R401). -/
def State.namedOut (s : State) (gen out : Nat) : State :=
  s.setRep { s.rep with out := true, gen := BitVec.ofNat 32 gen, inService := BitVec.ofNat 3 (s.rep.inService.toNat &&& (7 ^^^ out)) }

theorem State.namedOut_face (gen out : Nat) : (s.namedOut gen out).face = s.face := rfl
theorem State.namedOut_out (gen out : Nat) : (s.namedOut gen out).rep.out = true := rfl
theorem State.namedOut_gen {gen : Nat} (out : Nat) (h : gen < 2 ^ 32) : (s.namedOut gen out).rep.gen.toNat = gen := Nat.mod_eq_of_lt h

/-- A notice that names this chip takes it out of its group (R401). -/
theorem State.noticeTaken_self {arr : Option Nat} {f : Frame} {l : List (Option Nat × Frame)} (hn : s.relay.notices = (arr, f) :: l)
    (ho : serialBelow 32 (s.fld (F.fabGen (bits (fieldAt f.payload 2 2) 0 12))) (fieldAt f.payload 4 4) = true)
    (hs : s.rep.size ≠ 0) (hin : s.rep.out = false) (hg : s.rep.groupId = bits (fieldAt f.payload 2 2) 0 12)
    (hm : bit (bits (fieldAt f.payload 35 1) 0 3) s.rep.member = true) :
    s.noticeTaken = ((s.noticed arr f l).namedOut (fieldAt f.payload 4 4) (bits (fieldAt f.payload 35 1) 0 3)).raise
      { unit := 0xEF, cause := 0x73 } := by
  have newer : serialBelow 32 ((s.setRelay { s.relay with notices := l }).fld (F.fabGen (bits (fieldAt f.payload 2 2) 0 12)))
    (fieldAt f.payload 4 4) = true := ho
  have rep : (s.noticed arr f l).rep = s.rep := rep_of_unsent (s.noticed_unsent arr f l)
  unfold State.noticeTaken
  rw [hn]
  dsimp only
  rw [if_pos newer, ← State.tabled, ← State.noticed, State.namedOut, rep, if_pos ⟨hs, by simp [hin], hg⟩, if_pos hm]

/-- A chip that a notice names out records it (R401). -/
theorem State.namedOut_raises (arr : Option Nat) (f : Frame) (l : List (Option Nat × Frame)) {gen : Nat} (out : Nat) (hgen : gen < 2 ^ 32)
    (hu : s.collUp = true) (hc : s.pins.clkRun = true) (he : s.eclipsed 0xEF = false) (hn : ∀ f ∈ s.coll.faults, f.unit ≠ 0xEF) :
    (((s.noticed arr f l).namedOut gen out).raise { unit := 0xEF, cause := 0x73 }).rep.out = true
      ∧ (((s.noticed arr f l).namedOut gen out).raise { unit := 0xEF, cause := 0x73 }).rep.gen.toNat = gen
      ∧ ∃ x ∈ (((s.noticed arr f l).namedOut gen out).raise { unit := 0xEF, cause := 0x73 }).coll.faults, x.unit = 0xEF ∧ x.cause = 0x73 := by
  have face : ((s.noticed arr f l).namedOut gen out).face = s.face := (State.namedOut_face _ _ _).trans (s.noticed_face arr f l)
  have rep := ((s.noticed arr f l).namedOut gen out).raise_out { unit := 0xEF, cause := 0x73 } (State.namedOut_out _ _ _)
  have number : ((s.noticed arr f l).namedOut gen out).rep.gen.toNat = gen := State.namedOut_gen _ out hgen
  have named : ((s.noticed arr f l).namedOut gen out).rep.out = true := State.namedOut_out _ _ _
  generalize (s.noticed arr f l).namedOut gen out = u at *
  simp only [State.face, Prod.mk.injEq] at face
  obtain ⟨phase, pins, -, -, faults, -, ecls⟩ := face
  have up : u.collUp = true := by rwa [State.collUp, phase]
  have clear : u.eclipsed 0xEF = false := (congrFun ecls ⟨0xEF, by decide⟩).trans he
  obtain ⟨x, hx, hunit, hcause, -⟩ := u.raise_first { unit := 0xEF, cause := 0x73 } up (pins ▸ hc) clear (show causeClass 0x73 ≠ 0 by decide)
    (faults ▸ hn)
  exact ⟨rep ▸ named, rep ▸ number, x, hx, hunit, hcause⟩

-- audits and heartbeats

/-- An interval of no node of this chip is not audited (R400). -/
theorem State.auditEnds_unowned {ours : List Byte} {evidence : Bool} {others : List (Nat × List Byte × Bool)} {v : Interval}
    (he : s.engines = true) (hg : s.inGroup = true) (hv : s.rep.intervals.find? (·.audit) = some v) (ho : v.own = none) :
    s.auditEnds ours evidence others = s.raise { unit := 0xEF, cause := 0x72 } := by
  unfold State.auditEnds
  rw [hv]
  dsimp only
  rw [if_neg (by simp [he, hg])]
  simp only [ho]
  rfl

/-- A node's second run (R400). -/
def Node.rerun (x : Node) : Node := { x with rep := x.rep + 1 }

/-- An audit that agrees everywhere, and with the first run, lets the interval pass (R400). -/
theorem State.auditEnds_agreed {ours : List Byte} {evidence : Bool} {others : List (Nat × List Byte × Bool)} {v : Interval} {g n : Nat} {nd : Node}
    (he : s.engines = true) (hg : s.inGroup = true) (hv : s.rep.intervals.find? (·.audit) = some v) (ho : v.own = some (g, n))
    (hn : s.node g n = some nd) (ha : nd.atomic = false) (hr : nd.selfRw = false) (hs : ∀ o ∈ others, slice o.2.1 0 12 = slice ours 0 12)
    (hf : (v.digests.find? (·.1 == s.rep.member)).map (fun d => leBytes 8 d.2.sum.toNat ++ leBytes 4 d.2.cnt.toNat) = some (slice ours 0 12)) :
    s.auditEnds ours evidence others = (s.modNode g n Node.rerun).passInterval v := by
  have all : ((s.rep.member, ours, evidence) :: others.filter (fun o => s.partners.contains o.1)).all
      (fun o => slice o.2.1 0 12 == slice ours 0 12) = true := by
    refine List.all_eq_true.2 fun o ho => beq_iff_eq.2 ?_
    rcases List.mem_cons.1 ho with rfl | ho
    · rfl
    · exact hs o (List.mem_filter.1 ho).1
  have first : ((v.digests.find? (·.1 == (s.modNode g n (fun x => { x with rep := x.rep + 1 })).rep.member)).map
      (fun d => leBytes 8 d.2.sum.toNat ++ leBytes 4 d.2.cnt.toNat) == some (slice ours 0 12)) = true := beq_iff_eq.2 hf
  unfold State.auditEnds
  rw [hv]
  dsimp only
  rw [if_neg (by simp [he, hg])]
  simp only [ho, hn, ha, hr, all, first]
  rfl

/-- A REPLICA frame to another chip waits at the port that R323 chooses. -/
theorem State.inject_replica {dst : Nat} (b : List Byte) (hd : dst ≠ s.self) :
    ∃ q, s.inject (s.repFrame dst b) = s.enqueue (s.choosePort none dst 0).1 q := by
  have other : (s.repFrame dst b).dstChip ≠ s.self := hd
  rw [State.inject, if_neg other, State.sendOut, State.routeOn_goes _ _ _ (show 0 < 48 by decide)]
  exact ⟨_, rfl⟩

/-- One frame goes to the one partner (R397). -/
theorem State.sendRep_partner {m : Nat} (k : Nat) (l : List Byte) (hp : s.partners = [m]) (hd : s.rep.members.getD m 0 ≠ s.self) :
    ∃ q, s.sendRep k l = s.enqueue (s.choosePort none (s.rep.members.getD m 0) 0).1 q := by
  unfold State.sendRep
  rw [hp, List.foldl_cons, List.foldl_nil]
  exact s.inject_replica _ hd

end Sys2Proof.Machine
end

section
/-! The rows of the replica protocol (O60). -/

namespace Sys2Proof.Machine

variable (s : State)

variable {s} in
/-- A heartbeat is kept (R397, R398). -/
theorem State.Hears.heartbeat_kept {f : Frame} {l : List Frame} {m : Nat} (h : s.Hears f l m) (hk : bits (fieldAt f.payload 0 1) 0 4 = 1) :
    s.heartbeatTaken = (s.tookReplica l m).setRep { (s.tookReplica l m).rep with
      stalled := (m, bit (fieldAt f.payload 34 1) 2) :: (s.tookReplica l m).rep.stalled.filter (·.1 != m) } :=
  h.taken _ hk

variable {s} in
/-- A report of one acknowledgement frees the log (R331). -/
theorem State.Hears.ackReport_frees {f : Frame} {l : List Frame} {m i : Nat} (h : s.Hears f l m) (hk : bits (fieldAt f.payload 0 1) 0 4 = 4)
    (h1 : fieldAt f.payload 36 1 = 1)
    (hi : s.txIdx (bits (fieldAt f.payload 44 8) 15 3) (bits (fieldAt f.payload 44 8) 0 12) (bits (fieldAt f.payload 44 8) 12 3)
      (bits (fieldAt f.payload 44 8) 18 16) = some i) :
    s.ackReportTaken = (s.tookReplica l m).freeLog i (bits (fieldAt f.payload 44 8) 34 24) := by
  have pair : (s.tookReplica l m).txIdx (bits (fieldAt f.payload 44 8) 15 3) (bits (fieldAt f.payload 44 8) 0 12)
    (bits (fieldAt f.payload 44 8) 12 3) (bits (fieldAt f.payload 44 8) 18 16) = some i := hi
  unfold State.ackReportTaken
  rw [h.taken _ hk, h1]
  simp only [show Nat.min 26 1 = 1 from rfl, List.range_one, List.foldl_cons, List.foldl_nil, Nat.mul_zero, Nat.add_zero, pair]

theorem exec_memberOut {t : State} (ha : s.pins.aonRstN = true) (h : s.noticeTaken = t) : exec .memberOut s = .next t :=
  h ▸ congrArg Host.Outcome.next (if_pos ha)

theorem State.tookReplica_lastHeard (l : List Frame) (m : Nat) : (s.tookReplica l m).rep.lastHeard.find? (·.1 == m) = some (m, s.aon) :=
  List.find?_cons_of_pos (beq_self_eq_true m)

theorem State.tookReplica_frame (l : List Frame) (m : Nat) : (s.tookReplica l m).relay.inbox = l ∧ (s.tookReplica l m).tile = s.tile
    ∧ (s.tookReplica l m).regs = s.regs ∧ (s.tookReplica l m).coll = s.coll ∧ (s.tookReplica l m).rep.inService = s.rep.inService
    ∧ (s.tookReplica l m).rep.verdicts = s.rep.verdicts := ⟨rfl, rfl, rfl, rfl, rfl, rfl⟩

theorem State.withInterval_frame (i : Interval) : (s.withInterval i).relay = s.relay ∧ (s.withInterval i).tile = s.tile
    ∧ (s.withInterval i).regs = s.regs ∧ (s.withInterval i).coll = s.coll ∧ (s.withInterval i).rep.lastHeard = s.rep.lastHeard :=
  ⟨rfl, rfl, rfl, rfl, rfl⟩

theorem State.toldVerdict_frame (m out : Nat) : (s.toldVerdict m out).rep.inService = s.rep.inService
    ∧ (s.toldVerdict m out).regs = s.regs ∧ (s.toldVerdict m out).coll = s.coll
    ∧ (s.toldVerdict m out).rep.verdicts = (m, out) :: s.rep.verdicts.filter (·.1 != m) := ⟨rfl, rfl, rfl, rfl⟩

/-- The second run of an interval's node counts, and the interval passes (R400). -/
theorem State.audit_passes (i : Interval) {g n : Nat} {nd : Node} (hn : s.node g n = some nd) :
    let t := (s.modNode g n Node.rerun).passInterval i
    t.rep.intervals = s.rep.intervals.filter (fun j => !j.is i.t i.seq i.num) ∧ t.rep.inService = s.rep.inService ∧ t.coll = s.coll
      ∧ (t.node g n).map (·.rep) = some (nd.rep + 1) ∧ t.tile = s.tile := by
  have node : (s.modNode g n Node.rerun).node g n = some nd.rerun := by
    rw [s.node_modNode g n Node.rerun fun _ => rfl, hn]
    rfl
  have same : (s.modNode g n Node.rerun).rep = s.rep ∧ (s.modNode g n Node.rerun).coll = s.coll
    ∧ (s.modNode g n Node.rerun).tile = s.tile := ⟨rfl, rfl, rfl⟩
  generalize s.modNode g n Node.rerun = u at node same
  obtain ⟨rep, coll, tile⟩ := same
  obtain ⟨coll', tile', graphs, -, inService, -⟩ := frame_of_unjudged (u.passInterval_unjudged i)
  refine ⟨(u.passInterval_intervals i).trans (by rw [rep]), inService.trans (by rw [rep]), coll'.trans coll, ?_, tile'.trans tile⟩
  rw [node_of_graphs graphs, node]
  rfl

/-- Settles O60: what a REPLICA frame, a notice, the two timers and an audit's end do to the group. -/
theorem replicaProtocol : Obligations.ReplicaProtocol := by
  unfold Obligations.ReplicaProtocol
  intro s
  refine ⟨?frames, ?period, ?silent, ?notice, ?audit⟩
  case frames =>
    intro f l m he hg hi h7 hm hid hp
    have h : s.Hears f l m := ⟨he, hg, hi, h7, hm, hid, hp⟩
    obtain ⟨inbox, tile, regs, coll, inService, verdicts⟩ := s.tookReplica_frame l m
    refine ⟨fun hk hn => ?_, fun v d hk hv his ho ha hd hf h2 hin hsum hcnt hfail => ?_, fun hk => ?_, fun hk hv hb hin hne => ?_,
      fun hk hv hs hlt hin hne hout => ?_, fun i hk h1 hx => ?_⟩
    · obtain ⟨relay, tile', regs', coll', heard⟩ := (s.tookReplica l m).withInterval_frame _
      exact ⟨_, exec_digest s (h.digest_kept hk hn), (congrArg Relay.inbox relay).trans inbox, tile'.trans tile, regs'.trans regs,
        coll'.trans coll, heard ▸ s.tookReplica_lastHeard l m, rfl⟩
    · have sum : (digestOf f.payload).sum = d.sum := by rw [digestOf, ← hsum, BitVec.ofNat_toNat, BitVec.setWidth_eq]
      have cnt : (digestOf f.payload).cnt = d.cnt := by rw [digestOf, ← hcnt, BitVec.ofNat_toNat, BitVec.setWidth_eq]
      have member : s.rep.member ∈ s.svcMembers := List.contains_iff_mem.1 hin
      obtain ⟨gone, rest⟩ := h.digest_passes hk hv his ho ha hd hf h2 member sum cnt hfail
      obtain ⟨coll', tile', -, -, inService', -⟩ := frame_of_unjudged rest
      exact ⟨_, exec_digest s rfl, gone, inService'.trans inService, tile'.trans tile, coll'.trans coll⟩
    · refine ⟨_, exec_heartbeat s (h.heartbeat_kept hk), rfl, rfl, rfl, rfl, s.tookReplica_lastHeard l m, ?_⟩
      exact List.find?_cons_of_pos (beq_self_eq_true m)
    · obtain ⟨inService', regs', coll', verdicts'⟩ := (s.tookReplica l m).toldVerdict_frame m (bits (fieldAt f.payload 35 1) 0 3)
      refine ⟨_, exec_verdict s (h.verdict_kept hk hv hb (List.contains_iff_mem.1 hin)), verdicts'.trans ?_, inService'.trans inService,
        regs'.trans regs, coll'.trans coll⟩
      rw [verdicts, hv, List.filter_nil]
    · exact ⟨_, exec_verdict s rfl, h.verdict_completes hk hv hs hlt hin hout⟩
    · exact ⟨_, exec_ackReport s (h.ackReport_frees hk h1 hx), State.freeLog_log _ _ _, State.freeLog_tile _ _ _, State.freeLog_graphs _ _ _⟩
  case period =>
    intro m he hg hp hd
    obtain ⟨q, sent⟩ := s.sendRep_partner 1 (List.replicate 26 0 ++ leBytes 1 (if s.repStalled then 4 else 0)) hp hd
    refine ⟨_, exec_heartbeatPeriod s ((if_pos (by simp [he, hg])).trans sent), rfl, rfl, rfl, rfl, ?_⟩
    rw [State.enqueue_outQ, List.length_append, List.length_singleton]
  case silent =>
    intro m since he hg hp hv hh hu hc hec hn hq
    have alive := s.alive_of_engines he
    refine ⟨_, exec_memberLostTimeout s (s.memberSilent_lost he hg hp hh), ?_⟩
    generalize since + 30000 = now
    exact ⟨(State.memberLost_aon _ m).trans (s.advanceTo_aon now),
      (s.advanceTo now).memberLost_one hg hp hv alive hu hc hec hn (show s.coll.iq.length < 256 by omega)⟩
  case notice =>
    intro arr f l ha hl
    refine ⟨fun ho => ?_, fun ho hs => ?_, fun ho hs hin hg hm hu hc hec hn => ?_⟩
    · exact exec_memberOut s ha (s.noticeTaken_old hl ho)
    · have rest := s.noticed_unsent arr f l
      exact ⟨_, exec_memberOut s ha (s.noticeTaken_table hl ho hs), s.noticed_notices arr f l, s.noticed_gen arr f l, coll_of_unsent rest,
        tile_of_unsent rest⟩
    · exact ⟨_, exec_memberOut s ha (s.noticeTaken_self hl ho hs hin hg hm), s.namedOut_raises arr f l _ (fieldAt_lt _ 4 4) hu hc hec hn⟩
  case audit =>
    intro ours evidence others v he hg hv
    refine ⟨fun ho hu hc hec hn => ?_, fun g n nd ho hn ha hr hs hf => ?_⟩
    · obtain ⟨x, hx, hunit, hcause, -⟩ := s.raise_first { unit := 0xEF, cause := 0x72 } hu hc hec (show causeClass 0x72 ≠ 0 by decide) hn
      exact ⟨_, exec_auditComplete s (s.auditEnds_unowned he hg hv ho), x, hx, hunit, hcause⟩
    · exact ⟨_, exec_auditComplete s (s.auditEnds_agreed he hg hv ho hn ha hr hs hf), s.audit_passes v hn⟩

end Sys2Proof.Machine
end
